-- ==== Sys2Proof/Word.lean ====
section
/-! DEFINITION. The words the module moves. -/

namespace Sys2Proof

/-- A byte. -/
abbrev Byte := BitVec 8

/-- A 64-bit word: a register access, a token, a doorbell (R8, R430). -/
abbrev Word := BitVec 64

end Sys2Proof
end

