-- ==== Sys2Proof/Syntax.lean ====
section
/-! DEFINITION. The commands of the module: one constructor per row of spec/opcode_table.json, with the
operands the command or event brings from outside the model, and the types those operands are made of. -/

namespace Sys2Proof.Machine

/-- Element formats (R67), with the codes of the command words (R165). -/
inductive Fmt
  | e4m3 | e5m2 | mxfp8e4 | mxfp8e5 | mxfp6e2m3 | mxfp6e3m2 | mxfp4
  | pb8 | pb6 | pb4 | bf16 | fp16 | fp32 | lm48 | lf48
  deriving DecidableEq, Repr

/-- An upset met by a vector on its way through the array (R29, R30): which check fails, and for which logical cell. -/
structure CellUpset where
  /-- True: a stationary register's parity (R29); false: a residue check of a partial sum (R30). -/
  parity : Bool
  /-- Logical row and column of the cell, 0-511. -/
  row : Nat
  col : Nat
  deriving DecidableEq, Repr

/-- What a directed check finds (R65). -/
inductive CheckResult
  | pass
  /-- A defective line: a column when `column` is true, with its logical index 0-511. -/
  | line (column : Bool) (index : Nat)
  | notLocalised
  deriving DecidableEq, Repr

/-- Errors a sector read meets (R208, R209): which sector of the request, the symbols of the stored sector that have
been upset, and the symbols upset in transit in the first read and in each retry. -/
structure SectorUpset where
  sector : Nat
  stored : List (Nat × BitVec 16)
  transit : List (List (Nat × BitVec 16))
  deriving DecidableEq, Repr

/-- Who asks for a slot (R120): a task's command, a converting bank, a descriptor of the core or of another core,
a unit or module outside the core. -/
inductive Requester
  /-- Nobody. -/
  | none
  /-- A LOAD, ISSUE, VEC or UPDATE command of the task with this key. -/
  | task (key : Nat)
  /-- The drain converter, for a bank of a partition (R49). -/
  | bank (part b : Nat)
  /-- The descriptor in a place of a core's movement engine: on its source side, or on its destination side. -/
  | place (core p : Nat) (dst : Bool)
  /-- A claim message of another module: its source, REQ_UNIT, REQ_CORE and REQ_DESC (R498). -/
  | remote (module unit core desc : Nat)
  /-- The reduction sender for a bucket, the finisher, or the ring relay. -/
  | sender (bucket : Nat)
  | finisher (bucket : Nat)
  | relay (ring : Nat)
  deriving DecidableEq, Repr

/-- Kind of a stack request (R212). -/
inductive StkKind | read | write | pannier
  deriving DecidableEq, Repr


/-- How a bank's refresh falls (R217): at its due time, postponed, pulled in ahead, or forced. -/
inductive RefreshKind | due | postponed | pulledIn | forced
  deriving DecidableEq, Repr

/-- What a message's header says of its origin (R317, R319, R328): the port it arrived on, its source module, its MSG_ID
and the master's term; in a fence report, that its module is fenced whole (R289, R299). -/
structure MsgHead where
  port : Nat
  src : Nat
  id : Nat
  term : BitVec 16
  whole : Bool := false
  deriving DecidableEq, Repr

/-- One PACKAGE message's content (R300, R335): step, epoch, marker tick, KIND, norm anchor, shift, and the part of
FALLBACK and ANCHOR_RESET it carries. -/
structure PkgPart where
  step : BitVec 32
  epoch : BitVec 32
  tick : Nat
  again : Bool
  h : Int
  shift : Nat
  fallback : List (Nat × Option Int)
  anchorReset : List (Nat × Nat)
  deriving DecidableEq, Repr

/-- What a received Ethernet frame is (R340): one of the accepted kinds, a priority flow control frame with the
priorities it pauses, or anything else. -/
inductive FrameKind | roce | ptp | arp | neighbour | pfc (enable : BitVec 8) (times : List (BitVec 16)) | other
  deriving DecidableEq, Repr

/-- A RoCEv2 packet for a queue pair (R341): base transport opcode and PSN, marks, extended header fields, payload. -/
structure RocePkt where
  op : BitVec 8
  psn : BitVec 24
  ackReq : Bool
  ce : Bool
  icrcOk : Bool
  options : Bool
  va : BitVec 64
  rkey : BitVec 32
  len : Nat
  imm : BitVec 32
  syndrome : BitVec 8
  payload : List (BitVec 8)
  deriving DecidableEq, Repr

/-- How a command reaches the Oztas mailbox (R441, R450): the host's request buffer, MCTP on the sideband, or an open SPDM
session. -/
inductive MbxPath | host | mctp | session (id : Nat)
  deriving DecidableEq, Repr

/-- A mailbox request (R442): the way it comes, and its bytes where it does not come from OZ_MBX_REQ. -/
structure MbxReq where
  path : MbxPath
  bytes : List (BitVec 8)
  deriving DecidableEq, Repr

/-- Which tamper detector fired (R446). -/
inductive TamperCause | lidMesh | islandSupply | islandTemperature
  deriving DecidableEq, Repr

/-- The algorithms an SPDM requester offers (R450). -/
structure SpdmOffer where
  ecdsaP384 : Bool
  sha384 : Bool
  secp384r1 : Bool
  aes256Gcm : Bool
  keySchedule : Bool
  deriving DecidableEq, Repr

/-- The PCIe link as trained (R426, R436, R466): rate code, lanes, flit mode, CXL mode, and whether the host has the function in D3hot. -/
structure HostLink where
  rate : BitVec 3
  width : BitVec 5
  flit : Bool
  cxl : Bool
  d3hot : Bool := false
  deriving DecidableEq, Repr

/-- A defective array line that a core's self-test finds (R402): its logical index, or the spare line of its group. -/
structure LineFound where
  core : Fin 8
  column : Bool
  line : Nat
  spare : Bool
  deriving DecidableEq, Repr

/-- What a start-up step finds (R398, R402): firmware copies that fail, the host link as it trains, defective spares and
failed working rows of stacks, array lines, cores with a scratchpad row beyond their code, and lane groups (Prifa ports
0-17, Ethernet ports 18 and 19) that fail. -/
structure BootFound where
  badCopyA : Bool
  badCopyB : Bool
  link : HostLink
  badSpares : List (Nat × Nat)
  failedRows : List (Nat × Nat)
  lines : List LineFound
  badScratch : List (Fin 8)
  failedPorts : List Nat
  deriving DecidableEq, Repr

/-- What a stack request has come to at its sectors (R215): data read, done, or refused. -/
inductive ReqAct
  | data (bytes : List (BitVec 8))
  | done
  | refused (code : BitVec 16)
  deriving DecidableEq, Repr

/-- A stack request (R212): in the ingress or in a slot. -/
structure StkReq where
  /-- R212 (07) the model's serial, in ingress order. -/
  id : Nat := 0
  /-- R212 requester class: 0-7 movement engines, 8-25 ports, 26 host, 27 tier-cache write-back. -/
  cls : Nat := 0
  /-- R212 read, write or pannier. -/
  kind : StkKind := .read
  /-- R212 local physical address. -/
  addr : Nat := 0
  /-- R212 bytes, 1 to 16 sectors in a 512-byte block. -/
  len : Nat := 32
  /-- R212 write or operand bytes. -/
  data : List (BitVec 8) := []
  /-- R142,R153 byte enables of a masked write, empty for all. -/
  mask : List Bool := []
  /-- R229 PAN_OP. -/
  pan : Nat := 0
  /-- R230 OVF of the issuing descriptor. -/
  ovf : Bool := false
  /-- R229 LF48_CONV anchor. -/
  anchor : Int := 0
  /-- R229 LF48_CONV source format. -/
  srcFmt : Nat := 0xA
  /-- R231. -/
  residue : BitVec 16 := 0
  /-- R231. -/
  resAddr : Nat := 0
  /-- R135,R153. -/
  noAlloc : Bool := false
  /-- R157. -/
  prefetch : Bool := false
  /-- R223 core and task it is for. -/
  task : Option (Nat × Nat) := none
  /-- R498 port class answer. -/
  port : Option Nat := none
  /-- R214 tick of entry. -/
  enter : Nat := 0
  /-- R214. -/
  promoted : Bool := false
  /-- R19,R215 what it has come to, when a later access to its sectors found it still waiting. -/
  acted : Option ReqAct := none
  deriving DecidableEq, Repr

/-- A Prifa message (R317): header fields and data. -/
structure Msg where
  /-- R317 (10). -/
  dst : Nat := 0
  /-- R317. -/
  src : Nat := 0
  /-- R317,R318. -/
  kind : Nat := 0
  /-- R318 channel. -/
  vc : Nat := 0
  /-- R317. -/
  ttl : Nat := 255
  /-- R317 MSG_ID. -/
  id : Nat := 0
  /-- R317 TERM. -/
  term : Nat := 0
  /-- R317,R498 ARGS, header bits [255:112]. -/
  args : BitVec 144 := 0
  /-- R317 at most 16,384 bytes. -/
  data : List (BitVec 8) := []
  /-- R286 the receiver's timebase when its last byte was received and authenticated, or handed over inside the module. -/
  arrive : Nat := 0
  /-- R313 flits of its port's buffer that it takes up until all of it has been taken. -/
  held : Nat := 0
  deriving DecidableEq, Repr

/-- A decision of the master (R329): the messages it consists of, or a run stop with the module and the cause. -/
structure Decision where
  /-- R329. -/
  msgs : List Msg := []
  /-- R329, R303. -/
  stop : Option (Nat × BitVec 16) := none
  deriving DecidableEq, Repr

/-- Where a received flit lay in its frame (R308): its place among the five flits, and the decoder's answer for the frame's two codewords:
the symbols it corrected, none where it could not correct. -/
structure FlitAt where
  place : Fin 5 := 0
  first : Option Nat := some 0
  second : Option Nat := some 0
  deriving DecidableEq, Repr

/-- A received flit that is its header alone (R309, R315), with its frame's sequence and where it lay. -/
structure HeadFlit where
  hdr : BitVec 64
  frame : BitVec 16 := 0
  at_ : FlitAt := {}
  deriving DecidableEq, Repr

/-- A partial record (R291), unpacked. -/
structure Rec where
  /-- R291 (09). -/
  bucket : BitVec 32 := 0
  /-- R291. -/
  step : BitVec 32 := 0
  /-- R291. -/
  block : Nat := 0
  /-- R291. -/
  round : Nat := 0
  /-- R291. -/
  rime : BitVec 16 := 0
  /-- R291. -/
  anchor : Int := 0
  /-- R291. -/
  m : Option Int := none
  /-- R291. -/
  chans : Nat := 0
  /-- R291 512 data lanes then 16 tally lanes. -/
  lanes : List Int := []
  deriving DecidableEq, Repr

end Sys2Proof.Machine

namespace Sys2Proof

open Sys2Proof.Machine

/-- A command of the module: an event, a register access, a message or an engine's step. -/
inductive Instr
  /-- REGISTER_WRITE (R11): A write to a register field that has no row of its own sets the field, clamped or ignored as its owning rule says, through its owning control node. -/
  | registerWrite (bar4 : Bool) (off : BitVec 27) (size : Nat) (val : BitVec 64)
  /-- W1C_CLEAR (R461): A write of 1 to a W1C fault flag or code field clears it, unless the code is raised again in the same cycle. -/
  | w1cClear (off : BitVec 27) (val : BitVec 64)
  /-- LOAD (R170): The LOAD command queues a stationary tile for the partition's shadow set and forms its tile header. -/
  | load (c : Fin 8) (task : Nat)
  /-- SHADOW_LOAD_BEGIN (R41): The north loader begins writing a shadow set once a complete tile is present in its tile buffer and R43 allows it. -/
  | shadowLoadBegin (c : Fin 8) (loader : Fin 2)
  /-- SHADOW_LOAD_END (R41): A 520-cycle load, or a 260-cycle quadrant load, ends and frees its tile-buffer half. -/
  | shadowLoadEnd (c : Fin 8) (loader : Fin 2)
  /-- LOAD_HOLD_LIMIT (R41): A load hold still unresolved after SCR_SLOT_LIMIT array cycles ends the partition's task with ARR_MODE_CONFLICT. -/
  | loadHoldLimit (c : Fin 8) (p : Fin 4)
  /-- OPEN (R171): The OPEN command takes an EMPTY bank to OPEN with its entry count, orientation, bounds and anchor. -/
  | openBank (c : Fin 8) (task : Nat)
  /-- ISSUE (R172): The ISSUE command issues a run of COUNT vectors into the partition, optionally carrying a swap marker and closing the bank. -/
  | issue (c : Fin 8) (task : Nat)
  /-- VECTOR_ISSUE (R35): The feeder issues a vector, or a bubble, in an issue slot once its input, marker and bank conditions hold. -/
  | vectorIssue (c : Fin 8) (p : Fin 4)
  /-- MARKER_SWAP (R42): The swap marker enters position (0, 0), switching the tile header and inverting each cell's set selector as it passes. -/
  | markerSwap (c : Fin 8) (p : Fin 4) (upset : Option Nat)
  /-- VECTOR_OUTPUT_ARRIVE (R82): One pass latency after issue a vector's partial sums reach the drain and are applied to their accumulator entries. -/
  | vectorOutputArrive (c : Fin 8) (p : Fin 4) (upset : Option CellUpset)
  /-- BANK_CONVERT_BEGIN (R46): A CLOSED bank starts converting one pass latency after its last vector issued. -/
  | bankConvertBegin (c : Fin 8) (p : Fin 4) (b : Fin 2)
  /-- BANK_CONVERT_END (R49): The drain converter writes the bank's last entry, sets the slot's fill token and returns the bank to EMPTY. -/
  | bankConvertEnd (c : Fin 8) (p : Fin 4) (b : Fin 2)
  /-- PARTITION_FREE (R62): One pass latency after a soft fault or discard the partition may take a new task. -/
  | partitionFree (c : Fin 8) (p : Fin 4)
  /-- DIRECTED_CHECK_BEGIN (R65): Before a task is admitted to a partition overlapping a suspect quadrant, the directed check of that quadrant starts. -/
  | directedCheckBegin (c : Fin 8) (q : Fin 4)
  /-- DIRECTED_CHECK_END (R65): After 4,096 array cycles the directed check passes, localises a line for sparing, or fences the core. -/
  | directedCheckEnd (c : Fin 8) (q : Fin 4) (found : CheckResult)
  /-- SPOKE_MAP_REWRITE (R55): At the first whole-array idle moment, or by holding admission at a marker, the sequencer starts rewriting the spoke map. -/
  | spokeMapRewrite (c : Fin 8)
  /-- SPOKE_MAP_REWRITE_END (R55): After 64 array cycles the rewrite ends with every stationary set empty and the suspect bit cleared. -/
  | spokeMapRewriteEnd (c : Fin 8)
  /-- FILLER (R173): The FILLER command issues freewheel filler vectors for a given number of issue slots. -/
  | filler (c : Fin 8) (task : Nat)
  /-- VEC (R174): The VEC command runs a vector-unit operation over a run of 512-element vectors in FP32 with one rounding. -/
  | vec (c : Fin 8) (task : Nat)
  /-- UPDATE (R175): The UPDATE command runs the named optimiser profile over a run of vectors, writing masters, moments and working copy. -/
  | update (c : Fin 8) (task : Nat)
  /-- MOVE (R169): The MOVE command patches a DESC template into a descriptor and passes it to the movement engine. -/
  | move (c : Fin 8) (task : Nat)
  /-- NOP (R166): The NOP command holds a schedule position and does nothing. -/
  | nop (c : Fin 8) (task : Nat)
  /-- BARRIER (R183): The BARRIER command registers the task's arrival at a barrier once its earlier commands have completed. -/
  | barrier (c : Fin 8) (task : Nat)
  /-- BARRIER_RELEASE (R183): A barrier with its full count of arrivals, or with LOST modules discounted, releases and sets a new schedule base. -/
  | barrierRelease (c : Fin 8) (id : Nat)
  /-- BARRIER_TIMEOUT (R184): A barrier wait unreleased at its limit ends the task with SEQ_BARRIER_TIMEOUT. -/
  | barrierTimeout (c : Fin 8) (task : Nat)
  /-- WAIT_MARKER (R185): The WAIT_MARKER command holds the task's later commands until the next step-boundary marker tick. -/
  | waitMarker (c : Fin 8) (task : Nat)
  /-- END (R186): The END command marks the last command of the program, after which the task may retire. -/
  | endTask (c : Fin 8) (task : Nat)
  /-- SCR_READ_RETURN (R103): A scratchpad row read returns its data, corrected inline, six cycles after the bank access. -/
  | scrReadReturn (c : Fin 8) (port : Fin 12) (row : Nat) (task : Option Nat) (flips : List (Nat × BitVec 39))
  /-- FIXUP_RETIRE (R105): In a cycle that leaves the entry's bank idle, a fix-up entry writes its row back with fresh check bits. -/
  | fixupRetire (c : Fin 8) (row : Nat)
  /-- FIXUP_HELD_ENTER (R106): A held fix-up entry enters the queue when room appears, ending any stall it caused. -/
  | fixupHeldEnter (c : Fin 8)
  /-- SCRUB_READ (R109): The scrubber reads the next row in an idle bank cycle and corrects or poisons it. -/
  | scrubRead (c : Fin 8) (flips : List (Nat × BitVec 39))
  /-- SCRUB_INTERVAL_END (R110): A scrub interval ends before its sweep finishes and SCR_SCRUB_LATE is reported. -/
  | scrubIntervalEnd (c : Fin 8)
  /-- UNIFORM_STALL_END (R111): In the first array cycle with no stall cause, the held schedule cycle issues all its actions together. -/
  | uniformStallEnd (c : Fin 8)
  /-- SLOT_CLAIM (R118): A producer's claim on a slot is granted at the write pointer or waits. -/
  | slotClaim (c : Fin 8) (slot : Nat) (rq : Requester) (epoch : BitVec 16) (task : Nat)
  /-- SLOT_ACQUIRE (R118): A consumer's acquisition of a slot is granted at the read pointer or waits. -/
  | slotAcquire (c : Fin 8) (slot : Nat) (rq : Requester) (epoch : BitVec 16) (neve : Bool) (task : Nat)
  /-- FILL_TOKEN (R119): A fill token arriving at the owning sequencer counts toward making its buffer FULL. -/
  | fillToken (c : Fin 8) (slot buf : Nat) (epoch : BitVec 16) (poster : Option (Fin 8 × Nat))
  /-- RELEASE_TOKEN (R119): A release token arriving at the owning sequencer counts toward returning its buffer to EMPTY. -/
  | releaseToken (c : Fin 8) (slot buf : Nat) (epoch : BitVec 16) (poster : Option (Fin 8 × Nat))
  /-- SLOT_WAIT_GRANT (R121): A waiting claim or acquisition is granted in the first cycle R120 allows. -/
  | slotWaitGrant (c : Fin 8) (idx : Nat)
  /-- SLOT_WAIT_LIMIT (R122): A slot wait still ungranted after SCR_SLOT_LIMIT cycles ends with SLOT_UNDERFILL, SLOT_OVERFILL or a refusal. -/
  | slotWaitLimit (c : Fin 8) (idx : Nat)
  /-- SCR_INJECT (R130): A write to SCR_INJECT arms one error on a row's next write while the debug window is unlocked, and is dropped otherwise. -/
  | scrInject (c : Fin 8) (val : BitVec 32)
  /-- DESCRIPTOR_ADMIT (R138): The movement engine admits a descriptor when it has room, applying the admission checks in order. -/
  | descriptorAdmit (c : Fin 8)
  /-- DESCRIPTOR_COMPLETE (R144): A descriptor's last read returns and its writes complete, posting its source release token. -/
  | descriptorComplete (c : Fin 8)
  /-- TRANSFER_GROUP_COMPLETE (R144): A transfer group's last pad element is written and every fill token of the group is posted. -/
  | transferGroupComplete (c : Fin 8)
  /-- PREFETCH_FETCH (R157): The stream prefetcher fetches a descriptor's stack source sectors into the tier cache within its depth and budget. -/
  | prefetchFetch (c : Fin 8)
  /-- TOKEN_QUEUE_DRAIN (R158): Up to four tokens per array cycle leave a decoupled token queue and are applied to the slot logic. -/
  | tokenQueueDrain (c : Fin 8)
  /-- STACK_REQUEST (R212): A read, write or pannier request from a requester class enters the stack controller's ingress. -/
  | stackRequest (req : StkReq)
  /-- STACK_REQUEST_ADMIT (R214): A waiting request is admitted into a request slot when its bank is below quota. -/
  | stackRequestAdmit (k : Fin 32)
  /-- REQUEST_PROMOTE (R214): A request that has waited 2,000 ns is promoted. -/
  | requestPromote (k : Fin 32) (id : Nat)
  /-- STACK_REQUEST_SERVE (R215): The bank serves an admitted request, checking and correcting each sector read. -/
  | stackRequestServe (k : Fin 32) (id : Nat) (upset : Option SectorUpset)
  /-- PANNIER_OP (R230): The pannier adder applies an atomic read-modify-write operation to the lanes of a sector or LF48 group. -/
  | pannierOp (k : Fin 32) (id : Nat)
  /-- BANK_REFRESH (R217): A bank's per-bank refresh becomes due, pulled in, postponed or forced. -/
  | bankRefresh (k : Fin 32) (channel bank : Nat) (kind : RefreshKind)
  /-- PATROL_READ (R210): The patrol reads a sector in an unused bank cycle and corrects or poisons it. -/
  | patrolRead (k : Fin 32) (upset : Option SectorUpset)
  /-- REMAP_COPY_BEGIN (R220): The remap engine starts copying a failed row to a spare. -/
  | remapCopyBegin (k : Fin 32)
  /-- REMAP_COPY_FLIP (R220): The copy ends and the row's pointer switches to the spare, serving the waiting requests there. -/
  | remapCopyFlip (k : Fin 32) (key : Nat)
  /-- STK_RETIRE_ACK (R222): A write of a RETIRING page number makes that page RETIRED. -/
  | stkRetireAck (k : Fin 32) (page : BitVec 24)
  /-- STK_INJECT (R235): A write to STK_INJECT arms one sector error while the debug window is unlocked, and is dropped otherwise. -/
  | stkInject (k : Fin 32) (val : BitVec 64)
  /-- STK_CHANNEL_FAILED (R226): A channel interface that fails to retrain fences its stack. -/
  | stkChannelFailed (k : Fin 32) (channel : Nat)
  /-- STACK_FENCE (R226): Oztas fences a stack, redirecting mirrored pages and refusing others. -/
  | stackFence (k : Fin 32) (cause : BitVec 16)
  /-- WQ_DOORBELL (R176): A doorbell write moves a host work queue's tail. -/
  | wqDoorbell (c : Fin 8) (q : Fin 3) (val : BitVec 64)
  /-- WQ_RECONFIGURE (R176): A write of SEQ_WQn_BASE or its size takes effect only while the queue is empty and idle. -/
  | wqReconfigure (c : Fin 8) (q : Fin 3) (size : Bool) (val : BitVec 64)
  /-- CQ_RECONFIGURE (R178): A write of SEQ_CQ_BASE or LOG2 takes effect only while the completion ring is empty with nothing held. -/
  | cqReconfigure (c : Fin 8) (size : Bool) (val : BitVec 64)
  /-- CQ_HEAD_WRITE (R178): A host write of the completion ring's HEAD frees room, releasing held completions. -/
  | cqHeadWrite (c : Fin 8) (head : BitVec 12)
  /-- TASK_ADMIT (R179): The sequencer admits the task at a queue head once all its admission conditions hold. -/
  | taskAdmit (c : Fin 8)
  /-- TASK_CYCLES_EXPIRE (R164): A task clock that reaches TASK_CYCLES ends the task with SEQ_TASK_OVERRUN. -/
  | taskCyclesExpire (c : Fin 8) (task : Nat)
  /-- TASK_RETIRE (R186): A task whose END has issued and whose work has all completed retires and sends a retire record. -/
  | taskRetire (c : Fin 8) (task : Nat)
  /-- SEQ_REPLAY (R188): SEQ_RUN_CTRL REPLAY re-admits the halted task as a retry with its retry count reset. -/
  | seqReplay (c : Fin 8) (val : BitVec 32)
  /-- SEQ_SKIP (R188): SEQ_RUN_CTRL SKIP writes a SKIPPED completion, releases held acquisitions and cancels held claims. -/
  | seqSkip (c : Fin 8) (val : BitVec 32)
  /-- STEP_MARKER (R185): The cascade timebase reaches a step-boundary marker tick and STEP_START tasks may be admitted. -/
  | stepMarker
  /-- LEAD_COMPLETE (R241): When the lead finishes, each sequencer copies the scale region into its scale table before STEP_START admission. -/
  | leadComplete
  /-- SPEC_OPEN (R191): An OPEN token opens an epoch with its clip factor, and with RERUN re-admits the last discarded epoch's tasks. -/
  | specOpen (c : Fin 8) (tok : BitVec 64)
  /-- SPEC_SETTLE (R197): A SETTLE token starts the settle of an epoch. -/
  | specSettle (c : Fin 8) (tok : BitVec 64)
  /-- SPEC_DISCARD (R198): A DISCARD token ends the epoch's running tasks and starts its discard. -/
  | specDiscard (c : Fin 8) (tok : BitVec 64)
  /-- SETTLE_COMPLETE (R197): When the epoch's tasks and claims are done, every object flips névé to firn in one cycle and the settle is reported. -/
  | settleComplete (c : Fin 8) (id : BitVec 16)
  /-- DISCARD_COMPLETE (R198): When the epoch's issued writes complete, its névé and REPLACE buffers return to EMPTY and its claims are cancelled. -/
  | discardComplete (c : Fin 8) (id : BitVec 16)
  /-- SPEC_WAIT_LIMIT (R200): A speculative task waiting for capacity or an epoch past its limit ends with SEQ_SPEC_STARVED. -/
  | specWaitLimit (c : Fin 8) (q : Fin 4)
  /-- MORAINE_PLACE (R262): The moraine manager places a claimed entry in the lowest free span, dropping or lending entries if needed. -/
  | morainePlace
  /-- MORAINE_LEND_COMPLETE (R263): A lent entry's copy to the lender completes, the entry becomes LENT and its span is freed. -/
  | moraineLendComplete
  /-- MORAINE_RETURN (R265): The manager starts returning a LENT entry in read order once a span is free. -/
  | moraineReturn
  /-- BUCKET_BEGIN (R275): A bucket's contribution buffer becomes FULL and the sender starts sending units share by share. -/
  | bucketBegin (bucket : BitVec 32)
  /-- UNIT (R286): A reduction unit arrives at the gate and is admitted, withdrawn, or discarded as late, stale or excluded. -/
  | unit (port : Fin 18) (hdr : BitVec 128) (data : List (BitVec 8)) (arrival : Nat)
  /-- SHARE_OPEN (R294): A share's regions are zeroed and its anchors selected, and it enters COLLECTING. -/
  | shareOpen (bucket : BitVec 32)
  /-- SHARE_DEADLINE (R288): The bucket deadline tick closes the share's collection. -/
  | shareDeadline (bucket : BitVec 32)
  /-- RECORD (R290): A partial record arrives and is checked, combined or added into TREE. -/
  | record (port : Fin 18) (src : BitVec 13) (data : List (BitVec 8))
  /-- PARTIAL_LIMIT_EXPIRE (R290): A share still waiting for partials, withdrawals or resent units at RED_PARTIAL_LIMIT ends FAILED with REDUCE_PARTIAL_LOST. -/
  | partialLimitExpire (bucket : BitVec 32)
  /-- SHARE_FINISH (R295): A complete share's finisher writes results to the result cores, adds the norm partial and becomes FINAL. -/
  | shareFinish (bucket : BitVec 32)
  /-- SHARE_FINAL (R275): A SHARE_FINAL message reaches a contributor's sender, which may release its contribution buffer. -/
  | shareFinal (h : MsgHead) (bucket : BitVec 32) (share : Fin 256)
  /-- SHARE_FAILED (R275): A SHARE_FAILED message reaches a contributor's sender, which may release its contribution buffer. -/
  | shareFailed (h : MsgHead) (bucket : BitVec 32) (share : Fin 256)
  /-- EXCLUSION_SET (R297): The master's exclusion set arrives and the owner asks excluded ranks to withdraw their units. -/
  | exclusionSet (h : MsgHead) (bucket : BitVec 32) (ranks : List Nat)
  /-- WITHDRAW_ORDER (R297): An owner's request makes a rank resend its units with WITHDRAW set. -/
  | withdrawOrder (h : MsgHead) (bucket : BitVec 32) (share : Fin 256) (blocks : List Nat)
  /-- RERUN_ORDER (R298): The master's rerun order zeroes the share and asks the expected ranks to resend in round 1. -/
  | rerunOrder (h : MsgHead) (bucket : BitVec 32) (anchors : List (Nat × Int))
  /-- RESEND_ORDER (R298): A sender resends its units for a share with ROUND 1. -/
  | resendOrder (h : MsgHead) (bucket : BitVec 32) (share : Fin 256) (blocks : List Nat)
  /-- NONFINITE_RANK_REPORT (R297): The master collects an owner's non-finite ranks and sends the union when every share has reported. -/
  | nonfiniteRankReport (h : MsgHead) (bucket : BitVec 32) (channel share : Nat) (ranks : List Nat)
  /-- SATURATION_REPORT (R298): The master receives an OVER block report and orders round 1 with new anchors. -/
  | saturationReport (h : MsgHead) (bucket : BitVec 32) (share : Fin 256) (blocks : List (Nat × Option Int))
  /-- DONE_REPORT (R302): The master records a module's done report. -/
  | doneReport (h : MsgHead) (step : BitVec 32) (flags : BitVec 3) (lanes : List Int) (rime : BitVec 16) (amax : List (Nat × Int)) (failures : List (Nat × Nat))
  /-- NORM_DECISION (R259): With every done report in, the master checks replicas, sums the norm and sends SETTLE or DISCARD with OPEN. -/
  | normDecision
  /-- DONE_REPORT_TIMEOUT (R302): A done report missing 100 ms after the step's last deadline poisons the step. -/
  | doneReportTimeout
  /-- SETTLE_REPORT (R336): The master records a module's settle and places the next marker once all have settled. -/
  | settleReport (h : MsgHead) (step : BitVec 32) (coresLeft : Nat)
  /-- SETTLE_REFUSAL_REPORT (R303): A refused settle makes the master hold the marker and repair the module from replicas. -/
  | settleRefusalReport (h : MsgHead) (step : BitVec 32)
  /-- REPAIR_COMPARE (R303): Fingerprints of the repaired regions are compared; a match reports the settle, a mismatch stops the run. -/
  | repairCompare (module : BitVec 13) (mine theirs : List (BitVec 64))
  /-- FENCE_REPORT (R289): A module's fence report makes the master shift step t's deadlines by 1 ms. -/
  | fenceReport (h : MsgHead)
  /-- MORAINE_REPORT (R303): A MORAINE_EXHAUSTED report makes the master discard the step, hold the marker and stop the run. -/
  | moraineReport (h : MsgHead)
  /-- FP_START (R304): FP_CTRL GO starts a fingerprint run over a range. -/
  | fpStart (h : Fin 2)
  /-- FP_COMPLETE (R304): A fingerprint run writes its last page word, or ends on a refused page. -/
  | fpComplete (h : Fin 2)
  /-- LINK_TRAIN (R311): A port trains, exchanges nonces, derives keys and closes with a sealed test group. -/
  | linkTrain (p : Fin 18) (peer : BitVec 13) (peerPort : BitVec 5) (nonce : BitVec 256) (lanes : BitVec 8) (testOk : Bool)
  /-- DATA_FLIT (R313): A DATA flit is received, sequence-checked and buffered against credit. -/
  | dataFlit (p : Fin 18) (hdr : BitVec 64) (payload : List (BitVec 8)) (frame : BitVec 16) (at_ : FlitAt)
  /-- SEAL (R310): A SEAL flit arrives and its tag is verified, delivering the group's payloads. -/
  | sealFlit (p : Fin 18) (hdr : BitVec 64) (payload : List (BitVec 8)) (frame : BitVec 16) (at_ : FlitAt)
  /-- RETRY (R315): A RETRY flit makes the transmitter resend every flit after ACK. -/
  | retry (p : Fin 18) (x : HeadFlit)
  /-- IDLE (R309): An IDLE flit carries only ACK and CREDIT. -/
  | idle (p : Fin 18) (x : HeadFlit)
  /-- PRIFA_RETRAIN (R316): Retry excess, loss of lane lock or a PRF_RETRAIN write starts a retrain with new keys. -/
  | prifaRetrain (p : Fin 18) (host : Bool)
  /-- RETRAIN_TIMEOUT (R316): A retrain not done in 50 µs raises PRIFA_LINK_DOWN and the port is fenced. -/
  | retrainTimeout (p : Fin 18)
  /-- PORT_FENCE (R327): A fenced port is removed from routes and its held messages are resent on other ports. -/
  | portFence (p : Fin 18)
  /-- MESSAGE_FORWARD (R325): A message for another module is forwarded by route under the deadlock-free credit rule. -/
  | messageForward (p : Fin 18) (vc : Fin 4)
  /-- WRITE (R149): A remote stack write message is applied and acknowledged. -/
  | write (port : Fin 18) (m : Msg)
  /-- PANNIER (R229): A remote pannier message is applied or refused and acknowledged. -/
  | pannier (port : Fin 18) (m : Msg)
  /-- WRITE_ACK (R498): A write acknowledgement reaches the requester, which may post its fill token or end on a status. -/
  | writeAck (port : Fin 18) (m : Msg)
  /-- CLAIM (R498): A remote claim message reaches the slot owner, which grants, waits or refuses it. -/
  | claim (port : Fin 18) (m : Msg)
  /-- GRANT (R498): A grant answer lets the requester write from the granted buffer base. -/
  | grant (port : Fin 18) (m : Msg)
  /-- REFUSE (R150): A refusal answer ends the requesting descriptor with the carried code. -/
  | refuse (port : Fin 18) (m : Msg)
  /-- FILL (R498): A remote fill token message reaches the slot owner. -/
  | fill (port : Fin 18) (m : Msg)
  /-- RELEASE (R498): A remote release token message reaches the slot owner, or returns a loan span. -/
  | release (port : Fin 18) (m : Msg)
  /-- LOAN_CLAIM (R266): A borrower's loan CLAIM makes the lender place a span in its loan range and grant or refuse. -/
  | loanClaim (borrower : Nat) (mib : Nat) (core : Fin 2) (desc : Fin 16)
  /-- SPEC_TOKEN (R196): A speculation token message is delivered to every sequencer. -/
  | specToken (port : Fin 18) (m : Msg)
  /-- PACKAGE (R335): A step package part arrives; a complete package arms the marker. -/
  | package (h : MsgHead) (part parts : Nat) (p : PkgPart)
  /-- MEMBERSHIP_EPOCH (R299): A new membership epoch is received for later steps. -/
  | membershipEpoch (h : MsgHead) (epoch : Nat) (list : List (Nat × Nat × Nat × Nat))
  /-- LOST_DECLARATION (R299): A LOST declaration counts the module missing, closing or failing waiting shares and lowering barriers. -/
  | lostDeclaration (h : MsgHead) (module : Nat)
  /-- DEADLINE_SHIFT (R289): A deadline shift is added to every deadline of the step not yet passed. -/
  | deadlineShift (h : MsgHead) (ticks : Nat)
  /-- HEARTBEAT (R330): A master heartbeat reaches the first deputy. -/
  | heartbeat (h : MsgHead)
  /-- HEARTBEAT_TIMEOUT (R330): With no heartbeat for 100 µs the deputy raises its term and takes over. -/
  | heartbeatTimeout
  /-- TAKEOVER (R330): A TAKEOVER message re-roots the cascade tree at the new master. -/
  | takeover (h : MsgHead)
  /-- LOG (R329): The deputy logs a master decision and acknowledges it. -/
  | log (h : MsgHead) (ack : Bool) (d : Option Decision)
  /-- CASCADE_BARRIER (R183): A cascade barrier arrival or release message is received. -/
  | cascadeBarrier (h : MsgHead) (id : Fin 256) (release : Bool)
  /-- TIME_SYNC (R331): A TIME_SYNC flit lets the child correct its timebase to its parent. -/
  | timeSync (p : Fin 18) (depart arrive : Nat)
  /-- TIME_DELAY (R331): A TIME_DELAY flit completes the link-delay measurement. -/
  | timeDelay (p : Fin 18) (depart arrive : Nat)
  /-- TIME_HOLDOVER_EXPIRE (R332): After 10 ms unlocked a module raises CAS_TIME_UNLOCKED. -/
  | timeHoldoverExpire
  /-- RING (R338): Ring relay data lands in the successor's ring slot. -/
  | ring (port : Fin 18) (m : Msg)
  /-- RING_RELAY (R338): A FULL ring-slot buffer below HOPS is acquired and forwarded to the successor. -/
  | ringRelay (ring : Nat)
  /-- MARKER_PLACE (R336): The master places the next STEP or REPEAT marker when its conditions hold. -/
  | markerPlace (tick : BitVec 64)
  /-- MARKER_REQ_REPEAT (R336): CAS_MARKER_REQ REPEAT on the master makes the next marker after settle a REPEAT marker. -/
  | markerReqRepeat
  /-- MARKER_REQ_RESUME (R336): CAS_MARKER_REQ RESUME on the master releases the held marker. -/
  | markerReqResume
  /-- PTP_MESSAGE (R334): A received PTP message disciplines the master's timebase. -/
  | ptpMessage (e : Fin 2) (domain : BitVec 7) (layer2 : Bool) (time : BitVec 64)
  /-- PTP_LOSS (R334): No PTP messages for 10 s raises CAS_PTP_LOST and holds over. -/
  | ptpLoss
  /-- ETH_FRAME (R340): A received Ethernet frame is accepted or dropped. -/
  | ethFrame (e : Fin 2) (kind : FrameKind) (len tags : Nat) (fcsOk : Bool) (symErr : Nat)
  /-- ARP_REQUEST (R340): Oztas answers ARP or neighbour discovery for configured addresses. -/
  | arpRequest (e : Fin 2) (v6 : Bool) (target : BitVec 128)
  /-- ROCE_PACKET (R341): A RoCEv2 packet is processed for its queue pair. -/
  | rocePacket (e : Fin 2) (q : Fin 4096) (p : RocePkt)
  /-- ROCE_ACK_TIMEOUT (R341): An acknowledgement timeout causes a go-back-N retry or the error state. -/
  | roceAckTimeout (e : Fin 2) (q : Fin 4096)
  /-- ROCE_RATE_INCREASE (R342): 55 µs without a congestion notification raises the pair's rate by 8 Gb/s. -/
  | roceRateIncrease (e : Fin 2) (q : Fin 4096)
  /-- ETH_LINK_DOWN (R343): An Ethernet port loses its link. -/
  | ethLinkDown (e : Fin 2)
  /-- SQ_TAIL (R344): A send-queue doorbell posts send requests. -/
  | sqTail (e : Fin 2) (q : Fin 4096) (val : BitVec 64)
  /-- RQ_TAIL (R344): A receive-queue doorbell posts receive requests. -/
  | rqTail (e : Fin 2) (q : Fin 4096) (val : BitVec 64)
  /-- CQ_HEAD (R344): A completion doorbell frees room in the queue pair's completion ring. -/
  | cqHead (e : Fin 2) (q : Fin 4096) (val : BitVec 64)
  /-- MODIFY (R344): The MODIFY doorbell moves a queue pair to a new state. -/
  | modify (e : Fin 2) (q : Fin 4096) (val : BitVec 64)
  /-- IMG_LOAD_LOCAL (R354): IMG_LOAD_CTRL local GO copies an image from stack memory into a store place. -/
  | imgLoadLocal (place : Fin 16)
  /-- IMG_LOAD_PEER (R354): IMG_LOAD_CTRL peer GO loads a place from a peer module's VERIFIED place. -/
  | imgLoadPeer (place : Fin 16) (peer : BitVec 13) (peerPlace : Fin 16) (answer : Option (List (BitVec 8)))
  /-- IMAGE_VERIFY (R355): A loaded place is verified in order and becomes VERIFIED or REJECTED. -/
  | imageVerify (place : Fin 16)
  /-- IMG_STAGE (R358): An IMG_STAGE write stages a VERIFIED place into the shadow set. -/
  | imgStage (place : Fin 16)
  /-- STAGING_COMPLETE (R358): Both stagers finish and the shadow set is STAGED. -/
  | stagingComplete
  /-- IMG_SWAP_ARM_STEP (R360): IMG_SWAP MODE 0 ARM arms a swap at the next marker after quiescence. -/
  | imgSwapArmStep
  /-- IMG_SWAP_ARM_IMMEDIATE (R360): IMG_SWAP MODE 1 ARM stops admission and arms a swap at quiescence. -/
  | imgSwapArmImmediate
  /-- IMG_SWAP_CANCEL (R360): IMG_SWAP CANCEL disarms an unstarted swap and resumes admission. -/
  | imgSwapCancel
  /-- SWAP_START (R362): An armed swap starts once the module is quiescent and sends PREPARE to every block. -/
  | swapStart
  /-- SWAP_DRAIN_LIMIT (R361): An armed swap not started within IMG_DRAIN_LIMIT is aborted. -/
  | swapDrainLimit
  /-- SWAP_COMMIT (R362): With every block READY, COMMIT flips every configuration selector. -/
  | swapCommit
  /-- SWAP_READY_TIMEOUT (R362): A block not READY by 20 µs aborts the swap. -/
  | swapReadyTimeout
  /-- SWAP_COMPLETE (R363): The switch effects complete and admission resumes under the new image. -/
  | swapComplete
  /-- IMG_MODULE_ID (R359): A write sets the module's cascade ID only while every place is EMPTY. -/
  | imgModuleId (id : BitVec 13)
  /-- CORE_FENCE (R411): Oztas fences a core, isolates it, stages the variant, swaps in FENCE mode and replays. -/
  | coreFence (c : Fin 8) (cause : BitVec 16) (detail : BitVec 32)
  /-- HALF_FENCE (R24): A half-die is fenced, closing the bridge and losing its units. -/
  | halfFence (h : Fin 2) (cause : BitVec 16) (detail : BitVec 32)
  /-- MODULE_FENCE (R409): The module is fenced into management only. -/
  | moduleFence (cause : BitVec 16) (detail : BitVec 32)
  /-- GRANT_RECOMPUTE (R374): Every 1 µs each steward recomputes its half's granted operating point and starts a switch if it differs. -/
  | grantRecompute (h : Fin 2)
  /-- OP_SWITCH_COMMIT (R375): Once the rail regulates and the PLL locks, the switch commits to the new chainring. -/
  | opSwitchCommit (h : Fin 2)
  /-- OP_SWITCH_COMPLETE (R375): The clock gap ends on the new chainring and a slower switch lowers the rail. -/
  | opSwitchComplete (h : Fin 2)
  /-- PLL_UNLOCK (R378): The active chainring PLL loses lock and the half's domains are held. -/
  | pllUnlock (h : Fin 2)
  /-- PLL_RELOCK (R378): The idle PLL locks at OP7 and the half's domains are released. -/
  | pllRelock (h : Fin 2)
  /-- PLL_RELOCK_TIMEOUT (R378): No lock within 100 µs raises PWR_PLL_FAILED and fences the half. -/
  | pllRelockTimeout (h : Fin 2)
  /-- DROOP_DETECT (R379): A droop detector fires and the array gear shifts to /4. -/
  | droopDetect (h : Fin 2)
  /-- DROOP_WINDOW_END (R379): 256 array cycles at /4 with no detection return the gear to /3. -/
  | droopWindowEnd (h : Fin 2)
  /-- CAP_STEP (R382): Every 1 µs Oztas forms the reading P and raises or lowers the cap limits. -/
  | capStep (actW actE other rails : Nat)
  /-- CAP_UNMET (R383): P above the cap for 1 ms with both halves at OP7 stops admission. -/
  | capUnmet
  /-- INPUT_POWER_WINDOW (R384): At each 50 µs input window the estimate is compared with the measurement and the gain may be recalibrated. -/
  | inputPowerWindow (reading : Nat)
  /-- FREEWHEEL_BUDGET (R387): Every 1 µs the fall and rise budgets are granted and spent on filler density and phase switches. -/
  | freewheelBudget (h : Fin 2) (fullStep emptyStep : Nat)
  /-- THERMAL_READ (R390): Every 10 µs sensors are read and the thermal limit rises or easing begins. -/
  | thermalRead (h : Fin 2) (junction : Nat) (stackTemps : List Nat)
  /-- THERMAL_EASE (R390): Each 1 ms of easing lowers the thermal limit by one. -/
  | thermalEase (h : Fin 2)
  /-- ALERT_ASSERT (R391): ALERT_N falling switches both halves to the emergency divider and forces OP7. -/
  | alertAssert
  /-- ALERT_RELEASE (R391): ALERT_N high for 1 ms clears the alert limit. -/
  | alertRelease
  /-- THERMAL_TRIP (R392): A junction at 118 °C stops every clock and asserts THERMTRIP_N. -/
  | thermalTrip (sensor : Fin 64)
  /-- PWR_STATE_M0 (R394): A PWR_STATE request for M0 wakes the module. -/
  | pwrStateM0
  /-- PWR_STATE_M1 (R394): A PWR_STATE request for M1 gates the array clocks when nothing is admitted. -/
  | pwrStateM1
  /-- PWR_STATE_M2 (R394): A PWR_STATE request for M2 writes back tier caches and puts stacks in self-refresh. -/
  | pwrStateM2
  /-- PWR_STATE_M3 (R394): A PWR_STATE request for M3 leaves management only. -/
  | pwrStateM3
  /-- PWR_STATE_M4 (R394): A PWR_STATE request for M4 turns the module off with 48 V present. -/
  | pwrStateM4
  /-- M1_WAKE (R394): A doorbell, token or known marker tick wakes the module from M1 to M0. -/
  | m1Wake
  /-- POWER_ON (R479): The 48 V input reaches the turn-on threshold and the standby rail starts. -/
  | powerOn (mv : Nat) (modEn : Bool) (straps : BitVec 2)
  /-- STARTUP_STEP_END (R398): A start-up step ends and the next begins. -/
  | startupStepEnd (found : BootFound)
  /-- STARTUP_STEP_TIMEOUT (R398): A start-up step missing its Latest time fences its unit or stops start-up. -/
  | startupStepTimeout (late : List Nat) (found : BootFound)
  /-- INPUT_TURN_OFF (R479): The input below 35 V for 100 µs powers the module down. -/
  | inputTurnOff (mv : Nat)
  /-- INPUT_DIP (R480): The input below 40 V for 20 µs makes the converter drive ALERT_N. -/
  | inputDip (mv : Nat)
  /-- INPUT_RECOVER (R480): The input at 40 V or above for 20 µs releases ALERT_N. -/
  | inputRecover (mv : Nat)
  /-- OVERCURRENT_TRIP (R481): Input current over its limits latches the main rails off. -/
  | overcurrentTrip (ma : Nat)
  /-- OVERVOLTAGE_TRIP (R481): Input above 62 V for 10 µs latches the main rails off. -/
  | overvoltageTrip (mv : Nat)
  /-- MOD_EN_LOW (R483): MOD_EN low for 10 ms puts the module in M4. -/
  | modEnLow
  /-- MOD_EN_RISE (R483): MOD_EN rising after 10 ms low is a cold reset. -/
  | modEnRise (straps : BitVec 2)
  /-- PERST_FALL (R484): A PERST_N falling edge after the host port is up is a fundamental reset. -/
  | perstFall
  /-- WARM_RESET (R399): A GLB_RESET WARM write or PCIe reset starts a warm reset. -/
  | warmReset (hot : Bool)
  /-- GLB_FAULT_TAIL (R408): A write of GLB_FAULT_TAIL marks fault records read. -/
  | glbFaultTail (idx : BitVec 8)
  /-- BAR2_REQUEST (R431): A host BAR2 request is served through the tier cache or refused. -/
  | bar2Request (write : Bool) (addr : BitVec 41) (len : Nat) (data : List (BitVec 8))
  /-- CXL_MEM_REQUEST (R437): A CXL.mem request is served, or returns poison or is dropped. -/
  | cxlMemRequest (write : Bool) (line : BitVec 35) (data : BitVec 512) (enable : BitVec 64)
  /-- HOST_LINK_DOWN (R428): The PCIe link goes down and host queues stop. -/
  | hostLinkDown
  /-- FLR (R434): A Function Level Reset masks vectors, stops IDE and unbinds the port. -/
  | flr
  /-- IDE_CHECK_FAIL (R452): An IDE integrity failure stops the stream and unbinds the port. -/
  | ideCheckFail
  /-- GET_STATUS (R441): The mailbox command returns module status. -/
  | getStatus (q : MbxReq)
  /-- GET_LOG (R441): The mailbox command returns a log. -/
  | getLog (q : MbxReq)
  /-- GET_NONCE (R442): The mailbox command issues a fresh nonce. -/
  | getNonce (q : MbxReq)
  /-- ZEROISE (R445): The mailbox command zeroises the SSPs. -/
  | zeroise (q : MbxReq)
  /-- TAKE_OWNERSHIP (R440): The command sets the owner credential while none is set. -/
  | takeOwnership (q : MbxReq)
  /-- TRANSFER_OWNERSHIP (R440): The command replaces the owner credential and zeroises. -/
  | transferOwnership (q : MbxReq)
  /-- REQUEST_SELFTEST (R401): The command requests the full self-test at the next warm reset. -/
  | requestSelftest (q : MbxReq)
  /-- INSTALL_USER_KEY (R441): The command installs a User public key. -/
  | installUserKey (q : MbxReq)
  /-- REMOVE_USER_KEY (R441): The command removes a User key. -/
  | removeUserKey (q : MbxReq)
  /-- INSTALL_IMAGE_KEY (R444): The command installs image-signing keys, rejecting places signed by the old ones. -/
  | installImageKey (q : MbxReq)
  /-- RAISE_IMAGE_FLOOR (R444): The command raises a slot's security floor, rejecting places below it. -/
  | raiseImageFloor (q : MbxReq)
  /-- SET_POLICY (R448): The command writes OZ_POLICY. -/
  | setPolicy (q : MbxReq)
  /-- FW_UPDATE (R447): The command verifies and writes new Oztas firmware to both copies. -/
  | fwUpdate (q : MbxReq) (image : List (BitVec 8))
  /-- RAISE_FW_FLOOR (R447): The command sets the firmware fuse floor to the running version. -/
  | raiseFwFloor (q : MbxReq)
  /-- DEBUG_OPEN (R449): The command zeroises and opens the debug window on an unlocked module. -/
  | debugOpen (q : MbxReq)
  /-- INSTALL_CASCADE_KEY (R444): The command installs the cascade key over a secured session. -/
  | installCascadeKey (q : MbxReq)
  /-- TAMPER_DETECT (R446): A tamper detector fires; the module zeroises, kills its identity and fences. -/
  | tamperDetect (cause : TamperCause)
  /-- GET_VERSION (R450): The SPDM request returns supported versions. -/
  | getVersion (doe : Bool)
  /-- GET_CAPABILITIES (R450): The SPDM request returns capabilities. -/
  | getCapabilities (doe : Bool) (version : BitVec 8)
  /-- NEGOTIATE_ALGORITHMS (R450): The SPDM request agrees the algorithms. -/
  | negotiateAlgorithms (doe : Bool) (offer : SpdmOffer)
  /-- GET_CERTIFICATE (R450): The SPDM request returns the certificate chain. -/
  | getCertificate (doe : Bool) (slot offset len : Nat)
  /-- CHALLENGE (R450): The SPDM request is answered with a signed challenge response. -/
  | challenge (doe : Bool) (slot : Nat) (nonce : BitVec 256)
  /-- GET_MEASUREMENTS (R451): The SPDM request returns the measurement blocks. -/
  | getMeasurements (doe : Bool) (index : BitVec 8) (sign : Bool) (nonce : BitVec 256)
  /-- KEY_EXCHANGE (R450): The SPDM request starts a session key exchange. -/
  | keyExchange (doe : Bool) (slot : Nat) (key : Option (BitVec 768))
  /-- FINISH (R450): The SPDM request completes a session. -/
  | finish (session : Nat) (proof : List (BitVec 8))
  /-- KEY_UPDATE (R450): The SPDM request updates session keys. -/
  | keyUpdate (session : Nat)
  /-- SPDM_HEARTBEAT (R450): The SPDM heartbeat keeps a session alive. -/
  | spdmHeartbeat (session : Nat)
  /-- END_SESSION (R452): The SPDM request ends a session, unbinding the port. -/
  | endSession (session : Nat)
  /-- KEY_PROG (R452): The IDE_KM request programs IDE keys. -/
  | keyProg (session : Nat) (tx : Bool)
  /-- K_SET_GO (R452): The IDE_KM request starts IDE, binding the port when both directions run. -/
  | kSetGo (session : Nat) (tx : Bool)
  /-- IDENTIFY_MEMORY_DEVICE (R436): The CXL mailbox command returns device identity. -/
  | identifyMemoryDevice
  /-- GET_HEALTH_INFO (R436): The CXL mailbox command returns health information. -/
  | getHealthInfo
  /-- GET_EVENT_RECORDS (R436): The CXL mailbox command returns event records. -/
  | getEventRecords (log : Nat)
  /-- CLEAR_EVENT_RECORDS (R436): The CXL mailbox command clears event records. -/
  | clearEventRecords (log count : Nat)
  /-- GET_POISON_LIST (R436): The CXL mailbox command returns the poison list. -/
  | getPoisonList (addr len : Nat)
  /-- GET_SUPPORTED_LOGS (R436): The CXL mailbox command lists supported logs. -/
  | getSupportedLogs
  /-- CXL_GET_LOG (R436): The CXL mailbox command returns a log. -/
  | cxlGetLog (offset len : Nat)
  /-- GET_FW_INFO (R436): The CXL mailbox command returns firmware information. -/
  | getFwInfo
  /-- PMBUS_POLL (R453): Every 10 ms Oztas reads the converter's telemetry over PMBus. -/
  | pmbusPoll (vin iin vout temp status : BitVec 16)
  /-- I3C_DYNAMIC_ADDRESS (R454): An I3C controller's address assignment switches the sideband to I3C. -/
  | i3cDynamicAddress (addr : BitVec 7)
  /-- TAP_RESET (R487): TRST_N or Test-Logic-Reset loads IDCODE. -/
  | tapReset
  /-- BYPASS (R488): The BYPASS instruction selects the bypass register. -/
  | bypass
  /-- IDCODE (R489): The IDCODE instruction selects the identification register. -/
  | idcode
  /-- TEST_ENTER (R491): TEST_ENTER with TEST_N low zeroises and enters test state. -/
  | testEnter (testN : Bool)
  /-- SAMPLE_PRELOAD (R488): SAMPLE/PRELOAD in test state selects the boundary register. -/
  | samplePreload
  /-- EXTEST (R492): EXTEST drives pins from the boundary register. -/
  | extest
  /-- CLAMP (R492): CLAMP holds pins from the boundary register with bypass selected. -/
  | clamp
  /-- HIGHZ (R492): HIGHZ puts pins in high impedance. -/
  | highz
  /-- EXTEST_PULSE (R490): EXTEST_PULSE tests AC-coupled lanes by pulses. -/
  | extestPulse
  /-- EXTEST_TRAIN (R490): EXTEST_TRAIN tests AC-coupled lanes by pulse trains. -/
  | extestTrain
  /-- PLL_LOCK_CHECK_PASS (R378): The lost chainring PLL relocks and passes its 1 ms lock check, and the half leaves the forced OP7 for normal grants. -/
  | pllLockCheckPass (h : Fin 2)
  /-- HOST_LINK_RETRAIN (R428): The PCIe link retrains and comes up again under host control, restoring the port's rate, width and mode. -/
  | hostLinkRetrain (link : HostLink)
  /-- ETH_LINK_UP (R348): An Ethernet port completes auto-negotiation and link training, its link comes up, and a pending ETH_MAC_ADDR takes effect. -/
  | ethLinkUp (e : Fin 2) (phy : Fin 3)
  /-- PERST_RISE (R484): The first rising edge of PERST_N during a cold start releases the host link, and configuration space must answer within 100 ms of it. -/
  | perstRise (link : HostLink)
  /-- TCK_EDGE (R487): A TCK edge samples TDI and TMS, moves the TAP controller and shifts, captures or updates the selected register, driving pins under EXTEST. -/
  | tckEdge (rising tdi tms testN : Bool) (pins : BitVec 563)
  /-- PEER_LOAD_REQUEST (R354): A peer module's request for one of this module's image places is answered by sending the image from a VERIFIED place on the bulk channel, or by a refusal. -/
  | peerLoadRequest (src : BitVec 13) (place : Fin 16)
  /-- TIME_UNLOCKED_REPORT (R332): The cascade master receives a module's CAS_TIME_UNLOCKED or IMG_VARIANT_MISSING report and declares that module LOST. -/
  | timeUnlockedReport (h : MsgHead)
  /-- HEARTBEAT_INTERVAL (R330): Every 10 µs the master sends a HEARTBEAT to the first deputy on the tree path and the alternate path. -/
  | heartbeatInterval
  /-- TIME_SYNC_INTERVAL (R331): Every 8 µs a tree parent sends TIME_SYNC and TIME_DELAY flits to its children on the timebase channel. -/
  | timeSyncInterval
  /-- ERASURE_VERIFIED (R491): The zeroisation flash erase completes and is verified, SEC_ZEROISED is raised, and in test state the test-only instructions become available. -/
  | erasureVerified
  deriving DecidableEq, Repr

end Sys2Proof
end

