-- ==== Sys2Proof/Config.lean ====
section
/-! DEFINITION. What one implementation fixes and what the manual leaves open: constants without a body, so
that nothing can be proved of their values. -/

namespace Sys2Proof.Config

/-- A value the manual leaves open, of `w` bits: the n-th such value drawn in a run (see the log). -/
opaque freeBits (w : Nat) (n : Nat) : BitVec w

/-- A truth value the manual leaves open: the n-th drawn in a run. -/
opaque freeBool (n : Nat) : Bool

/-- A number the manual leaves open: the n-th drawn in a run. -/
opaque freeNat (n : Nat) : Nat

/-- The hash by which a source, a destination and a channel choose a port of a route's mask: the manual names no
function. -/
opaque routeHash (src dst vc : Nat) : Nat

/-- The pattern of a freewheel or filler vector's input lanes at a lane and an issue slot: the manual names it fixed and does not give it
(R386). -/
opaque fillerLane (lane slot : Nat) : BitVec 16

/-! ### Cryptographic functions: the manual names them and this model does not compute them -/

/-- Byte i of the keystream of AES-256 in counter mode under a key and an IV (R310). -/
opaque keystream (key : BitVec 256) (iv : BitVec 96) (i : Nat) : BitVec 8

/-- The GCM tag of additional data and ciphertext under a key and an IV (R310). -/
opaque gcmTag (key : BitVec 256) (iv : BitVec 96) (aad ct : List (BitVec 8)) : BitVec 128

/-- Key and salt of one direction of a link, from the cascade key, the two ends (module and port), the direction and the
two nonces (R311). -/
opaque linkKey (cascade : BitVec 256) (ends : Nat × Nat × Nat × Nat) (forward : Bool) (n1 n2 : BitVec 256) :
  BitVec 256 × BitVec 32

/-- Whether both signatures of an image verify (R352): under the public keys of a slot, over the bytes before the trailer,
against the signature bytes. -/
opaque imageSigned (keys image signature : List (BitVec 8)) : Bool

/-- The SHA-384 digest of bytes (R439). -/
opaque sha384 (bytes : List (BitVec 8)) : BitVec 384

/-- Whether a mailbox request's signature verifies under the Crypto Officer whose credential is given (R440, R442): over the
module serial number and the request bytes before the signature. -/
opaque officerSigned (credential : BitVec 384) (serial : BitVec 48) (bytes signature : List (BitVec 8)) : Bool

/-- The same under a User's public key. -/
opaque userSigned (key : BitVec 768) (serial : BitVec 48) (bytes signature : List (BitVec 8)) : Bool

/-- The SHA-384 credential a public key matches (R440). -/
opaque credentialOf (key : BitVec 768) : BitVec 384

/-- Whether the FINISH of an SPDM session verifies: its signature under the requester's key when it has one, and its MAC
(R450). -/
opaque finishValid (key : Option (BitVec 768)) (serial : BitVec 48) (session : Nat) (proof : List (BitVec 8)) : Bool

/-- The certificate chain of slot 0 (R450). -/
opaque certChain (serial : BitVec 48) : List (BitVec 8)

/-- The signature of the device identity key over bytes (R450). -/
opaque identitySign (key : BitVec 384) (bytes : List (BitVec 8)) : List (BitVec 8)

/-- The device identity key and the key-encryption key derived from the unique device secret (R443). -/
opaque identityKey (secret : BitVec 256) : BitVec 384
opaque wrappingKey (secret : BitVec 256) : BitVec 256

/-- The bytes of the ROM and of a firmware version, as measured (R451). -/
opaque romCode : List (BitVec 8)
opaque firmwareCode (version : BitVec 32) : List (BitVec 8)

/-- Whether both signatures of a firmware image verify under the Kamvos keys, and the version and security version it
carries (R447). -/
opaque firmwareSigned (bytes : List (BitVec 8)) : Bool
opaque firmwareVersion (bytes : List (BitVec 8)) : BitVec 32
opaque firmwareSecurity (bytes : List (BitVec 8)) : BitVec 32

/-- Whether a firmware version is an approved build (R438). -/
opaque firmwareApproved (version : BitVec 32) : Bool

/-- The activation whose gradient a tensor of an image is, by image ID and tensor ID: the manual has image validation compare the
two widths (R257) and names no field of an image that pairs them. -/
opaque activationOf (image : BitVec 64) (tensor : Nat) : Option Nat

/-- The bits by which the converter's STATUS_WORD shows a latch cause, 1 over-current, 2 over-voltage (R481). -/
opaque latchStatus (cause : Nat) : BitVec 16

/-- The highest VER_MINOR the firmware accepts, IMG_CAPS.MINOR (R349, R472): the manual gives no value. -/
opaque imageMinor : Nat

end Sys2Proof.Config
end

