-- ==== Sys2Proof/Machine/Operands.lean ====
section
/-! DEFINITION. The operand forms every meaning reads: fields and bits of a word, two's complement, little-endian bytes,
saturating counts, and list updates (R8, R460). -/

namespace Sys2Proof.Machine

/-! ### Bits, bytes and words (R8: little-endian throughout) -/

/-- Bits [hi:lo] of a number. -/
def bitsOf (x hi lo : Nat) : Nat := x / 2 ^ lo % 2 ^ (hi + 1 - lo)

/-- Bits [hi:lo] of a word, as a number. -/
def fld {w : Nat} (x : BitVec w) (hi lo : Nat) : Nat := bitsOf x.toNat hi lo

/-- One bit of a word. -/
def bit {w : Nat} (x : BitVec w) (i : Nat) : Bool := x.getLsbD i

/-- A number read as two's complement of `w` bits. -/
def signed (w x : Nat) : Int := if x < 2 ^ (w - 1) then (x : Int) else (x : Int) - 2 ^ w

/-- An integer wrapped into `w` bits. -/
def wrap (w : Nat) (x : Int) : Nat := (x % (2 ^ w : Int)).toNat

def b2n (b : Bool) : Nat := if b then 1 else 0

/-- The number a list of bytes spells, least significant byte first. -/
def leNat : List (BitVec 8) → Nat
  | [] => 0
  | b :: bs => b.toNat + 256 * leNat bs

/-- The `n` low bytes of a number, least significant first. -/
def natLe : Nat → Nat → List (BitVec 8)
  | 0, _ => []
  | n + 1, x => BitVec.ofNat 8 x :: natLe n (x / 256)

/-- Bytes `[a, a + n)` of a list of bytes, as a number. -/
def leAt (bs : List (BitVec 8)) (a n : Nat) : Nat := leNat ((bs.drop a).take n)

/-- A count that saturates at the all-ones value of its width (R460). -/
def satAdd (w a n : Nat) : Nat := min (a + n) (2 ^ w - 1)

/-- A value clamped to a range. -/
def clampTo (lo hi x : Nat) : Nat := max lo (min hi x)

/-- A list with its element at one index replaced. -/
def listMod {α : Type} (l : List α) (i : Nat) (f : α → α) : List α :=
  match l, i with
  | [], _ => []
  | x :: xs, 0 => f x :: xs
  | x :: xs, i + 1 => x :: listMod xs i f

/-- The first element that satisfies a test is replaced. -/
def replaceFirst {α : Type} (p : α → Bool) (f : α → α) : List α → List α
  | [] => []
  | x :: xs => if p x then f x :: xs else x :: replaceFirst p f xs

/-- The first element that satisfies a test is taken out. -/
def removeFirst {α : Type} (p : α → Bool) : List α → List α
  | [] => []
  | x :: xs => if p x then xs else x :: removeFirst p xs

/-- `f` folded over 0, 1, …, n - 1. -/
def foldUpTo {α : Type} (n : Nat) (f : Nat → α → α) (a : α) : α :=
  (List.range n).foldl (fun acc i => f i acc) a

end Sys2Proof.Machine
end

