-- ==== Sys2Proof/Machine/State.lean ====
section
/-! DEFINITION. The state of one FX8 module: everything the spec gives it, as plain data, with the value
each field holds right after the 48 V supply is applied to a module whose flash is as it left the factory.
Each field's comment names the rule of spec/ that gives it. -/

namespace Sys2Proof.Machine

/-- Canonical sparse table: keys strictly rising, no entry equal to what an unlisted key reads as. -/
abbrev Tab (β : Type) := List (Nat × β)

/-- GLB_STATUS.MODE (R425, R466). -/
inductive GlbMode | starting | service | managementOnly | recovery
  deriving DecidableEq, Repr

/-- Partition mode of a matrix array (R57): FULL, HALF or QUARTER. -/
inductive PartMode | full | half | quarter
  deriving DecidableEq, Repr

/-- Accumulator bank state (R46). -/
inductive BankSt | empty | opened | closed | converting
  deriving DecidableEq, Repr

/-- Buffer state of a slot (R118). -/
inductive BufSt | empty | filling | full | reading
  deriving DecidableEq, Repr

/-- How a descriptor moves its data (R147, R148). -/
inductive MovePath | plain | inPlace | staged
  deriving DecidableEq, Repr

/-- What a task is doing (R164, R183, R185, R186). -/
inductive TaskSt | running | atBarrier | waitMarker | ending
  deriving DecidableEq, Repr

/-- State of an epoch place (R191, SEQ_STATUS.PLACEn of R468). -/
inductive EpochSt | free | opened | settling | discarding
  deriving DecidableEq, Repr

/-- State of a stack row (R219). -/
inductive RowState | normal | copying | pending | remapped1 | remapped2 | retiring | retired
  deriving DecidableEq, Repr

/-- STK_STATUS.STATE (R469). -/
inductive StkSt | training | ready | fenced
  deriving DecidableEq, Repr

/-- State of a moraine entry (R262). -/
inductive MorSt | free | filling | present | reading | dropped | lent | returning
  deriving DecidableEq, Repr

/-- Where an entry's loan stands (R263, R266): none, a span asked for, its copy to the lender, its return. -/
inductive LendSt | none | asked | copying | returning
  deriving DecidableEq, Repr

/-- CLK_OP_STATUS.SWITCH (R472). -/
inductive SwSt | idle | ramping | relocking | heldByDroop | switching
  deriving DecidableEq, Repr

/-- State of a share on its owner (R294). -/
inductive ShareSt | opening | collecting | exchanging | rerunning | finishing | final | failed
  deriving DecidableEq, Repr

/-- PRF_STATUS.STATE (R346). -/
inductive PortSt | down | training | up | fenced
  deriving DecidableEq, Repr

/-- State of a queue pair (R344). -/
inductive QpSt | reset | init | rtr | rts | error
  deriving DecidableEq, Repr

/-- CAS_ROLE.ROLE (R347). -/
inductive CasRole | member | master | deputy
  deriving DecidableEq, Repr

/-- State of an image-store place (R355, R369). -/
inductive PlaceSt | empty | loading | verifying | verified | rejected | staged | active
  deriving DecidableEq, Repr

/-- IMG_STATUS.SWAP (R472). -/
inductive SwapSt | idle | armed | draining | preparing | switching
  deriving DecidableEq, Repr

/-- The sixteen states of the test access port's controller (R487). -/
inductive TapSt
  | testLogicReset | runTestIdle
  | selectDr | captureDr | shiftDr | exit1Dr | pauseDr | exit2Dr | updateDr
  | selectIr | captureIr | shiftIr | exit1Ir | pauseIr | exit2Ir | updateIr
  deriving DecidableEq, Repr

/-- Who drives the pins the boundary register covers (R492). -/
inductive TapDrive | functional | boundary | clamp | highz | pulse | train
  deriving DecidableEq, Repr

/-- What the module sends to the outside, one constructor per kind of emission. -/
inductive Out
  /-- An MSI-X message (R435): vector, message address and data from its table entry. -/
  | msix (vector : Nat) (addr : BitVec 64) (data : BitVec 32)
  /-- A Prifa message handed to the routes (R317, R325). -/
  | message (m : Msg)
  /-- A flit of a port (R309): its header and its payload. -/
  | flit (port : Nat) (hdr : BitVec 64) (payload : List (BitVec 8))
  /-- A frame of a Prifa direction (R308): the 10-bit symbols of its two codewords on each of the 8 lanes. -/
  | lanes (port : Nat) (symbols : List (List Nat))
  /-- A frame of an Ethernet port (R340, R341): its kind, its numeric fields and its payload. -/
  | frame (eth : Nat) (kind : Nat) (fields : List Nat) (payload : List (BitVec 8))
  /-- A completion on the host port (R431, R437): 0 successful, 1 Unsupported Request, 2 poisoned data. -/
  | completion (status : Nat) (data : List (BitVec 8))
  /-- A response of the SPDM responder, the IDE key agent or the CXL mailbox (R436, R450, R452). -/
  | response (iface code : Nat) (data : List (BitVec 8))
  deriving DecidableEq, Repr

/-- Factory fuses: constants of one module, set at manufacture and never by a reset. -/
structure Fuses where
  /-- R1,R466 (00,15) GLB_ID.PART 4 bits. -/
  isFx7 : Bool := false
  /-- R1 (00) index of the factory-fenced core, 3 bits. -/
  factoryCore : Nat := 0
  /-- R466,R489 (15,16) GLB_ID.STEPPING 8 bits. -/
  stepping : BitVec 8 := 1
  /-- R466 (15) GLB_ID.SERIAL 48 bits. -/
  serial : BitVec 48 := 0
  /-- R53,R54 (02) fuse spoke bytes, key core*8+row group, 8 bits each. -/
  spokeRow : Tab (BitVec 8) := []
  /-- R53,R54 (02) fuse spoke bytes, key core*8+column group. -/
  spokeCol : Tab (BitVec 8) := []
  /-- R449 (14) DEBUG_LOCK fuse, blown on every production module. -/
  debugLock : Bool := true
  /-- R443,R447 (14) firmware security floor, one-time fuses 32 bits. -/
  fwFloor : BitVec 32 := 0
  /-- R446 (14) identity-kill fuse. -/
  identityKilled : Bool := false
  /-- R443 (14) unique device secret, 256 bits. -/
  deviceSecret : BitVec 256 := 0
  deriving DecidableEq, Repr

/-- One entry of the fence record that Oztas keeps in flash (R403). -/
structure FenceRec where
  /-- R403 (13) 0 core 1 stack 3 half. -/
  dom : Nat := 0
  /-- R403 (13) unit index. -/
  unit : Nat := 0
  deriving DecidableEq, Repr

/-- One row's entry in the flash repair record of R224: where the row's chain stands. -/
structure RemapRec where
  /-- R224 (07). -/
  stack : Nat := 0
  /-- R224 (07) (channel*32+bank)*65536+row. -/
  row : Nat := 0
  /-- R219,R224 (07) chain depth 0-2. -/
  depth : Nat := 0
  /-- R219 (07) spare rows used, oldest first. -/
  spares : List Nat := []
  /-- R222,R224 (07). -/
  retiring : Bool := false
  deriving DecidableEq, Repr

/-- The Oztas flash (R3): it survives every reset and the loss of 48 V. -/
structure Flash where
  /-- R442 (14) the COMMAND codes of the firmware's mailbox commands, in the order of R441: the spec gives none. -/
  mbxCodes : Vector (BitVec 16) 16 := Vector.ofFn fun i => BitVec.ofNat 16 (i.val + 1)
  /-- R54,R55 (02) field-sparing record, key core*8+row group. -/
  fieldRow : Tab (BitVec 8) := []
  /-- R54,R55 (02) field-sparing record, key core*8+column group. -/
  fieldCol : Tab (BitVec 8) := []
  /-- R403 (13) up to 64 entries. -/
  fenceRecord : List FenceRec := []
  /-- R224 (07) remap and retirement record. -/
  remaps : List RemapRec := []
  /-- R220,R224 (07) key stack*2^15+(channel*32+bank)*64+spare. -/
  defectiveSpares : List Nat := []
  /-- R398,R447 (13,14) firmware version of copy A, none when invalid. -/
  fwCopyA : Option (BitVec 32) := some 0
  /-- R398,R447 (13,14) copy B. -/
  fwCopyB : Option (BitVec 32) := some 0
  /-- R447 (14) security version of copy A. -/
  fwSecA : BitVec 32 := 0
  /-- R447 (14) security version of copy B. -/
  fwSecB : BitVec 32 := 0
  /-- R440,R443 (14) owner credential, SHA-384. -/
  ownerCred : Option (BitVec 384) := none
  /-- R440,R443 (14) User keys 0-7, P-384 public keys. -/
  userKeys : Tab (Option (BitVec 768)) := []
  /-- R443,R444 (14) image-signing keys, slots 0-3, as their key bytes. -/
  imageKeys : Tab (Option (List (BitVec 8))) := []
  /-- R352,R443 (11,14) image security floors, slots 0-3; IMG_SEC_FLOOR. -/
  imageFloors : Tab (BitVec 32) := []
  /-- R311,R443 (10,14) cascade key 256 bits. -/
  cascadeKey : Option (BitVec 256) := none
  /-- R448 (14) OZ_POLICY.REQUIRE_BIND. -/
  requireBind : Bool := true
  /-- R448 (14) OZ_POLICY.SIDEBAND_CO. -/
  sidebandCo : Bool := false
  /-- R446,R466 (14,15) OZ_TAMPER_LOG.CAUSE. -/
  tamperCause : BitVec 3 := 0
  /-- R446,R466 (14,15) OZ_TAMPER_LOG.TICK. -/
  tamperTick : BitVec 56 := 0
  /-- R392,R472 (12,15) PWR_THERMTRIP_LOG.TICK. -/
  tripTick : BitVec 56 := 0
  /-- R392,R472 (12,15) PWR_THERMTRIP_LOG.SENSOR. -/
  tripSensor : BitVec 7 := 0
  /-- R392,R472 (12,15) PWR_THERMTRIP_LOG.VALID. -/
  tripValid : Bool := false
  /-- R392 (12) THM_TRIP to be reported at the next start-up. -/
  tripReport : Bool := false
  /-- R408 (13) fence, trip and remap records kept in flash. -/
  faultRecords : List (BitVec 128) := []
  deriving DecidableEq, Repr

/-- The last logged record of one code and unit, for the 1 ms folding of R408. -/
structure FaultSeen where
  /-- R408 (13). -/
  code : BitVec 16 := 0
  /-- R408 (13). -/
  dom : Nat := 0
  /-- R408 (13). -/
  unit : Nat := 0
  /-- R408 (13) log index of that record. -/
  idx : Nat := 0
  /-- R408 (13). -/
  tick : Nat := 0
  deriving DecidableEq, Repr

/-- GLB_FENCE_LAST (R466). -/
structure FenceLast where
  /-- R466 (15). -/
  dom : BitVec 3 := 0
  /-- R466 (15). -/
  unit : BitVec 5 := 0
  /-- R466 (15). -/
  cause : BitVec 16 := 0
  /-- R466 (15) µs in phase Detect of R411. -/
  detect : BitVec 12 := 0
  /-- R466 (15). -/
  isolate : BitVec 12 := 0
  /-- R466 (15). -/
  stage : BitVec 12 := 0
  /-- R466 (15). -/
  swap : BitVec 12 := 0
  /-- R466 (15). -/
  replay : BitVec 12 := 0
  deriving DecidableEq, Repr

/-- A core fence in progress (R411): which core, why, and its phase. -/
structure FencePath where
  /-- R411 (13). -/
  core : Nat := 0
  /-- R411 (13). -/
  cause : BitVec 16 := 0
  /-- R411 (13) 2 stage 3 swap 4 replay. -/
  phase : Nat := 0
  /-- R411 (13) tick at which the phase began. -/
  since : Nat := 0
  /-- R411 (13) queue and task ID of the tasks whose replay has not retired. -/
  left : List (Nat × Nat) := []
  deriving DecidableEq, Repr

/-- A fence decided while another fence path runs, or after a swap's COMMIT (R365, R410): isolated, its handling still to come. -/
structure FencePend where
  /-- R410 (13) the core, or the half-die. -/
  core : Nat := 0
  /-- R410 (13). -/
  cause : BitVec 16 := 0
  /-- R422 (13) a half-die's. -/
  half : Bool := false
  deriving DecidableEq, Repr

/-- The GLOBAL block (R425, R466), Oztas's. -/
structure Glb where
  /-- R398,R466 (13,15) GLB_STATUS.STEP 4 bits. -/
  step : Nat := 0
  /-- R425,R466 (13,15) GLB_STATUS.MODE 3 bits. -/
  mode : GlbMode := .starting
  /-- R466 (15) GLB_STATUS.FULL_LAST. -/
  fullLast : Bool := false
  /-- R425 (13) GLB_SELFTEST_CTRL.FULL RWS. -/
  stFull : Bool := false
  /-- R425 (13) GLB_SELFTEST_CTRL.RETEST RWS. -/
  stRetest : Bool := false
  /-- R400,R425 (13) GLB_SELFTEST_CTRL.BOOT_OP RWS. -/
  bootOp : BitVec 3 := 0
  /-- R401 (13) full self-test requested for the next warm reset. -/
  fullRequested : Bool := false
  /-- R398,R399 (13) the running start-up is a cold one. -/
  coldStart : Bool := true
  /-- R398 (13) tick from which the Latest times count. -/
  startTick : Nat := 0
  /-- R398,R455 (13,14) start-up stopped: 1 BOOT_NO_REFCLK, 2 BOOT_FW_INVALID, 3 no standby rail. -/
  bootStop : Nat := 0
  /-- R398 (13) tick at which the running start-up step began. -/
  stepTick : Nat := 0
  /-- R425 (13) GLB_FENCE_CORE [7:0]. -/
  fencedCores : BitVec 8 := 0
  /-- R403,R425 (13) GLB_FENCE_CORE [15:8]. -/
  heldCores : BitVec 8 := 0
  /-- R425 (13) GLB_FENCE_STACK [31:0]. -/
  fencedStacks : BitVec 32 := 0
  /-- R403,R425 (13) GLB_FENCE_STACK [63:32]. -/
  heldStacks : BitVec 32 := 0
  /-- R425 (13) GLB_FENCE_PORT [17:0]. -/
  fencedPorts : BitVec 18 := 0
  /-- R425 (13) GLB_FENCE_PORT [21:20]. -/
  fencedHalves : BitVec 2 := 0
  /-- R425 (13) GLB_FENCE_PORT [25:24]. -/
  fencedEths : BitVec 2 := 0
  /-- R409 (13) module fenced into management only. -/
  moduleFenced : Bool := false
  /-- R425 (13) GLB_BOOT_TIMES, eleven 16-bit fields, ms. -/
  bootTimes : Tab (BitVec 16) := []
  /-- R425,R466 (13,15) GLB_FENCE_LAST. -/
  fenceLast : FenceLast := {}
  /-- R408,R466 (13,15) GLB_FAULT_HEAD. -/
  faultHead : BitVec 8 := 0
  /-- R408,R466 (13,15) GLB_FAULT_TAIL. -/
  faultTail : BitVec 8 := 0
  /-- R408 (13) flag: equal indices mean all 256 unread. -/
  unreadAll : Bool := false
  /-- R408 (13) GLB_FAULT_LOST 32 bits. -/
  faultLost : Nat := 0
  /-- R407,R408 (13) GLB_FAULT_LOG, 256 records of 16 bytes. -/
  log : Tab (BitVec 128) := []
  /-- R408 (13) last logged record of each code and unit. -/
  seen : List FaultSeen := []
  /-- R13,R466 (00,15) GLB_OWNERSHIP_ERR.COUNT 32 bits. -/
  ownErrCount : Nat := 0
  /-- R466 (15) GLB_OWNERSHIP_ERR.OFFSET. -/
  ownErrOffset : BitVec 27 := 0
  /-- R417,R466 (13,15) GLB_OWNERSHIP_ERR.BAR4. -/
  ownErrBar4 : Bool := false
  /-- R461 (15) GLB_FAULT flags, bit k the k-th code. -/
  faultFlags : BitVec 32 := 0
  /-- R366,R410,R411 (11,13) the fence path in progress. -/
  fencePath : Option FencePath := none
  /-- R410 (13) fences decided while another path runs. -/
  fencePending : List FencePend := []
  deriving DecidableEq, Repr

/-- A stationary tile's header (R28), kept at the array edge, one per set. -/
structure TileHdr where
  /-- R28,R170 (02,06) stored format code. -/
  fmt : Fmt := .e4m3
  /-- R28,R170 planes read, 0 eight 1 six 2 four. -/
  planes : BitVec 2 := 0
  /-- R28,R76. -/
  midpoint : Bool := false
  /-- R28,R48 chunk index. -/
  chunk : BitVec 8 := 0
  /-- R28,R47 first-chunk flag. -/
  first : Bool := false
  /-- R28,R48 last-chunk flag. -/
  last : Bool := false
  /-- R28 tile tag. -/
  tag : BitVec 16 := 0
  /-- R28,R170 tensor scale of an E4M3 or E5M2 tile. -/
  tscale : BitVec 8 := 127
  deriving DecidableEq, Repr

/-- One stationary set of one partition: its tile header and whether it holds a tile. -/
structure StatSet where
  /-- R28 (02). -/
  hdr : TileHdr := {}
  /-- R59,R62 (02) false: the set is empty. -/
  full : Bool := false
  deriving DecidableEq, Repr

/-- A tile in the north loader's buffer (R41): filling, waiting, or being loaded. -/
structure BufTile where
  /-- R41,R58 (02) partition the tile is for. -/
  part : Nat := 0
  /-- R28 (02). -/
  hdr : TileHdr := {}
  /-- R28 (02) regathered register words, key row*512+column in the partition. -/
  regs : Tab (BitVec 17) := []
  /-- R41 (02) the complete tile is present. -/
  ready : Bool := false
  /-- R58 (02) array cycle at which it became complete (order of the quadrant loads). -/
  readyCycle : Nat := 0
  /-- R41 (02) its 520- or 260-cycle load is running. -/
  loading : Bool := false
  /-- R41,R43 (02) cycle in which the loader writes position 0. -/
  startCycle : Nat := 0
  /-- R170 (06) the task whose LOAD queued it. -/
  task : Nat := 0
  /-- R125 (04) slot it is drawn from. -/
  slot : Nat := 0
  /-- R62 (02) the tile being loaded is marked empty when its load ends. -/
  dropped : Bool := false
  /-- R41,R58 (02) cycles its load takes, set when it begins. -/
  span : Nat := 0
  /-- R27,R42 (02) it loads into set B. -/
  toB : Bool := false
  deriving DecidableEq, Repr

/-- One row lane of R32: codes, scale, valid, marker (26 bits). -/
structure Lane where
  /-- R32 (02). -/
  code : BitVec 16 := 0
  /-- R32 (02). -/
  scale : BitVec 8 := 0
  deriving DecidableEq, Repr

/-- One vector or filler travelling through the array, or a bubble that carries a marker (R32-R35, R42, R173); any other bubble changes nothing (R34) and is not kept. The input, partial-sum and pass-through registers of the cells (R27) hold what the vector at their position in the data path makes of them: the file of the cells computes each from the flights. -/
structure Flight where
  /-- R32 (02). -/
  part : Nat := 0
  /-- R173,R388 (06,12) freewheel filler, discarded at drain entry. -/
  filler : Bool := false
  /-- R34,R42 (02) a bubble that carries a marker: no valid lane, no product. -/
  bubble : Bool := false
  /-- R42 (02) the swap marker rides this slot. -/
  marker : Bool := false
  /-- R42 (02) its marker has entered position (0,0). -/
  swapped : Bool := false
  /-- R42 (02) it computes with stationary set B. -/
  setB : Bool := false
  /-- R27,R43 (02) the tile it met, kept once the loader overwrites its registers. -/
  met : Option (TileHdr × Tab (BitVec 17)) := none
  /-- R32 (02) tag bank bit. -/
  bank : Nat := 0
  /-- R32 (02) tag entry index 10 bits. -/
  entry : Nat := 0
  /-- R32,R38 (02) tag orientation. -/
  transposed : Bool := false
  /-- R32,R39 (02) tag half-select. -/
  half : Bool := false
  /-- R81,R172 (03,06) input format. -/
  fmt : Fmt := .e4m3
  /-- R81,R172. -/
  planes : BitVec 2 := 0
  /-- R81,R172. -/
  midpoint : Bool := false
  /-- R32 (02) the elements of the vector, key reduction index (2i,2i+1 at the 4-bit rate). -/
  lanes : Tab Lane := []
  /-- R33,R50 (02) array cycle of issue. -/
  issueCycle : Nat := 0
  /-- R62 (02). -/
  task : Nat := 0
  /-- R62 (02) the drain discards its outputs. -/
  discard : Bool := false
  deriving DecidableEq, Repr

/-- An ISSUE run under way in a partition (R172). -/
structure Run where
  /-- R172 (06). -/
  task : Nat := 0
  /-- R172 (06) the ISSUE command word. -/
  word : BitVec 128 := 0
  /-- R167,R172 ROW + A[ROW_ARG] plus the buffer's first row. -/
  rowBase : Nat := 0
  /-- R172 next vector of the run. -/
  next : Nat := 0
  /-- R168 buffer of the input slot. -/
  buf : Nat := 0
  /-- R35,R36 schedule cycle of the next vector (scheduled timing). -/
  due : Nat := 0
  /-- R31 (02) the BF16/FP16 run owes its empty slot. -/
  gap : Bool := false
  /-- R42 (02) its marker has gone ahead on a bubble. -/
  marked : Bool := false
  deriving DecidableEq, Repr

/-- A FILLER command's issue slots still to go (R173). -/
structure FillRun where
  /-- R173 (06). -/
  task : Nat := 0
  /-- R173 (06). -/
  left : Nat := 0
  deriving DecidableEq, Repr

/-- One long-accumulator entry (R45). -/
structure AccEntry where
  /-- R45,R80 (02,03) fixed-point value, or FP32 in [31:0] for BF16/FP16. -/
  acc : BitVec 96 := 0
  /-- R45 non-finite record. -/
  recNan : Bool := false
  /-- R45. -/
  recPos : Bool := false
  /-- R45. -/
  recNeg : Bool := false
  /-- R45 saturation bit. -/
  sat : Bool := false
  /-- R45,R48 chunk record, none before any pass. -/
  chunk : Option (BitVec 8) := none
  /-- R86 the entry holds an FP32 value. -/
  fp : Bool := false
  deriving DecidableEq, Repr

/-- The gauge's counts of one bank (R236, R237, R239). -/
structure GaugeAcc where
  /-- R236 (08). -/
  values : Nat := 0
  /-- R236. -/
  zeros : Nat := 0
  /-- R236. -/
  vanished : Nat := 0
  /-- R236. -/
  saturated : Nat := 0
  /-- R236. -/
  nan : Nat := 0
  /-- R236. -/
  posInf : Nat := 0
  /-- R236. -/
  negInf : Nat := 0
  /-- R236 AMAX_EXP. -/
  amaxExp : Option Int := none
  /-- R236 AMAX as FP32. -/
  amax : BitVec 32 := 0
  /-- R237 twelve what-if counts, overflow then vanish. -/
  whatIf : Tab Nat := []
  /-- R236 histogram bins 0-63. -/
  hist : Tab Nat := []
  deriving DecidableEq, Repr

/-- One accumulator bank of a partition (R45-R49). -/
structure Bank where
  /-- R46 (02). -/
  st : BankSt := .empty
  /-- R46 entry count 1-1024. -/
  n : Nat := 0
  /-- R40,R46 orientation. -/
  transposed : Bool := false
  /-- R171 (06) the OPEN command word. -/
  word : BitVec 128 := 0
  /-- R87,R241 output scale in force. -/
  xo : BitVec 8 := 0
  /-- R81,R241 stationary bound. -/
  xw : BitVec 8 := 0
  /-- R81,R241 input bound. -/
  xi : BitVec 8 := 0
  /-- R241 TSCALE of W_SRC, of a bank whose scales come from the scale table. -/
  wScale : Option Nat := none
  /-- R241 TSCALE of I_SRC, of such a bank. -/
  iScale : Option Nat := none
  /-- R47,R81 latched anchor. -/
  anchor : Option Int := none
  /-- R82 bank underflow counter. -/
  underflow : Nat := 0
  /-- R48 last chunk's index. -/
  lastChunk : Option (BitVec 8) := none
  /-- R46 array cycle in which its last vector issued. -/
  closeCycle : Nat := 0
  /-- R58 order of closing. -/
  closeSeq : Nat := 0
  /-- R62,R186. -/
  task : Nat := 0
  /-- R49 destination buffer once claimed. -/
  buf : Option Nat := none
  /-- R49 array cycle at which conversion began. -/
  convCycle : Nat := 0
  /-- R49 entries converted so far. -/
  conv : Nat := 0
  /-- R496 scale bytes of the entries converted, which follow the records. -/
  scales : List (BitVec 8) := []
  /-- R239 (08) what the gauge has counted of it. -/
  gauge : GaugeAcc := {}
  /-- R236 (08) the gauge counts it: its task is not speculative. -/
  gauged : Bool := false
  deriving DecidableEq, Repr

/-- One array partition (R57, R60). -/
structure Part where
  /-- R27 (02) stationary set A's header. -/
  setA : StatSet := {}
  /-- R27 (02) stationary set B's header. -/
  setB : StatSet := {}
  /-- R27,R42 set selector at position (0,0): true, B is active. -/
  selB : Bool := false
  /-- R172 (06) ISSUE runs in order. -/
  runs : List Run := []
  /-- R173. -/
  fillRuns : List FillRun := []
  /-- R45,R46 (02) bank 0 and bank 1. -/
  banks : Vector Bank 2 := Vector.replicate 2 {}
  /-- R43 (02) cycle E at which the last marker entered (0,0). -/
  lastEntry : Option Nat := none
  /-- R27,R42 cycles at which the last four markers entered (0,0), newest first: those still on their way have not inverted
  the set selectors of the cells ahead of them. -/
  marks : List Nat := []
  /-- R62,R179 array cycle from which the partition may take a task. -/
  freeAt : Nat := 0
  /-- R62,R462 (02,15) ARR_PFAULT.CODE_p. -/
  pfault : BitVec 16 := 0
  /-- R386 (12) the last 1,024 issue slots: real vector or not, newest first. -/
  recent : List Bool := []
  /-- R386 (12) freewheel density d 0-64; FW_STATUS. -/
  density : Nat := 0
  /-- R373 (12) phase of the task it last ran. -/
  phase : Nat := 7
  /-- R373,R389 (12) a pre-marker ramp raises its density. -/
  ramp : Bool := false
  /-- R172 (06) a marker has swapped a tile in since the sets were last emptied. -/
  active : Bool := false
  /-- R43 (02) the shadow set holds or is being given a tile that no marker has swapped in. -/
  shadowNew : Bool := false
  /-- R43 (02) cycle L of the last load begun. -/
  loadStart : Nat := 0
  /-- R31,R35 (02) array cycle of the last issue slot. -/
  lastIssue : Option Nat := none
  /-- R41 (02) array cycle at which a LOAD began to wait for a buffer half, and the slot limit then. -/
  loadWait : Option (Nat × Nat) := none
  /-- R44 (02) array cycle at which a marker hold began, and the slot limit then. -/
  markWait : Option (Nat × Nat) := none
  deriving DecidableEq, Repr

/-- A directed check in progress (R65). -/
structure Check where
  /-- R65 (02). -/
  quad : Nat := 0
  /-- R65 array cycle at which it began. -/
  start : Nat := 0
  deriving DecidableEq, Repr

/-- The matrix array of a core (02). -/
structure Arr where
  /-- R57,R66 ARR_PART_MODE. -/
  mode : PartMode := .full
  /-- R27 stationary register A of each of the 520 x 520 physical cells, key row line*520+column line, 16 bits + parity. -/
  statA : Tab (BitVec 17) := []
  /-- R27 stationary register B, 16 bits + parity. -/
  statB : Tab (BitVec 17) := []
  /-- R45 (02) the accumulator pool, bank 0 and bank 1, key entry*512+lane. -/
  pool : Vector (Tab AccEntry) 2 := Vector.replicate 2 []
  /-- R57 partitions 0-3. -/
  parts : Vector Part 4 := Vector.replicate 4 {}
  /-- R41,R58 tile buffer of each loader half, at most two tiles (only half 0 in FULL). -/
  tileBuf : Vector (List BufTile) 2 := Vector.replicate 2 []
  /-- R32-R35 issue slots in flight, oldest first. -/
  flights : List Flight := []
  /-- R58 banks closed since reset (order of closing). -/
  closeCount : Nat := 0
  /-- R53 ARR_SPOKE_ROW bytes by row group. -/
  spokeRow : Tab (BitVec 8) := []
  /-- R53 ARR_SPOKE_COL bytes by column group. -/
  spokeCol : Tab (BitVec 8) := []
  /-- R63,R467 ARR_SUSPECT NW NE SW SE. -/
  suspect : BitVec 4 := 0
  /-- R36,R50 (02) array cycles in which this array has advanced. -/
  now : Nat := 0
  /-- R31 (02) the first array cycle whose issue slots are still to be used: that of the present tick. -/
  tickFrom : Nat := 0
  /-- R55,R65 localised lines awaiting the spoke-map rewrite: column?, logical line, quadrant. -/
  respare : List (Bool × Nat × Nat) := []
  /-- R55 array cycle at which the running rewrite began. -/
  rewriteAt : Option Nat := none
  /-- R55 admission held at a marker for the rewrite. -/
  rewriteHold : Bool := false
  /-- R65 directed check in progress. -/
  check : Option Check := none
  /-- R64,R467 ARR_HARD_WINDOW.MS. -/
  hardWindow : BitVec 22 := 10000
  /-- R64,R66 tick of the hard fault that opened the window; ARR_HARD_FIRST. -/
  hardFirst : Option Nat := none
  /-- R64 W of the open window, ms. -/
  hardW : Nat := 0
  /-- R66 ARR_BUBBLE_COUNT 64 bits. -/
  bubbles : Nat := 0
  /-- R66 ARR_SWAP_COUNT 64 bits. -/
  swaps : Nat := 0
  /-- R66 ARR_MARKER_HOLD 64 bits. -/
  markerHold : Nat := 0
  deriving DecidableEq, Repr

/-- Row accesses of one port, one a cycle: the rows from `row` on, in the cycles from `start` on (R100). -/
structure ScrAcc where
  /-- R101,R102 (04) the schedule fixed them and its cycles are counted; else array cycles. -/
  sched : Bool := false
  /-- R100. -/
  start : Nat := 0
  /-- R98. -/
  row : Nat := 0
  /-- R100 rows. -/
  n : Nat := 1
  /-- R100; 12 the fix-up queue, 13 the scrubber, 14 a held fix-up entry, which have no port. -/
  port : Nat := 0
  /-- R102. -/
  task : Nat := 0
  deriving DecidableEq, Repr

/-- A fix-up queue entry (R104): bank and row (as address bits [25:9]) and the corrected 512 bytes. -/
structure FixEnt where
  /-- R104 (04). -/
  row : Nat := 0
  /-- R104 (04). -/
  data : List (BitVec 8) := []
  deriving DecidableEq, Repr

/-- The observation window of R108 for one scratchpad bank. -/
structure BankWin where
  /-- R108 (04). -/
  start : Nat := 0
  /-- R108 ms. -/
  w : Nat := 0
  /-- R108 distinct rows found uncorrectable inside it. -/
  rows : List Nat := []
  deriving DecidableEq, Repr

/-- An armed SCR_INJECT injection (R130, R467). -/
structure ScrInj where
  /-- R467 (15). -/
  row : Nat := 0
  /-- R467. -/
  word : Nat := 0
  /-- R467. -/
  double : Bool := false
  deriving DecidableEq, Repr

/-- One buffer of a slot (R118): its state, the tokens received, and the claims and acquisitions outstanding. -/
structure SlotBuf where
  /-- R118 (04). -/
  st : BufSt := .empty
  /-- R467 (15) fill tokens received this fill. -/
  fills : Nat := 0
  /-- R467 release tokens received this read. -/
  rels : Nat := 0
  /-- R118 claims granted this fill. -/
  claims : Nat := 0
  /-- R118 acquisitions granted this read. -/
  acqs : Nat := 0
  /-- R192 the epoch of the speculative claim that began this fill, 0 for none. -/
  epoch : BitVec 16 := 0
  /-- R194 FULL and marked névé. -/
  neve : Bool := false
  /-- R338 (10) hop count of a ring-slot buffer. -/
  hop : Nat := 0
  /-- R338 (10) the ring relay has taken this fill. -/
  relayed : Bool := false
  deriving DecidableEq, Repr

/-- A slot's state (R118, R126, R192). -/
structure SlotSt where
  /-- R118 (04) buffers 0-3. -/
  bufs : Vector SlotBuf 4 := Vector.replicate 4 {}
  /-- R118,R467 write pointer; of a versioned slot the névé buffer. -/
  wp : Nat := 0
  /-- R118,R467 read pointer; of a versioned slot the firn buffer. -/
  rp : Nat := 0
  /-- R467 firn buffer of a versioned slot. -/
  firn : Nat := 0
  /-- R192,R467 epoch the slot belongs to, 0 none. -/
  epoch : BitVec 16 := 0
  /-- R497 first buffer the epoch claimed on the slot. -/
  firstClaim : Option Nat := none
  /-- R497 the read pointer has passed it. -/
  rpPassed : Bool := false
  /-- R497 where the write pointer stood before a cancellation moved it back. -/
  resume : Option Nat := none
  deriving DecidableEq, Repr

/-- A waiting slot request (R121, R122). -/
structure SlotWait where
  /-- R121 (04) acquisition, else claim. -/
  acq : Bool := true
  /-- R121. -/
  slot : Nat := 0
  /-- R120,R498 who waits. -/
  rq : Requester := .none
  /-- R192. -/
  epoch : BitVec 16 := 0
  /-- R194 wants the névé version. -/
  neve : Bool := false
  /-- R123 the waiting engine's task. -/
  task : Nat := 0
  /-- R122 array cycle w in which the wait began. -/
  start : Nat := 0
  /-- R122 N as read in cycle w. -/
  limit : Nat := 0
  /-- R111,R121 a scheduled engine: a stall cause. -/
  sched : Bool := false
  /-- R266 a lender has refused: no lending for this claim. -/
  noLend : Bool := false
  deriving DecidableEq, Repr

/-- The scratchpad of a core (04). -/
structure Scr where
  /-- R98 (04) 64 MiB, key byte address; a row no engine has written reads 0 (R127). -/
  data : List Host.Cell := []
  /-- R103 upset bits of the stored code words, key row*128+word. -/
  flips : Tab (BitVec 39) := []
  /-- R107 poison map, one bit per row. -/
  poison : Tab Bool := []
  /-- R104 fix-up queue, at most 16, oldest first. -/
  fixups : List FixEnt := []
  /-- R106 holding register, at most 8. -/
  held : List FixEnt := []
  /-- R467 SCR_FIXUP_DEPTH.HIGH. -/
  fixHigh : Nat := 0
  /-- R103 row data last delivered at each port. -/
  portData : Tab (List (BitVec 8)) := []
  /-- R122,R132 SCR_SLOT_LIMIT. -/
  slotLimit : BitVec 24 := 65536
  /-- R109,R132 SCR_SCRUB_INTERVAL ms. -/
  scrubInterval : BitVec 12 := 4000
  /-- R109,R132 interval in force for the running sweep. -/
  scrubMs : Nat := 4000
  /-- R109,R467 SCR_SCRUB_STATUS.ROW. -/
  scrubRow : Nat := 0
  /-- R110,R467 SCR_SCRUB_STATUS.LATE. -/
  scrubLate : Bool := false
  /-- R467 SCR_SCRUB_STATUS.SWEEPS 32 bits. -/
  scrubSweeps : Nat := 0
  /-- R109 ns of running array clock in this interval. -/
  scrubNs : Nat := 0
  /-- R132 SCR_CE_COUNT 64 bits. -/
  ceCount : Nat := 0
  /-- R132 SCR_UE_COUNT 64 bits. -/
  ueCount : Nat := 0
  /-- R467 SCR_UE_LAST row as address bits [25:9]. -/
  ueLast : Option Nat := none
  /-- R113 SCR_STALL_TOTAL 64 bits. -/
  stallTotal : Nat := 0
  /-- R113 SCR_STALL_FIXUP 64 bits. -/
  stallFixup : Nat := 0
  /-- R113 SCR_STALL_SLOT 64 bits. -/
  stallSlot : Nat := 0
  /-- R122 SCR_CLAIM_REFUSED 32 bits. -/
  claimRefused : Nat := 0
  /-- R461 SCR_FAULT. -/
  fault : BitVec 8 := 0
  /-- R130 armed injection. -/
  inject : Option ScrInj := none
  /-- R100,R101,R102 row accesses of the present cycle and of those after it. -/
  accs : List ScrAcc := []
  /-- R106,R111 a held fix-up entry was found at the start of the present cycle that cannot enter the queue. -/
  fixStall : Bool := false
  /-- R108 observation window of each bank. -/
  wins : Tab (Option BankWin) := []
  /-- R115,R118 slot states, key slot 0-1023; SCR_SLOT_STATE. -/
  slots : Tab SlotSt := []
  /-- R121 waiting claims and acquisitions. -/
  waits : List SlotWait := []
  deriving DecidableEq, Repr

/-- A descriptor the movement engine holds (R134, R149). -/
structure Flying where
  /-- R135 (05) as patched by R169. -/
  desc : BitVec 1024 := 0
  /-- R138 issuing task. -/
  task : Nat := 0
  /-- R498 its place among those in flight. -/
  place : Nat := 0
  /-- R134 admission order. -/
  order : Nat := 0
  /-- R193 spec ID its writes, claims and tokens carry. -/
  epoch : BitVec 16 := 0
  /-- R169,R194 SRC_VER. -/
  srcVer : Bool := false
  /-- R169,R498 source base; on a slot's side, the offset until a buffer is granted. -/
  srcBase : Nat := 0
  /-- R169,R498 destination base, likewise. -/
  dstBase : Nat := 0
  /-- R149 granted source buffer. -/
  srcBuf : Option Nat := none
  /-- R149 granted destination buffer. -/
  dstBuf : Option Nat := none
  /-- R498 BUF_BASE of the granted destination buffer. -/
  dstBufBase : Nat := 0
  /-- R147,R148 plain, in place or staged. -/
  path : MovePath := .plain
  /-- R144 the model's serial number of its transfer group. -/
  grp : Nat := 0
  /-- R149,R498 remote acknowledgements outstanding. -/
  acksDue : Nat := 0
  /-- R144 its data elements have been written. -/
  written : Bool := false
  deriving DecidableEq, Repr

/-- A command in the access queue (R181): a MOVE waiting to become a descriptor. -/
structure AccCmd where
  /-- R169 (06) the descriptor MOVE built. -/
  desc : BitVec 1024 := 0
  /-- R169 patched source base, exact. -/
  srcBase : Nat := 0
  /-- R169 patched destination base, exact. -/
  dstBase : Nat := 0
  /-- R181. -/
  task : Nat := 0
  /-- R169. -/
  srcVer : Bool := false
  deriving DecidableEq, Repr

/-- A data-written descriptor of a transfer group, kept until the group completes (R144, R145). -/
structure GroupRec where
  /-- R144 (05). -/
  fl : Flying := {}
  /-- R498 place its pads' messages name while they are unacknowledged. -/
  place : Option Nat := none
  /-- R144 its pad and FILL elements have been written. -/
  padded : Bool := false
  /-- R151 a fault stopped it: its group posts no fill token. -/
  stopped : Bool := false
  deriving DecidableEq, Repr

/-- One entry of a decoupled token queue (R158). -/
structure Tok where
  /-- R158 (05). -/
  slot : Nat := 0
  /-- R158. -/
  buf : Nat := 0
  /-- R158 kind. -/
  fill : Bool := true
  /-- R193. -/
  epoch : BitVec 16 := 0
  /-- R124 the task that posted it. -/
  task : Nat := 0
  /-- R124 its core. -/
  core : Nat := 0
  /-- R158 the engine that posted it: 0 access, 1 execute, 2 update. -/
  engine : Nat := 0
  /-- R158 array cycle at which its wait for a full queue began. -/
  start : Nat := 0
  /-- R158 SCR_SLOT_LIMIT then. -/
  limit : Nat := 0
  deriving DecidableEq, Repr

/-- The movement engine of a core (05). -/
structure Mov where
  /-- R156,R467 MOV_MODE.MODE, 1 decoupled. -/
  mode : Bool := false
  /-- R156,R467 MOV_MODE.GANG. -/
  gang : BitVec 8 := 0
  /-- R157,R160 MOV_PF_DEPTH. -/
  pfDepth : BitVec 7 := 64
  /-- R157,R160 MOV_PF_BUDGET in 256 KiB units, 1-64. -/
  pfBudget : BitVec 7 := 16
  /-- R157 sectors fetched by prefetch and not yet read. -/
  pfSectors : List Nat := []
  /-- R157 sectors whose prefetch was dropped because it would have faulted. -/
  pfSkip : List Nat := []
  /-- R181 access engine queue, at most 64. -/
  queue : List AccCmd := []
  /-- R134 descriptors in flight by place 0-15. -/
  flying : Tab (Option Flying) := []
  /-- R134 descriptors admitted. -/
  order : Nat := 0
  /-- R144 GROUP of the open transfer group. -/
  groupId : Option (BitVec 12) := none
  /-- R144 the model's serial number of the last group opened. -/
  grp : Nat := 0
  /-- R144 descriptors in the open group 0-64. -/
  groupCount : Nat := 0
  /-- R144 descriptors of uncompleted groups whose data is written. -/
  groupDone : List GroupRec := []
  /-- R158 fill token queue, at most 64. -/
  fillQ : List Tok := []
  /-- R158 release token queue, at most 64. -/
  relQ : List Tok := []
  /-- R158 tokens whose engines hold them until this core's queue of their kind has room. -/
  tokWait : List Tok := []
  /-- R160 MOV_BYTES 64 bits. -/
  bytes : Nat := 0
  /-- R160 MOV_HALF_RATE_BYTES 64 bits. -/
  halfBytes : Nat := 0
  /-- R160 MOV_TURN_BYTES 64 bits. -/
  turnBytes : Nat := 0
  /-- R160 MOV_INPLACE_COUNT 32 bits. -/
  inplace : Nat := 0
  /-- R160 MOV_STAGED_COUNT 32 bits. -/
  staged : Nat := 0
  /-- R461 MOV_FAULT. -/
  fault : BitVec 5 := 0
  /-- R467 MOV_LAST_REFUSED.TAG. -/
  lastTag : BitVec 16 := 0
  /-- R467 MOV_LAST_REFUSED.CODE. -/
  lastCode : BitVec 16 := 0
  deriving DecidableEq, Repr

/-- A work-queue or run-list entry as admitted (R177). -/
structure WqEntry where
  /-- R177 (06) TASK_ID. -/
  tid : Nat := 0
  /-- R177. -/
  specEn : Bool := false
  /-- R177. -/
  specId : BitVec 16 := 0
  /-- R177. -/
  ctag : BitVec 16 := 0
  /-- R177. -/
  a1 : BitVec 32 := 0
  /-- R177. -/
  a2 : BitVec 32 := 0
  /-- R177. -/
  a3 : BitVec 32 := 0
  deriving DecidableEq, Repr

/-- A granted acquisition or claim a task holds on a slot (R168, R188). -/
structure Hold where
  /-- R168 (06). -/
  slot : Nat := 0
  /-- R168. -/
  buf : Nat := 0
  /-- R168 acquisition, else claim. -/
  acq : Bool := true
  /-- R168 its REL or FILL has been posted. -/
  posted : Bool := false
  /-- R188 inherited, awaiting reuse by the retry. -/
  inherit : Bool := false
  deriving DecidableEq, Repr

/-- A buffer kept when a descriptor stopped, for the retry's MOVE on the slot (R187, R188). -/
structure MoveHold where
  /-- R188 (06) acquisition, else claim. -/
  acq : Bool := true
  /-- R188. -/
  core : Nat := 0
  /-- R150 module of a remote claim. -/
  module : Option Nat := none
  /-- R188. -/
  slot : Nat := 0
  /-- R188. -/
  buf : Nat := 0
  /-- R498 BUF_BASE of a remote claim. -/
  base : Nat := 0
  deriving DecidableEq, Repr

/-- A task admitted on a core (06), from its admission to the sending of its end. -/
structure Task where
  /-- R179 (06) the model's own serial number of the admission. -/
  key : Nat := 0
  /-- R179 queue 0-3 it came from. -/
  queue : Nat := 0
  /-- R176 run-list position or ring count of its entry. -/
  pos : Nat := 0
  /-- R177. -/
  entry : WqEntry := {}
  /-- R163 task header. -/
  hdr : BitVec 128 := 0
  /-- R162 index of its first command word in WORDS. -/
  first : Nat := 0
  /-- R163 PART_MASK. -/
  parts : BitVec 4 := 0
  /-- R191 epoch it is bound to, 0 none. -/
  epoch : BitVec 16 := 0
  /-- R175,R196 clip factor. -/
  clip : BitVec 32 := 0x3F800000
  /-- R182 commands issued, in program order. -/
  pc : Nat := 0
  /-- R182 next command index of each engine. -/
  engPc : Vector Nat 4 := Vector.replicate 4 0
  /-- R164 task clock. -/
  clock : Nat := 0
  /-- R181 schedule base at its admission. -/
  base : Nat := 0
  /-- R183 bases since then, latest first: the index from which each counts, and the base. -/
  bases : List (Nat × Nat) := []
  /-- R164,R183,R185 running, at a barrier, waiting for a marker, ended. -/
  st : TaskSt := .running
  /-- R184 arrival tick at a barrier, or of a WAIT_MARKER. -/
  barTick : Nat := 0
  /-- R184 limit read at arrival, ms. -/
  barLimit : Nat := 0
  /-- R183. -/
  barId : Nat := 0
  /-- R183. -/
  barScope : Nat := 0
  /-- R183 FILLER bit of the barrier. -/
  barFiller : Bool := false
  /-- R168,R188 acquisitions and claims. -/
  holds : List Hold := []
  /-- R187,R188 buffers kept from stopped descriptors. -/
  moveHolds : List MoveHold := []
  /-- R186 END has issued. -/
  ended : Bool := false
  /-- R188 times retried. -/
  retries : Nat := 0
  /-- R188 fault code it ended on. -/
  code : BitVec 16 := 0
  /-- R198 admission order in its epoch. -/
  order : Nat := 0
  /-- R251 ceiling hits of its UPDATEs. -/
  ceil : Nat := 0
  /-- R415,R416 step it was admitted in. -/
  step : BitVec 32 := 0
  deriving DecidableEq, Repr

/-- A command in the update queue (R181). -/
structure UpdCmd where
  /-- R181 (06). -/
  task : Nat := 0
  /-- R175. -/
  word : BitVec 128 := 0
  deriving DecidableEq, Repr

/-- An epoch place of a core (R191). -/
structure Epoch where
  /-- R191 (06) SEQ_SPEC_OPEN.IDn. -/
  id : BitVec 16 := 0
  /-- R191,R468 SEQ_STATUS.PLACEn. -/
  st : EpochSt := .free
  /-- R196. -/
  clip : BitVec 32 := 0x3F800000
  /-- R191 order of opening. -/
  seq : Nat := 0
  /-- R185 step in force when it opened. -/
  step : BitVec 32 := 0
  /-- R200 tasks counted against capacity. -/
  counted : Nat := 0
  /-- R203 array cycle of its last SETTLE or DISCARD. -/
  tokenCycle : Nat := 0
  /-- R186,R198 its admitted tasks in order: queue, run-list position and entry. -/
  admitted : List (Nat × Nat × WqEntry) := []
  /-- R201 holds a task ended on a fault neither retried nor replayed. -/
  faulted : Bool := false
  /-- R251 ceiling hits. -/
  ceil : Nat := 0
  /-- R198 reruns still to re-admit. -/
  rerunLeft : List (Nat × Nat × WqEntry) := []
  /-- R198 the epoch rerun, while its discard has not completed. -/
  rerunOf : BitVec 16 := 0
  /-- R198 its discard is followed by an OPEN without RERUN: what its tasks hold is given up when the discard completes. -/
  unwanted : Bool := false
  deriving DecidableEq, Repr

/-- An OPEN token held until a place is free (R191, R198). -/
structure HeldOpen where
  /-- R196 (06). -/
  tok : BitVec 64 := 0
  /-- R198 tasks of the discard it followed, if one did. -/
  old : Option (List (Nat × Nat × WqEntry)) := none
  /-- R198 the epoch discarded. -/
  oldId : BitVec 16 := 0
  deriving DecidableEq, Repr

/-- A host work queue WQ1-WQ3 (R176). -/
structure Wq where
  /-- R176,R203 SEQ_WQn_BASE. -/
  base : BitVec 41 := 0
  /-- R176,R203 SEQ_WQn_SIZE_HEAD [3:0]. -/
  log2 : BitVec 4 := 4
  /-- R434 head count. -/
  head : BitVec 16 := 0
  /-- R434 last TAIL accepted. -/
  tail : BitVec 16 := 0
  deriving DecidableEq, Repr

/-- A completion entry waiting for room (R178). -/
structure Cqe where
  /-- R178 (06). -/
  word : BitVec 128 := 0
  deriving DecidableEq, Repr

/-- A retire record kept by the steward (R186). -/
structure RetireRec where
  /-- R186 (06). -/
  queue : Nat := 0
  /-- R186. -/
  pos : Nat := 0
  /-- R186. -/
  tid : Nat := 0
  /-- R186. -/
  epoch : BitVec 16 := 0
  /-- R186. -/
  a1 : BitVec 32 := 0
  /-- R186. -/
  a2 : BitVec 32 := 0
  /-- R186. -/
  a3 : BitVec 32 := 0
  deriving DecidableEq, Repr

/-- The core sequencer (06). -/
structure Seq where
  /-- R111 (04) schedule counter. -/
  sched : Nat := 0
  /-- R111 a uniform stall is in force. -/
  stalled : Bool := false
  /-- R176 WQ1-WQ3. -/
  wqs : Vector Wq 3 := Vector.replicate 3 {}
  /-- R176 position of WQ0 in the run list. -/
  runPos : Nat := 0
  /-- R176 the run list has been read to its end since the last marker taken. -/
  runWrapped : Bool := false
  /-- R178,R203 SEQ_CQ_BASE. -/
  cqBase : BitVec 41 := 0
  /-- R178,R468 SEQ_CQ_CTRL.LOG2. -/
  cqLog2 : BitVec 4 := 4
  /-- R178,R468 SEQ_CQ_CTRL.HEAD. -/
  cqHead : BitVec 12 := 0
  /-- R178,R468 SEQ_CQ_CTRL.TAIL. -/
  cqTail : BitVec 12 := 0
  /-- R178 held completions, oldest first. -/
  cqHeld : List Cqe := []
  /-- R179 tasks admitted and not ended, in admission order. -/
  tasks : List Task := []
  /-- R188 tasks ended on a retryable fault, waiting at the head of their queue. -/
  retryQ : List Task := []
  /-- R188 halted tasks (partition or lane). -/
  halted : List Task := []
  /-- R179 admissions so far (the model's serial). -/
  keyCtr : Nat := 0
  /-- R181 update engine queue, at most 64. -/
  updQ : List UpdCmd := []
  /-- R191 two epoch places. -/
  epochs : Vector Epoch 2 := Vector.replicate 2 {}
  /-- R191 OPEN tokens held for a place, each with what its RERUN names (R198). -/
  heldOpens : List HeldOpen := []
  /-- R191 epochs opened. -/
  epochSeq : Nat := 0
  /-- R198 the last discarded epoch's tasks, when its discard followed the previous OPEN. -/
  lastDisc : Option (List (Nat × Nat × WqEntry)) := none
  /-- R198. -/
  lastDiscId : BitVec 16 := 0
  /-- R198 speculative run-list entries are skipped up to the next STEP_START. -/
  skipping : Bool := false
  /-- R185,R416 steps of the markers received that no STEP_START entry of WQ0 has taken. -/
  q0Steps : List (BitVec 32) := []
  /-- R415 step WQ0 is working on. -/
  wq0Step : BitVec 32 := 0
  /-- R185 a marker that WQ1-WQ3 (bits 1-3) have not taken. -/
  hostMark : BitVec 4 := 0
  /-- R185 the tails of WQ1-WQ3 at that marker: it is for entries queued before it. -/
  markTails : Vector (BitVec 16) 3 := Vector.replicate 3 0
  /-- R185 epochs that had a task counted against capacity at the marker tick. -/
  prevEpochs : List (BitVec 16) := []
  /-- R416 steps whose retired run-list entries are passed over after a fence. -/
  replaySteps : List (BitVec 32) := []
  /-- R416 tasks ended by a FENCE swap or a discard, whose holds their replays inherit. -/
  inherit : List Task := []
  /-- R200,R203 SEQ_SPEC_WAIT_LIMIT ms. -/
  specWaitLimit : BitVec 16 := 1000
  /-- R184,R203 SEQ_BARRIER_LIMIT ms. -/
  barrierLimit : BitVec 16 := 1000
  /-- R200 per queue: tick w and limit of a speculative head's wait. -/
  specWait : Tab (Option (Nat × Nat)) := []
  /-- R203 SEQ_NS_CLIP. -/
  nsClip : BitVec 32 := 0x3F800000
  /-- R196,R468 SEQ_TOKEN_SRC.SOURCES. -/
  tokenSrc : BitVec 3 := 0
  /-- R185,R203 SEQ_STEP 64 bits. -/
  stepCount : Nat := 0
  /-- R203 SEQ_NEXT_MARKER 64 bits. -/
  nextMarker : Nat := 0
  /-- R196 SEQ_TOKEN_DROPPED 32 bits. -/
  tokDropped : Nat := 0
  /-- R199 SEQ_SPEC_DROPPED 32 bits. -/
  specDropped : Nat := 0
  /-- R203 SEQ_FLIP_CYCLES 32 bits. -/
  flipCycles : Nat := 0
  /-- R468 SEQ_LAST_END. -/
  lastEnd : BitVec 48 := 0
  /-- R461 SEQ_FAULT. -/
  fault : BitVec 7 := 0
  /-- R186 last 64 retire records, kept by the steward. -/
  retired : List RetireRec := []
  /-- R200,R468 SEQ_SPEC_CAP.SPEC_TASKS. -/
  specTasks : Nat := 0
  deriving DecidableEq, Repr

/-- Update engine and gauge (08). -/
structure Upd where
  /-- R255,R271 UPD_STEP. -/
  step : BitVec 32 := 0
  /-- R468 UPD_STATUS.BUSY. -/
  busy : Bool := false
  /-- R468 UPD_STATUS.PROFILE. -/
  profile : BitVec 6 := 0
  /-- R468 UPD_STATUS.SPEC_ID. -/
  specId : BitVec 16 := 0
  /-- R271 UPD_ELEMENTS 64 bits. -/
  elements : Nat := 0
  /-- R271 UPD_SR_AWAY 64 bits. -/
  srAway : Nat := 0
  /-- R251,R271 UPD_CEIL_HITS 32 bits. -/
  ceilHits : Nat := 0
  /-- R256,R271 UPD_NONFINITE 32 bits. -/
  nonfinite : Nat := 0
  /-- R461 UPD_FAULT. -/
  fault : BitVec 3 := 0
  /-- R271 GAUGE_CTRL.ENABLE. -/
  gaugeEn : Bool := true
  /-- R271 GAUGE_FLUSHES 32 bits. -/
  gaugeFlushes : Nat := 0
  /-- R241 (08) scale table, 16 bytes per tensor ID. -/
  scaleTable : Tab (BitVec 128) := []
  /-- R271 SCALE_TABLE_STEP. -/
  scaleStep : BitVec 32 := 0
  deriving DecidableEq, Repr

/-- A working row that is not NORMAL (R219). -/
structure RowSt where
  /-- R219 (07). -/
  st : RowState := .normal
  /-- R219 remaps done. -/
  depth : Nat := 0
  /-- R219 spare rows of its chain, the last one in use. -/
  spares : List Nat := []
  deriving DecidableEq, Repr

/-- One entry of a channel's corrected-error tracker (R218). -/
structure CeEnt where
  /-- R218 (07) bank*65536+row. -/
  row : Nat := 0
  /-- R218. -/
  count : Nat := 0
  /-- R218 order of entry. -/
  age : Nat := 0
  deriving DecidableEq, Repr

/-- One Limane stack, its controller and pannier adder (07). -/
structure Stack where
  /-- R235,R469 STK_STATUS.STATE. -/
  st : StkSt := .training
  /-- R205,R469 STK_STATUS.HOT. -/
  hot : Bool := false
  /-- R214,R235 STK_QUOTA. -/
  quota : BitVec 7 := 24
  /-- R219,R235 STK_REMAP_POLICY. -/
  defer : Bool := false
  /-- R218,R235 STK_CE_ROW_LIMIT. -/
  ceLimit : BitVec 8 := 4
  /-- R210,R235 STK_PATROL_INTERVAL s. -/
  patrol : BitVec 20 := 86400
  /-- R235 interval in force for the running sweep. -/
  patrolNow : Nat := 86400
  /-- R210 next sector of the patrol sweep. -/
  patrolPos : Nat := 0
  /-- R210 patrol sweeps done. -/
  patrolSweeps : Nat := 0
  /-- R217,R394 stack in self-refresh. -/
  selfRefresh : Bool := false
  /-- R212 ingress, at most 1,024, oldest first. -/
  ingress : List StkReq := []
  /-- R212 request slots, at most 512. -/
  slots : List StkReq := []
  /-- R212 requests entered. -/
  reqCtr : Nat := 0
  /-- R215 open row + 1 of each bank, key channel*32+bank. -/
  openRow : Tab Nat := []
  /-- R217 refreshes owed of each bank 0-8. -/
  owed : Tab Nat := []
  /-- R217 refreshes pulled in ahead 0-8. -/
  ahead : Tab Nat := []
  /-- R219 rows, key (channel*32+bank)*65536+row. -/
  rows : Tab RowSt := []
  /-- R219 next spare index of each bank, 64 per bank. -/
  spareUsed : Tab Nat := []
  /-- R220 defective spares, key (channel*32+bank)*64+spare. -/
  spareBad : Tab Bool := []
  /-- R218 tracker of 64 rows per channel. -/
  tracker : Tab (List CeEnt) := []
  /-- R218. -/
  trackAge : Nat := 0
  /-- R220 rows waiting for the remap engine, in order of failure. -/
  copyQ : List Nat := []
  /-- R220 rows being copied, at most 16, one per channel. -/
  copies : List Nat := []
  /-- R222 RETIRING pages with cause, oldest first. -/
  retiring : List (Nat × BitVec 3) := []
  /-- R222,R223 RETIRED pages. -/
  retired : List Nat := []
  /-- R235 STK_CE_COUNT 64 bits. -/
  ceCount : Nat := 0
  /-- R235 STK_UE_COUNT 64 bits. -/
  ueCount : Nat := 0
  /-- R235 STK_UE_LAST. -/
  ueLast : BitVec 41 := 0
  /-- R469 STK_SLOT_USE.HIGH. -/
  slotHigh : Nat := 0
  /-- R235 STK_PROMOTED 64 bits. -/
  promotedCt : Nat := 0
  /-- R469 STK_QUOTA_FULL. -/
  quotaFull : BitVec 32 := 0
  /-- R205,R216 tick at which a bank's error retries end. -/
  retryTill : Tab Nat := []
  /-- R22 the steward has stopped admitting to the stack and reported its fault; the channel that failed. -/
  stopped : Option Nat := none
  /-- R224 remapped or RETIRING rows not yet in flash, with the tick their record falls due. -/
  dueRows : List (Nat × Nat) := []
  /-- R224 defective spares not yet in flash, with the tick their record falls due. -/
  dueSpares : List (Nat × Nat) := []
  /-- R235 STK_PAN_OPS 64 bits. -/
  panOps : Nat := 0
  /-- R235 STK_PAN_REFUSED 32 bits. -/
  panRefused : Nat := 0
  /-- R228 a mirrored region has lost its copy here (reported). -/
  degraded : Bool := false
  /-- R461 STK_FAULT. -/
  fault : BitVec 10 := 0
  /-- R235 armed injection: sector address, double. -/
  inject : Option (Nat × Bool) := none
  /-- R212 data of the last read served. -/
  lastData : List (BitVec 8) := []
  deriving DecidableEq, Repr

/-- One way of a tier-cache set (R152). -/
structure TcLine where
  /-- R152 (05) A[39:20]. -/
  tag : Nat := 0
  /-- R152 valid bit of each sector. -/
  valid : BitVec 4 := 0
  /-- R152 dirty bit of each sector. -/
  dirty : BitVec 4 := 0
  /-- R161 sectors fetched by prefetch and not yet read. -/
  pf : BitVec 4 := 0
  deriving DecidableEq, Repr

/-- A moraine entry's record (R262). -/
structure MorEntry where
  /-- R262 (08). -/
  core : Nat := 0
  /-- R262. -/
  slot : Nat := 0
  /-- R262. -/
  seq : Nat := 0
  /-- R262. -/
  st : MorSt := .free
  /-- R262. -/
  recomp : Bool := false
  /-- R262. -/
  step : BitVec 32 := 0
  /-- R262 local address. -/
  addr : Nat := 0
  /-- R262. -/
  lender : Nat := 0
  /-- R262 bytes. -/
  size : Nat := 0
  /-- R262 claim order. -/
  order : Nat := 0
  /-- R118,R261 claims granted on it. -/
  claims : Nat := 0
  /-- R118,R261 fill tokens received. -/
  fills : Nat := 0
  /-- R118,R261 acquisitions granted on it. -/
  acqs : Nat := 0
  /-- R118,R261 release tokens received. -/
  rels : Nat := 0
  /-- R265. -/
  lost : Bool := false
  /-- R263,R266 asked for a loan, being copied to the lender, or on its way back. -/
  lend : LendSt := .none
  /-- R266 acknowledgements or bytes still due of that copy. -/
  acksDue : Nat := 0
  /-- R262 the lender's address. -/
  far : Nat := 0
  /-- R262 place in the ring of 65,536 records. -/
  ring : Nat := 0
  /-- R266 the claim, with its core, for which a loan has been asked. -/
  asker : Option (Nat × SlotWait) := none
  deriving DecidableEq, Repr

/-- A span held for a borrower (R266). -/
structure LoanSpan where
  /-- R266 (08). -/
  borrower : Nat := 0
  /-- R266. -/
  base : Nat := 0
  /-- R266. -/
  mib : Nat := 0
  /-- R266 acknowledgements due of its return. -/
  acksDue : Nat := 0
  /-- R266 its contents are on their way back. -/
  returning : Bool := false
  /-- R266 the borrower's address they go to. -/
  dest : Nat := 0
  /-- R498 the manager's tag on them, none while they wait for one. -/
  tag : Option Nat := none
  deriving DecidableEq, Repr

/-- A half-die: steward, fabric, tier cache, chainring, lead and moraine manager (01, 05, 08, 12). -/
structure Half where
  /-- R398 (13) rails, PLL and fabric up. -/
  up : Bool := false
  /-- R21,R24 (01) its direction of the bridge is open. -/
  bridgeOpen : Bool := false
  /-- R21 (01) bridge-stall counter of the sending steward. DESIGN CHOICE (log entry 59, unsafe): the manual gives it no unit; here it counts the
  bridge's fabric cycles in which traffic waits. -/
  bridgeStall : Nat := 0
  /-- R21 (01) bytes given to the bridge and not yet carried, 4,096 of them leaving in each fabric cycle. -/
  bridgeBytes : Nat := 0
  /-- R21 (01) requests backed up in this half's fabric before the bridge, oldest first. -/
  bridgeQ : List StkReq := []
  /-- R21,R370 (01,12) fraction of a fabric cycle, in 1/4000. -/
  fabAcc : Nat := 0
  /-- R370 (12) array cycles counted. -/
  arrCycle : Nat := 0
  /-- R370 fraction of an array cycle accumulated, in 1/12000. -/
  arrAcc : Nat := 0
  /-- R152 (05) tier cache, key set*16+way. -/
  tc : Tab TcLine := []
  /-- R152 tree pseudo-LRU bits of each set. -/
  tcLru : Tab (BitVec 15) := []
  /-- R161 TC_HITS 64 bits. -/
  tcHits : Nat := 0
  /-- R161 TC_MISSES 64 bits. -/
  tcMisses : Nat := 0
  /-- R161 TC_PF_FILLS 64 bits. -/
  tcPfFills : Nat := 0
  /-- R161 TC_PF_WASTED 64 bits. -/
  tcPfWasted : Nat := 0
  /-- R161 TC_CE_COUNT 64 bits. -/
  tcCe : Nat := 0
  /-- R161 TC_UE_COUNT 32 bits. -/
  tcUe : Nat := 0
  /-- R161 TC_UE_LAST. -/
  tcUeLast : BitVec 41 := 0
  /-- R461 TC_FAULT. -/
  tcFault : BitVec 1 := 0
  /-- R155 symbol upsets of cached sectors, key sector. -/
  tcErr : Tab (Tab (BitVec 16)) := []
  /-- R415 (13) retired sets by step parity, 2^24 bits each. -/
  retSets : Vector (Tab Bool) 2 := Vector.replicate 2 []
  /-- R261 entries of the step placed, key core*1024+slot. -/
  morClaims : Tab Nat := []
  /-- R261 acquisitions of the step granted, key core*1024+slot. -/
  morAcqs : Tab Nat := []
  /-- R262 (08) records of this half's moraine manager. -/
  morEntries : List MorEntry := []
  /-- R272 MOR_HIGH. -/
  morHigh : Nat := 0
  /-- R272 MOR_DROPS 32 bits. -/
  morDrops : Nat := 0
  /-- R272 MOR_LENDS 32 bits. -/
  morLends : Nat := 0
  /-- R272 MOR_REBUILDS 32 bits. -/
  morRebuilds : Nat := 0
  /-- R461 MOR_FAULT. -/
  morFault : BitVec 4 := 0
  /-- R262 claims so far, module-wide. -/
  morOrder : Nat := 0
  /-- R262 next ring place. -/
  morRing : Nat := 0
  /-- R266 spans held for borrowers; MOR_LOAN. -/
  loans : List LoanSpan := []
  /-- R272,R469 LEAD_STATUS.STEP. -/
  leadStep : BitVec 32 := 0
  /-- R469 LEAD_STATUS.TENSORS. -/
  leadTensors : Nat := 0
  /-- R469 LEAD_STATUS.US. -/
  leadUs : Nat := 0
  /-- R243 tick at which the running lead began. -/
  leadTick : Nat := 0
  /-- R272 LEAD_CTRL.HOLD. -/
  leadHold : Bool := false
  /-- R243 step of a lead that has run and whose tables are not yet copied. -/
  leadDone : Option Nat := none
  /-- R243 step number of the last marker led. -/
  lastLed : Option Nat := none
  /-- R306 (09) FP_SRC. -/
  fpSrc : BitVec 41 := 0
  /-- R306 FP_LEN. -/
  fpLen : BitVec 41 := 0
  /-- R306 FP_DST. -/
  fpDst : BitVec 41 := 0
  /-- R470 FP_CTRL.BUSY. -/
  fpBusy : Bool := false
  /-- R470 FP_CTRL.REFUSED. -/
  fpRefused : Bool := false
  /-- R470 FP_CTRL.PAGE. -/
  fpPage : BitVec 24 := 0
  /-- R374,R472 (12) CLK_OP_STATUS.GRANTED. -/
  granted : Nat := 7
  /-- R472 CLK_OP_STATUS.RUNNING. -/
  running : Nat := 7
  /-- R472 CLK_OP_STATUS.TARGET. -/
  target : Nat := 7
  /-- R375,R472 CLK_OP_STATUS.SWITCH. -/
  switch : SwSt := .idle
  /-- R375 tick at which the running switch began. -/
  switchTick : Nat := 0
  /-- R380 this commit's hold has been counted. -/
  heldCounted : Bool := false
  /-- R376 (12) only a phase request asks for the running switch. -/
  swPhase : Bool := false
  /-- R376,R387 (12) fall budget of this µs left for a phase-only switch, mW. -/
  fallLeft : Nat := 0
  /-- R472 CLK_OP_STATUS.PLL, 1 is B. -/
  pll : Nat := 1
  /-- R391,R472 CLK_OP_STATUS.EMERG_N. -/
  emergN : Nat := 0
  /-- R397 CLK_OP_LIMIT. -/
  opLimit : BitVec 3 := 0
  /-- R397 CLK_SWITCH_COUNT 32 bits. -/
  switches : Nat := 0
  /-- R397 CLK_DROOP_COUNT 64 bits. -/
  droops : Nat := 0
  /-- R397 CLK_DROOP_CYCLES 64 bits. -/
  droopCycles : Nat := 0
  /-- R397 CLK_DROOP_HELD 32 bits. -/
  droopHeld : Nat := 0
  /-- R379 array gear at /4. -/
  gear4 : Bool := false
  /-- R379 array cycle at which the droop window may end. -/
  droopUntil : Nat := 0
  /-- R380 array cycle before which a commit is held. -/
  commitAfter : Nat := 0
  /-- R378 active PLL lost, domains held low. -/
  pllLost : Bool := false
  /-- R378. -/
  pllLostTick : Nat := 0
  /-- R378 half held at OP7 until the lock check passes. -/
  forced7 : Bool := false
  /-- R378 tick at which the lost PLL relocked (1 ms lock check). -/
  lockTick : Nat := 0
  /-- R390,R472 THM_STATUS.LIMIT. -/
  thermLimit : Nat := 0
  /-- R390 tick of the last change of the limit. -/
  thermTick : Nat := 0
  /-- R390 an episode is in progress. -/
  thermEpisode : Bool := false
  /-- R390 easing. -/
  thermEasing : Bool := false
  /-- R472 THM_STATUS.EPISODES 5 bits. -/
  episodes : Nat := 0
  /-- R472 THM_STATUS.JUNCTION 0.25 °C. -/
  hotJunction : BitVec 12 := 0
  /-- R472 THM_STATUS.STACK 0.25 °C. -/
  hotStack : BitVec 12 := 0
  /-- R372,R375 array rail setpoint in mV. -/
  railMv : Nat := 550
  /-- R461 CLK_FAULT. -/
  clkFault : BitVec 3 := 0
  /-- R382,R472 PWR_CAP_LIMIT.CAP_W or CAP_E. -/
  capLimit : Nat := 0
  /-- R381 D[h], scaling part of the half's estimate, W. -/
  scalingW : Nat := 0
  deriving DecidableEq, Repr

/-- A bucket share on its owner (R294). -/
structure Share where
  /-- R306 (09) place 0-2047 of RED_BUCKET_STATE. -/
  place : Nat := 0
  /-- R470. -/
  bucket : BitVec 32 := 0
  /-- R470. -/
  share : Nat := 0
  /-- R287 current step of the share. -/
  step : BitVec 32 := 0
  /-- R294,R470. -/
  st : ShareSt := .opening
  /-- R298,R470. -/
  round : Nat := 0
  /-- R294. -/
  openTick : Nat := 0
  /-- R299 block and sender of each record received. -/
  gotFrom : List (Nat × Nat) := []
  /-- R298 it waits for the master's rerun order. -/
  awaitRerun : Bool := false
  /-- R470 CLOSE_TICK. -/
  closeTick : Nat := 0
  /-- R290 tick at which the present wait for partials, withdrawals or resends began. -/
  waitTick : Nat := 0
  /-- R290,R306 limit of that wait, µs. -/
  waitLimit : Nat := 0
  /-- R279 anchor of each block. -/
  anchors : Tab Int := []
  /-- R290 CHANNELS received of each block. -/
  chans : Tab Nat := []
  /-- R280 largest M received in records, key block. -/
  recvM : Tab Int := []
  /-- R296 REDUCE_NONFINITE raised. -/
  nfSeen : Bool := false
  /-- R296. -/
  poisoned : Bool := false
  /-- R298 block and rank still to be resent in round 1. -/
  expected : List (Nat × Nat) := []
  /-- R297 block and rank whose withdrawal is awaited. -/
  withdrawing : List (Nat × Nat) := []
  /-- R297 excluded ranks. -/
  excluded : List Nat := []
  /-- R288,R297 the exclusion set has arrived. -/
  exclSet : Bool := false
  /-- R288 the deadline tick has passed. -/
  deadlinePassed : Bool := false
  /-- R297 ranks that sent a non-finite element. -/
  nfRanks : List Nat := []
  /-- R297. -/
  nfReported : Bool := false
  /-- R470 CLOSED blocks closed. -/
  closed : Nat := 0
  deriving DecidableEq, Repr

/-- A bucket the module's sender holds (R275). -/
structure Sender where
  /-- R275 (09). -/
  bucket : BitVec 32 := 0
  /-- R275 acquired buffer of SRC_SLOT. -/
  buf : Nat := 0
  /-- R275 shares reported FINAL or FAILED. -/
  done : List Nat := []
  /-- R275 some share was FAILED. -/
  failed : Bool := false
  deriving DecidableEq, Repr

/-- The reduction machinery and the REDUCE block (09). -/
structure Red where
  /-- R294 shares of this module that are not FINAL or FAILED, at most 2,048. -/
  shares : List Share := []
  /-- R470 RED_BUCKET_STATE places 0-2047 (last share's values). -/
  places : Tab (BitVec 256) := []
  /-- R294,R301 buckets whose share of the current step has ended; true FAILED. -/
  finished : List (Nat × Bool) := []
  /-- R287 (09) buckets whose share of the current step has raised REDUCE_LATE. -/
  lateShares : List Nat := []
  /-- R275 buckets being sent or kept for resends. -/
  senders : List Sender := []
  /-- R306 RED_EPOCH. -/
  epoch : BitVec 32 := 0
  /-- R306 RED_STEP. -/
  step : BitVec 32 := 0
  /-- R306 RED_LATE 64 bits. -/
  late : Nat := 0
  /-- R306 RED_STALE 64 bits. -/
  stale : Nat := 0
  /-- R306 RED_MISSING 64 bits. -/
  missing : Nat := 0
  /-- R306 RED_NONFINITE 64 bits. -/
  nonfinite : Nat := 0
  /-- R306 RED_RERUNS 32 bits. -/
  reruns : Nat := 0
  /-- R306 RED_RIME_FAIL 32 bits. -/
  rimeFail : Nat := 0
  /-- R290,R306 RED_PARTIAL_LIMIT µs. -/
  partialLimit : BitVec 20 := 5000
  /-- R289,R306 deadline shifts of the step: arrival tick and ticks added; RED_DEADLINE_SHIFT is their total. -/
  shifts : List (Nat × Nat) := []
  /-- R301,R470 RED_NORM_STATUS.H. -/
  normH : Int := 0
  /-- R301,R470. -/
  normOver : Bool := false
  /-- R301 16-lane norm partial. -/
  normLanes : Vector Int 16 := Vector.replicate 16 0
  /-- R306,R470 RED_LAST_BLOCK. -/
  lastBlock : BitVec 96 := 0
  /-- R461 RED_FAULT. -/
  fault : BitVec 11 := 0
  /-- R470 RED_STATUS.POISONED. -/
  poisoned : Bool := false
  /-- R470 RED_STATUS.FAILED_FLAG. -/
  failedFlag : Bool := false
  /-- R301 the step's done report has been sent. -/
  doneSent : Bool := false
  /-- R300 FALLBACK by tensor. -/
  fallback : Tab (Option Int) := []
  /-- R300 ANCHOR_RESET (bucket, share). -/
  anchorReset : List (Nat × Nat) := []
  /-- R286 M_t, the step's marker tick. -/
  markerTick : Nat := 0
  /-- R230 what the pannier adders have reported and the gates have not yet taken: lane address, non-finite. -/
  notes : List (Nat × Bool) := []
  /-- R298 rerun orders for shares whose collection has not closed: bucket and anchors named. -/
  orders : List (Nat × List (Nat × Int)) := []
  deriving DecidableEq, Repr

/-- A sequenced flit kept in the replay buffer (R315). -/
structure TxFlit where
  /-- R309 (10) its header as sent. -/
  hdr : BitVec 64 := 0
  /-- R310 248 bytes of a DATA flit before sealing. -/
  plain : List (BitVec 8) := []
  /-- R310 248 bytes as sent. -/
  payload : List (BitVec 8) := []
  deriving DecidableEq, Repr

/-- A message at a transmitter (R314, R325, R327). -/
structure TxMsg where
  /-- R317 (10). -/
  msg : Msg := {}
  /-- R325 credit it needs to begin. -/
  need : Nat := 1
  /-- R325 the port it came by, none for a message of the module's own. -/
  from_ : Option (Fin 18) := none
  /-- R317 flits of it sent. -/
  flits : Nat := 0
  /-- R315 sequence number of its last flit, once sent. -/
  lastSeq : Nat := 0
  deriving DecidableEq, Repr

/-- A received DATA flit waiting for its group's seal, or buffered after it (R310, R313). -/
structure RxFlit where
  /-- R309 (10) its header as received. -/
  hdr : BitVec 64 := 0
  /-- R310 248 bytes: sealed until the tag verifies, plain after it. -/
  payload : List (BitVec 8) := []
  deriving DecidableEq, Repr

/-- A ring relay in progress (R338, R498). -/
structure Relay where
  /-- R338 (10). -/
  ring : Nat := 0
  /-- R338 acquired buffer of the ring slot. -/
  buf : Nat := 0
  /-- R338 its hop count. -/
  hop : Nat := 0
  /-- R498 the relay's tag in REQ_DESC. -/
  tag : Nat := 0
  /-- R338 granted buffer of the successor. -/
  dstBuf : Option Nat := none
  /-- R338 acknowledgements due. -/
  acksDue : Nat := 0
  /-- R498 the refusal that an acknowledgement brought. -/
  code : Option (BitVec 16) := none
  deriving DecidableEq, Repr

/-- One Prifa port (10). -/
structure Port where
  /-- R346,R471 PRF_STATUS.STATE. -/
  st : PortSt := .down
  /-- R398 (13) SerDes calibrated. -/
  calibrated : Bool := false
  /-- R471 PRF_STATUS.PEER_MODULE. -/
  peerModule : BitVec 13 := 0
  /-- R471 PRF_STATUS.PEER_PORT. -/
  peerPort : BitVec 5 := 0
  /-- R471 PRF_STATUS.LANES. -/
  lanes : BitVec 8 := 0
  /-- R346 PRF_FEC_CORR 64 bits. -/
  fecCorr : Nat := 0
  /-- R346 PRF_FEC_UNCORR 64 bits. -/
  fecUncorr : Nat := 0
  /-- R346 PRF_RETRIES 32 bits. -/
  retries : Nat := 0
  /-- R346 PRF_RETRAINS 32 bits. -/
  retrains : Nat := 0
  /-- R346 PRF_TX_FLITS 64 bits. -/
  txFlits : Nat := 0
  /-- R346 PRF_RX_FLITS 64 bits. -/
  rxFlits : Nat := 0
  /-- R346 PRF_KEY_EPOCH 32 bits. -/
  keyEpoch : Nat := 0
  /-- R346 PRF_DELAY. -/
  delayPs : BitVec 32 := 0
  /-- R293,R326 bridge adder, at most 256 records. -/
  bridge : List Rec := []
  /-- R471 PRF_BRIDGE.COMBINED 23 bits. -/
  combined : Nat := 0
  /-- R346 PRF_DROPPED 32 bits. -/
  dropped : Nat := 0
  /-- R461 PRF_FAULT. -/
  fault : BitVec 5 := 0
  /-- R310,R311 transmit link key. -/
  txKey : Option (BitVec 256) := none
  /-- R310,R311 receive link key. -/
  rxKey : Option (BitVec 256) := none
  /-- R310. -/
  txSalt : BitVec 32 := 0
  /-- R310. -/
  rxSalt : BitVec 32 := 0
  /-- R309 next SEQ to send, modulo 4,096. -/
  txSeq : Nat := 0
  /-- R309 next SEQ expected. -/
  rxSeq : Nat := 0
  /-- R310 DATA flits of the open receive group. -/
  rxGroup : List RxFlit := []
  /-- R315 sequence number of the last flit received good, its group verified. -/
  rxGood : Nat := 4095
  /-- R313 flits of the receive buffers in use per channel. -/
  rxUsed : Vector Nat 4 := Vector.replicate 4 0
  /-- R309 channels whose freed flits or acknowledgement are still to be told. -/
  owes : BitVec 4 := 0
  /-- R316 a retrain is running. -/
  retraining : Bool := false
  /-- R310 receive group counter. -/
  rxGroupCtr : Nat := 0
  /-- R310 transmit group counter. -/
  txGroupCtr : Nat := 0
  /-- R315 replay buffer, at most 2,048. -/
  replay : List TxFlit := []
  /-- R313,R346 PRF_CREDIT: credits held per channel. -/
  credit : Vector Nat 4 := Vector.replicate 4 0
  /-- R313 receive buffers per channel. -/
  rxBuf : Vector (List RxFlit) 4 := Vector.replicate 4 []
  /-- R309 cumulative flits freed per channel, modulo 4,096. -/
  freed : Vector Nat 4 := Vector.replicate 4 0
  /-- R313 flits freed per channel as last told to the peer, modulo 4,096. -/
  toldFreed : Vector Nat 4 := Vector.replicate 4 0
  /-- R309 last CREDIT accepted per channel. -/
  lastCredit : Vector Nat 4 := Vector.replicate 4 0
  /-- R315 discarding until the resent flit arrives. -/
  waitRetry : Bool := false
  /-- R312 the open group's tag has failed once. -/
  tagFail : Bool := false
  /-- R316 ticks of the RETRY flits sent within the last 1 ms. -/
  retryTicks : List Nat := []
  /-- R316 tick at which the running retrain began. -/
  retrainTick : Nat := 0
  /-- R314 messages waiting or being sent, per channel. -/
  txQ : Vector (List TxMsg) 4 := Vector.replicate 4 []
  /-- R315,R327 messages sent and not yet wholly acknowledged. -/
  sent : List TxMsg := []
  /-- R310 DATA flits of the open transmit group. -/
  txGroup : List TxFlit := []
  /-- R309 fraction of a flit time accumulated, in 1/10000. -/
  txAcc : Nat := 0
  /-- R308 sequence of the frame being sent. -/
  frameSeq : BitVec 16 := 0
  /-- R308 flits already placed in that frame, at most 4. -/
  txFrame : List (List (BitVec 8)) := []
  /-- R308,R346 the last frame whose codewords have been counted. -/
  rxFrame : Option (BitVec 16) := none
  /-- R316 no group has been taken since the last retrain. -/
  rxOld : Bool := false
  /-- R314 place in the weighted round robin of reduction and bulk. -/
  wrr : Nat := 0
  /-- R313 messages delivered and not yet acted on. -/
  inMsgs : List Msg := []
  /-- R331 arrival record of the last TIME_SYNC. -/
  syncT : Option Nat := none
  deriving DecidableEq, Repr

/-- A send request on its way (R341): its packet sequence numbers and its work request. -/
structure SqEnt where
  /-- R341 (10) PSN of its first packet. -/
  first : BitVec 24 := 0
  /-- R341 PSN of its last packet, or of the last response of a READ. -/
  last : BitVec 24 := 0
  /-- R344 the work request as read. -/
  wqe : BitVec 512 := 0
  deriving DecidableEq, Repr

/-- A queue pair's running state beside its context in stack memory (R344). -/
structure QpRun where
  /-- R344 (10). -/
  st : QpSt := .reset
  /-- R344. -/
  sqTail : BitVec 16 := 0
  /-- R344. -/
  sqHead : BitVec 16 := 0
  /-- R344. -/
  rqTail : BitVec 16 := 0
  /-- R344. -/
  rqHead : BitVec 16 := 0
  /-- R344. -/
  cqHead : BitVec 16 := 0
  /-- R344. -/
  cqTail : BitVec 16 := 0
  /-- R341 next send PSN. -/
  sqPsn : BitVec 24 := 0
  /-- R341 next expected receive PSN. -/
  rqPsn : BitVec 24 := 0
  /-- R341 send requests sent and not completed, oldest first. -/
  unacked : List SqEnt := []
  /-- R344 the pair's context entry, read at MODIFY. -/
  ctx : BitVec 1024 := 0
  /-- R341 oldest PSN neither acknowledged nor answered. -/
  ackPsn : BitVec 24 := 0
  /-- R341 tick of the last packet sent or acknowledged, from which TIMEOUT runs. -/
  sentTick : Nat := 0
  /-- R341. -/
  retries : Nat := 0
  /-- R341. -/
  rnr : Nat := 0
  /-- R342 sending rate. -/
  rateMbps : Nat := 800000
  /-- R342 tick of the last CNP returned. -/
  lastCnpTx : Option Nat := none
  /-- R342 tick of the last CNP received or rate raise. -/
  lastCnpRx : Option Nat := none
  /-- R341 RDMA READs outstanding, at most 64. -/
  reads : Nat := 0
  /-- R341 where the message being received lands. -/
  rxAddr : Nat := 0
  /-- R341 bytes still to come of it. -/
  rxLeft : Nat := 0
  /-- R344 the receive request a SEND being received fills. -/
  rxWqe : Option (BitVec 256) := none
  /-- R341 a SEND or WRITE of several packets is being received. -/
  rxOpen : Bool := false
  /-- R341 bytes received of it. -/
  rxBytes : Nat := 0
  /-- R344 completions waiting for room. -/
  blocked : List (BitVec 256) := []
  deriving DecidableEq, Repr

/-- A RoCE frame that waits for the end of a pause of its priority (R340). -/
structure HeldFrame where
  /-- R340 (10). -/
  prio : Nat := 0
  /-- R342 (10) its fields. -/
  fields : List Nat := []
  /-- R342 its payload. -/
  payload : List (BitVec 8) := []
  /-- R348 its bytes on the wire. -/
  bytes : Nat := 0
  deriving DecidableEq, Repr

/-- One Ethernet port (10). -/
structure Eth where
  /-- R348,R471 ETH_STATUS.LINK. -/
  link : Bool := false
  /-- R471 ETH_STATUS.PHY. -/
  phy : BitVec 2 := 0
  /-- R471 ETH_STATUS.FEC_ERR 32 bits. -/
  fecErr : Nat := 0
  /-- R348 ETH_MAC_ADDR. -/
  mac : BitVec 48 := 0
  /-- R348 MAC address in force since the last link-up. -/
  macLive : BitVec 48 := 0
  /-- R471 ETH_IP_ADDR.IPV4. -/
  ipv4 : BitVec 32 := 0
  /-- R471. -/
  ipv6Idx : BitVec 4 := 0
  /-- R471. -/
  ipv6En : Bool := false
  /-- R471 ETH_IPV6 table of 16. -/
  ipv6 : Tab (BitVec 128) := []
  /-- R471 ETH_PFC.ENABLE. -/
  pfc : BitVec 8 := 0
  /-- R471 ETH_PFC.ROCE_PRIO. -/
  rocePrio : BitVec 3 := 3
  /-- R348 ETH_QP_BASE. -/
  qpBase : BitVec 41 := 0
  /-- R348 ETH_MR_BASE. -/
  mrBase : BitVec 41 := 0
  /-- R348 ETH_PTP_CTRL[0]. -/
  ptpEn : Bool := false
  /-- R348 ETH_PTP_CTRL[7:1]. -/
  ptpDomain : BitVec 7 := 0
  /-- R348 ETH_PTP_CTRL[8]. -/
  ptpUdp : Bool := false
  /-- R348 ETH_RX_BYTES 64 bits. -/
  rxBytes : Nat := 0
  /-- R348 ETH_TX_BYTES 64 bits. -/
  txBytes : Nat := 0
  /-- R348 ETH_RX_DROPPED 32 bits. -/
  rxDropped : Nat := 0
  /-- R471 ETH_CNP.SENT 16 bits. -/
  cnpSent : Nat := 0
  /-- R471 ETH_CNP.RECEIVED 16 bits. -/
  cnpRecv : Nat := 0
  /-- R461 ETH_FAULT. -/
  fault : BitVec 2 := 0
  /-- R340 priorities paused by the peer. -/
  paused : BitVec 8 := 0
  /-- R340 tick at which a priority's pause ends. -/
  pauseEnd : Tab Nat := []
  /-- R340 priorities on which the port has paused its peer. -/
  pausing : BitVec 8 := 0
  /-- R340 (10) RoCE frames of paused priorities, in order. -/
  txHeld : List HeldFrame := []
  /-- R344 running state of the 4,096 queue pairs. -/
  qps : Tab QpRun := []
  /-- R341 accesses to retired or fenced pages NAKed. -/
  nakBad : Nat := 0
  deriving DecidableEq, Repr

/-- A done report held by the master (R301, R302). -/
structure DoneRep where
  /-- R301 (09). -/
  module : Nat := 0
  /-- R301. -/
  rank : Nat := 0
  /-- R301. -/
  channel : Nat := 0
  /-- R302. -/
  stage : Nat := 0
  /-- R301. -/
  poisoned : Bool := false
  /-- R301. -/
  failed : Bool := false
  /-- R301. -/
  normOver : Bool := false
  /-- R301 16 lanes. -/
  lanes : List Int := []
  /-- R301. -/
  rime : BitVec 16 := 0
  /-- R301 AMAX_EXP of each GRAD_TENSOR. -/
  amax : List (Nat × Int) := []
  /-- R300 its FAILED bucket shares. -/
  failures : List (Nat × Nat) := []
  deriving DecidableEq, Repr

/-- A non-finite rank report held by the master (R297). -/
structure NfRep where
  /-- R297 (09). -/
  bucket : Nat := 0
  /-- R297. -/
  channel : Nat := 0
  /-- R297. -/
  share : Nat := 0
  /-- R297. -/
  ranks : List Nat := []
  deriving DecidableEq, Repr

/-- The step package being received or in force (R300, R335). -/
structure Pkg where
  /-- R300 (09,10). -/
  step : BitVec 32 := 0
  /-- R300. -/
  epoch : BitVec 32 := 0
  /-- R335 marker tick. -/
  tick : Nat := 0
  /-- R335,R336 marker KIND, REPEAT. -/
  repeat_ : Bool := false
  /-- R300. -/
  fallback : Tab (Option Int) := []
  /-- R300. -/
  anchorReset : List (Nat × Nat) := []
  /-- R300,R301. -/
  h : Int := 0
  /-- R300. -/
  shift : Nat := 0
  /-- R335. -/
  term : Nat := 0
  /-- R335 parts received. -/
  parts : List Nat := []
  /-- R335 parts in the package. -/
  nparts : Nat := 0
  /-- R335. -/
  complete : Bool := false
  /-- R335 its marker has been taken. -/
  taken : Bool := false
  deriving DecidableEq, Repr

/-- What the cascade master keeps (R328, R302, R303, R336). -/
structure MasterSt where
  /-- R335,R336 step of the last marker placed. -/
  step : BitVec 32 := 0
  /-- R302,R335 tick of that marker. -/
  tick : Nat := 0
  /-- R347 its first marker has been placed. -/
  placed : Bool := false
  /-- R302 done reports of the step. -/
  dones : List DoneRep := []
  /-- R336 modules that have reported the step settled. -/
  settled : List Nat := []
  /-- R302 the step has been decided. -/
  decided : Bool := false
  /-- R336 the step was skipped. -/
  skipped : Bool := false
  /-- R301 skipped for NORM_OVER. -/
  skipNorm : Bool := false
  /-- R301 norm sum S. -/
  lastS : BitVec 32 := 0
  /-- R301 norm anchor of the step. -/
  h : Int := 0
  /-- R199 last spec ID assigned. -/
  epochId : BitVec 16 := 0
  /-- R259 the present epoch is a rerun that settles without a second decision. -/
  rerun : Bool := false
  /-- R303,R336 the next marker is held. -/
  held : Bool := false
  /-- R303 RUN_STOPPED. -/
  stopped : Bool := false
  /-- R336 REPEAT requested. -/
  repeatReq : Bool := false
  /-- R336 an evaluation marker is out; held until RESUME. -/
  evalHold : Bool := false
  /-- R336 RESUME received. -/
  resume : Bool := false
  /-- R303 modules under repair. -/
  repair : List Nat := []
  /-- R297. -/
  nfReps : List NfRep := []
  /-- R298 OVER reports: bucket, share, block, M. -/
  overReps : List (Nat × Nat × Nat × Int) := []
  /-- R300 FALLBACK of the last package sent. -/
  fb : List (Nat × Int) := []
  /-- R300 ANCHOR_RESET of the last package sent. -/
  reset : List (Nat × Nat) := []
  /-- R329 decisions waiting for the first deputy's acknowledgement, oldest first. -/
  pendingDec : List Decision := []
  deriving DecidableEq, Repr

/-- The cascade agent (R328) and the CASCADE block (10). -/
structure Cas where
  /-- R347,R471 CAS_ROLE.ROLE. -/
  role : CasRole := .member
  /-- R471 CAS_ROLE.DEPUTY_RANK. -/
  deputyRank : Nat := 0
  /-- R328,R471 CAS_ROLE.TERM. -/
  term : BitVec 16 := 0
  /-- R471 CAS_TIME_STATUS.LOCKED. -/
  locked : Bool := false
  /-- R471 CAS_TIME_STATUS.HOLDOVER. -/
  holdover : Bool := false
  /-- R332 tick at which holdover began. -/
  holdTick : Nat := 0
  /-- R471 CAS_TIME_STATUS.PARENT. -/
  parent : Nat := 31
  /-- R471 CAS_TIME_STATUS.OFFSET_PS. -/
  offsetPs : BitVec 32 := 0
  /-- R331 rate correction in ppm, -200 to 200. -/
  rateppm : Int := 0
  /-- R331 the part of a tick that the correction has gathered, in millionths. -/
  slewAcc : Int := 0
  /-- R333 tick at which the module was last locked. -/
  lockTick : Nat := 0
  /-- R327 alternate tree edges by which a child has attached. -/
  attached : BitVec 18 := 0
  /-- R331 departure and arrival of the last TIME_SYNC. -/
  syncTx : Option (Nat × Nat) := none
  /-- R333 the module has been listed in an epoch. -/
  joined : Bool := false
  /-- R333,R334 the timebase has been stepped once. -/
  stepped : Bool := false
  /-- R471 CAS_MASTER.MASTER. -/
  master : BitVec 13 := 0
  /-- R471 CAS_MASTER.DEPUTY. -/
  deputy : BitVec 13 := 0
  /-- R471. -/
  deputyValid : Bool := false
  /-- R328,R330 deputies still in the list. -/
  deputies : List Nat := []
  /-- R347 CAS_STEP_SET. -/
  stepSet : BitVec 32 := 0
  /-- R347 CAS_EPOCH. -/
  epoch : BitVec 32 := 0
  /-- R299 the epoch's modules: stage, channel, rank, module. -/
  members : List (Nat × Nat × Nat × Nat) := []
  /-- R299 an epoch received for a later step. -/
  nextEpoch : Option (Nat × List (Nat × Nat × Nat × Nat)) := none
  /-- R299 modules declared LOST. -/
  lost : List Nat := []
  /-- R347 CAS_STALE_TERM 32 bits. -/
  staleTerm : Nat := 0
  /-- R461 CAS_FAULT. -/
  fault : BitVec 7 := 0
  /-- R330 tick of the last heartbeat received. -/
  lastHeartbeat : Nat := 0
  /-- R329 decisions logged as first deputy. -/
  logged : List Decision := []
  /-- R335 package in hand. -/
  pkg : Option Pkg := none
  /-- R335 CAS_PACKAGE_LATE raised for it. -/
  lateSeen : Bool := false
  /-- R255,R335 step number of the last marker. -/
  markerStep : BitVec 32 := 0
  /-- R255 a marker has been received. -/
  markerSeen : Bool := false
  /-- R319 last MSG_ID sent, key dst*4+vc. -/
  msgTx : Tab Nat := []
  /-- R319 (10) messages of this module to itself that have not acted yet, oldest first. -/
  ownMsgs : List Msg := []
  /-- R319 last MSG_ID accepted, key src*4+vc, and 32768 for each class of path. -/
  msgRx : Tab Nat := []
  /-- R327 destinations reported with no route. -/
  lostRoutes : List Nat := []
  /-- R328. -/
  mst : MasterSt := {}
  /-- R334 tick of the last PTP message, none before the first. -/
  ptpTick : Option Nat := none
  /-- R334 CAS_PTP_LOST in force. -/
  ptpLost : Bool := false
  /-- R199 (06) the last 16 discarded spec IDs, newest first, kept by the stewards. -/
  discarded : List (BitVec 16) := []
  /-- R183 arrivals counted, key scope*256+barrier (cascade: key 768+barrier per module). -/
  barArr : Tab Nat := []
  /-- R183,R299 cascade arrivals at the master: barrier and module, one for each. -/
  barMods : List (Nat × Nat) := []
  /-- R466 (15) HST_RUN_EVENT. -/
  lastEvent : BitVec 128 := 0
  /-- R330 STEP_START admission stopped. -/
  stopStepStart : Bool := false
  /-- R338 relays in progress. -/
  relays : List Relay := []
  deriving DecidableEq, Repr

/-- One used slot of the SLOT section (R116, R351). -/
structure SlotCfg where
  /-- R351 (11). -/
  core : Nat := 0
  /-- R351. -/
  slot : Nat := 0
  /-- R116 (04). -/
  entry : BitVec 128 := 0
  deriving DecidableEq, Repr

/-- A mirrored region (R227, R351). -/
structure MirCfg where
  /-- R351 (11). -/
  primary : Nat := 0
  /-- R351. -/
  mirror : Nat := 0
  /-- R351. -/
  pages : Nat := 0
  deriving DecidableEq, Repr

/-- The moraine pool (R261, R351). -/
structure PoolCfg where
  /-- R351 (11). -/
  base0 : Nat := 0
  /-- R351. -/
  mib0 : Nat := 0
  /-- R351. -/
  mib1 : Nat := 0
  /-- R351. -/
  base1 : Nat := 0
  /-- R351. -/
  lender : Nat := 0xFFFF
  /-- R351. -/
  lendMib : Nat := 0
  /-- R262. -/
  ringBase : Nat := 0
  deriving DecidableEq, Repr

/-- A moraine slot (R261, R351). -/
structure MorCfg where
  /-- R351 (11). -/
  core : Nat := 0
  /-- R351. -/
  slot : Nat := 0
  /-- R261 ORDER. -/
  newest : Bool := false
  /-- R261. -/
  recomp : Bool := false
  /-- R261. -/
  entries : Nat := 0
  /-- R261. -/
  rebuild : Nat := 0
  deriving DecidableEq, Repr

/-- A loan range (R266, R351). -/
structure LoanCfg where
  /-- R351 (11). -/
  borrower : Nat := 0
  /-- R351. -/
  mib : Nat := 0
  /-- R351. -/
  base : Nat := 0
  deriving DecidableEq, Repr

/-- A core's ROUTE, PART and TASK configuration (R351). -/
structure CoreCfg where
  /-- R156 (05) ROUTE MODE. -/
  decoupled : Bool := false
  /-- R351 (11). -/
  gang : BitVec 8 := 0
  /-- R351. -/
  lead : Nat := 0
  /-- R351. -/
  sharedFeed : Bool := false
  /-- R57 (02). -/
  partMode : PartMode := .full
  /-- R351. -/
  used : Bool := false
  /-- R200 (06). -/
  specTasks : Nat := 1
  /-- R196. -/
  tokenSrc : BitVec 3 := 0
  /-- R351. -/
  runFirst : Nat := 0
  /-- R351. -/
  runCount : Nat := 0
  deriving DecidableEq, Repr

/-- A task program (R162, R351). -/
structure ProgCfg where
  /-- R351 (11). -/
  tid : Nat := 0
  /-- R351. -/
  core : Nat := 0
  /-- R351. -/
  offset : Nat := 0
  deriving DecidableEq, Repr

/-- A port entry of LINK (R321, R351). -/
structure PortCfg where
  /-- R351 (11). -/
  module : Nat := 0
  /-- R351. -/
  port : Nat := 0
  /-- R321 (10). -/
  entry : BitVec 128 := 0
  deriving DecidableEq, Repr

/-- A run of route entries (R324, R351). -/
structure RouteCfg where
  /-- R351 (11). -/
  module : Nat := 0
  /-- R351. -/
  first : Nat := 0
  /-- R351. -/
  count : Nat := 0
  /-- R324 (10). -/
  primary : BitVec 18 := 0
  /-- R324. -/
  alternate : BitVec 18 := 0
  deriving DecidableEq, Repr

/-- A ring (R337, R351). -/
structure RingCfg where
  /-- R351 (11). -/
  ring : Nat := 0
  /-- R351. -/
  core : Nat := 0
  /-- R351. -/
  slot : Nat := 0
  /-- R351. -/
  module : Nat := 0
  /-- R351. -/
  outPort : Nat := 0
  /-- R351. -/
  successor : Nat := 0
  /-- R351. -/
  hops : Nat := 0
  deriving DecidableEq, Repr

/-- LINK TOPOLOGY (R322, R351). -/
structure TopoCfg where
  /-- R351 (11). -/
  n0 : Nat := 0
  /-- R351. -/
  n1 : Nat := 0
  /-- R351. -/
  n2 : Nat := 0
  /-- R351. -/
  stages : Nat := 0
  /-- R351. -/
  channels : Nat := 0
  /-- R351. -/
  members : Nat := 0
  /-- R351 CHAN_TOPO. -/
  tree : Bool := false
  /-- R351. -/
  master : Nat := 0xFFFF
  /-- R351. -/
  deputies : List Nat := []
  /-- R335,R351. -/
  markerLead : Nat := 200000
  deriving DecidableEq, Repr

/-- A NUMP tensor (R93, R240, R351). -/
structure TensorCfg where
  /-- R351 (11). -/
  id : Nat := 0
  /-- R93 (03). -/
  policy : BitVec 16 := 0
  /-- R240 (08). -/
  lead : BitVec 32 := 0
  /-- R254. -/
  baseIdx : Nat := 0
  /-- R240. -/
  scale : BitVec 128 := 0
  deriving DecidableEq, Repr

/-- A structure image decoded from its bytes: what a configuration set holds (R349-R352). -/
structure ImgCfg where
  /-- R349 (11). -/
  imageId : BitVec 64 := 0
  /-- R349. -/
  familyId : BitVec 64 := 0
  /-- R349 KIND. -/
  eval : Bool := false
  /-- R349 OMIT_MASK. -/
  omit_ : BitVec 8 := 0
  /-- R349. -/
  totalLen : Nat := 0
  /-- R349. -/
  secVersion : BitVec 32 := 0
  /-- R349. -/
  minFw : BitVec 32 := 0
  /-- R352. -/
  keyId : Nat := 0
  /-- R350,R357 LENGTH and CRC of each section. -/
  secCrcs : List (Nat × BitVec 32) := []
  /-- R351 eight, by core index. -/
  cores : List CoreCfg := []
  /-- R351. -/
  slots : List SlotCfg := []
  /-- R351. -/
  mirrors : List MirCfg := []
  /-- R351. -/
  pool : Option PoolCfg := none
  /-- R351. -/
  moraine : List MorCfg := []
  /-- R351. -/
  loans : List LoanCfg := []
  /-- R351 core, index, template. -/
  templates : List (Nat × Nat × BitVec 1024) := []
  /-- R351. -/
  progs : List ProgCfg := []
  /-- R351. -/
  words : List (BitVec 128) := []
  /-- R351. -/
  runList : List (BitVec 256) := []
  /-- R351 BARRIER_ID, COUNT. -/
  barriers : List (Nat × Nat) := []
  /-- R351 core, slot. -/
  replace_ : List (Nat × Nat) := []
  /-- R274 (09). -/
  buckets : List (BitVec 512) := []
  /-- R351. -/
  topo : TopoCfg := {}
  /-- R351. -/
  ports : List PortCfg := []
  /-- R351. -/
  routes : List RouteCfg := []
  /-- R351. -/
  rings : List RingCfg := []
  /-- R351. -/
  censusBase : Nat := 0
  /-- R351. -/
  scaleBase : Nat := 0
  /-- R259,R351. -/
  clipNorm : BitVec 32 := 0
  /-- R351. -/
  tensors : List TensorCfg := []
  /-- R244 (08). -/
  profiles : List (BitVec 512) := []
  /-- R373 (12) six. -/
  phases : List Nat := []
  /-- R351 first, last, phase. -/
  taskPhase : List (Nat × Nat × Nat) := []
  deriving DecidableEq, Repr

/-- What the registers of a fenced core's block show: its units, the active image and the tick as they stood at the fence (R465). -/
structure FenceView where
  /-- R465,R467 (15). -/
  arr : Arr
  /-- R465,R467. -/
  scr : Scr
  /-- R465,R467. -/
  mov : Mov
  /-- R465,R468. -/
  seq : Seq
  /-- R465,R469. -/
  upd : Upd
  /-- R465 the active image, whose entries some of them show. -/
  active : Option (Nat × ImgCfg)
  /-- R465. -/
  tick : Nat
  deriving DecidableEq, Repr

/-- One array core and its sequencer (01, 02, 04, 05, 06, 08). -/
structure Core where
  /-- R398,R432 (13,14) the core's sequencer is up. -/
  up : Bool := false
  /-- R409 (13). -/
  fenced : Bool := false
  /-- R411 (13) clocks gated, ports closed. -/
  gated : Bool := false
  /-- R190 (06) fenced, its tasks not yet ended: the fence's cause. -/
  ending : Option (BitVec 16) := none
  /-- (02). -/
  arr : Arr := {}
  /-- (04). -/
  scr : Scr := {}
  /-- (05). -/
  mov : Mov := {}
  /-- (06). -/
  seq : Seq := {}
  /-- (08). -/
  upd : Upd := {}
  /-- R414 (13) the steward's copy of every stack-homed slot's state. -/
  stewSlots : Tab SlotSt := []
  /-- R465 (15) the block's registers as they stood at the core's fence. -/
  atFence : Option FenceView := none
  deriving DecidableEq, Repr

/-- An image-store place (R355, R369). -/
structure Place where
  /-- R355,R369 (11) IMG_PLACE state. -/
  st : PlaceSt := .empty
  /-- R369. -/
  imageId : BitVec 64 := 0
  /-- R369 KIND. -/
  eval : Bool := false
  /-- R369 OMIT_MASK. -/
  omit_ : BitVec 8 := 0
  /-- R369. -/
  code : BitVec 16 := 0
  /-- R369. -/
  sect : BitVec 4 := 0
  /-- R369. -/
  offset : BitVec 28 := 0
  /-- R354 the running load is a peer load. -/
  fromPeer : Bool := false
  /-- R355 IMG_LOAD_LEN of a local load. -/
  loadLen : Nat := 0
  /-- R358 the verified image, decoded. -/
  cfg : Option ImgCfg := none
  deriving DecidableEq, Repr

/-- An armed or running swap (R360-R362). -/
structure Swap where
  /-- R360 (11) 0 STEP 1 IMMEDIATE 2 FENCE. -/
  mode : Nat := 0
  /-- R472 IMG_STATUS.SWAP. -/
  phase : SwapSt := .idle
  /-- R361,R362 tick of the arming, marker or start. -/
  tick : Nat := 0
  /-- R361 IMG_DRAIN_LIMIT as it stood when armed, µs. -/
  limit : Nat := 0
  /-- R360 tick of the marker a STEP swap met. -/
  marker : Option Nat := none
  /-- R472. -/
  cause : BitVec 16 := 0
  deriving DecidableEq, Repr

/-- What a steward holds during a swap (R410), or for a core whose clocks stand (R378). -/
inductive HeldItem
  /-- A fill or release token: the core, slot and buffer it names, and who posted it. -/
  | token (core : Fin 8) (slot buf : Nat) (fill : Bool) (epoch : BitVec 16) (poster : Option (Fin 8 × Nat))
  /-- A claim or acquisition of this module at the core that owns its slot. -/
  | request (core : Fin 8) (w : SlotWait)
  /-- A claim of another module. -/
  | claim (m : Msg)
  deriving DecidableEq, Repr

/-- The IMAGE block (11). -/
structure Img where
  /-- R243 step of a marker whose lead waits for the STEP swap that marker started. -/
  leadDue : Option Nat := none
  /-- R353,R369 sixteen places. -/
  places : Tab Place := []
  /-- R406 (13) places rebuilt at start-up. -/
  nplaces : Nat := 16
  /-- R406 (13) reachable store pages in ascending order when the places were rebuilt around lost ones. -/
  storePages : List Nat := []
  /-- R360,R472 the active set: place and image. -/
  active : Option (Nat × ImgCfg) := none
  /-- R358,R472 the shadow set. -/
  shadow : Option (Nat × ImgCfg) := none
  /-- R358 place being staged and its start tick. -/
  staging : Option (Nat × Nat) := none
  /-- R360. -/
  swap : Swap := {}
  /-- R359,R369 IMG_MODULE_ID RWS. -/
  moduleId : BitVec 13 := 0
  /-- R369 IMG_LOAD_SRC. -/
  loadSrc : BitVec 41 := 0
  /-- R369 IMG_LOAD_LEN. -/
  loadLen : BitVec 27 := 0
  /-- R361,R369 IMG_DRAIN_LIMIT µs. -/
  drainLimit : BitVec 14 := 500
  /-- R369 IMG_SWAP_COUNT 32 bits. -/
  swapCount : Nat := 0
  /-- R472 IMG_LAST_SWAP. -/
  lastSwap : BitVec 32 := 0
  /-- R461 IMG_FAULT. -/
  fault : BitVec 9 := 0
  /-- R268,R367 the active or last TRAINING image. -/
  lastTrainCfg : Option ImgCfg := none
  /-- R360 admission stopped by an IMMEDIATE arming or the fence path. -/
  stopAdmit : Bool := false
  /-- R366 no task admitted until a new image is swapped. -/
  variantMissing : Bool := false
  /-- R267 (08) MORAINE_EXHAUSTED: no task admitted until a new image. -/
  moraineStop : Bool := false
  /-- R414 (13) where the slots of a fenced core went: old core and slot, new core and slot. -/
  redirects : List (Nat × Nat × Nat × Nat) := []
  /-- R378,R410 (13) tokens, claims and fills held by the stewards during a swap or while their core's clocks stand, in order of arrival. -/
  held : List HeldItem := []
  deriving DecidableEq, Repr

/-- The POWER/CLOCK block and the 48 V input (12, 16). -/
structure Pwr where
  /-- R479 (16) the 48 V input has reached the turn-on threshold. -/
  on_ : Bool := true
  /-- R483 MOD_EN level. -/
  modEn : Bool := true
  /-- R393 in M4. -/
  off : Bool := false
  /-- R393,R396 PWR_STATE current. -/
  state : Nat := 0
  /-- R396 PWR_STATE requested. -/
  request : BitVec 3 := 0
  /-- R382,R396 PWR_CAP. -/
  cap : BitVec 11 := 1500
  /-- R387,R396 PWR_RAMP. -/
  ramp : BitVec 7 := 75
  /-- R389,R396 PWR_FREEWHEEL.PREMARK. -/
  premark : Bool := true
  /-- R385,R396 PWR_IDLE_FLOOR. -/
  idleFloor : BitVec 10 := 150
  /-- R381,R472 PWR_READING.P 16 bits. -/
  readP : Nat := 0
  /-- R381,R472 PWR_READING.E. -/
  readE : Nat := 0
  /-- R381,R472 PWR_READING.M. -/
  readM : Nat := 0
  /-- R381,R396 PWR_EST_GAIN. -/
  gain : BitVec 32 := 0x3F800000
  /-- R382,R472 PWR_CAP_LIMIT.CALM. -/
  calm : Nat := 0
  /-- R385,R472. -/
  distrusted : Bool := false
  /-- R385,R472 PWR_SENSOR_STATUS.PLAUSIBLE. -/
  plausible : Nat := 0
  /-- R384,R472 PWR_SENSOR_STATUS.DIVERGING. -/
  diverging : Nat := 0
  /-- R384 ΣM over the diverging windows, W. -/
  divSumM : Nat := 0
  /-- R384 ΣE_avg over them. -/
  divSumE : Nat := 0
  /-- R396 PWR_DIVERGENCE_COUNT 32 bits. -/
  divergences : Nat := 0
  /-- R383 tick since which P has exceeded the cap with both limits 7. -/
  overSince : Option Nat := none
  /-- R383 admission stopped while P exceeds the cap. -/
  capUnmet : Bool := false
  /-- R461 PWR_FAULT. -/
  fault : BitVec 6 := 0
  /-- R391 ALERT_N driven low. -/
  alertLow : Bool := false
  /-- R391 alert limit, 7 while in force. -/
  alertLimit : Nat := 0
  /-- R391 tick since which ALERT_N has been high. -/
  alertHighTick : Nat := 0
  /-- R391 tick of ALERT_N's last fall. -/
  alertFall : Nat := 0
  /-- R480 (16) the converter drives ALERT_N. -/
  convAlert : Bool := false
  /-- R392 hardware thermal trip latched. -/
  tripped : Bool := false
  /-- R481 main rails latched off. -/
  railsLatched : Bool := false
  /-- R381 (12) last input reading, W. -/
  inputW : Nat := 0
  /-- R381 (12) last rail sum as a module figure, W. -/
  rails : Nat := 0
  /-- R381 (12) rail sum at the last input reading, W. -/
  railsAt : Nat := 0
  /-- R384 (12) sum of the estimates of this input window, W. -/
  estSum : Nat := 0
  /-- R384 (12) estimates in it. -/
  estCount : Nat := 0
  /-- R479 last input voltage reported, mV. -/
  inputMv : Nat := 48000
  /-- R453,R481 last input current reported, mA. -/
  inputMa : Nat := 0
  /-- R453 (14) READ_VIN, READ_IIN, READ_VOUT, READ_TEMPERATURE_1, STATUS_WORD. -/
  telemetry : Vector Nat 5 := Vector.replicate 5 0
  /-- R481 latch cause in STATUS_WORD: 1 over-current, 2 over-voltage. -/
  statusCause : Nat := 0
  /-- R446 (14) cause latched from the standby rail by a tamper detection in M4, 0 none. -/
  standbyTamper : Nat := 0
  /-- R446 (14) its tick. -/
  standbyTick : Nat := 0
  /-- R394 wake pending. -/
  m1Wake : Option Nat := none
  /-- R394,R435 the start-up that a request for M0 in M3 began is running. -/
  leaving : Bool := false
  deriving DecidableEq, Repr

/-- The host interface (14). -/
structure HostIf where
  /-- R428 the PCIe link is up. -/
  linkUp : Bool := false
  /-- R398 configuration space answers. -/
  configUp : Bool := false
  /-- R484 (16) PERST_N level high. -/
  perst : Bool := true
  /-- R484 its first rising edge of the cold start has come. -/
  perstRisen : Bool := false
  /-- R398,R404 (13) the SerDes of the PCIe port did not calibrate. -/
  portFailed : Bool := false
  /-- R466 HST_LINK_STATUS.RATE. -/
  rate : BitVec 3 := 0
  /-- R466 HST_LINK_STATUS.WIDTH. -/
  width : BitVec 5 := 0
  /-- R466. -/
  flit : Bool := false
  /-- R466. -/
  cxl : Bool := false
  /-- R466 HST_LINK_STATUS.IDE. -/
  ide : BitVec 2 := 0
  /-- R466. -/
  dstate : BitVec 2 := 0
  /-- R432 GLB_STATUS has reported service since the last cold or warm reset. -/
  served : Bool := false
  /-- R452,R466 OZ_STATUS.BOUND. -/
  bound : Bool := false
  /-- R452 (14) session whose IDE_KM messages keyed the link stream. -/
  ideSession : Option Nat := none
  /-- R432,R457 OZ_UNAVAIL_COUNT 64 bits. -/
  unavail : Nat := 0
  /-- R433,R435 MSI-X table, 64 entries of 16 bytes. -/
  msixAddr : Tab (BitVec 128) := []
  /-- R434,R435 vectors not masked. -/
  msixUnmasked : BitVec 64 := 0
  /-- R433,R435 pending-bit array. -/
  msixPending : BitVec 64 := 0
  /-- R435 vectors with an event in the microsecond of their last message. -/
  msixOwed : BitVec 64 := 0
  /-- R435 tick + 1 of each vector's last message. -/
  msixLast : Tab Nat := []
  /-- R428 host queues stopped by a lost link. -/
  stopped : Bool := false
  /-- R436 event records: log and record. -/
  cxlEvents : List (Nat × BitVec 128) := []
  /-- R431 data of the last BAR2 or CXL read completion. -/
  lastRead : List (BitVec 8) := []
  /-- R431 the last BAR2 read completed with UR. -/
  lastUr : Bool := false
  /-- R437 the last CXL read returned poison. -/
  lastPoison : Bool := false
  /-- R436 last CXL mailbox response. -/
  cxlResp : List (BitVec 8) := []
  /-- R436 0 success, 0x15 unsupported. -/
  cxlStatus : Nat := 0
  deriving DecidableEq, Repr

/-- An SPDM session (R450). -/
structure Session where
  /-- R450 (14). -/
  id : Nat := 0
  /-- R450 transport DOE, else MCTP. -/
  doe : Bool := true
  /-- R450 0 none 1 User 2 Crypto Officer. -/
  role : Nat := 0
  /-- R450 User key index. -/
  key : Nat := 0
  /-- R450 FINISH has completed it. -/
  open_ : Bool := false
  /-- R450. -/
  mutualAuth : Bool := false
  /-- R450 tick of the last heartbeat. -/
  beat : Nat := 0
  /-- R450 key updates. -/
  keyGen : Nat := 0
  /-- R450 public key with which the requester authenticates. -/
  reqKey : Option (BitVec 768) := none
  deriving DecidableEq, Repr

/-- SPDM connection state of one transport (R450). -/
structure SpdmConn where
  /-- R450 (14) 0 none, 0x12, 0x13. -/
  version : Nat := 0
  /-- R450. -/
  caps : Bool := false
  /-- R450. -/
  algs : Bool := false
  deriving DecidableEq, Repr

/-- Oztas, the management and security controller (14). -/
structure Oz where
  /-- R398 (13) firmware running. -/
  up : Bool := false
  /-- R466 OZ_STATUS.FW_COPY. -/
  fwCopyB : Bool := false
  /-- R466 OZ_STATUS.FW_VERSION. -/
  fwVersion : BitVec 32 := 0
  /-- R447 running firmware's security version. -/
  fwSec : BitVec 32 := 0
  /-- R449,R466 OZ_STATUS.DEBUG. -/
  debugOpen : Bool := false
  /-- R449 (14) DEBUG_OPEN awaits the end of its zeroisation. -/
  debugPending : Bool := false
  /-- R442 (14) path of the command whose response is still due. -/
  mbxBusy : Option MbxPath := none
  /-- R466 OZ_MBX_STATUS.STATE. -/
  mbxState : BitVec 2 := 0
  /-- R466 OZ_MBX_STATUS.RESP. -/
  mbxResp : BitVec 3 := 0
  /-- R466 OZ_MBX_STATUS.LENGTH. -/
  mbxLen : Nat := 0
  /-- R457 OZ_MBX_IGNORED 32 bits. -/
  mbxIgnored : Nat := 0
  /-- R442,R457 OZ_MBX_REQ, 4 KiB. -/
  req : Tab (BitVec 8) := []
  /-- R442,R457 OZ_MBX_RESP, 4 KiB. -/
  resp : Tab (BitVec 8) := []
  /-- R442 nonce in force and its tick of issue. -/
  nonce : Option (BitVec 256 × Nat) := none
  /-- R439,R443 (14) outputs drawn from the DRBG since it was seeded. -/
  drbg : Nat := 0
  /-- R439 (14) tick of its last seeding. -/
  drbgTick : Nat := 0
  /-- R443 (14) device identity key, derived at each start. -/
  identityKey : Option (BitVec 384) := none
  /-- R443 (14) key-encryption key, derived from the device secret. -/
  wrappingKey : Option (BitVec 256) := none
  /-- R450 open SPDM sessions. -/
  sessions : List Session := []
  /-- R450 connection state per transport: DOE, MCTP. -/
  spdm : Vector SpdmConn 2 := Vector.replicate 2 {}
  /-- R452 transmit direction keyed and running. -/
  ideTx : Bool := false
  /-- R452. -/
  ideRx : Bool := false
  /-- R452 KEY_PROG done. -/
  ideKeyTx : Bool := false
  /-- R452. -/
  ideKeyRx : Bool := false
  /-- R457 OZ_LED.LOCATE. -/
  led : Bool := false
  /-- R445 tick at which the running zeroisation began. -/
  zeroiseTick : Option Nat := none
  /-- R445 it was started by tamper. -/
  zeroiseTamper : Bool := false
  /-- R454 static SMBus address. -/
  smbAddr : Nat := 0x60
  /-- R454 I3C dynamic address. -/
  i3cAddr : Option Nat := none
  /-- R485 (16) ADDR_SEL straps sampled at standby start. -/
  addrSel : BitVec 2 := 0
  /-- R54 (02) conflicts of fuses and field-sparing record reported at the last map build: core, column, group. -/
  spokeConflicts : List (Nat × Bool × Nat) := []
  deriving DecidableEq, Repr

/-- The test access port (16). -/
structure Tap where
  /-- R487 (16) TAP controller state. -/
  st : TapSt := .testLogicReset
  /-- R487,R488 instruction register. -/
  ir : BitVec 8 := 0x01
  /-- R488 IR shift stage. -/
  irShift : BitVec 8 := 0x01
  /-- R488 bypass register. -/
  bypass : Bool := false
  /-- R489 identification shift stage. -/
  idShift : BitVec 32 := 0
  /-- R490 boundary shift stage. -/
  bndShift : BitVec 563 := 0
  /-- R490 boundary update stage. -/
  bnd : BitVec 563 := 0
  /-- R490 observed pin values, cell order. -/
  pins : BitVec 563 := 0
  /-- R485,R487 TDO, none when high impedance. -/
  tdo : Option Bool := none
  /-- R491 test state. -/
  testState : Bool := false
  /-- R491 test-only instructions available. -/
  testReady : Bool := false
  /-- R485 TEST_N level. -/
  testN : Bool := true
  /-- R492 who drives the covered pins. -/
  drive : TapDrive := .functional
  deriving DecidableEq, Repr

/-- What the registers of a fenced half's blocks show: its units, the active image and the tick as they stood at the fence (R465). -/
structure HalfView where
  /-- R465,R472 (15) CLK, the tier cache, the moraine and the lead. -/
  half : Half
  /-- R465,R469. -/
  stks : Vector Stack 32
  /-- R465,R471. -/
  ports : Vector Port 18
  /-- R465,R471. -/
  eth : Eth
  /-- R465,R472 the cores, whose requests and densities the CLK block shows. -/
  cores : Vector Core 8
  /-- R465 the cores fenced before. -/
  fencedCores : BitVec 8
  /-- R465 the stacks fenced before. -/
  fencedStacks : BitVec 32
  /-- R465 the active image, whose entries some of them show. -/
  active : Option (Nat × ImgCfg)
  /-- R465. -/
  tick : Nat
  deriving DecidableEq, Repr

/-- The whole module. -/
structure State where
  /-- the model's queue of waiting commands. -/
  pending : List Instr := []
  /-- R331 (10) CAS_TIME: the module's timebase, 64 bits of 1 ns ticks. -/
  tick : Nat := 0
  /-- the MODEL's own field: free values drawn so far. -/
  freeCtr : Nat := 0
  /-- R1,R3. -/
  fuses : Fuses := {}
  /-- R3. -/
  flash : Flash := {}
  /-- R425. -/
  glb : Glb := {}
  /-- R426. -/
  host : HostIf := {}
  /-- R438. -/
  oz : Oz := {}
  /-- R369. -/
  img : Img := {}
  /-- R16. -/
  cores : Vector Core 8 := Vector.replicate 8 {}
  /-- R16. -/
  halves : Vector Half 2 := Vector.replicate 2 {}
  /-- R16. -/
  stks : Vector Stack 32 := Vector.replicate 32 {}
  /-- R204,R211 (07) the 2 TiB of stack memory, key local physical address. -/
  mem : List Host.Cell := []
  /-- R208,R209 (07) POISON metadata bit of each sector, key address/32. -/
  mpoison : Tab Bool := []
  /-- R208 upset symbols of each stored sector: symbol index to error word. -/
  symErr : Tab (Tab (BitVec 16)) := []
  /-- R306. -/
  red : Red := {}
  /-- R346. -/
  ports : Vector Port 18 := Vector.replicate 18 {}
  /-- R347. -/
  cas : Cas := {}
  /-- R348. -/
  eths : Vector Eth 2 := Vector.replicate 2 {}
  /-- R465 (15) what a fenced half's blocks go on showing. -/
  fencedViews : Vector (Option HalfView) 2 := Vector.replicate 2 none
  /-- R396. -/
  pwr : Pwr := {}
  /-- R487. -/
  tap : Tap := {}
  /-- what the module has sent: messages, MSI-X writes, frames, responses, newest first. -/
  out : List Out := []
  deriving DecidableEq, Repr

/-- Why a step stops at something no rule of the spec gives an effect to. -/
inductive Fault
  /-- Kept for a stop the spec describes; no meaning of this model raises it. Safe: nothing can be proved through it. -/
  | stopped
  deriving DecidableEq, Repr

/-- Why a step refuses a command. -/
inductive Refusal
  /-- The command has no meaning in this model yet; raised by an arm of `exec` alone. Safe. -/
  | notModelled (mnemonic : String)
  deriving DecidableEq, Repr

/-- The machine right after the 48 V supply is applied: a cold start is about to begin (R398, R479). -/
def State.reset : State := {}


end Sys2Proof.Machine
end

