-- ==== Sys2Proof/Machine/Ops.lean ====
section
/-! DEFINITION. The named operations every meaning is built from: sparse tables, the units of the state, stack memory, free
values, and messages to the host. -/

namespace Sys2Proof.Machine

/-! ### Sparse tables -/

/-- The value a table holds for a key; an unlisted key reads as `d`. -/
def tabGet {β : Type} (d : β) : Tab β → Nat → β
  | [], _ => d
  | (k, v) :: t, n => if k = n then v else tabGet d t n

/-- The table with one key set; setting the default removes the entry, so the form stays canonical. -/
def tabSet {β : Type} [DecidableEq β] (d : β) : Tab β → Nat → β → Tab β
  | [], n, v => if v = d then [] else [(n, v)]
  | (k, w) :: t, n, v =>
    if k < n then (k, w) :: tabSet d t n v
    else if k = n then (if v = d then t else (n, v) :: t)
    else if v = d then (k, w) :: t else (n, v) :: (k, w) :: t

/-- A table with one key updated by a function. -/
def tabMod {β : Type} [DecidableEq β] (d : β) (t : Tab β) (n : Nat) (f : β → β) : Tab β :=
  tabSet d t n (f (tabGet d t n))

/-- Every listed key is at least `lo`, the keys rise strictly, and no entry equals the default. -/
def tabWfFrom {β : Type} [DecidableEq β] (d : β) : Nat → Tab β → Bool
  | _, [] => true
  | lo, (k, v) :: t => decide (lo ≤ k) && decide (v ≠ d) && tabWfFrom d (k + 1) t

/-- The canonical form of a sparse table. -/
def tabWf {β : Type} [DecidableEq β] (d : β) (t : Tab β) : Bool := tabWfFrom d 0 t

/-- The canonical form of memory: addresses strictly rising, no entry equal to the 0 an unlisted byte reads as. -/
abbrev Memory.wf (m : List Host.Cell) : Bool := tabWf (0 : BitVec 8) m

/-! ### The units of the state -/

def State.core (s : State) (c : Fin 8) : Core := s.cores.get c
def State.half (s : State) (h : Fin 2) : Half := s.halves.get h
def State.stack (s : State) (k : Fin 32) : Stack := s.stks.get k
def State.port (s : State) (p : Fin 18) : Port := s.ports.get p
def State.eth (s : State) (e : Fin 2) : Eth := s.eths.get e

def State.modCore (s : State) (c : Fin 8) (f : Core → Core) : State :=
  { s with cores := s.cores.set c (f (s.core c)) }
def State.modHalf (s : State) (h : Fin 2) (f : Half → Half) : State :=
  { s with halves := s.halves.set h (f (s.half h)) }
def State.modStack (s : State) (k : Fin 32) (f : Stack → Stack) : State :=
  { s with stks := s.stks.set k (f (s.stack k)) }
def State.modPort (s : State) (p : Fin 18) (f : Port → Port) : State :=
  { s with ports := s.ports.set p (f (s.port p)) }
def State.modEth (s : State) (e : Fin 2) (f : Eth → Eth) : State :=
  { s with eths := s.eths.set e (f (s.eth e)) }

def State.modGlb (s : State) (f : Glb → Glb) : State := { s with glb := f s.glb }
def State.modHost (s : State) (f : HostIf → HostIf) : State := { s with host := f s.host }
def State.modOz (s : State) (f : Oz → Oz) : State := { s with oz := f s.oz }
def State.modImg (s : State) (f : Img → Img) : State := { s with img := f s.img }
def State.modRed (s : State) (f : Red → Red) : State := { s with red := f s.red }
def State.modCas (s : State) (f : Cas → Cas) : State := { s with cas := f s.cas }
def State.modPwr (s : State) (f : Pwr → Pwr) : State := { s with pwr := f s.pwr }
def State.modTap (s : State) (f : Tap → Tap) : State := { s with tap := f s.tap }
def State.modFlash (s : State) (f : Flash → Flash) : State := { s with flash := f s.flash }
def State.modFuses (s : State) (f : Fuses → Fuses) : State := { s with fuses := f s.fuses }

def State.modArr (s : State) (c : Fin 8) (f : Arr → Arr) : State :=
  s.modCore c fun k => { k with arr := f k.arr }
def State.modScr (s : State) (c : Fin 8) (f : Scr → Scr) : State :=
  s.modCore c fun k => { k with scr := f k.scr }
def State.modMov (s : State) (c : Fin 8) (f : Mov → Mov) : State :=
  s.modCore c fun k => { k with mov := f k.mov }
def State.modSeq (s : State) (c : Fin 8) (f : Seq → Seq) : State :=
  s.modCore c fun k => { k with seq := f k.seq }
def State.modUpd (s : State) (c : Fin 8) (f : Upd → Upd) : State :=
  s.modCore c fun k => { k with upd := f k.upd }
def State.modPart (s : State) (c : Fin 8) (p : Fin 4) (f : Part → Part) : State :=
  s.modArr c fun a => { a with parts := a.parts.set p (f (a.parts.get p)) }
def State.part (s : State) (c : Fin 8) (p : Fin 4) : Part := (s.core c).arr.parts.get p
def State.bank (s : State) (c : Fin 8) (p : Fin 4) (b : Fin 2) : Bank := (s.part c p).banks.get b
def State.modBank (s : State) (c : Fin 8) (p : Fin 4) (b : Fin 2) (f : Bank → Bank) : State :=
  s.modPart c p fun q => { q with banks := q.banks.set b (f (q.banks.get b)) }

/-- Cores 0-3 are W0-W3, cores 4-7 are E0-E3 (R16). -/
def coreHalf (c : Fin 8) : Fin 2 := if c.val < 4 then 0 else 1
/-- Stacks 0-15 are the west half's, 16-31 the east half's (R16). -/
def stackHalf (k : Fin 32) : Fin 2 := if k.val < 16 then 0 else 1
/-- Ports 0-8 are the west half's, 9-17 the east half's (R16). -/
def portHalf (p : Fin 18) : Fin 2 := if p.val < 9 then 0 else 1

def fin8 (n : Nat) : Fin 8 := Fin.ofNat 8 n
def fin2 (n : Nat) : Fin 2 := Fin.ofNat 2 n
def fin4 (n : Nat) : Fin 4 := Fin.ofNat 4 n
def fin32 (n : Nat) : Fin 32 := Fin.ofNat 32 n
def fin18 (n : Nat) : Fin 18 := Fin.ofNat 18 n

def allCores : List (Fin 8) := [0, 1, 2, 3, 4, 5, 6, 7]
def allHalves : List (Fin 2) := [0, 1]
def allStacks : List (Fin 32) := (List.range 32).map fin32
def allPorts : List (Fin 18) := (List.range 18).map fin18
def allParts : List (Fin 4) := [0, 1, 2, 3]

/-- A change made to every member of a list of units. -/
def forAllOf {ι : Type} (l : List ι) (f : ι → State → State) (s : State) : State :=
  l.foldl (fun s i => f i s) s

/-- The array cycle of a core: its half's count (R370). -/
def State.cycle (s : State) (c : Fin 8) : Nat := (s.half (coreHalf c)).arrCycle

/-- The core works: up, not fenced, its clocks not gated. -/
def State.coreLive (s : State) (c : Fin 8) : Bool :=
  (s.core c).up && !(s.core c).fenced && !(s.core c).gated

/-- The core's clock domains run: live, the module in M0, its half's chainring locked and not held low in the gap of a switch
(R375, R378, R393). State of a core whose domains are held is kept, and nothing of it acts. -/
def State.coreRuns (s : State) (c : Fin 8) : Bool :=
  s.coreLive c && decide (s.pwr.state = 0) && !(s.half (coreHalf c)).pllLost && (s.half (coreHalf c)).switch ≠ .switching

/-- A swap is between its PREPARE and its end: the stewards hold arriving tokens, claims, fills and units (R410). -/
def State.swapRunning (s : State) : Bool := s.img.swap.phase = .preparing || s.img.swap.phase = .switching

/-- A work-queue doorbell, a token, claim or fill wakes the module from M1 (R394): the wake is pending. -/
def State.wakeM1 (s : State) : State :=
  if s.pwr.state = 1 && s.pwr.m1Wake.isNone then s.modPwr fun p => { p with m1Wake := some s.tick } else s

/-! ### Free values -/

/-- The n-th free value of the run is used up. -/
def State.draw (s : State) : State := { s with freeCtr := s.freeCtr + 1 }

/-! ### Stack memory: every local physical address holds a byte; unlisted bytes read 0 (R204, R211) -/

def State.memByte (s : State) (a : Nat) : BitVec 8 := tabGet 0 s.mem a
def State.setMemByte (s : State) (a : Nat) (b : BitVec 8) : State := { s with mem := tabSet 0 s.mem a b }

/-- `n` bytes of memory from address `a`. -/
def State.memBytes (s : State) (a n : Nat) : List (BitVec 8) := (List.range n).map fun i => s.memByte (a + i)

/-- Bytes written from address `a` upward. -/
def State.setMemBytes (s : State) (a : Nat) : List (BitVec 8) → State
  | [] => s
  | b :: bs => (s.setMemByte a b).setMemBytes (a + 1) bs

/-- An `n`-byte little-endian word of memory. -/
def State.memWord (s : State) (a n : Nat) : Nat := leNat (s.memBytes a n)
def State.setMemWord (s : State) (a n v : Nat) : State := s.setMemBytes a (natLe n v)

/-! ### Emissions -/

def State.emit (s : State) (o : Out) : State := { s with out := o :: s.out }

/-- An MSI-X message leaves: its vector's table entry gives the address and the data. -/
def State.msixSend (s : State) (v : Nat) : State :=
  let e := tabGet 0 s.host.msixAddr v
  (s.modHost fun h => { h with
      msixLast := tabSet 0 h.msixLast v (s.tick + 1)
      msixPending := h.msixPending &&& ~~~(1#64 <<< v) }).emit
    (.msix v (e.truncate 64) (e.extractLsb' 64 32))

/-- The host port carries memory requests and messages: its link is up and the function is in D0 (R426). PRESUMED (log entry 80, unsafe):
in D3hot a PCIe function takes no memory request and sends no message; the spec names the state alone. -/
def State.hostHears (s : State) : Bool := s.host.linkUp && s.host.dstate = 0

/-- An event of vector `v` (R435): masked, or with the host link down, it sets the pending bit; within 1 µs of the
vector's last message it shares the next one, sent when that microsecond ends; otherwise a message is sent. -/
def State.msix (s : State) (v : Nat) : State :=
  if !(s.host.msixUnmasked.getLsbD v) || !s.hostHears then
    s.modHost fun h => { h with msixPending := h.msixPending ||| (1#64 <<< v) }
  else
    let l := tabGet 0 s.host.msixLast v
    if l ≠ 0 ∧ s.tick < l - 1 + 1000 then s.modHost fun h => { h with msixOwed := h.msixOwed ||| (1#64 <<< v) }
    else s.msixSend v

/-- The messages that waited for their vector's microsecond to end (R435). -/
def State.msixDue (s : State) : State :=
  if s.host.msixOwed = 0 then s
  else (List.range 64).foldl (fun (s : State) v =>
    if s.host.msixOwed.getLsbD v && decide (tabGet 0 s.host.msixLast v + 999 ≤ s.tick) then
      (s.modHost fun h => { h with msixOwed := h.msixOwed &&& ~~~(1#64 <<< v) }).msix v
    else s) s

/-- Pending vectors that are unmasked send their messages once the host link is up, each at most one in a microsecond (R435). -/
def State.msixFlush (s : State) : State :=
  if !s.hostHears then s
  else (List.range 64).foldl (fun (s : State) v =>
    if s.host.msixPending.getLsbD v && s.host.msixUnmasked.getLsbD v then s.msix v else s) s

end Sys2Proof.Machine
end

