-- ==== Sys2Proof/Machine/Geometry.lean ====
section
/-! DEFINITION. The geometry of a matrix array: its partitions, its physical lines, the spoke map and the data path it makes,
the pass latency, and the pool of accumulators (R27, R45, R50 to R53, R57, R58). -/

namespace Sys2Proof.Machine

/-! ### Partitions (R57) -/

/-- Reduction depth of a partition: logical rows. -/
def PartMode.rows : PartMode → Nat
  | .quarter => 256
  | _ => 512
/-- Logical columns of a partition. -/
def PartMode.cols : PartMode → Nat
  | .full => 512
  | _ => 256
def PartMode.count : PartMode → Nat
  | .full => 1
  | .half => 2
  | .quarter => 4
/-- First logical row and column of a partition. -/
def PartMode.row0 (m : PartMode) (p : Nat) : Nat := if m = .quarter then p / 2 * 256 else 0
def PartMode.col0 (m : PartMode) (p : Nat) : Nat := if m = .full then 0 else p % 2 * 256
/-- Shortest residency, and the length of a load (R43, R58). -/
def PartMode.residency : PartMode → Nat
  | .quarter => 260
  | _ => 520
/-- Entries a bank has. -/
def PartMode.entries : PartMode → Nat
  | .quarter => 512
  | _ => 1024
/-- The loader half that serves a partition (R58). -/
def PartMode.loader (m : PartMode) (p : Nat) : Fin 2 := if m = .full then 0 else fin2 (p % 2)
/-- Two partitions share a drain converter half (R58). -/
def PartMode.sameConverter (m : PartMode) (p q : Nat) : Bool :=
  match m with
  | .full => true
  | .half => p = q
  | .quarter => p % 2 = q % 2

/-- Pass latency, nominal in each mode (R50). -/
def passLatency : PartMode → Nat
  | .full => 1044
  | .half => 788
  | .quarter => 532

/-! ### The spoke map (R53) -/

/-- Spoke-map state of a byte: 0 FREE, 1 fuse, 2 field, 3 DEAD. -/
def spokeState (b : BitVec 8) : Nat := fld b 7 6
/-- Offset of the defective line. -/
def spokeLine (b : BitVec 8) : Nat := fld b 5 0
/-- The group's spare is in use. -/
def spokeInUse (b : BitVec 8) : Bool := spokeState b = 1 || spokeState b = 2

/-- Groups of a map that are not FREE. -/
def usedGroups (t : Tab (BitVec 8)) : Nat := (t.filter fun x => spokeState x.2 ≠ 0).length

/-- Spares in use among the groups from `lo` up to `hi`. -/
def sparesIn (t : Tab (BitVec 8)) (lo hi : Nat) : Nat :=
  ((List.range hi).filter fun g => decide (lo ≤ g) && spokeInUse (tabGet 0 t g)).length

/-- A defective line at or before logical line `i` of its own group, its spare in use: the line has moved one position on. -/
def shifted (t : Tab (BitVec 8)) (i : Nat) : Bool :=
  spokeInUse (tabGet 0 t (i / 64)) && decide (spokeLine (tabGet 0 t (i / 64)) ≤ i % 64)

/-- Position of a logical line in the data path of the whole array (R51). -/
def pos (t : Tab (BitVec 8)) (i : Nat) : Nat := i + sparesIn t 0 (i / 64) + b2n (shifted t i)

/-- Position of a logical line counted from the first group of its partition, whose first line is `first` (R51). -/
def posIn (t : Tab (BitVec 8)) (first i : Nat) : Nat :=
  i - first + sparesIn t (first / 64) (i / 64) + b2n (shifted t i)

/-- Physical line of a logical line: lines 0-63 of a group of 65 are working lines and line 64 is the spare, which the
group's last logical line occupies when it is in use (R27, R51). -/
def lineOf (t : Tab (BitVec 8)) (i : Nat) : Nat := i / 64 * 65 + i % 64 + b2n (shifted t i)

/-- Physical lines that stand in the data path as pass-through stages: the defective line of each group whose spare is in
use, with its position (R51). -/
def passLines (t : Tab (BitVec 8)) (first n : Nat) : List (Nat × Nat) :=
  ((List.range ((first + n) / 64)).filter fun g => decide (first / 64 ≤ g) && spokeInUse (tabGet 0 t g)).map fun g =>
    let o := spokeLine (tabGet 0 t g)
    (g * 65 + o, g * 64 + o - first + sparesIn t (first / 64) g)

/-! ### Cells (R27) -/

/-- Key of the physical cell of a logical cell: line * 520 + line. -/
def Arr.cellKey (a : Arr) (row col : Nat) : Nat := lineOf a.spokeRow row * 520 + lineOf a.spokeCol col

/-- Spare rows and columns in use within a partition (R52). -/
def Arr.uRow (a : Arr) (p : Nat) : Nat :=
  sparesIn a.spokeRow (a.mode.row0 p / 64) ((a.mode.row0 p + a.mode.rows) / 64)
def Arr.uCol (a : Arr) (p : Nat) : Nat :=
  sparesIn a.spokeCol (a.mode.col0 p / 64) ((a.mode.col0 p + a.mode.cols) / 64)

/-- The equaliser's delay in a partition (R52). -/
def Arr.equaliser (a : Arr) (p : Nat) : Nat := if a.mode.count ≤ p then 0 else 8 - a.uRow p - a.uCol p

/-- The stages a vector passes from its issue to its bank (R50): regather and entry, row positions, column positions, drain,
equaliser. -/
def Arr.passStages (a : Arr) (p : Nat) : Nat :=
  3 + (a.mode.rows + a.uRow p) + (a.mode.cols + a.uCol p) + 9 + a.equaliser p

/-- Positions of a cell of a partition, by row and column within it (R51). -/
def Arr.rowPos (a : Arr) (p r : Nat) : Nat := posIn a.spokeRow (a.mode.row0 p) (a.mode.row0 p + r)
def Arr.colPos (a : Arr) (p j : Nat) : Nat := posIn a.spokeCol (a.mode.col0 p) (a.mode.col0 p + j)

/-- The array cycle in which a vector issued at cycle `t` reaches a cell of a partition (R33). -/
def Arr.reach (a : Arr) (p t r j : Nat) : Nat := t + 3 + a.rowPos p r + a.colPos p j

def Arr.defects (a : Arr) : Nat := usedGroups a.spokeRow + usedGroups a.spokeCol

/-! ### The accumulator pool (R45, R57) -/

/-- The logical lane a flight's output `o` takes in the accumulator pool (R45). -/
def laneOf (m : PartMode) (p : Nat) (transposed : Bool) (o : Nat) : Nat :=
  if transposed then o else m.col0 p + o

/-- The pool entry of a partition's entry: the northern quadrants' drain port is at entries 512-1,023 (R57). -/
def poolEntry (m : PartMode) (p e : Nat) : Nat := if m = .quarter ∧ p < 2 then 512 + e else e

/-- Key of a partition's entry and lane in a bank of the pool: entry * 512 + lane. -/
def poolKey (m : PartMode) (p : Nat) (transposed : Bool) (e o : Nat) : Nat :=
  poolEntry m p e * 512 + laneOf m p transposed o

/-- A key of the pool lies among a partition's lanes and entries (R57). -/
def inPool (m : PartMode) (p key : Nat) : Bool :=
  match m with
  | .full => true
  | .half => decide (key % 512 / 256 = p % 2)
  | .quarter => decide (key % 512 / 256 = p % 2) && decide ((512 ≤ key / 512) = (p < 2))

/-- The entries a bank of a partition holds in the pool. -/
def State.poolOf (s : State) (c : Fin 8) (b : Fin 2) : Tab AccEntry := (s.core c).arr.pool.get b

/-- The entries of a bank of a partition start afresh (R46). -/
def State.clearPool (s : State) (c : Fin 8) (p : Fin 4) (b : Fin 2) : State :=
  s.modArr c fun a => { a with
    pool := a.pool.set b ((a.pool.get b).filter fun x => !inPool a.mode p.val x.1) }

end Sys2Proof.Machine
end

