-- ==== Sys2Proof/Machine/Flags.lean ====
section
/-! DEFINITION. The fault flags, the fault log and the events that raising a code makes (R13, R14, R407, R408, R424, R461,
R466). -/

namespace Sys2Proof.Machine

/-! ### Fault codes (R14, R424) -/

/-- The W1C fault registers of R461. -/
inductive FlagReg
  | scr | mov | seq | upd | stk | tc | mor | red | prf | cas | eth | img | pwr | clk | glb
  deriving DecidableEq, Repr

/-- The codes of each fault register, bit 0 first (R461). -/
def flagCodes : FlagReg → List (BitVec 16)
  | .scr => [0x0201, 0x0203, 0x0204, 0x0205, 0x0206, 0x0310, 0x0311, 0x0312]
  | .mov => [0x0301, 0x0302, 0x0303, 0x0304, 0x0305]
  | .seq => [0x0401, 0x0402, 0x0403, 0x0404, 0x0405, 0x0406, 0x0407]
  | .upd => [0x0602, 0x0603, 0x0612]
  | .stk => [0x0501, 0x0502, 0x0503, 0x0504, 0x0505, 0x0506, 0x0507, 0x0508, 0x0509, 0x050A]
  | .tc => [0x0306]
  | .mor => [0x0604, 0x0610, 0x0611, 0x0612]
  | .red => [0x0701, 0x0702, 0x0703, 0x0704, 0x0705, 0x0706, 0x0707, 0x0708, 0x0709, 0x070A, 0x070B]
  | .prf => [0x0801, 0x0802, 0x0803, 0x0804, 0x0805]
  | .cas => [0x0806, 0x0807, 0x0808, 0x0809, 0x080A, 0x080B, 0x080C]
  | .eth => [0x0810, 0x0811]
  | .img => [0x0901, 0x0902, 0x0903, 0x0904, 0x0905, 0x0906, 0x0907, 0x0908, 0x0909]
  | .pwr => [0x0A02, 0x0A03, 0x0A04, 0x0A05, 0x0A08, 0x0A09]
  | .clk => [0x0A01, 0x0A06, 0x0A07]
  | .glb => [0x0B01, 0x0B02, 0x0B03, 0x0B04, 0x0B05, 0x0B06, 0x0B07,
             0x0C01, 0x0C02, 0x0C03, 0x0C04, 0x0C05, 0x0C06, 0x0C07, 0x0C08, 0x0C09, 0x0C0B, 0x0C0C]

/-- The flag of a code in a fault register, as a mask of `w` bits; 0 when the register does not cover the code. -/
def flagMask (w : Nat) (r : FlagReg) (code : BitVec 16) : BitVec w :=
  if (flagCodes r).contains code then 1#w <<< ((flagCodes r).idxOf code) else 0

/-- The fence domain of a code (R424): 0 core, 1 stack, 2 Prifa port, 3 half-die, 4 module. -/
def codeDomain (code : BitVec 16) : Nat :=
  let n := code.toNat
  let hi := n / 256
  if hi = 0x01 ∨ hi = 0x02 ∨ hi = 0x04 then 0
  else if hi = 0x03 then (if n = 0x0306 then 1 else 0)
  else if hi = 0x05 then 1
  else if n = 0x0601 ∨ n = 0x0602 ∨ n = 0x0603 ∨ n = 0x0612 then 0
  else if n = 0x0701 ∨ n = 0x0702 then 1
  else if n = 0x0707 ∨ n = 0x070A then 2
  else if 0x0801 ≤ n ∧ n ≤ 0x0805 then 2
  else if n = 0x0A01 ∨ n = 0x0A06 ∨ n = 0x0A07 then 3
  else if n = 0x0C03 ∨ n = 0x0C04 then 1
  else if n = 0x0C05 ∨ n = 0x0C07 then 3
  else if n = 0x0C06 then 0
  else if n = 0x0C08 then 2
  else 4

/-- The half that runs the moraine manager: that of the pool's first range (R262). -/
def State.morHalf (s : State) : Fin 2 :=
  match s.img.active.bind fun a => a.2.pool with
  | some p => fin2 (p.base0 / 2 ^ 40)
  | none => 0
/-- The half that runs the lead: that of the census region (R243). -/
def State.leadHalf (s : State) : Fin 2 :=
  match s.img.active with
  | some a => fin2 (a.2.censusBase / 2 ^ 40)
  | none => 0

/-- The flags of a raised code are set (R461). `unit` is the code's unit; `site` the half, Ethernet port or other
instance of the block that holds the flag where that is not the unit. -/
def State.setFlags (s : State) (code : BitVec 16) (unit site : Nat) : State :=
  let s := if (flagCodes .scr).contains code then
      s.modScr (fin8 unit) fun x => { x with fault := x.fault ||| flagMask 8 .scr code } else s
  let s := if (flagCodes .mov).contains code then
      s.modMov (fin8 unit) fun x => { x with fault := x.fault ||| flagMask 5 .mov code } else s
  let s := if (flagCodes .seq).contains code then
      s.modSeq (fin8 unit) fun x => { x with fault := x.fault ||| flagMask 7 .seq code } else s
  let s := if (flagCodes .upd).contains code then
      s.modUpd (fin8 unit) fun x => { x with fault := x.fault ||| flagMask 3 .upd code } else s
  let s := if (flagCodes .stk).contains code then
      s.modStack (fin32 unit) fun x => { x with fault := x.fault ||| flagMask 10 .stk code } else s
  let s := if (flagCodes .tc).contains code then
      s.modHalf (fin2 site) fun x => { x with tcFault := x.tcFault ||| flagMask 1 .tc code } else s
  let s := if (flagCodes .mor).contains code then
      s.modHalf (if code = 0x0604 then s.leadHalf else s.morHalf) fun x => { x with morFault := x.morFault ||| flagMask 4 .mor code } else s
  let s := if (flagCodes .red).contains code then
      s.modRed fun x => { x with fault := x.fault ||| flagMask 11 .red code } else s
  let s := if (flagCodes .prf).contains code then
      s.modPort (fin18 unit) fun x => { x with fault := x.fault ||| flagMask 5 .prf code } else s
  let s := if (flagCodes .cas).contains code then
      s.modCas fun x => { x with fault := x.fault ||| flagMask 7 .cas code } else s
  let s := if (flagCodes .eth).contains code then
      s.modEth (fin2 site) fun x => { x with fault := x.fault ||| flagMask 2 .eth code } else s
  let s := if (flagCodes .img).contains code then
      s.modImg fun x => { x with fault := x.fault ||| flagMask 9 .img code } else s
  let s := if (flagCodes .pwr).contains code then
      s.modPwr fun x => { x with fault := x.fault ||| flagMask 6 .pwr code } else s
  let s := if (flagCodes .clk).contains code then
      s.modHalf (fin2 unit) fun x => { x with clkFault := x.clkFault ||| flagMask 3 .clk code } else s
  if (flagCodes .glb).contains code then
      s.modGlb fun x => { x with faultFlags := x.faultFlags ||| flagMask 32 .glb code } else s

/-! ### The fault log (R407, R408) -/

/-- The 16-byte fault record of R407. -/
def faultRecord (code : BitVec 16) (dom unit : Nat) (fenced : Bool) (tick : Nat) (detail : BitVec 32) : BitVec 128 :=
  BitVec.ofNat 128 (code.toNat + dom % 8 * 2 ^ 16 + unit % 32 * 2 ^ 19 + b2n fenced * 2 ^ 24
    + tick % 2 ^ 64 * 2 ^ 32 + detail.toNat * 2 ^ 96)

/-- A recurrence adds to a record's REPEAT, which saturates at 127 (R407, R408). -/
def repeatRecord (r : BitVec 128) : BitVec 128 :=
  if fld r 31 25 = 127 then r else r + (1#128 <<< 25)

/-- A record joins the ring (R408): the oldest is written over, and one written over unread counts as lost and
moves the tail on by one. -/
def Glb.appendRecord (g : Glb) (r : BitVec 128) : Glb :=
  let idx := g.faultHead.toNat
  let g1 : Glb := { g with
    log := tabSet 0 g.log idx r
    faultHead := g.faultHead + 1
    seen := g.seen.filter fun x => x.idx ≠ idx }
  if g.faultHead = g.faultTail ∧ g.unreadAll then
    { g1 with faultTail := g.faultTail + 1, faultLost := satAdd 32 g.faultLost 1 }
  else { g1 with unreadAll := decide (g.faultHead + 1 = g.faultTail) }

/-- Whether the recurrence of a code for a unit folds into its last logged record (R408). -/
def Glb.foldsInto (g : Glb) (code : BitVec 16) (dom unit : Nat) (fenced : Bool) (tick : Nat) : Option FaultSeen :=
  g.seen.find? fun x => x.code = code && x.dom = dom && x.unit = unit && decide (tick < x.tick + 1000000)
    && (!fenced || bit (tabGet 0 g.log x.idx) 24)

/-- A fault is logged (R408): folded into its last record, or written as a new one. True when a record was written. -/
def Glb.logFault (g : Glb) (code : BitVec 16) (dom unit : Nat) (fenced : Bool) (tick : Nat) (detail : BitVec 32) :
    Glb × Bool :=
  match g.foldsInto code dom unit fenced tick with
  | some x => ({ g with log := tabMod 0 g.log x.idx repeatRecord }, false)
  | none =>
    let r := faultRecord code dom unit fenced tick detail
    let g1 := g.appendRecord r
    let others := g1.seen.filter fun x => !(x.code = code && x.dom = dom && x.unit = unit)
    ({ g1 with seen := ⟨code, dom, unit, g.faultHead.toNat, tick⟩ :: others }, true)

/-- Fence records, trips and remaps also go to flash (R408). -/
def keptInFlash (code : BitVec 16) (fenced : Bool) : Bool :=
  fenced || code = 0x0A08 || code = 0x0502 || code = 0x0503

/-- The CXL event log of a code and its record (R436): General Media for STK_UNCORRECTABLE in the failure log, DRAM for
STK_ROW_FAILED and STK_PAGE_RETIRING in the warning log. -/
def State.cxlEvent (s : State) (code : BitVec 16) (r : BitVec 128) : State :=
  if !s.host.cxl then s
  else if code = 0x0501 then s.modHost fun h => { h with cxlEvents := h.cxlEvents ++ [(2, r)] }
  else if code = 0x0502 ∨ code = 0x0503 then s.modHost fun h => { h with cxlEvents := h.cxlEvents ++ [(1, r)] }
  else s

/-- A code is raised: its flags, its record, and vector 0 for a written record with FENCED or of module domain. -/
def State.raise (s : State) (code : BitVec 16) (unit : Nat := 0) (detail : BitVec 32 := 0)
    (site : Nat := unit) (fenced : Bool := false) : State :=
  let dom := codeDomain code
  let s1 := (s.setFlags code unit site).cxlEvent code (faultRecord code dom unit fenced s.tick detail)
  let r := s1.glb.logFault code dom unit fenced s.tick detail
  let s2 := { s1 with glb := r.1 }
  if r.2 then
    let s3 := if keptInFlash code fenced then
        s2.modFlash fun f => { f with faultRecords := f.faultRecords ++
          [faultRecord code dom unit fenced s.tick detail] } else s2
    if fenced || dom = 4 then s3.msix 0 else s3
  else s2

/-- A write dropped under R13 is counted with its offset (R13, R466) and reported. -/
def State.ownershipError (s : State) (off : BitVec 27) (bar4 : Bool) : State :=
  (s.modGlb fun g => { g with
    ownErrCount := satAdd 32 g.ownErrCount 1, ownErrOffset := off, ownErrBar4 := bar4 }).raise 0x0B06
      (detail := off.zeroExtend 32)

/-- HST_RUN_EVENT changes (R466), which fires vector 44 (R435). -/
def State.runEvent (s : State) (event step module : Nat) (cause : BitVec 16) : State :=
  let n := satAdd 32 (fld s.cas.lastEvent 127 96) 1
  let w := event % 8 + step % 2 ^ 32 * 2 ^ 32 + module % 2 ^ 13 * 2 ^ 64 + cause.toNat * 2 ^ 80 + n * 2 ^ 96
  (s.modCas fun c => { c with lastEvent := BitVec.ofNat 128 w }).msix 44

end Sys2Proof.Machine
end

