-- ==== Sys2Proof/Machine/Numbers.lean ====
section
/-! DEFINITION. Element formats as exact numbers, and the one rounding every engine uses (chapter 03, R67 to R93). -/

namespace Sys2Proof.Machine

/-! ### Exact values -/

/-- A value an element stands for: NaN, an infinity, or (-1)^neg × m × 2^e; a zero keeps its sign. -/
inductive Val
  | nan
  | inf (neg : Bool)
  | num (neg : Bool) (m : Nat) (e : Int)
  deriving DecidableEq, Repr

def Val.zero : Val := .num false 0 0
def Val.one : Val := .num false 1 0

def Val.isFinite : Val → Bool
  | .num _ _ _ => true
  | _ => false

def Val.isZero : Val → Bool
  | .num _ 0 _ => true
  | _ => false

def Val.isNan : Val → Bool
  | .nan => true
  | _ => false

def Val.sign : Val → Bool
  | .nan => false
  | .inf n => n
  | .num n _ _ => n

def Val.negate : Val → Val
  | .nan => .nan
  | .inf n => .inf !n
  | .num n m e => .num (!n) m e

def Val.abs : Val → Val
  | .nan => .nan
  | .inf _ => .inf false
  | .num _ m e => .num false m e

/-- The value times 2^k, exactly. -/
def Val.scale (v : Val) (k : Int) : Val :=
  match v with
  | .num n m e => .num n m (e + k)
  | v => v

/-- The integer a finite value is in units of 2^e0, for e0 at or below its exponent. -/
def alignTo (neg : Bool) (m : Nat) (e e0 : Int) : Int :=
  let x : Int := (m * 2 ^ (e - e0).toNat : Nat)
  if neg then -x else x

/-- The value of an integer times 2^e; a zero takes the sign given. -/
def Val.ofInt (i : Int) (e : Int) (zeroNeg : Bool := false) : Val :=
  if i = 0 then .num zeroNeg 0 e else .num (decide (i < 0)) i.natAbs e

/-- Exact sum, with the IEEE sign of an exact zero under rounding to nearest. -/
def Val.add : Val → Val → Val
  | .nan, _ => .nan
  | _, .nan => .nan
  | .inf a, .inf b => if a = b then .inf a else .nan
  | .inf a, _ => .inf a
  | _, .inf b => .inf b
  | .num na ma ea, .num nb mb eb =>
    let e0 := min ea eb
    Val.ofInt (alignTo na ma ea e0 + alignTo nb mb eb e0) e0 (na && nb)

/-- Exact product. -/
def Val.mul : Val → Val → Val
  | .nan, _ => .nan
  | _, .nan => .nan
  | .inf a, .inf b => .inf (a != b)
  | .inf a, .num b m _ => if m = 0 then .nan else .inf (a != b)
  | .num a m _, .inf b => if m = 0 then .nan else .inf (a != b)
  | .num a ma ea, .num b mb eb => .num (a != b) (ma * mb) (ea + eb)

/-- A quotient kept to at least 80 bits with a sticky last bit: any later rounding of it to at most 40 bits is the
correct rounding of the exact quotient. -/
def Val.div : Val → Val → Val
  | .nan, _ => .nan
  | _, .nan => .nan
  | .inf _, .inf _ => .nan
  | .inf a, .num b _ _ => .inf (a != b)
  | .num a _ _, .inf b => .num (a != b) 0 0
  | .num a ma ea, .num b mb eb =>
    if mb = 0 then (if ma = 0 then .nan else .inf (a != b))
    else if ma = 0 then .num (a != b) 0 0
    else
      let sh := mb.log2 + 82
      let n := ma * 2 ^ sh
      let q := n / mb
      .num (a != b) (2 * q + b2n (n % mb != 0)) (ea - eb - sh - 1)

/-- Integer square root by binary digits: the largest r with r * r ≤ n. -/
def isqrtLoop (n : Nat) : Nat → Nat → Nat
  | 0, r => r
  | k + 1, r => let c := r + 2 ^ k; isqrtLoop n k (if c * c ≤ n then c else r)
def isqrt (n : Nat) : Nat := isqrtLoop n (n.log2 / 2 + 1) 0

/-- A square root kept to at least 80 bits with a sticky last bit. -/
def Val.sqrt : Val → Val
  | .nan => .nan
  | .inf n => if n then .nan else .inf false
  | .num n m e =>
    if m = 0 then .num n 0 e
    else if n then .nan
    else
      let sh : Nat := 2 * 82 + (if e % 2 = 0 then 0 else 1)
      let x := m * 2 ^ sh
      let r := isqrt x
      .num false (2 * r + b2n (r * r != x)) ((e - sh) / 2 - 1)

/-- Order of two finite values. -/
def Val.lt : Val → Val → Bool
  | .num na ma ea, .num nb mb eb =>
    let e0 := min ea eb
    decide (alignTo na ma ea e0 < alignTo nb mb eb e0)
  | .inf n, .inf m => n && !m
  | .inf n, .num _ _ _ => n
  | .num _ _ _, .inf m => !m
  | _, _ => false

/-- Exponent of the leading one of a nonzero finite value. -/
def Val.exponent : Val → Option Int
  | .num _ m e => if m = 0 then none else some (m.log2 + e)
  | _ => none

/-! ### Rounding (R88) -/

/-- round_half_even(n × 2^k): the nearest integer, ties to even. -/
def roundHalfEven (n : Nat) (k : Int) : Nat :=
  if 0 ≤ k then n * 2 ^ k.toNat
  else
    let d := (-k).toNat
    let f := n / 2 ^ d
    let r := n % 2 ^ d
    let h := 2 ^ (d - 1)
    if r > h ∨ (r = h ∧ f % 2 = 1) then f + 1 else f

/-- An IEEE-like format: precision, least exponent, bits, largest finite magnitude code, the code of infinity where
there is one, and the NaN the module writes (R69, R71, R77, R78, R88). -/
structure FpFmt where
  p : Nat
  emin : Int
  bits : Nat
  maxCode : Nat
  infCode : Option Nat
  nanCode : Nat
  deriving DecidableEq, Repr

def fpE4m3 : FpFmt := ⟨4, -6, 8, 0x7E, none, 0x7F⟩
def fpE5m2 : FpFmt := ⟨3, -14, 8, 0x7B, some 0x7C, 0x7F⟩
def fpE2m3 : FpFmt := ⟨4, 0, 6, 0x1F, none, 0x1F⟩
def fpE3m2 : FpFmt := ⟨3, -2, 6, 0x1F, none, 0x1F⟩
def fpE2m1 : FpFmt := ⟨2, 0, 4, 0x7, none, 0x7⟩
def fpBf16 : FpFmt := ⟨8, -126, 16, 0x7F7F, some 0x7F80, 0x7FC0⟩
def fpFp16 : FpFmt := ⟨11, -14, 16, 0x7BFF, some 0x7C00, 0x7E00⟩
def fpFp32 : FpFmt := ⟨24, -126, 32, 0x7F7FFFFF, some 0x7F800000, 0x7FC00000⟩
/-- LM48 as one 48-bit word: the FP32 word above its 16-bit extension (R78). -/
def fpLm48 : FpFmt := ⟨40, -126, 48, 0x7F7FFFFFFFFF, some 0x7F8000000000, 0x7FC000000000⟩

/-- Exponent of the last place of the smallest numbers. -/
def FpFmt.qmin (f : FpFmt) : Int := f.emin - (f.p - 1 : Nat)

/-- The value of a code. -/
def FpFmt.decode (f : FpFmt) (code : Nat) : Val :=
  let neg := decide (code / 2 ^ (f.bits - 1) % 2 = 1)
  let c := code % 2 ^ (f.bits - 1)
  if c > f.maxCode then (if f.infCode = some c then .inf neg else .nan)
  else
    let g := 2 ^ (f.p - 1)
    if c < g then .num neg c f.qmin
    else .num neg (g + c % g) (f.qmin + (c / g : Nat) - 1)

/-- A conversion's result: the code, and whether the value vanished or saturated (R88). -/
structure Conv where
  code : Nat
  vanished : Bool := false
  saturated : Bool := false
  deriving DecidableEq, Repr

/-- The magnitude code a finite magnitude rounds to, before the test against the largest finite value. -/
def FpFmt.magCode (f : FpFmt) (m : Nat) (e : Int) : Nat :=
  if m = 0 then 0
  else
    let t : Int := m.log2 + e
    let q := max t f.emin - (f.p - 1 : Nat)
    (q - f.qmin).toNat * 2 ^ (f.p - 1) + roundHalfEven m (e - q)

def FpFmt.signed (f : FpFmt) (neg : Bool) (c : Nat) : Nat := if neg then 2 ^ (f.bits - 1) + c else c

/-- An overflow's code (R89): the largest finite value, the infinity, or NaN where there is no infinity. -/
def FpFmt.overflow (f : FpFmt) (neg nonfinite : Bool) : Nat :=
  if nonfinite then
    match f.infCode with
    | some i => f.signed neg i
    | none => f.nanCode
  else f.signed neg f.maxCode

/-- round_fp of R88 with the overflow of R89 and the non-finite inputs of R91. -/
def FpFmt.round (f : FpFmt) (nonfinite : Bool) : Val → Conv
  | .nan => { code := f.nanCode }
  | .inf n => { code := f.overflow n nonfinite }
  | .num n m e =>
    let c := f.magCode m e
    if c > f.maxCode then { code := f.overflow n nonfinite, saturated := true }
    else { code := f.signed n c, vanished := decide (m ≠ 0) && decide (c = 0) }

/-- The value of an FP32 word, and the FP32 word a value rounds to under IEEE 754 (overflow to infinity). -/
def f32 (w : Nat) : Val := fpFp32.decode w
def toF32 (v : Val) : Nat := (fpFp32.round true v).code
/-- A value rounded to FP32. -/
def rn32 (v : Val) : Val := f32 (toF32 v)

def f32Add (a b : Nat) : Nat := toF32 ((f32 a).add (f32 b))
def f32Mul (a b : Nat) : Nat := toF32 ((f32 a).mul (f32 b))
/-- a × b + c with one rounding (R86). -/
def f32Fma (a b c : Nat) : Nat := toF32 (((f32 a).mul (f32 b)).add (f32 c))

/-! ### Formats (R67) -/

def Fmt.code : Fmt → Nat
  | .e4m3 => 0x0 | .e5m2 => 0x1 | .mxfp8e4 => 0x2 | .mxfp8e5 => 0x3 | .mxfp6e2m3 => 0x4 | .mxfp6e3m2 => 0x5
  | .mxfp4 => 0x6 | .pb8 => 0x7 | .pb6 => 0x8 | .pb4 => 0x9 | .bf16 => 0xA | .fp16 => 0xB | .fp32 => 0xC
  | .lm48 => 0xD | .lf48 => 0xE

/-- The format of a code; code 0xF is reserved. -/
def fmtOfCode (n : Nat) : Option Fmt :=
  match n with
  | 0x0 => some .e4m3 | 0x1 => some .e5m2 | 0x2 => some .mxfp8e4 | 0x3 => some .mxfp8e5 | 0x4 => some .mxfp6e2m3
  | 0x5 => some .mxfp6e3m2 | 0x6 => some .mxfp4 | 0x7 => some .pb8 | 0x8 => some .pb6 | 0x9 => some .pb4
  | 0xA => some .bf16 | 0xB => some .fp16 | 0xC => some .fp32 | 0xD => some .lm48 | 0xE => some .lf48
  | _ => none

def Fmt.isArrayOperand (f : Fmt) : Bool := decide (f.code ≤ 0xB)
def Fmt.isDrainOutput : Fmt → Bool
  | .e4m3 | .e5m2 | .mxfp8e4 | .mxfp8e5 | .pb8 | .bf16 | .fp32 => true
  | _ => false
/-- Formats with an E8M0 scale per 32-element block. -/
def Fmt.isBlock (f : Fmt) : Bool := decide (2 ≤ f.code ∧ f.code ≤ 9)
def Fmt.isPlaned (f : Fmt) : Bool := decide (7 ≤ f.code ∧ f.code ≤ 9)
/-- Formats with an E8M0 tensor scale. -/
def Fmt.isTensorScaled (f : Fmt) : Bool := decide (f.code ≤ 1)
/-- BF16 and FP16, which accumulate in FP32 (R86). -/
def Fmt.isFloatPath (f : Fmt) : Bool := f = .bf16 || f = .fp16

/-- Planes a planed format stores by its own name. -/
def Fmt.planes : Fmt → Nat
  | .pb6 => 6
  | .pb4 => 4
  | _ => 8

/-- Planes read for a PLANES code: 0 eight, 1 six, 2 four. -/
def planesOfCode (n : Nat) : Nat := if n = 0 then 8 else if n = 1 then 6 else 4

/-- Element bits (R67); planed formats by their planes, LM48 its FP32 word. -/
def Fmt.bits : Fmt → Nat
  | .e4m3 | .e5m2 | .mxfp8e4 | .mxfp8e5 | .pb8 => 8
  | .mxfp6e2m3 | .mxfp6e3m2 | .pb6 => 6
  | .mxfp4 | .pb4 => 4
  | .bf16 | .fp16 => 16
  | .fp32 => 32
  | .lm48 | .lf48 => 48

/-- Element bits as the array or a converter reads it: a planed tensor at the planes it is read. -/
def readBits (f : Fmt) (planes : Nat) : Nat := if f.isPlaned then planes else f.bits

/-- The element type under a block or tensor scale, for floating-point elements. -/
def Fmt.elem : Fmt → Option FpFmt
  | .e4m3 | .mxfp8e4 => some fpE4m3
  | .e5m2 | .mxfp8e5 => some fpE5m2
  | .mxfp6e2m3 => some fpE2m3
  | .mxfp6e3m2 => some fpE3m2
  | .mxfp4 => some fpE2m1
  | .bf16 => some fpBf16
  | .fp16 => some fpFp16
  | .fp32 => some fpFp32
  | .lm48 => some fpLm48
  | _ => none

/-- The value of a planed element read at `j` planes (R73, R76), before its scale. -/
def planedVal (j : Nat) (mid : Bool) (code : Nat) : Val :=
  let neg := decide (code / 2 ^ (j - 1) % 2 = 1)
  let m := code % 2 ^ (j - 1)
  let u : Int := -((j : Int) - 2)
  if mid && m ≠ 0 then .num neg (2 * m + 1) (u - 1) else .num neg m u

/-- An LM48 word's value (R78): with exponent 255 that of its FP32 word, whatever the extension holds. -/
def lm48Val (code : Nat) : Val :=
  if code / 2 ^ 39 % 256 = 255 then fpFp32.decode (code / 2 ^ 16) else fpLm48.decode code

/-- The value of an element as read (R79): its code, its E8M0 scale, the planes read and MIDPOINT, which has effect
only when fewer planes are read than stored. A scale of 0xFF reads as NaN (R70). -/
def elemVal (f : Fmt) (planes stored : Nat) (mid : Bool) (code scale : Nat) : Val :=
  if f = .lm48 then lm48Val code
  else if f.isFloatPath || f = .fp32 then
    match f.elem with
    | some e => e.decode code
    | none => .nan
  else if scale = 0xFF then .nan
  else
    let v := if f.isPlaned then planedVal planes (mid && decide (planes < stored)) code
      else match f.elem with
        | some e => e.decode code
        | none => .nan
    v.scale ((scale : Int) - 127)

/-- The greatest unit exponent of a format as read (R79). -/
def uMax (f : Fmt) (planes stored : Nat) (mid : Bool) : Int :=
  match f with
  | .e4m3 | .mxfp8e4 => 5
  | .e5m2 | .mxfp8e5 => 13
  | .mxfp6e2m3 => -1
  | .mxfp6e3m2 => 2
  | .mxfp4 => 1
  | _ =>
    let m := b2n (mid && decide (planes < stored))
    if planes = 8 then -6 else if planes = 6 then -4 - (m : Int) else -2 - (m : Int)

/-- select_anchor of R81 under AUTO. -/
def autoAnchor (us ui : Int) (xw xi : Nat) : Int := us + ui + (min xw 254 : Nat) + (min xi 254 : Nat) - 254

/-! ### Block conversion (R90, R91) -/

/-- The largest finite FP32 value with a sign: what a saturated lane, or an infinity under SATURATE, counts as. -/
def maxFp32 (neg : Bool) : Val := .num neg (2 ^ 24 - 1) 104

/-- The larger of two magnitudes, as finite values. -/
def maxMag (a b : Val) : Val := if a.abs.lt b.abs then b.abs else a.abs

/-- The magnitude bits below the leading one of a planed format's largest scale step: 6, 4 or 2. -/
def planeShift (j : Nat) : Int := (j : Int) - 2

/-- The largest exponent of an MX element type, as block_scale uses it. -/
def mxEmax : Fmt → Int
  | .mxfp8e4 | .e4m3 => 8
  | .mxfp8e5 | .e5m2 => 15
  | .mxfp6e2m3 => 2
  | .mxfp6e3m2 => 4
  | _ => 2

/-- block_scale of R90 from the largest finite magnitude. -/
def blockScale (f : Fmt) (amax : Val) : Nat :=
  match amax.exponent, amax with
  | some t, .num _ m e =>
    if f.isPlaned then
      let sh := planeShift f.planes
      let x := clampTo 0 254 (t + 127).toNat
      if x < 254 ∧ roundHalfEven m (e + 127 - x + sh) = 2 ^ (sh + 1).toNat then x + 1 else x
    else clampTo 0 254 (t - mxEmax f + 127).toNat
  | _, _ => 0

/-- One element of a block under the block's scale X (R90). -/
def blockElem (f : Fmt) (x : Nat) (v : Val) : Conv :=
  match v with
  | .num neg m e =>
    if f.isPlaned then
      let j := f.planes
      let q := min (roundHalfEven m (e + 127 - x + planeShift j)) (2 ^ (j - 1) - 1)
      { code := (if neg then 2 ^ (j - 1) else 0) + q, vanished := decide (m ≠ 0) && decide (q = 0) }
    else
      match f.elem with
      | some ef => ef.round false ((v.scale (127 - x)))
      | none => { code := 0 }
  | _ => { code := 0 }

/-- A block of values to a block format: its scale and its elements. A NaN anywhere, or an infinity under NONFINITE,
writes scale 0xFF and elements 0 (R91). -/
def convBlock (f : Fmt) (nonfinite : Bool) (vs : List Val) : Nat × List Conv :=
  if vs.any (fun v => v.isNan || (nonfinite && !v.isFinite)) then
    (0xFF, vs.map fun _ => { code := 0 })
  else
    let ws := vs.map fun v => match v with
      | .inf n => maxFp32 n
      | v => v
    let x := blockScale f (ws.foldl maxMag Val.zero)
    (x, ws.map (blockElem f x))

/-! ### Layouts of packed data (R72, R74) -/

/-- Elements of `w` bits packed into bytes, element j in bits [w*j + w - 1 : w*j]. -/
def packBits (w : Nat) (codes : List Nat) : Nat :=
  (codes.foldl (fun (acc : Nat × Nat) c => (acc.1 + c % 2 ^ w * 2 ^ acc.2, acc.2 + w)) (0, 0)).1
def packBytes (w : Nat) (codes : List Nat) : List (BitVec 8) :=
  natLe ((w * codes.length + 7) / 8) (packBits w codes)

/-- Element j of packed bytes. -/
def unpackAt (w : Nat) (bs : List (BitVec 8)) (j : Nat) : Nat :=
  leNat ((bs.drop (w * j / 8)).take ((w + 14) / 8)) / 2 ^ (w * j % 8) % 2 ^ w

/-- A plane word of a block (R74): bit P of each element's code, element j in bit j; plane 0 is the sign. -/
def planeWord (j : Nat) (p : Nat) (codes : List Nat) : Nat :=
  packBits 1 (codes.map fun c => c / 2 ^ (j - 1 - p) % 2)

/-! ### Tensor numeric policy (R93) -/

structure Policy where
  fmt : Option Fmt
  stored : Nat
  midpoint : Bool
  nonfinite : Bool
  nfTrap : Bool
  satTrap : Bool
  fixed : Bool
  deriving DecidableEq, Repr

def policyOf (w : BitVec 16) : Policy where
  fmt := fmtOfCode (fld w 3 0)
  stored := planesOfCode (fld w 5 4)
  midpoint := bit w 6
  nonfinite := bit w 7
  nfTrap := bit w 8
  satTrap := bit w 9
  fixed := bit w 10

/-- A policy word image validation accepts (R93): reserved bits 0; PB_STORED only for planed formats, not the
reserved code, and not below the format's read width. -/
def policyOk (w : BitVec 16) : Bool :=
  fld w 15 11 = 0 &&
  match fmtOfCode (fld w 3 0) with
  | none => false
  | some f =>
    if f.isPlaned then fld w 5 4 ≠ 3 && decide (f.planes ≤ planesOfCode (fld w 5 4)) else fld w 5 4 = 0

end Sys2Proof.Machine
end

