-- ==== Sys2Proof/Machine/Slots.lean ====
section
/-! DEFINITION. Buffer slots: the table entry, buffer states and pointers, tokens, claims and acquisitions
(R115 to R126, R191 to R199, R497). -/

namespace Sys2Proof.Machine

/-- The image in force, when there is one (R360). -/
def State.cfg (s : State) : Option ImgCfg := s.img.active.map (·.2)

/-- A slot table entry, unpacked (R116). -/
structure SlotEnt where
  /-- Buffers in stack memory. -/
  home : Bool
  versioned : Bool
  /-- Buffers, 1-4. -/
  depth : Nat
  fills : Nat
  drains : Nat
  /-- Size of a buffer in bytes. -/
  size : Nat
  base : Nat
  deriving DecidableEq, Repr

def slotEntOf (e : BitVec 128) : SlotEnt where
  home := bit e 0
  versioned := bit e 1
  depth := fld e 3 2 + 1
  fills := fld e 7 4
  drains := fld e 11 8
  size := fld e 39 16 * 512
  base := fld e 104 64

/-- An entry with BUF_UNITS 0 is unused (R116). -/
def slotUsed (e : BitVec 128) : Bool := fld e 39 16 ≠ 0

/-- The slot's entry in an image. -/
def ImgCfg.slotRaw (g : ImgCfg) (c slot : Nat) : Option (BitVec 128) :=
  (g.slots.find? fun x => x.core = c && x.slot = slot && slotUsed x.entry).map (·.entry)

/-- The entry of a used slot of a core in the active image. -/
def State.slotEnt (s : State) (c : Fin 8) (slot : Nat) : Option SlotEnt :=
  (s.cfg.bind fun g => g.slotRaw c slot).map slotEntOf

/-- Buffer b begins at BASE + b × BUF_UNITS × 512 (R116). -/
def SlotEnt.bufBase (e : SlotEnt) (b : Nat) : Nat := e.base + b * e.size

/-- The speculation table lists the slot as REPLACE (R192). -/
def State.isReplace (s : State) (c : Fin 8) (slot : Nat) : Bool :=
  match s.cfg with
  | some g => g.replace_.contains (c.val, slot)
  | none => false

def State.slotSt (s : State) (c : Fin 8) (slot : Nat) : SlotSt := tabGet {} (s.core c).scr.slots slot

/-- The one operation that changes a slot's state. A stack-homed slot's copy at the steward follows it in the same
array cycle (R414). -/
def State.setSlot (s : State) (c : Fin 8) (slot : Nat) (st : SlotSt) : State :=
  let stack := match s.slotEnt c slot with
    | some e => e.home
    | none => false
  s.modCore c fun k => { k with
    scr := { k.scr with slots := tabSet {} k.scr.slots slot st }
    stewSlots := if stack then tabSet {} k.stewSlots slot st else k.stewSlots }

def SlotSt.buf (st : SlotSt) (b : Nat) : SlotBuf := st.bufs.get (fin4 b)
def SlotSt.setBuf (st : SlotSt) (b : Nat) (x : SlotBuf) : SlotSt := { st with bufs := st.bufs.set (fin4 b) x }

/-- The névé buffer of a versioned slot: the one that is not firn (R126). -/
def SlotSt.neveBuf (st : SlotSt) : Nat := if st.firn = 0 then 1 else 0

/-- The buffer a claim would be granted on: the névé buffer of a versioned slot, else the write pointer's. -/
def claimBuf (e : SlotEnt) (st : SlotSt) : Nat := if e.versioned then st.neveBuf else st.wp

/-- Whether the epochs allow a claim (R192, R195): a speculative claim on an object that belongs to no epoch or to its
own, a non-speculative claim on a versioned slot that belongs to none. -/
def epochAllowsClaim (e : SlotEnt) (replace : Bool) (st : SlotSt) (epoch : BitVec 16) : Bool :=
  if e.versioned then st.epoch = 0 || (epoch ≠ 0 && st.epoch = epoch)
  else if replace && epoch ≠ 0 then st.epoch = 0 || st.epoch = epoch
  else true

/-- Whether a claim can be granted now (R118): a speculative one begins a REPLACE buffer only when it is EMPTY (R192). -/
def claimable (e : SlotEnt) (replace : Bool) (st : SlotSt) (epoch : BitVec 16) : Bool :=
  let b := st.buf (claimBuf e st)
  epochAllowsClaim e replace st epoch &&
    (b.st = .empty || (b.st = .filling && decide (b.claims < e.fills)
      && (e.versioned || !replace || epoch = 0 || b.epoch = epoch)))

/-- The write pointer steps on to the next buffer; after a cancellation, past every buffer that already holds a granted
claim, up to where the pointer had stood, and past that one too while it holds one (R118, R497). -/
def stepWp (e : SlotEnt) (st : SlotSt) : Nat → SlotSt
  | 0 => st
  | n + 1 =>
    let w := (st.wp + 1) % e.depth
    match st.resume with
    | none => { st with wp := w }
    | some r =>
      if w = r then
        let x := (r + 1) % e.depth
        { st with wp := if (st.buf r).st = .filling && (st.buf x).st ≠ .filling then x else r, resume := none }
      else if (st.buf w).st = .empty then { st with wp := w }
      else stepWp e { st with wp := w } n

/-- A claim granted: its buffer, and the slot after it. A fill of a versioned slot that a speculative claim joins is its epoch's
(R192). -/
def grantClaim (e : SlotEnt) (replace : Bool) (st : SlotSt) (epoch : BitVec 16) : Nat × SlotSt :=
  let i := claimBuf e st
  let b := st.buf i
  let b' : SlotBuf := if b.st = .empty then { st := .filling, claims := 1, epoch := epoch } else { b with
    claims := b.claims + 1, epoch := if e.versioned && epoch ≠ 0 then epoch else b.epoch }
  let st1 := st.setBuf i b'
  let st2 := if (e.versioned || replace) && epoch ≠ 0 then
      { st1 with
        epoch := epoch
        firstClaim := if st1.firstClaim.isSome then st1.firstClaim else some i } else st1
  (i, if !e.versioned && b'.claims = e.fills then stepWp e st2 4 else st2)

/-- The buffer an acquisition reads: firn, or névé when the reader asks for it, of a versioned slot; else the read
pointer's (R126, R194). -/
def acquireBuf (e : SlotEnt) (st : SlotSt) (neve : Bool) : Nat :=
  if e.versioned then (if neve then st.neveBuf else st.firn) else st.rp

/-- Whether an acquisition can be granted now (R118, R194): a névé buffer of a KEEP object only once it is FULL and only to a
speculative task, a REPLACE buffer marked névé only to a speculative task of its epoch. -/
def acquirable (e : SlotEnt) (st : SlotSt) (epoch : BitVec 16) (neve : Bool) : Bool :=
  let b := st.buf (acquireBuf e st neve)
  (b.st = .full || (b.st = .reading && decide (b.acqs < e.drains))) &&
    (if e.versioned && neve then b.neve && epoch ≠ 0
     else if !e.versioned && b.neve then epoch ≠ 0 && st.epoch = epoch
     else true)

/-- An acquisition granted: its buffer, and the slot after it. -/
def grantAcquire (e : SlotEnt) (st : SlotSt) (neve : Bool) : Nat × SlotSt :=
  let i := acquireBuf e st neve
  let b := st.buf i
  let b' : SlotBuf := { b with st := .reading, acqs := b.acqs + 1 }
  let st1 := st.setBuf i b'
  (i, if !e.versioned && b'.acqs = e.drains then
        { st1 with
          rp := (st1.rp + 1) % e.depth
          rpPassed := st1.rpPassed || decide (st1.firstClaim = some i) }
      else st1)

/-- A buffer's return to EMPTY: its counts start afresh. -/
def emptyBuf : SlotBuf := {}

/-- A versioned slot's roles exchange (R126, R195, R197): the névé buffer becomes firn and FULL, and the buffer that was
firn becomes névé: still READING while releases are to come, otherwise EMPTY. -/
def SlotSt.flip (st : SlotSt) : SlotSt :=
  let n := st.neveBuf
  let o := st.buf st.firn
  let st1 := st.setBuf n { st.buf n with st := .full, rels := 0, acqs := 0, neve := false }
  { (if o.st = .reading && decide (o.rels < o.acqs) then st1 else st1.setBuf st.firn emptyBuf) with firn := n }

/-- A fill token (R118, R124, R195): none when the buffer has no outstanding claim. The last of FILLS makes the buffer
FULL; on a versioned slot outside any epoch it also flips the roles at once; a buffer filled speculatively is marked névé
(R194). -/
def applyFill (e : SlotEnt) (replace : Bool) (st : SlotSt) (b : Nat) : Option SlotSt :=
  let x := st.buf b
  if e.depth ≤ b ∨ x.st ≠ .filling ∨ x.claims ≤ x.fills then none
  else
    let n := x.fills + 1
    let full := decide (n = e.fills)
    let mark := full && (if e.versioned then st.epoch ≠ 0 else replace && x.epoch ≠ 0)
    let st1 := st.setBuf b { x with fills := n, st := if full then .full else .filling, neve := mark }
    some (if full && e.versioned && st.epoch = 0 then st1.flip else st1)

/-- A release token (R118, R124): none when the buffer has no outstanding acquisition. The last of DRAINS makes the
buffer EMPTY; of a buffer that was firn, which takes no further acquisition, the last that is due (R197). -/
def applyRelease (e : SlotEnt) (st : SlotSt) (b : Nat) : Option SlotSt :=
  let x := st.buf b
  if e.depth ≤ b ∨ x.st ≠ .reading ∨ x.acqs ≤ x.rels then none
  else
    let n := x.rels + 1
    let left := e.versioned && b ≠ st.firn && !x.neve && decide (n = x.acqs)
    if n = e.drains || left then some (st.setBuf b emptyBuf)
    else some (st.setBuf b { x with rels := n })

/-- One granted claim on a buffer cancelled: a buffer left with no outstanding claim returns to EMPTY (R188). -/
def cancelOne (st : SlotSt) (b : Nat) : SlotSt :=
  let x := st.buf b
  if x.st ≠ .filling then st
  else if x.claims ≤ x.fills + 1 then st.setBuf b emptyBuf
  else st.setBuf b { x with claims := x.claims - 1 }

/-- The earliest buffer, in ring order from the read pointer, of those a test holds for. -/
def earliest (e : SlotEnt) (st : SlotSt) (p : Nat → Bool) : Option Nat :=
  ((List.range e.depth).map fun i => (st.rp + i) % e.depth).find? p

/-- The pointers after a cancellation (R497): the write pointer returns to the earliest buffer that it, or a cancellation whose
buffers have not all been claimed again, left EMPTY. Where it had stood stays on record, so that it steps on past every buffer
that holds a granted claim. -/
def pointersAfterCancel (e : SlotEnt) (before after : SlotSt) : SlotSt :=
  if e.versioned then after
  else
    let left (b : Nat) : Bool := (after.buf b).st = .empty &&
      ((before.buf b).st ≠ .empty || (after.resume.isSome && b = after.wp))
    let full (b : Nat) : Bool := decide (e.fills ≤ (before.buf b).claims)
    match earliest e after left with
    | none => after
    | some b => { after with
        wp := b
        resume := if after.resume.isSome then after.resume
          else if b = after.wp && !full b then none else some after.wp }

/-- A slot's state when a discard of its epoch completes (R198, R497): the névé buffer of a KEEP object and the buffers
of a REPLACE object that the epoch filled return to EMPTY, the pointers move back, and the slot leaves the epoch. Where the read pointer returns to a
buffer, that is the earliest one left EMPTY, and the write pointer returns to it too. -/
def discardSlot (e : SlotEnt) (replace : Bool) (st : SlotSt) : SlotSt :=
  if e.versioned then
    { st.setBuf st.neveBuf emptyBuf with epoch := 0, firstClaim := none, rpPassed := false }
  else if replace then
    let st1 := foldUpTo e.depth (fun b x => if (x.buf b).epoch = st.epoch then x.setBuf b emptyBuf else x) st
    let st2 := match st.firstClaim with
      | some f => if st.rpPassed then { st1 with rp := f, wp := f, resume := none } else pointersAfterCancel e st st1
      | none => pointersAfterCancel e st st1
    { st2 with epoch := 0, firstClaim := none, rpPassed := false }
  else st

/-- A slot's state when a settle of its epoch completes (R197): the névé buffer of a KEEP object becomes firn and FULL,
and a REPLACE object loses its névé mark. -/
def settleSlot (e : SlotEnt) (st : SlotSt) : SlotSt :=
  let st1 := { st with
    epoch := 0, firstClaim := none, rpPassed := false, bufs := st.bufs.map fun b => { b with neve := false, epoch := 0 } }
  if e.versioned then st1.flip else st1

/-- The slots of a core that belong to an epoch. -/
def State.slotsOfEpoch (s : State) (c : Fin 8) (id : BitVec 16) : List Nat :=
  ((s.core c).scr.slots.filter fun x => x.2.epoch = id).map (·.1)

end Sys2Proof.Machine
end

