-- ==== Sys2Proof/Machine/Topology.lean ====
section
/-! DEFINITION. The LINK section's picture of the cascade: the fields of a port entry, and the cascade tree that the tree edges of the
stage's modules make (R321 to R323, R326). -/

namespace Sys2Proof.Machine

/-! ### A port entry (R321) -/

def prfRole (e : BitVec 128) : Nat := fld e 2 0
def prfDim (e : BitVec 128) : Nat := fld e 4 3
def prfSign (e : BitVec 128) : Nat := fld e 5 5
def prfPeer (e : BitVec 128) : Nat := fld e 18 6
def prfPeerPort (e : BitVec 128) : Nat := fld e 23 19
def prfTree (e : BitVec 128) : Nat := fld e 25 24
def prfCombine (e : BitVec 128) : Bool := bit e 26

/-- The dimension a port's link runs in (R322): each torus dimension, the stage chain, the channel. -/
def linkDim (e : BitVec 128) : Nat × Nat :=
  if prfRole e = 1 then (1, prfDim e) else if prfRole e = 3 then (2, 0) else (prfRole e, 0)

def ImgCfg.portAt (g : ImgCfg) (m p : Nat) : Option (BitVec 128) :=
  (g.ports.find? fun x => x.module = m && x.port = p).map (·.entry)

/-- Modules whose ports the section gives: those of one stage. -/
def ImgCfg.portModules (g : ImgCfg) : List Nat := (g.ports.map (·.module)).eraseDups

/-! ### The tree (R322, R323) -/

/-- A port's link is a tree edge when either end marks it so. -/
def ImgCfg.treeEdge (g : ImgCfg) (e : BitVec 128) : Bool :=
  prfRole e ≠ 0 && (prfTree e = 1 || (match g.portAt (prfPeer e) (prfPeerPort e) with
    | some q => prfTree q = 1
    | none => false))

/-- The tree edges of the section, each once: those between two of its modules, and those that leave the stage. -/
def ImgCfg.treeEdges (g : ImgCfg) : List (Nat × Nat) :=
  g.ports.filterMap fun x =>
    let m := prfPeer x.entry
    if g.treeEdge x.entry && (decide (x.module < m) || !g.portModules.contains m) then some (x.module, m) else none

/-- The modules the section's tree edges speak of. -/
def ImgCfg.treeNodes (g : ImgCfg) : List Nat := (g.portModules ++ g.treeEdges.map (·.2)).eraseDups

/-- Edges joined one by one: component labels, or none when an edge closes a cycle. -/
def joinEdges : List (Nat × Nat) → List (Nat × Nat) → Option (List (Nat × Nat))
  | [], l => some l
  | e :: es, l =>
    let a := ((l.find? fun x => x.1 = e.1).map (·.2)).getD e.1
    let b := ((l.find? fun x => x.1 = e.2).map (·.2)).getD e.2
    if a = b then none else joinEdges es (l.map fun x => if x.2 = b then (x.1, a) else x)

def labels (ms : List Nat) : List (Nat × Nat) := ms.map fun m => (m, m)
def connected (l : List (Nat × Nat)) (a b : Nat) : Bool := (l.find? fun x => x.1 = a).map (·.2) = (l.find? fun x => x.1 = b).map (·.2)

/-- The component labels of the tree with one module taken out of it. -/
def ImgCfg.treeWithout (g : ImgCfg) (m : Nat) : Option (List (Nat × Nat)) :=
  joinEdges (g.treeEdges.filter fun e => e.1 ≠ m && e.2 ≠ m) (labels g.treeNodes)

/-- The component of a module reaches a module of another stage. -/
def ImgCfg.leavesStage (g : ImgCfg) (l : List (Nat × Nat)) (m : Nat) : Bool :=
  l.any fun x => !g.portModules.contains x.1 && connected l x.1 m

/-- Whether the tree edge of a module to a neighbour leads to another module, as far as the section's stage tells: with the module out of
the tree, the neighbour is still joined to it; a module of another stage lies where the only way out of the stage does. -/
def ImgCfg.leadsTo (g : ImgCfg) (self : Nat) (edges : List Nat) (next m : Nat) : Bool :=
  match g.treeWithout self with
  | none => false
  | some l =>
    if g.treeNodes.contains m then connected l next m
    else edges.filter (g.leavesStage l) = [next]

end Sys2Proof.Machine
end

