-- ==== Sys2Proof/Machine/Fences.lean ====
section
/-! DEFINITION. Messages to other modules, and what a fence of each domain does at once (R22 to R24, R289, R403,
R404, R409 to R411). -/

namespace Sys2Proof.Machine

/-! ### Messages (R317 to R319) -/

/-- Virtual channels, in the order of PRF_CREDIT: 0 reduction, 1 bulk, 2 control, 3 timebase. -/
def vcRed : Nat := 0
def vcBulk : Nat := 1
def vcCtrl : Nat := 2
def vcTime : Nat := 3

/-! ### Routes (R321, R324, R327) -/

def State.selfId (s : State) : Nat := s.img.moduleId.toNat

/-- The LINK entry of one of this module's ports (R321). -/
def State.portCfg (s : State) (p : Fin 18) : Option (BitVec 128) :=
  (s.cfg.bind fun g => g.ports.find? fun x => x.module = s.selfId && x.port = p.val).map (·.entry)

/-- A port lost to routing: fenced, or of a fenced half-die (R327). -/
def State.portLost (s : State) (p : Fin 18) : Bool :=
  bit s.glb.fencedPorts p.val || bit s.glb.fencedHalves (portHalf p).val

/-- The module's route entry for a destination (R324); an empty PRIMARY mask makes it unreachable. -/
def State.routeTo (s : State) (m : Nat) : Option RouteCfg :=
  s.cfg.bind fun g => g.routes.find? fun r =>
    r.module = s.selfId && decide (r.first ≤ m ∧ m < r.first + r.count) && r.primary ≠ 0

def State.liveMask (s : State) (m : BitVec 18) : List (Fin 18) :=
  allPorts.filter fun p => bit m p.val && !s.portLost p

/-- The ports a destination is reached by: its PRIMARY mask without the lost ports, or its ALTERNATE mask (R327). -/
def State.routePorts (s : State) (m : Nat) : List (Fin 18) :=
  match s.routeTo m with
  | none => []
  | some r =>
    match s.liveMask r.primary with
    | [] => s.liveMask r.alternate
    | l => l

/-- The one port of a message's source, destination and channel (R324). -/
def State.routePort (s : State) (src dst vc : Nat) : Option (Fin 18) :=
  let l := s.routePorts dst
  l[Config.routeHash src dst vc % l.length]?

/-- The credit a message needs to begin on a port (R325): two messages of 67 flits on its first port or in another dimension, one in the
same dimension; a message of the timebase channel is one flit. -/
def State.needOn (s : State) (p : Fin 18) (from_ : Option (Fin 18)) (vc : Nat) : Nat :=
  let same : Bool := match from_ with
    | some q => (s.portCfg q).map linkDim = (s.portCfg p).map linkDim
    | none => false
  if vc = vcTime then 1 else if same then 67 else 134

/-- A message joins a port's transmit queue. -/
def State.enqueue (s : State) (p : Fin 18) (m : Msg) (from_ : Option (Fin 18)) : State :=
  s.modPort p fun x => { x with
    txQ := x.txQ.set (fin4 m.vc) (x.txQ.get (fin4 m.vc) ++ [{ msg := m, need := s.needOn p from_ m.vc, from_ := from_ }]) }

/-- A message goes to the port of its route; one without a route is dropped (R327). -/
def State.routeMsg (s : State) (m : Msg) (from_ : Option (Fin 18)) : State :=
  match s.routePort m.src m.dst m.vc with
  | none => s
  | some p => s.enqueue p m from_

/-- Kinds whose effect the message itself carries to the module; the model's own repair order and repair copy (R303) among them. -/
def carriesEffect (k : Nat) (args : BitVec 144) : Bool :=
  decide (1 ≤ k ∧ k ≤ 0x0B) || k = 0x16 || k = 0x18 || (k = 0x0C && fld args 7 0 = 7)

/-- A message takes the next MSG_ID of its destination and channel (R319); one of the timebase channel has 0 (R317). -/
def State.newMsg (s : State) (dst kind vc : Nat) (args : BitVec 144) (data : List (BitVec 8)) (term : Nat) : Msg × State :=
  let key := dst * 4 + vc
  let id := if vc = vcTime then 0 else (tabGet 0 s.cas.msgTx key + 1) % 2 ^ 32
  ({ dst := dst, src := s.selfId, kind := kind, vc := vc, id := id, term := term, args := args, data := data },
    if vc = vcTime then s else s.modCas fun c => { c with msgTx := tabSet 0 c.msgTx key id })

/-- Bytes pass over the bridge, when the halves differ (R16, R21). -/
def State.passBytes (s : State) (from_ to_ : Fin 2) (n : Nat) : State :=
  if from_ = to_ then s else s.modHalf from_ fun y => { y with bridgeBytes := y.bridgeBytes + n }

/-- A message passes from one half to another over the bridge (R16, R325): its header of 32 bytes and its data. -/
def State.passBridge (s : State) (from_ to_ : Fin 2) (m : Msg) : State := s.passBytes from_ to_ (32 + m.data.length)

/-- A message that a unit of a half sends by a port passes the bridge where the port is of the other half (R16). -/
def State.leaveBy (s : State) (from_ : Option (Fin 2)) (p : Option (Fin 18)) (m : Msg) : State :=
  match from_, p with
  | some h, some p => s.passBridge h (portHalf p) m
  | _, _ => s

/-- A message goes to the routes. One to this module itself goes to no port: it acts here, or, of a kind that is a command of its own, the
environment hands it back. `from_` is the half of the unit that sends it, where it is not a steward's or Oztas's own. -/
def State.sendMsg (s : State) (dst kind vc : Nat) (args : BitVec 144) (data : List (BitVec 8)) (term : Nat := 0)
    (from_ : Option (Fin 2) := none) : State :=
  let r := s.newMsg dst kind vc args data term
  if dst ≠ s.selfId then
    ((r.2.leaveBy from_ (s.routePort s.selfId dst vc) r.1).emit (.message r.1)).routeMsg r.1 none
  else if carriesEffect kind args then r.2.modCas fun c => { c with ownMsgs := c.ownMsgs ++ [{ r.1 with arrive := s.tick }] }
  else r.2.emit (.message r.1)

/-- A message sent on a port of the sender's choice: a tree edge or an ALTERNATE path (R326, R330, R331). -/
def State.sendOn (s : State) (p : Fin 18) (dst kind vc : Nat) (args : BitVec 144) (data : List (BitVec 8)) (term : Nat := 0)
    (from_ : Option (Fin 2) := none) : State :=
  let r := s.newMsg dst kind vc args data term
  ((r.2.leaveBy from_ (some p) r.1).emit (.message r.1)).enqueue p r.1 none

/-- The module's tree edges in use: those the LINK section marks, its own alternate edge once it is the way to its parent, and an alternate
edge by which a child has attached (R321, R327). -/
def State.treeLinks (s : State) : List (Fin 18) :=
  allPorts.filter fun p => !s.portLost p && (match s.portCfg p with
    | some e => prfRole e ≠ 0 && (prfTree e = 1 || (prfTree e = 2 && (s.cas.parent = p.val || bit s.cas.attached p.val)))
    | none => false)

/-- The tree edge that leads to a module (R326, R330, R335), as far as the stage's ports tell. -/
def State.treePortTo (s : State) (m : Nat) : Option (Fin 18) :=
  s.cfg.bind fun g =>
    let l := s.treeLinks.filterMap fun p => (s.portCfg p).map fun e => (p, prfPeer e)
    (l.find? fun x => g.leadsTo s.selfId (l.map (·.2)) x.2 m).map (·.1)

/-- A message that travels the cascade tree, as its sender sent it (R330, R335): a PACKAGE, a TAKEOVER, and the HEARTBEAT on the tree path. -/
def onTree (m : Msg) : Bool := m.kind = 0x0D || m.kind = 0x11 || (m.kind = 0x10 && bit m.args 0)

/-- The first live port of a destination's ALTERNATE mask (R330). -/
def State.alternatePort (s : State) (m : Nat) : Option (Fin 18) := (s.routeTo m).bind fun r => (s.liveMask r.alternate).head?

/-- The port a message leaves by: the tree edge to its destination where it travels the tree, a port of the ALTERNATE mask for the other
HEARTBEAT, else its route's. -/
def State.outPort (s : State) (m : Msg) : Option (Fin 18) :=
  match (if onTree m then s.treePortTo m.dst else if m.kind = 0x10 then s.alternatePort m.dst else none) with
  | some p => some p
  | none => s.routePort m.src m.dst m.vc

/-- A message that travels the cascade tree (R330, R335): it leaves by the tree edge to its destination; without one, by its route. -/
def State.sendTree (s : State) (dst kind : Nat) (args : BitVec 144) (data : List (BitVec 8)) (term : Nat) : State :=
  match (if dst = s.selfId then none else s.treePortTo dst) with
  | some p => s.sendOn p dst kind vcCtrl args data term
  | none => s.sendMsg dst kind vcCtrl args data term

/-- ARGS of the slot message kinds (R498). -/
def slotArgs (slot core epoch desc rcore runit buf lo : Nat) : BitVec 144 :=
  BitVec.ofNat 144 (slot % 1024 + core % 8 * 2 ^ 10 + epoch % 65536 * 2 ^ 13 + desc % 16 * 2 ^ 29 + rcore % 8 * 2 ^ 33
    + runit % 8 * 2 ^ 36 + buf % 4 * 2 ^ 39 + lo * 2 ^ 80)

/-- ARGS of the WRITE, PANNIER and RING kinds (R498). -/
def writeArgs (addr epoch desc rcore runit pan : Nat) (ovf : Bool) (hop : Nat) : BitVec 144 :=
  BitVec.ofNat 144 (addr % 2 ^ 41 + epoch % 65536 * 2 ^ 41 + desc % 16 * 2 ^ 57 + rcore % 8 * 2 ^ 61
    + runit % 8 * 2 ^ 64 + pan % 16 * 2 ^ 67 + b2n ovf * 2 ^ 71 + hop % 256 * 2 ^ 72)

/-- Pieces of at most 16,384 bytes, a message's data (R317). -/
def cutMessages (a : Nat) (bs : List (BitVec 8)) : List (Nat × List (BitVec 8)) :=
  (List.range ((bs.length + 16383) / 16384)).map fun i => (a + 16384 * i, (bs.drop (16384 * i)).take 16384)

/-- What a REPORT message tells the master and the first deputy (R318). -/
inductive Report
  | done | settled | settleRefused | fence | moraine | nonfinite | over | timeUnlocked | variantMissing | repaired | routeLost
  deriving DecidableEq, Repr

def Report.code : Report → Nat
  | .done => 1 | .settled => 2 | .settleRefused => 3 | .fence => 4 | .moraine => 5 | .nonfinite => 6 | .over => 7
  | .timeUnlocked => 8 | .variantMissing => 9 | .repaired => 10
  | .routeLost => 11

/-- Pieces of a list of bytes that each fit a message (R317), with their place and their number; at least one. -/
def cutData (bs : List (BitVec 8)) : List (Nat × Nat × List (BitVec 8)) :=
  let n := max 1 ((bs.length + 16383) / 16384)
  (List.range n).map fun i => (i, n, (bs.drop (16384 * i)).take 16384)

/-- A report goes to the cascade master, and to the first deputy when there is one (R318, R329), in as many messages as its data needs
(R317). The manual gives a REPORT no ARGS layout; the model puts the report's name in [7:0], the piece in [23:8] and the number of pieces
in [39:24]. Only the master's copy carries the term. -/
def State.report (s : State) (r : Report) (data : List (BitVec 8) := []) : State :=
  (cutData data).foldl (fun (s : State) x =>
    let a : BitVec 144 := BitVec.ofNat 144 (r.code + x.1 * 2 ^ 8 + x.2.1 * 2 ^ 24)
    let s1 := s.sendMsg s.cas.master.toNat 0x0F vcCtrl a x.2.2 s.cas.term.toNat
    if s.cas.deputyValid then s1.sendMsg s.cas.deputy.toNat 0x0F vcCtrl a x.2.2 else s1) s

/-! ### Fence bookkeeping -/

/-- The fence record in flash (R403): cores, stacks and half-dies, at most 64 entries. -/
def State.recordFence (s : State) (dom unit : Nat) : State :=
  if dom ≠ 0 ∧ dom ≠ 1 ∧ dom ≠ 3 then s
  else s.modFlash fun f =>
    if f.fenceRecord.length < 64 && !f.fenceRecord.contains ⟨dom, unit⟩ then
      { f with fenceRecord := f.fenceRecord ++ [⟨dom, unit⟩] } else f

/-- GLB_FENCE_LAST takes the fence's domain, unit and cause; the phase times belong to core fences only (R466). -/
def State.noteFence (s : State) (dom unit : Nat) (cause : BitVec 16) : State :=
  s.modGlb fun g => { g with fenceLast :=
    { dom := BitVec.ofNat 3 dom, unit := BitVec.ofNat 5 unit, cause := cause } }

/-! ### The units of the minimum service set (R404) -/

def State.coreFenced (s : State) (c : Fin 8) : Bool := bit s.glb.fencedCores c.val
def State.stackFenced (s : State) (k : Fin 32) : Bool := bit s.glb.fencedStacks k.val
def State.portFenced (s : State) (p : Fin 18) : Bool := bit s.glb.fencedPorts p.val
def State.halfFenced (s : State) (h : Fin 2) : Bool := bit s.glb.fencedHalves h.val

/-- One half has its fabric, one core and two stacks unfenced (R404). -/
def State.halfServes (s : State) (h : Fin 2) : Bool :=
  !s.halfFenced h
    && (allCores.any fun c => coreHalf c = h && !s.coreFenced c)
    && decide (2 ≤ (allStacks.filter fun k => stackHalf k = h && !s.stackFenced k).length)

/-- The minimum service set (R404): the PCIe port and one half with its fabric, one core and two stacks. Oztas, which checks it, runs, and
a lost reference ends start-up before (R398). -/
def State.minimumSet (s : State) : Bool := !s.host.portFailed && (s.halfServes 0 || s.halfServes 1)

/-- Every unit but the Oztas island stops: cores, halves, stacks, Prifa and Ethernet ports (R392, R393, R409). -/
def State.haltUnits (s : State) : State :=
  let s1 := forAllOf allCores (fun c s => s.modCore c fun k => { k with up := false, gated := true }) s
  let s2 := forAllOf allHalves (fun h s => s.modHalf h fun x => { x with up := false, bridgeOpen := false, switch := .idle }) s1
  let s3 := forAllOf allStacks (fun k s => s.modStack k fun x => { x with st := if x.st = .fenced then .fenced else .training }) s2
  let s4 := forAllOf allPorts (fun p s => s.modPort p fun x => { x with
    st := if x.st = .fenced then .fenced else .down, calibrated := false, txKey := none, rxKey := none
    txSalt := 0, rxSalt := 0 }) s3
  forAllOf allHalves (fun e s => s.modEth e fun x => { x with link := false }) s4

/-- IMG_LAST_SWAP (R472). -/
def lastSwapWord (mode : Nat) (aborted : Bool) (us : Nat) (cause : BitVec 16) : BitVec 32 :=
  BitVec.ofNat 32 (mode % 4 + b2n aborted * 4 + min us 4095 * 16 + cause.toNat * 65536)

/-- An armed or started swap is aborted: nothing switches, and admission resumes (R361, R362, R365). -/
def State.abortSwap (s : State) (cause : BitVec 16) : State :=
  let w := s.img.swap
  let us := if w.phase = .preparing then (s.tick - w.tick) / 1000 else 0
  ((s.modImg fun i => { i with
    swap := {}, stopAdmit := false, lastSwap := lastSwapWord w.mode true us cause }).raise 0x0908).msix 2

/-- A fence decided before COMMIT cancels a STEP or IMMEDIATE swap (R365). -/
def State.cancelForFence (s : State) (cause : BitVec 16) : State :=
  let w := s.img.swap
  if w.mode ≠ 2 && (w.phase = .armed || w.phase = .draining || w.phase = .preparing) then s.abortSwap cause else s

/-- Everything but the Oztas island stops: management only, in power state M3 (R405, R409). -/
def State.toManagement (s : State) : State :=
  let s3 := (s.haltUnits.modGlb fun g => { g with mode := .managementOnly, fencePath := none, fencePending := [] }).modPwr
    fun p => { p with state := 3 }
  s3.modImg fun i => { i with active := none, shadow := none, staging := none, swap := {} }

/-- The module is fenced (R409): its cause is logged with FENCED, the master hears of it (R299, R422), and only management
remains. -/
def State.fenceModule (s : State) (cause : BitVec 16) (detail : BitVec 32 := 0) : State :=
  if s.glb.moduleFenced then s
  else
    let s1 := (((s.raise cause (detail := detail) (fenced := true)).noteFence 4 0 cause).cancelForFence cause).report .fence
      (natLe 1 4 ++ natLe 1 0 ++ natLe 2 cause.toNat)
    (s1.modGlb fun g => { g with moduleFenced := true }).toManagement

/-- After every fence Oztas checks the minimum service set; a set left incomplete fences the module (R404). -/
def State.checkMinimum (s : State) : State :=
  if s.minimumSet || s.glb.moduleFenced then s else s.fenceModule 0x0C09

/-! ### Core fences (R410, R411) -/

/-- A fence path is staging or swapping; its replay runs with admission open (R410, R411). -/
def State.fencePathBusy (s : State) : Bool :=
  match s.glb.fencePath with
  | some f => decide (f.phase < 4)
  | none => false

/-- The fence path or an earlier decision stops every sequencer's admission (R411); so do an arming in IMMEDIATE mode,
a missing variant, an exhausted moraine, an unmet cap and a STEP_START stop (R267, R330, R360, R366, R383). -/
def State.admissionStopped (s : State) : Bool :=
  s.fencePathBusy || s.img.stopAdmit || s.img.variantMissing || s.img.moraineStop || s.pwr.capUnmet

/-- Requests of a fenced unit that no stack controller has admitted are dropped (R23). -/
def State.dropIngress (s : State) (cls : Nat) : State :=
  let mine (r : StkReq) : Bool := r.cls = cls
  let s1 := forAllOf allStacks (fun k s =>
    if (s.stack k).ingress.any mine then
      s.modStack k fun x => { x with ingress := x.ingress.filter fun r => !mine r }
    else s) s
  forAllOf allHalves (fun h s =>
    if (s.half h).bridgeQ.any mine then
      s.modHalf h fun x => { x with bridgeQ := x.bridgeQ.filter fun r => !mine r }
    else s) s1

/-- What a fenced core loses at once (R129, R409): its scratchpad, poison map and fix-up queue, its sets and banks, and its
slot states, of which the steward's copies of the stack-homed slots stand (R414). ARR_PFAULT keeps its codes (R465). -/
def Core.lose (k : Core) : Core :=
  { k with
    arr := { k.arr with
      parts := k.arr.parts.map fun q => { pfault := q.pfault }
      tileBuf := Vector.replicate 2 [], flights := [] }
    scr := { k.scr with data := [], flips := [], poison := [], fixups := [], held := [], waits := [], slots := k.stewSlots } }

/-- What the block's registers go on showing of a core that is fenced (R465). -/
def State.fenceView (s : State) (c : Fin 8) : FenceView :=
  let k := s.core c
  { arr := k.arr, scr := k.scr, mov := k.mov, seq := k.seq, upd := k.upd, active := s.img.active, tick := s.tick }

/-- The core's clocks are gated, its fabric and slot ports close, and what only it held is lost (R129, R411, phase
Isolate); its registers keep what they held (R465). Its tasks end under R190. -/
def State.isolateCore (s : State) (c : Fin 8) (cause : BitVec 16 := 0) : State :=
  ((s.dropIngress c.val).modCore c fun k => { k.lose with
    fenced := true, gated := true, ending := if cause = 0 then none else some cause
    atFence := some (k.atFence.getD (s.fenceView c)) }).modGlb fun g =>
    { g with fencedCores := g.fencedCores ||| (1#8 <<< c.val) }

/-- The stack of a page A[40:16] (R206). -/
def pageStack (page : Nat) : Nat :=
  16 * (page / 2 ^ 24 % 2) + ((page % 16) ^^^ (page / 16 % 16) ^^^ (page / 256 % 16) ^^^ (page / 4096 % 16))

/-! ### The image store and the fence path's first steps (R353, R365, R366, R406) -/

/-- The pages a RETIRED row or a fenced stack took away, in one half's copy of the store. -/
def State.storeCopyLost (s : State) (h i : Nat) : Bool :=
  let p := 0xFFC000 + i
  let k := fin32 (pageStack (h * 2 ^ 24 + p))
  s.stackFenced k || (s.stack k).retired.contains p

/-- A store page is lost when neither copy is reachable (R406). -/
def State.storePageLost (s : State) (i : Nat) : Bool := s.storeCopyLost 0 i && s.storeCopyLost 1 i

/-- The store page that holds the i-th page of the store as its places were built (R406). -/
def State.storePage (s : State) (i : Nat) : Nat := if s.img.storePages = [] then i else s.img.storePages.getD i i

/-- Every page of a place is reachable, and the place exists (R406). -/
def State.placeReachable (s : State) (p : Nat) : Bool :=
  decide (p < s.img.nplaces) && (List.range 1024).all fun i => !s.storePageLost (s.storePage (1024 * p + i))

/-- A place of the image store: one that has lost a page reads as EMPTY (R406). -/
def State.imgPlace (s : State) (p : Nat) : Place :=
  if s.placeReachable p then tabGet {} s.img.places p else {}

def State.modImgPlace (s : State) (p : Nat) (f : Place → Place) : State :=
  s.modImg fun i => { i with places := tabMod {} i.places p f }

/-- The clock of a stack's controller stands (R375, R378, R392, R393): in M2 or below, after the hardware trip, while its half's
chainring is lost, or in the gap of a switch. What waits at a fenced stack is answered without that clock (R226). -/
def State.stackHeld (s : State) (k : Fin 32) : Bool :=
  let x := s.half (stackHalf k)
  s.pwr.off || s.pwr.tripped || decide (1 < s.pwr.state) ||
    (!s.stackFenced k && !s.halfFenced (stackHalf k) && (x.pllLost || x.switch = .switching))

/-- No image of the family omits the fenced cores: admission stops, and the master hears of it (R366, R419, R422). -/
def State.missVariant (s : State) : State :=
  ((s.raise 0x0909).report .variantMissing).modImg fun i => { i with variantMissing := true }

/-- The place in the shadow set returns from STAGED to VERIFIED (R358). -/
def State.dropShadow (s : State) : State :=
  match s.img.shadow with
  | some (p, _) => (s.modImgPlace p fun x => if x.st = .staged then { x with st := .verified } else x).modImg fun i => { i with shadow := none }
  | none => s

/-- The VERIFIED place that holds the active family's variant with one more core left out (R366). -/
def State.findVariant (s : State) (g : ImgCfg) (c : Fin 8) : Option Nat :=
  (List.range 16).find? fun p =>
    let x := s.imgPlace p
    x.st = .verified && x.omit_ = g.omit_ ||| (1#8 <<< c.val) && (match x.cfg with
      | some v => v.familyId = g.familyId
      | none => false)

/-- The fence path's stage phase begins: the variant is staged in place of the shadow set, or is missing (R366, R411).
An active image that already leaves the core out needs no variant. -/
def State.beginFencePath (s : State) (c : Fin 8) (cause : BitVec 16) : State :=
  let s1 := s.cancelForFence cause
  match s1.img.active with
  | none => s1
  | some (_, g) =>
    if bit g.omit_ c.val then s1
    else
      match s1.findVariant g c with
      | none => (s1.modGlb fun g => { g with fencePath := none }).missVariant
      | some p =>
        ((s1.dropShadow).modImg fun i => { i with staging := some (p, s.tick) }).modGlb fun g => { g with
          fencePath := some { core := c.val, cause := cause, phase := 2, since := s.tick } }

/-- The time of a phase of R411, in µs, for GLB_FENCE_LAST. -/
def State.phaseUs (s : State) (since : Nat) : BitVec 12 := BitVec.ofNat 12 (min 4095 ((s.tick - since) / 1000))

/-- A phase's time of a core fence, while GLB_FENCE_LAST still shows that fence (R411, R466). -/
def Glb.notePhase (g : Glb) (f : FencePath) (note : FenceLast → FenceLast) : Glb :=
  if g.fenceLast.dom = 0 && g.fenceLast.unit.toNat = f.core then { g with fenceLast := note g.fenceLast } else g

/-- A task the fence made the module replay has retired; the last one ends the interruption (R411). -/
def State.replayRetired (s : State) (q tid : Nat) : State :=
  match s.glb.fencePath with
  | some f =>
    if f.phase = 4 && f.left.contains (q, tid) then
      let l := removeFirst (fun x => x = (q, tid)) f.left
      s.modGlb fun g => if l = [] then
          { g.notePhase f (fun l => { l with replay := s.phaseUs f.since }) with fencePath := none }
        else { g with fencePath := some { f with left := l } }
    else s
  | none => s

/-- A fence decided while another fence path runs, or after a swap's COMMIT, waits for that swap to complete (R365,
R410). -/
def State.fenceMustWait (s : State) : Bool := s.fencePathBusy || s.img.swap.phase = .switching

/-- Oztas decides a core fence (R22, R410, R411): the fault is logged with FENCED, the master hears of the fence, the
core is isolated, and its variant is staged at once or when the running fence path has swapped. -/
def State.fenceCore (s : State) (c : Fin 8) (cause : BitVec 16) (detail : BitVec 32 := 0) : State :=
  if s.coreFenced c then s
  else
    let s1 := ((s.raise cause (unit := c.val) (detail := detail) (fenced := true)).recordFence 0 c.val).noteFence
      0 c.val cause
    let s2 := (s1.report .fence (natLe 1 0 ++ natLe 1 c.val ++ natLe 2 cause.toNat)).isolateCore c cause
    let s3 := if s2.glb.mode ≠ .service then s2
      else if s2.fenceMustWait then
        s2.modGlb fun g => { g with fencePending := g.fencePending ++ [⟨c.val, cause, false⟩] }
      else s2.beginFencePath c cause
    s3.checkMinimum

/-! ### Stack, port and half fences -/

/-- A stack is marked fenced: later requests go to mirrors or are refused (R226). -/
def State.markStack (s : State) (k : Fin 32) : State :=
  (s.modStack k fun x => { x with st := .fenced, copyQ := [], copies := [], stopped := none }).modGlb fun g =>
    { g with fencedStacks := g.fencedStacks ||| (1#32 <<< k.val) }

/-- A port is marked fenced: it is down with its keys lost, and what its transmitter held is free for resending
elsewhere (R311, R327, R420). -/
def State.markPort (s : State) (p : Fin 18) : State :=
  ((s.dropIngress (8 + p.val)).modPort p fun x => { x with
    st := .fenced, txKey := none, rxKey := none, txSalt := 0, rxSalt := 0, lanes := 0, credit := Vector.replicate 4 0
    rxGroup := [], waitRetry := false, tagFail := false }).modGlb fun g =>
    { g with fencedPorts := g.fencedPorts ||| (1#18 <<< p.val) }

/-- The pages of the mirrored regions of the active image: primary page, mirror page, both as A[40:16]. -/
def State.mirrorOf (s : State) (page : Nat) : Option Nat :=
  match s.cfg with
  | none => none
  | some g => g.mirrors.findSome? fun m =>
      if m.primary / 65536 ≤ page ∧ page < m.primary / 65536 + m.pages then
        some (page - m.primary / 65536 + m.mirror / 65536) else none

/-- The primary page of a mirror page. -/
def State.primaryOf (s : State) (page : Nat) : Option Nat :=
  match s.cfg with
  | none => none
  | some g => g.mirrors.findSome? fun m =>
      if m.mirror / 65536 ≤ page ∧ page < m.mirror / 65536 + m.pages then
        some (page - m.mirror / 65536 + m.primary / 65536) else none

/-- A range of whole pages has a page on the stack; one of 16 pages or more touches every stack of its half. -/
def rangeOnStack (base pages k : Nat) : Bool :=
  if 16 ≤ pages then decide (base / 2 ^ 40 % 2 = k / 16)
  else (List.range pages).any fun i => pageStack (base / 65536 + i) = k

/-- A mirrored region has a page on the stack: the image store has, on every stack of both halves (R207, R353), whatever
regions the active image declares. -/
def State.mirrorsOnStack (s : State) (k : Fin 32) : Bool :=
  rangeOnStack ((k.val / 16) * 2 ^ 40 + 0xFFC0000000) 16384 k.val ||
    match s.cfg with
    | none => false
    | some g => g.mirrors.any fun m => rangeOnStack m.primary m.pages k.val || rangeOnStack m.mirror m.pages k.val

/-- A mirrored region that loses a copy goes on unmirrored and says so once for the stack (R228). -/
def State.reportDegraded (s : State) (k : Fin 32) : State :=
  if s.mirrorsOnStack k && !(s.stack k).degraded then
    (s.modStack k fun x => { x with degraded := true }).raise 0x0509 (unit := k.val)
  else s

/-- Oztas fences a stack (R226); as any fence decided before COMMIT it cancels a swap that waits or has started (R365). -/
def State.fenceStack (s : State) (k : Fin 32) (cause : BitVec 16) (detail : BitVec 32 := 0) : State :=
  if s.stackFenced k then s
  else
    let s1 := ((s.raise cause (unit := k.val) (detail := detail) (fenced := true)).recordFence 1 k.val).noteFence
      1 k.val cause
    (((s1.cancelForFence cause).markStack k).reportDegraded k).checkMinimum

/-- Oztas fences a port (R327, R365, R420): port fences are never recorded in flash (R403). -/
def State.fencePort (s : State) (p : Fin 18) (cause : BitVec 16) (detail : BitVec 32 := 0) : State :=
  if s.portFenced p then s
  else
    (((s.raise cause (unit := p.val) (detail := detail) (fenced := true)).noteFence 2 p.val cause).cancelForFence cause).markPort p

/-- The write-backs of a fenced half's tier cache that wait before the bridge are dropped (R23). -/
def State.dropBacks (s : State) (h : Fin 2) : State :=
  forAllOf allHalves (fun x s => s.modHalf x fun y => { y with
    bridgeQ := y.bridgeQ.filter fun r => !(r.cls = 27 && r.addr / 2 ^ 40 = h.val) }) s

/-- A half-die's fence meets the image path (R362, R365, R422): it cancels a swap that waits or has started, and aborts a FENCE
swap that is preparing, whose blocks it takes away; no variant omits four cores, so the module reports that its variant is
missing. -/
def State.halfPath (s : State) (cause : BitVec 16) : State :=
  let s1 := s.cancelForFence cause
  let s2 := if s1.img.swap.mode = 2 && s1.img.swap.phase = .preparing then
      (s1.abortSwap cause).modGlb fun g => { g with fencePath := none }
    else s1
  if s2.img.active.isSome then s2.missVariant else s2

/-- What the blocks of a half go on showing once it is fenced (R465). -/
def State.halfView (s : State) (h : Fin 2) : HalfView :=
  { half := s.half h, stks := s.stks, ports := s.ports, eth := s.eth h, cores := s.cores, fencedCores := s.glb.fencedCores
    fencedStacks := s.glb.fencedStacks, active := s.img.active, tick := s.tick }

/-- A half-die is fenced (R24, R409, R422): its cores, stacks, ports and Ethernet port with it; both directions of the
bridge close. A fence path that runs, or a swap past its COMMIT, first comes to its end (R365, R410). -/
def State.fenceHalf (s : State) (h : Fin 2) (cause : BitVec 16) (detail : BitVec 32 := 0) : State :=
  if s.halfFenced h then s
  else
    let s1 := ((s.raise cause (unit := h.val) (detail := detail) (fenced := true)).recordFence 3 h.val).noteFence
      3 h.val cause
    let s2 := forAllOf (allCores.filter fun c => coreHalf c = h) (fun c s => s.isolateCore c cause)
      { s1 with fencedViews := s1.fencedViews.set h (some (s1.halfView h)) }
    let s3 := forAllOf (allStacks.filter fun k => stackHalf k = h) (fun k s =>
      ((s.modStack k fun x => { x with ingress := x.ingress.filter fun r => r.cls ≠ 27 }).markStack k).reportDegraded k) (s2.dropBacks h)
    let s4 := forAllOf (allPorts.filter fun p => portHalf p = h) (fun p s => s.markPort p) s3
    let s5 := forAllOf allHalves (fun x s => s.modHalf x fun y => { y with bridgeOpen := false }) s4
    let s6 := s5.modHalf h fun y => { y with up := false }
    let s7 := (s6.modEth h fun e => { e with link := false }).modGlb fun g => { g with
      fencedHalves := g.fencedHalves ||| (1#2 <<< h.val), fencedEths := g.fencedEths ||| (1#2 <<< h.val) }
    let s8 := if s7.glb.mode ≠ .service then s7
      else if s7.fenceMustWait && s7.img.swap.phase ≠ .preparing then
        s7.modGlb fun g => { g with fencePending := g.fencePending ++ [⟨h.val, cause, true⟩] }
      else s7.halfPath cause
    s8.checkMinimum

end Sys2Proof.Machine
end

