-- ==== Sys2Proof/Machine/Stacks.lean ====
section
/-! DEFINITION. Stack memory: the address hash, the sector code, row failure and page retirement, mirrors, and the
reads and writes of sectors every other unit uses (R204 to R228). -/

namespace Sys2Proof.Machine

/-! ### The address hash (R206) -/

/-- Page number within the half. -/
def pageOf (a : Nat) : Nat := bitsOf a 39 16
def stackOf (a : Nat) : Nat :=
  let p := pageOf a
  16 * bitsOf a 40 40 + (bitsOf p 3 0 ^^^ bitsOf p 7 4 ^^^ bitsOf p 11 8 ^^^ bitsOf p 15 12)
def channelOf (a : Nat) : Nat := bitsOf a 14 11 ^^^ bitsOf (pageOf a) 11 8
def bankOf (a : Nat) : Nat :=
  let p := pageOf a
  (bitsOf p 7 4 ^^^ bitsOf p 19 16) * 2 + (bitsOf a 15 15 ^^^ bitsOf p 8 8)
def rowOf (a : Nat) : Nat := bitsOf (pageOf a) 23 8
def columnOf (a : Nat) : Nat := bitsOf a 10 5

/-- A bank of a stack as one number, channel*32 + bank; a row of a stack, (channel*32 + bank)*65536 + row. -/
def bankKey (a : Nat) : Nat := channelOf a * 32 + bankOf a
def rowKey (a : Nat) : Nat := bankKey a * 65536 + rowOf a

/-- The sector of an address, as address / 32. -/
def sectorOf (a : Nat) : Nat := a / 32

/-- The page a row of a stack belongs to (R207: each row belongs to exactly one page). -/
def pageOfRow (k : Fin 32) (key : Nat) : Nat :=
  let row := key % 65536
  let bank := key / 65536 % 32
  let p4 := bitsOf row 15 12   -- P[23:20]
  let p3 := bitsOf row 11 8    -- P[19:16]
  let p2 := bitsOf row 7 4     -- P[15:12]
  let p1 := bitsOf row 3 0     -- P[11:8]
  let p74 := (bank / 2) ^^^ p3
  let p30 := (k.val % 16) ^^^ p74 ^^^ p1 ^^^ p2
  ((((p4 * 16 + p3) * 16 + p2) * 16 + p1) * 16 + p74) * 16 + p30

/-- The lowest address of a page on a stack's half. -/
def pageAddr (k : Fin 32) (p : Nat) : Nat := (k.val / 16) * 2 ^ 40 + p * 65536

/-- The address of column `col` of a row of a stack (R206 inverted). -/
def rowAddr (k : Fin 32) (key col : Nat) : Nat :=
  let p := pageOfRow k key
  let ch := key / 65536 / 32
  let bank := key / 65536 % 32
  pageAddr k p + ((bank % 2) ^^^ bitsOf p 8 8) * 2 ^ 15 + (ch ^^^ bitsOf p 11 8) * 2 ^ 11 + col % 64 * 32

/-! ### The sector code (R208): Reed-Solomon of distance 4 over GF(2^16), x^16 + x^12 + x^3 + x + 1 -/

/-- Multiplication by α. -/
def gfDouble (x : Nat) : Nat := if 2 ^ 15 ≤ x then (x * 2) ^^^ 0x1100B else x * 2

def gfMulLoop : Nat → Nat → Nat → Nat
  | 0, _, _ => 0
  | n + 1, x, y => (if y % 2 = 1 then x else 0) ^^^ gfMulLoop n (gfDouble x) (y / 2)
def gfMul (x y : Nat) : Nat := gfMulLoop 16 x y

/-- α^n. -/
def gfPow : Nat → Nat
  | 0 => 1
  | n + 1 => gfDouble (gfPow n)

/-- The three syndromes of an error pattern: symbols in error with their error words. DESIGN CHOICE (log entry 73, unsafe): symbol i
has the locator α^i, since R208 does not order the symbols against the polynomial's degree. -/
def syndromes (e : List (Nat × BitVec 16)) : Nat × Nat × Nat :=
  e.foldl (fun acc x =>
    let v := x.2.toNat
    (acc.1 ^^^ v, acc.2.1 ^^^ gfMul v (gfPow x.1), acc.2.2 ^^^ gfMul v (gfPow (2 * x.1)))) (0, 0, 0)

/-- What decoding makes of an error pattern: no error seen, one symbol corrected, or uncorrectable; with the pattern
that remains in the sector afterwards. -/
inductive Decoded
  | clean (left : Tab (BitVec 16))
  | corrected (left : Tab (BitVec 16))
  | uncorrectable
  deriving DecidableEq, Repr

/-- The decoder of R208: it corrects any single symbol and detects any two. -/
def decodeSector (e : Tab (BitVec 16)) : Decoded :=
  match syndromes e with
  | (s0, s1, s2) =>
    if s0 = 0 ∧ s1 = 0 ∧ s2 = 0 then .clean e
    else if s0 = 0 ∨ s1 = 0 ∨ s2 = 0 ∨ gfMul s1 s1 ≠ gfMul s0 s2 then .uncorrectable
    else
      match (List.range 20).find? fun i => gfMul s0 (gfPow i) = s1 with
      | some i => .corrected (tabSet 0 e i (tabGet 0 e i ^^^ BitVec.ofNat 16 s0))
      | none => .uncorrectable

/-- Error patterns add symbol by symbol. -/
def xorErrors (e : Tab (BitVec 16)) (l : List (Nat × BitVec 16)) : Tab (BitVec 16) :=
  l.foldl (fun t x => if x.1 < 20 then tabSet 0 t x.1 (tabGet 0 t x.1 ^^^ x.2) else t) e

/-! ### Refusals and routing of an address -/

/-- The image store's ranges (R353). -/
def inStore (a : Nat) : Bool := decide (0xFFC0000000 ≤ a % 2 ^ 40 ∧ a % 2 ^ 40 ≤ 0xFFFFFFFFFF)

/-- The copy of a page on its own stack can serve: its stack not fenced, nor stopped by its steward to await the fence (R22), and the
page not retired. -/
def State.copyState (s : State) (a : Nat) : Option (BitVec 16) :=
  let k := fin32 (stackOf a)
  if s.stackFenced k || (s.stack k).stopped.isSome then some 0x0507
  else if (s.stack k).retired.contains (pageOf a) then some 0x0504
  else none

/-- The page of an address is RETIRING or RETIRED. -/
def State.leaving (s : State) (a : Nat) : Bool :=
  let x := s.stack (fin32 (stackOf a))
  x.retired.contains (pageOf a) || x.retiring.any fun y => y.1 = pageOf a

/-- The mirror address of an address in a primary range, and the primary address of one in a mirror range. The image
store mirrors itself onto the other half (R353). -/
def State.mirrorAddr (s : State) (a : Nat) : Option Nat :=
  if inStore a then (if a < 2 ^ 40 then some (a + 2 ^ 40) else none)
  else (s.mirrorOf (a / 65536)).map fun p => p * 65536 + a % 65536
def State.isMirrorRange (s : State) (a : Nat) : Bool :=
  if inStore a then decide (2 ^ 40 ≤ a) else (s.primaryOf (a / 65536)).isSome

/-- A refusal is raised where it is given (R223, R226, R227, R234, R353). -/
def State.refused (s : State) (a : Nat) (code : BitVec 16) : State :=
  s.raise code (unit := if code = 0x0902 then 0 else stackOf a) (detail := BitVec.ofNat 32 (pageOf a))

/-- Where a read of an address is served: an address whose stack serves it, or a refusal (R223, R226 to R228). -/
def State.readRoute (s : State) (a : Nat) : Except (BitVec 16) Nat :=
  match s.mirrorAddr a with
  | some m =>
    match s.copyState a, s.copyState m with
    | none, none => .ok (if s.leaving a && !s.leaving m then m else a)
    | none, some _ => .ok a
    | some _, none => .ok m
    | some c, some _ => .error c
  | none =>
    match s.copyState a with
    | none => .ok a
    | some c => .error c

/-- Where a write of an address goes: every copy that serves, or a refusal (R223, R226, R227). -/
def State.writeRoute (s : State) (a : Nat) : Except (BitVec 16) (List Nat) :=
  if s.isMirrorRange a then .error 0x0508
  else
    match s.mirrorAddr a with
    | some m =>
      match s.copyState a, s.copyState m with
      | none, none => .ok [a, m]
      | none, some _ => .ok [a]
      | some _, none => .ok [m]
      | some c, some _ => .error c
    | none =>
      match s.copyState a with
      | none => .ok [a]
      | some c => .error c

/-! ### Row failure and page retirement (R218 to R225) -/

def Stack.row (x : Stack) (key : Nat) : RowSt := tabGet {} x.rows key
def Stack.setRow (x : Stack) (key : Nat) (r : RowSt) : Stack := { x with rows := tabSet {} x.rows key r }

/-- The lowest spare of a bank, at or above the next unused index, that is not defective. -/
def Stack.freeSpare (x : Stack) (bank : Nat) : Option Nat :=
  (List.range 64).find? fun i => decide (tabGet 0 x.spareUsed bank ≤ i) && !(tabGet false x.spareBad (bank * 64 + i))

/-- Free spares left in a bank. -/
def Stack.freeSpares (x : Stack) (bank : Nat) : Nat :=
  ((List.range 64).filter fun i =>
    decide (tabGet 0 x.spareUsed bank ≤ i) && !(tabGet false x.spareBad (bank * 64 + i))).length

/-- The flash record of a row's chain is written (R224). -/
def State.writeRemap (s : State) (k : Fin 32) (key : Nat) : State :=
  let r := (s.stack k).row key
  let others := s.flash.remaps.filter fun m => !(m.stack = k.val && m.row = key)
  s.modFlash fun f => { f with remaps := others ++ [{
    stack := k.val, row := key, depth := r.depth, spares := r.spares
    retiring := r.st = .retiring || r.st = .retired }] }

/-- A remap, or a page's entry into RETIRING, is to be recorded within 10 ms (R224): after a free time of at most that long, and
lost by a reset that comes first. A row whose earlier remap still awaits its record is recorded with it. -/
def State.recordRemap (s : State) (k : Fin 32) (key : Nat) : State :=
  s.draw.modStack k fun x =>
    if x.dueRows.any fun d => d.2 = key then x
    else { x with dueRows := x.dueRows ++ [(s.tick + Config.freeNat s.freeCtr % 10000001, key)] }

/-- The records of a stack that fall due by a tick are written to flash (R224). -/
def State.recordDue (s : State) (k : Fin 32) (by_ : Nat) : State :=
  let x := s.stack k
  let rows := x.dueRows.filter fun d => decide (d.1 ≤ by_)
  let spares := x.dueSpares.filter fun d => decide (d.1 ≤ by_)
  if rows = [] && spares = [] then s
  else
    let s1 := rows.foldl (fun (s : State) d => s.writeRemap k d.2) s
    let s2 := s1.modFlash fun f => { f with
      defectiveSpares := spares.foldl (fun l d =>
        if l.contains (k.val * 2 ^ 15 + d.2) then l else l ++ [k.val * 2 ^ 15 + d.2]) f.defectiveSpares }
    s2.modStack k fun x => { x with
      dueRows := x.dueRows.filter fun d => decide (by_ < d.1)
      dueSpares := x.dueSpares.filter fun d => decide (by_ < d.1) }

/-- A page enters RETIRING (R222): its rows, the retirement log, its report and its event; the 257th fences the stack. -/
def State.retirePage (s : State) (k : Fin 32) (key : Nat) (cause : BitVec 3) : State :=
  let p := pageOfRow k key
  let x := s.stack k
  if x.retired.contains p || x.retiring.any fun y => y.1 = p then s
  else
    let s1 := s.modStack k fun x => { x.setRow key { x.row key with st := .retiring } with
      retiring := x.retiring ++ [(p, cause)] }
    let s2 := ((s1.recordRemap k key).raise 0x0503 (unit := k.val) (detail := BitVec.ofNat 32 p)).msix (12 + k.val)
    let y := s2.stack k
    if 256 < y.retiring.length + y.retired.length then s2.fenceStack k 0x0505 (BitVec.ofNat 32 p) else s2

/-- A row is declared failed (R218, R219): its report, and the transition its state, its bank's spares and the remap
policy give. -/
def State.failRow (s : State) (k : Fin 32) (key : Nat) : State :=
  let s1 := s.raise 0x0502 (unit := k.val) (detail := BitVec.ofNat 32 key)
  let x := s1.stack k
  let r := x.row key
  let spare := (x.freeSpare (key / 65536)).isSome
  match r.st with
  | .normal | .remapped1 =>
    if x.copyQ.contains key then s1
    else if !spare then s1.retirePage k key 1
    else if x.defer then
      s1.modStack k fun x => x.setRow key { r with st := .pending }
    else s1.modStack k fun x => { x with copyQ := x.copyQ ++ [key] }
  | .remapped2 => s1.retirePage k key 0
  | _ => s1

/-- A corrected error of a row joins its channel's tracker of 64 rows (R218); at STK_CE_ROW_LIMIT the row fails. DESIGN CHOICE (log
entry 73, unsafe): the failed row leaves the tracker at once; R218 only says that a remapped row's count starts again at 0. -/
def State.trackRow (s : State) (k : Fin 32) (key : Nat) : State :=
  let ch := key / 65536 / 32
  let row := key % (32 * 65536)
  let x := s.stack k
  let t := tabGet [] x.tracker ch
  let age := x.trackAge + 1
  let t1 : List CeEnt :=
    if t.any fun e => e.row = row then
      t.map fun e => if e.row = row then { e with count := e.count + 1 } else e
    else
      let fresh : CeEnt := { row := row, count := 1, age := age }
      if t.length < 64 then t ++ [fresh]
      else
        let least := t.foldl (fun m e => min m e.count) (t.headD {}).count
        let oldest := (t.filter fun e => e.count = least).foldl (fun m e => min m e.age) age
        (removeFirst (fun e => e.count = least && e.age = oldest) t) ++ [fresh]
  let s1 := s.modStack k fun x => { x with tracker := tabSet [] x.tracker ch t1, trackAge := age }
  if t1.any fun e => e.row = row && decide (x.ceLimit.toNat ≤ e.count) then
    (s1.modStack k fun x =>
      let left := (tabGet [] x.tracker ch).filter fun e => e.row ≠ row
      { x with tracker := tabSet [] x.tracker ch left }).failRow k key
  else s1

/-! ### The tier cache (R152): lines, sectors and their dirty bits -/

def tcSetOf (a : Nat) : Nat := bitsOf a 19 7 ^^^ bitsOf a 32 20
def tcTagOf (a : Nat) : Nat := bitsOf a 39 20
/-- The sector of its line an address lies in. -/
def tcSub (a : Nat) : Nat := bitsOf a 6 5

/-- The key of a way's record: set*16 + way. -/
def tcKey (a way : Nat) : Nat := tcSetOf a * 16 + way

/-- The way of a set that holds an address's line. -/
def Half.tcFind (h : Half) (a : Nat) : Option Nat :=
  (List.range 16).find? fun w =>
    let l := tabGet {} h.tc (tcKey a w)
    l.valid ≠ 0 && l.tag = tcTagOf a

/-- The sector itself is valid in the cache. -/
def Half.tcHas (h : Half) (a : Nat) : Bool :=
  match h.tcFind a with
  | some w => bit (tabGet {} h.tc (tcKey a w)).valid (tcSub a)
  | none => false

/-- A sector is dirty in the cache. -/
def Half.tcDirty (h : Half) (a : Nat) : Bool :=
  match h.tcFind a with
  | some w => bit (tabGet {} h.tc (tcKey a w)).dirty (tcSub a)
  | none => false

def addrHalf (a : Nat) : Fin 2 := fin2 (a / 2 ^ 40)

/-! ### Reading and writing sectors -/

/-- A sector's data bytes changed by an error pattern the code did not see or mis-corrected; those of a sector that is dirty in the
tier cache stand there, and only the stack's older copy is spoilt (R153). -/
def State.spoilSector (s : State) (sec : Nat) (e : Tab (BitVec 16)) : State :=
  let stale := (s.half (addrHalf (sec * 32))).tcDirty (sec * 32)
  let s1 := e.foldl (fun s x =>
      if x.1 < 16 && !stale then
        let a := sec * 32 + 2 * x.1
        (s.setMemByte a (s.memByte a ^^^ x.2.truncate 8)).setMemByte (a + 1)
          (s.memByte (a + 1) ^^^ (x.2 >>> 8).truncate 8)
      else s) s
  if bit (tabGet 0 e 16) 0 then { s1 with mpoison := tabSet false s1.mpoison sec (!(tabGet false s1.mpoison sec)) }
  else s1

/-- The stored errors of a sector. -/
def State.errorsOf (s : State) (sec : Nat) : Tab (BitVec 16) := tabGet [] s.symErr sec
def State.setErrors (s : State) (sec : Nat) (e : Tab (BitVec 16)) : State :=
  { s with symErr := tabSet [] s.symErr sec e }

/-- A correction: counted, and the sector rewritten with a valid code (R209, R235). -/
def State.countCorrected (s : State) (k : Fin 32) : State :=
  s.modStack k fun x => { x with ceCount := satAdd 64 x.ceCount 1 }

/-- An uncorrectable sector is found: counted, poisoned by a rewrite with a valid code, its row failed (R209). -/
def State.poisonSector (s : State) (k : Fin 32) (sec : Nat) : State :=
  let s1 := { s with mpoison := tabSet false s.mpoison sec true }
  let s2 := (s1.setErrors sec []).modStack k fun x => { x with
    ueCount := satAdd 64 x.ueCount 1, ueLast := BitVec.ofNat 41 (sec * 32) }
  (s2.raise 0x0501 (unit := k.val) (detail := BitVec.ofNat 32 (pageOf (sec * 32)))).failRow k (rowKey (sec * 32))

/-- A bank is busy with the retries of a read, at most 100 ns each (R205, R216). -/
def State.retryBank (s : State) (k : Fin 32) (key tries : Nat) : State :=
  s.modStack k fun x => { x with retryTill := tabSet 0 x.retryTill (key / 65536) (s.tick + 100 * tries) }

/-- What a sector read decodes to (R209): false for an error that persists. The first read and up to two retries each meet the
stored errors and their own errors in transit; what is corrected is rewritten, counted and tracked. -/
def State.decodeRead (s : State) (k : Fin 32) (sec : Nat) (transit : List (List (Nat × BitVec 16))) : Bool × State :=
  let e := s.errorsOf sec
  let key := rowKey (sec * 32)
  let read (i : Nat) : Option (Tab (BitVec 16)) :=
    match decodeSector (xorErrors e (transit.getD i [])) with
    | .clean left => some left
    | .corrected left => some left
    | .uncorrectable => none
  let fixed (left : Tab (BitVec 16)) : State := ((s.setErrors sec []).spoilSector sec left).countCorrected k
  match decodeSector (xorErrors e (transit.getD 0 [])) with
  | .clean left => (true, if left = [] then s else (s.setErrors sec []).spoilSector sec left)
  | .corrected left => (true, (fixed left).trackRow k key)
  | .uncorrectable =>
    match read 1, read 2 with
    | some left, _ => (true, ((fixed left).retryBank k key 1).failRow k key)
    | none, some left => (true, ((fixed left).retryBank k key 2).failRow k key)
    | none, none => (false, s.retryBank k key 2)

/-- The controller checks one sector (R209): true when its data may be used. An error that persists poisons it, and a read of a
poisoned one is refused alike. -/
def State.checkSector (s : State) (k : Fin 32) (sec : Nat) (transit : List (List (Nat × BitVec 16))) :
    Bool × State :=
  match s.decodeRead k sec transit with
  | (false, s1) => (false, s1.poisonSector k sec)
  | (true, s1) =>
    if tabGet false s1.mpoison sec then
      (false, s1.raise 0x0501 (unit := k.val) (detail := BitVec.ofNat 32 (pageOf (sec * 32))))
    else (true, s1)

/-- A whole-sector write clears POISON and every stored error (R209). -/
def State.freshSector (s : State) (sec : Nat) : State :=
  { s.setErrors sec [] with mpoison := tabSet false s.mpoison sec false }

/-- An armed injection meets its sector's next write in the stack (R235): one or two symbols of the stored sector are upset. -/
def State.meetInjection (s : State) (sec : Nat) : State :=
  let k := fin32 (stackOf (sec * 32))
  match (s.stack k).inject with
  | some (a, double) =>
    if a / 32 = sec then
      (s.modStack k fun x => { x with inject := none }).setErrors sec
        (xorErrors (s.errorsOf sec) (if double then [(0, 1#16), (1, 1#16)] else [(0, 1#16)]))
    else s
  | none => s

/-- Admitted requests of a bank. DESIGN CHOICE (log entry 73, unsafe): an LF48 operation with sectors in two banks counts against that
of its start address alone (R214 counts requests of a bank and R231 lets a group span two). -/
def Stack.bankUse (x : Stack) (bank : Nat) : Nat := (x.slots.filter fun r => bankKey r.addr = bank).length

/-- A bank is busy with a remap copy. -/
def Stack.copying (x : Stack) (bank : Nat) : Bool := x.copies.any fun k => k / 65536 = bank

/-- Why a bank reached Q (R469): 0 refresh, 1 copy, 2 retry, 3 load. -/
def Stack.quotaCause (x : Stack) (bank tick : Nat) : Nat :=
  if x.copying bank then 1 else if tick < tabGet 0 x.retryTill bank then 2 else if 0 < tabGet 0 x.owed bank then 0 else 3

/-- STK_QUOTA_FULL for a bank that has just reached Q (R235, R469). -/
def Stack.fullWord (x : Stack) (bank tick : Nat) : BitVec 32 :=
  BitVec.ofNat 32 (bank / 32 + bank % 32 * 16 + x.quotaCause bank tick * 512 + 2 ^ 31)

/-- An access that acts inside another row of the table takes a slot of its stack and gives it back in the same step (R212, R214):
the high-water mark and the last bank to reach Q count it. -/
def State.passSlot (s : State) (a : Nat) : State :=
  let k := fin32 (stackOf a)
  let x := s.stack k
  let high := max x.slotHigh (min 512 (x.slots.length + 1))
  let full := if x.bankUse (bankKey a) + 1 = x.quota.toNat then x.fullWord (bankKey a) s.tick else x.quotaFull
  if (s.copyState a).isSome || (high = x.slotHigh && full = x.quotaFull) then s
  else s.modStack k fun x => { x with slotHigh := high, quotaFull := full }

/-- The requests of an extent, one for each 512-byte block (R212). -/
def State.passSlots (s : State) (a n : Nat) : State :=
  foldUpTo ((a + n - 1) / 512 + 1 - a / 512) (fun i s => s.passSlot (if i = 0 then a else (a / 512 + i) * 512)) s

/-- The 64 sectors of a row as the copy reads them (R220): corrected, or counted and written to the spare with POISON set
(R235). -/
def State.copySectors (s : State) (k : Fin 32) (key : Nat) : State :=
  foldUpTo 64 (fun col s =>
    let sec := rowAddr k key col / 32
    match decodeSector (s.errorsOf sec) with
    | .clean left => (s.setErrors sec []).spoilSector sec left
    | .corrected left => ((s.setErrors sec []).spoilSector sec left).countCorrected k
    | .uncorrectable =>
      let s1 := (s.setErrors sec []).modStack k fun x => { x with
        ueCount := satAdd 64 x.ueCount 1, ueLast := BitVec.ofNat 41 (sec * 32) }
      { s1 with mpoison := tabSet false s1.mpoison sec true }) s

/-- A row's copy ends: its pointer switches to the spare in one stack cycle, the tracker counts the row from 0, and the remap is to
be recorded (R218 to R220, R224). -/
def State.flipCopy (s : State) (k : Fin 32) (key : Nat) : State :=
  let x := s.stack k
  match x.freeSpare (key / 65536) with
  | none => s
  | some i =>
    if !x.copies.contains key then s
    else
      let r := x.row key
      let s1 := (s.copySectors k key).modStack k fun y =>
        let z := y.setRow key {
          st := if r.depth = 0 then .remapped1 else .remapped2, depth := r.depth + 1, spares := r.spares ++ [i] }
        let ch := key / 65536 / 32
        { z with
          copies := z.copies.filter fun c => c ≠ key
          spareUsed := tabSet 0 z.spareUsed (key / 65536) (i + 1)
          tracker := tabSet [] z.tracker ch ((tabGet [] z.tracker ch).filter fun e => e.row ≠ key % (32 * 65536)) }
      s1.recordRemap k key

/-- An access inside another row waits while its bank is being copied, and is served after the flip (R220). -/
def State.awaitCopy (s : State) (a : Nat) : State :=
  let k := fin32 (stackOf a)
  match (s.stack k).copies.find? fun key => key / 65536 = bankKey a with
  | some key => s.flipCopy k key
  | none => s

/-- A dirty sector of the tier cache goes to its stack with its code as it stands, errors and all (R153): a whole-sector write, which
takes POISON and the stored errors away (R209) and meets an armed injection. It is a request as any other: it takes a slot, and waits
for a copy of its bank (R212, R220). -/
def State.writeBack (s : State) (sec : Nat) (e : Tab (BitVec 16)) : State :=
  let s1 := (s.passSlot (sec * 32)).awaitCopy (sec * 32)
  ({ s1.setErrors sec e with mpoison := tabSet false s1.mpoison sec false }).meetInjection sec

/-! ### The tier cache (R152 to R155): replacement and dirty sectors; it changes no value any engine reads -/

/-- Tree pseudo-LRU: each of 15 nodes points to the half to replace; a use turns the nodes on its path away. -/
def plruTouch (bits : BitVec 15) (way : Nat) : BitVec 15 :=
  ([3, 2, 1, 0].foldl (fun (acc : BitVec 15 × Nat) i =>
    let d := way / 2 ^ i % 2
    let m : BitVec 15 := 1#15 <<< acc.2
    (if d = 0 then acc.1 ||| m else acc.1 &&& ~~~m, 2 * acc.2 + 1 + d)) (bits, 0)).1
def plruVictim (bits : BitVec 15) : Nat :=
  ([3, 2, 1, 0].foldl (fun (acc : Nat × Nat) _ =>
    let d := b2n (bit bits acc.2)
    (acc.1 * 2 + d, 2 * acc.2 + 1 + d)) (0, 0)).1

def popcount4 (x : BitVec 4) : Nat := b2n (bit x 0) + b2n (bit x 1) + b2n (bit x 2) + b2n (bit x 3)

/-- A line is found or taken for an address: the victim is an invalid way, else the pseudo-LRU's; its unread
prefetched sectors count as wasted. -/
def Half.tcAlloc (h : Half) (a : Nat) : Nat × Half :=
  match h.tcFind a with
  | some w => (w, h)
  | none =>
    let free := (List.range 16).find? fun w => (tabGet {} h.tc (tcKey a w)).valid = 0
    let w := free.getD (plruVictim (tabGet 0 h.tcLru (tcSetOf a)))
    let old := tabGet {} h.tc (tcKey a w)
    (w, { h with
      tc := tabSet {} h.tc (tcKey a w) { tag := tcTagOf a }
      tcPfWasted := satAdd 64 h.tcPfWasted (popcount4 (old.pf &&& old.valid)) })

/-- A sector of a line becomes valid, with its dirty and prefetch bits as given, and is the most recently used. -/
def Half.tcPut (h : Half) (a : Nat) (dirty prefetched : Bool) : Half :=
  let r := h.tcAlloc a
  let m : BitVec 4 := 1#4 <<< tcSub a
  let l := tabGet {} r.2.tc (tcKey a r.1)
  let l' : TcLine := { l with
    valid := l.valid ||| m
    dirty := if dirty then l.dirty ||| m else l.dirty
    pf := if prefetched then l.pf ||| m else l.pf &&& ~~~m }
  { r.2 with
    tc := tabSet {} r.2.tc (tcKey a r.1) l'
    tcLru := tabMod 0 r.2.tcLru (tcSetOf a) fun b => plruTouch b r.1 }

/-- A sector leaves the cache. -/
def Half.tcDrop (h : Half) (a : Nat) : Half :=
  match h.tcFind a with
  | none => h
  | some w =>
    let m : BitVec 4 := ~~~(1#4 <<< tcSub a)
    { h with
      tc := tabMod {} h.tc (tcKey a w) fun l =>
        let v := l.valid &&& m
        if v = 0 then {} else { l with valid := v, dirty := l.dirty &&& m, pf := l.pf &&& m }
      tcErr := tabSet [] h.tcErr (sectorOf a) [] }

/-- The address of a sector of a cached line, from the line's key and tag. -/
def tcAddr (h : Fin 2) (key tag sub : Nat) : Nat :=
  h.val * 2 ^ 40 + tag * 2 ^ 20 + (key / 16 ^^^ tag % 8192) * 128 + sub * 32

/-- A line leaves the cache (R153): a dirty sector goes to its stack with its code as it stands, errors and all. -/
def State.tcEvict (s : State) (h : Fin 2) (key : Nat) : State :=
  let l := tabGet {} (s.half h).tc key
  [0, 1, 2, 3].foldl (fun (s : State) i =>
    let sec := sectorOf (tcAddr h key l.tag i)
    let e := tabGet [] (s.half h).tcErr sec
    if bit l.valid i then
      (if bit l.dirty i then s.writeBack sec e else s).modHalf h fun y => { y with tcErr := tabSet [] y.tcErr sec [] }
    else s) s

/-- A sector is written back when it is dirty, with its code as it stands, and leaves the cache (R154). -/
def State.tcLeave (s : State) (a : Nat) : State :=
  let hf := addrHalf a
  let e := tabGet [] (s.half hf).tcErr (sectorOf a)
  let s1 := if (s.half hf).tcHas a && (s.half hf).tcDirty a then s.writeBack (sectorOf a) e else s
  s1.modHalf hf fun h => h.tcDrop a

/-- Room is made for an address's line: what its victim held leaves. -/
def State.tcMake (s : State) (a : Nat) : State :=
  let h := addrHalf a
  match (s.half h).tcFind a with
  | some _ => s
  | none => s.tcEvict h (tcKey a ((s.half h).tcAlloc a).1)

/-- A half's tier cache is written back and invalidated (R153, R394). -/
def State.tcFlush (s : State) (h : Fin 2) : State :=
  (((s.half h).tc.map (·.1)).foldl (fun (s : State) k => s.tcEvict h k) s).modHalf h fun y => { y with tc := [], tcErr := [] }

/-- A hit's code is checked (R155): true when the cached sector serves the read. -/
def State.tcCheck (s : State) (a : Nat) : Bool × State :=
  let hf := addrHalf a
  let h := s.half hf
  let sec := sectorOf a
  match decodeSector (tabGet [] h.tcErr sec) with
  | .clean _ => (true, s)
  | .corrected _ =>
    (true, s.modHalf hf fun x => { x with tcErr := tabSet [] x.tcErr sec [], tcCe := satAdd 64 x.tcCe 1 })
  | .uncorrectable =>
    if h.tcDirty a then
      let s1 := s.modHalf hf fun x => { x.tcDrop a with
        tcUe := satAdd 32 x.tcUe 1, tcUeLast := BitVec.ofNat 41 (sec * 32) }
      let s2 := s1.writeBack sec []
      (false, { s2 with mpoison := tabSet false s2.mpoison sec true }.raise 0x0306 (unit := stackOf a) (detail := BitVec.ofNat 32 (pageOf a)) (site := hf.val))
    else (false, s.modHalf hf fun x => { x.tcDrop a with tcCe := satAdd 64 x.tcCe 1 })

/-- A read's passage through the cache: true when the cache serves it. A miss is counted and, unless NO_ALLOC, the
sector joins the cache. DESIGN CHOICE (log entry 73, unsafe): a clean sector dropped by R155 is refetched for the read alone, is not
put back and counts as neither hit nor miss. -/
def State.tcRead (s : State) (a : Nat) (noAlloc prefetched : Bool) : Bool × State :=
  let hf := addrHalf a
  if (s.half hf).tcHas a then
    match s.tcCheck a with
    | (true, s1) => (true, s1.modHalf hf fun h => { h.tcPut a false prefetched with tcHits := satAdd 64 h.tcHits 1 })
    | (false, s1) => (false, s1)
  else
    (false, (if noAlloc then s else s.tcMake a).modHalf hf fun h =>
      let h1 := { h with tcMisses := satAdd 64 h.tcMisses 1 }
      if noAlloc then h1
      else
        let h2 := h1.tcPut a false prefetched
        if prefetched then { h2 with tcPfFills := satAdd 64 h2.tcPfFills 1 } else h2)

/-- A write's passage through the cache (R153): a whole sector allocates; a part merges in a valid sector; `clean` for
a mirrored page, whose sector is written through (R227). DESIGN CHOICE (log entry 73, unsafe): TC_HITS and TC_MISSES count reads
alone, a prefetch's fetch as a miss (R161 does not say whether writes count). -/
def State.tcWrite (s : State) (a : Nat) (whole clean : Bool) : State :=
  (if whole then s.tcMake a else s).modHalf (addrHalf a) fun h =>
    if whole then
      let h1 := h.tcPut a (!clean) false
      { h1 with tcErr := tabSet [] h1.tcErr (sectorOf a) [] }
    else if h.tcHas a then h.tcPut a (!clean) false
    else h

/-- A read of a primary sector with a mirror copy (R227): when the primary cannot be used and the mirror can, the data comes from
the mirror, the primary is rewritten, and the event counts as a correction; a row whose error persisted has failed (R218). -/
def State.checkMirrored (s : State) (k : Fin 32) (sec m : Nat) (transit : List (List (Nat × BitVec 16))) : Bool × State :=
  let r := s.decodeRead k sec transit
  if r.1 && !(tabGet false r.2.mpoison sec) then r
  else
    let km := fin32 (stackOf m)
    let q := ((r.2.passSlot m).awaitCopy m).decodeRead km (sectorOf m) []
    if q.1 && !(tabGet false q.2.mpoison (sectorOf m)) then
      let s1 := (((q.2.setMemBytes (sec * 32) (q.2.memBytes (sectorOf m * 32) 32)).setErrors sec [])).countCorrected k
      let s2 := { s1 with mpoison := tabSet false s1.mpoison sec false }
      (true, if r.1 then s2 else s2.failRow k (rowKey (sec * 32)))
    else
      let s1 := if q.1 then q.2 else q.2.poisonSector km (sectorOf m)
      (false, if r.1 then s1.raise 0x0501 (unit := k.val) (detail := BitVec.ofNat 32 (pageOf (sec * 32)))
        else s1.poisonSector k sec)

/-- A read of one sector wherever it is served (R209, R226 to R228): its 32 bytes, or the code of the refusal. -/
def State.readSector (s : State) (a : Nat) (up : List (Nat × BitVec 16)) (transit : List (List (Nat × BitVec 16)))
    (noAlloc : Bool := false) (prefetched : Bool := false) :
    Except (BitVec 16) (List (BitVec 8)) × State :=
  match s.readRoute a with
  | .error c => (.error c, if prefetched then s else s.refused a c)
  | .ok x =>
    let sec := sectorOf x
    let k := fin32 (stackOf x)
    let cached := decide (x = a) && !s.isMirrorRange a
    let t := if cached then s.tcRead a noAlloc prefetched else (false, s)
    if t.1 then (.ok (t.2.memBytes (sec * 32) 32), t.2)
    else
      let s2 := (if x = a then t.2 else t.2.passSlot x).awaitCopy x
      let s0 := s2.setErrors sec (xorErrors (s2.errorsOf sec) up)
      let r := match (if x = a then s.mirrorAddr a else none) with
        | some m => if s.copyState m = none then s0.checkMirrored k sec m transit else s0.checkSector k sec transit
        | none => s0.checkSector k sec transit
      match r with
      | (true, s1) => (.ok (s1.memBytes (sec * 32) 32), s1)
      | (false, s1) => (.error 0x0501, if cached then s1.modHalf (addrHalf a) fun h => h.tcDrop a else s1)

/-- The check of the sector of an address where a read of it is served, as the controller makes it without the tier cache: a dirty
sector is written back first (R153, R209, R226, R227). The code of the refusal, where it cannot be used. -/
def State.routeCheck (s : State) (a : Nat) : Option (BitVec 16) × State :=
  match s.readRoute a with
  | .error c => (some c, s.refused a c)
  | .ok x =>
    let s1 := (if x = a then s.tcLeave a else s).awaitCopy x
    let r := match (if x = a then s.mirrorAddr a else none) with
      | some m => if s.copyState m = none then s1.checkMirrored (fin32 (stackOf x)) (sectorOf x) m []
          else s1.checkSector (fin32 (stackOf x)) (sectorOf x) []
      | none => s1.checkSector (fin32 (stackOf x)) (sectorOf x) []
    (if r.1 then none else some 0x0501, r.2)

/-- The primary address of a sector of a mirror range; any other address is its own. -/
def State.primaryAddr (s : State) (a : Nat) : Nat :=
  if inStore a then a % 2 ^ 40
  else match s.primaryOf (a / 65536) with
    | some p => p * 65536 + a % 65536
    | none => a

/-- Where a read of an address is served; a refused one keeps its address. -/
def State.servedAt (s : State) (a : Nat) : Nat :=
  match s.readRoute a with
  | .ok x => x
  | .error _ => a

/-- Oztas's and the stewards' own reading of an extent checks its sectors like any read (R209, R223, R226, R227): the code of the first
refusal, none when every sector can be used. Each page's route is asked; a sector with neither stored errors nor POISON reads clean, so
only the others are decoded. -/
def State.checkExtent (s : State) (a n : Nat) : Option (BitVec 16) × State :=
  let first := a / 32
  let last := (a + n - 1) / 32
  let listed := ((s.symErr.map (·.1) ++ s.mpoison.map (·.1)).map fun q => s.primaryAddr (q * 32) / 32).eraseDups.filter fun q =>
    decide (first ≤ q ∧ q ≤ last)
  let pages := (List.range (last / 2048 + 1 - first / 2048)).foldl (fun (x : Option (BitVec 16) × State) i =>
    let p := if i = 0 then a else (first / 2048 + i) * 65536
    match x.1, s.readRoute p with
    | none, .error c => (some c, s.refused p c)
    | _, _ => x) (none, s)
  listed.foldl (fun (x : Option (BitVec 16) × State) q =>
    match x.1 with
    | some _ => x
    | none => x.2.routeCheck (q * 32)) pages

/-- Several extents in turn, to the first refusal. -/
def State.checkExtents (s : State) : List (Nat × Nat) → Option (BitVec 16) × State
  | [] => (none, s)
  | x :: xs =>
    match s.checkExtent x.1 x.2 with
    | (some c, s1) => (some c, s1)
    | (none, s1) => s1.checkExtents xs

/-- The bytes of an extent as they are served. -/
def State.servedBytes (s : State) (a n : Nat) : List (BitVec 8) := (List.range n).map fun i => s.memByte (s.servedAt (a + i))

/-- A read of `n` bytes: sector by sector in ascending order, stopping at the first that is refused. -/
def State.readLoop (s : State) (noAlloc : Bool) :
    Nat → Nat → List (BitVec 8) → Except (BitVec 16) (List (BitVec 8)) × State
  | 0, _, acc => (.ok acc, s)
  | n + 1, sec, acc =>
    match s.readSector (sec * 32) [] [] noAlloc with
    | (.ok bs, s1) => s1.readLoop noAlloc n (sec + 1) (acc ++ bs)
    | (.error c, s1) => (.error c, s1)

/-- A read of `n` bytes of stack memory from address `a` that nothing stands before: the image store is refused (R353). -/
def State.readDirect (s : State) (a n : Nat) (noAlloc : Bool := false) : Except (BitVec 16) (List (BitVec 8)) × State :=
  if n = 0 then (.ok [], s)
  else if inStore a || inStore (a + n - 1) then (.error 0x0902, s.refused a 0x0902)
  else
    let first := a / 32
    let last := (a + n - 1) / 32
    match (s.passSlots a n).readLoop noAlloc (last + 1 - first) first [] with
    | (.ok bs, s1) => (.ok ((bs.drop (a % 32)).take n), s1)
    | (.error c, s1) => (.error c, s1)

/-- The read of a masked write's sector (R142, R153): in the cache when it is valid there, its code checked as on any hit (R155),
whatever has become of the stack's older copy, else at the stack; true when the bytes may be merged. -/
def State.mergeRead (s : State) (a t : Nat) : Bool × State :=
  let s1 := if t = a && (s.half (addrHalf t)).tcHas t then (s.tcCheck t).2 else s
  if t = a && (s1.half (addrHalf t)).tcHas t then (true, s1)
  else (s1.awaitCopy t).checkSector (fin32 (stackOf t)) (sectorOf t) []

/-- The sectors a masked write merges into can all be read. -/
def State.mergeReads (s : State) (a : Nat) : List Nat → Bool × State
  | [] => (true, s)
  | t :: ts =>
    match s.mergeRead a t with
    | (true, s1) => s1.mergeReads a ts
    | (false, s1) => (false, s1)

/-- A sector's bytes stored at one of the copies that serve it, `t` for address `a` (R153, R227). A whole sector, or a part of a valid
one, stays dirty in the cache unless the page is mirrored; anything else goes to the stack, where a whole sector clears POISON and the
write meets an armed injection (R209, R235). -/
def State.storeAt (s : State) (a t : Nat) (whole : Bool) (runs : List (Nat × List (BitVec 8))) : State :=
  let sec := sectorOf t
  let put (s : State) : State := runs.foldl (fun s r => s.setMemBytes (sec * 32 + r.1) r.2) s
  let mirrored := (s.mirrorAddr a).isSome
  if t = a && !mirrored && (whole || (s.half (addrHalf a)).tcHas a) then (put s).tcWrite a whole false
  else
    let s1 := put ((if t = a then s else s.passSlot t).awaitCopy t)
    let s2 := (if whole then s1.freshSector sec else s1).meetInjection sec
    if t = a then s2.tcWrite a whole mirrored else s2

/-- What a primary sends its mirror across the bridge takes its direction there (R21, R227). -/
def State.carryMirror (s : State) (a n : Nat) (ts : List Nat) : State :=
  if ts.contains a && ts.any fun t => addrHalf t ≠ addrHalf a then
    s.modHalf (addrHalf a) fun y => { y with bridgeBytes := y.bridgeBytes + n }
  else s

/-- One sector's write, of runs given by their offset in it, at the copies that serve it and never in part (R23): a masked write reads
the sector first, and one of a poisoned sector is refused and changes nothing (R209). -/
def State.writeRuns (s : State) (a : Nat) (runs : List (Nat × List (BitVec 8))) : Option (BitVec 16) × State :=
  match s.writeRoute a with
  | .error c => (some c, s.refused a c)
  | .ok ts =>
    let whole := runs.any fun r => decide (r.2.length = 32)
    match (if whole then (true, s) else s.mergeReads a ts) with
    | (false, s0) => (some 0x0501, s0)
    | (true, s0) =>
      (none, ts.foldl (fun s t => s.storeAt a t whole runs)
        (s0.carryMirror a (runs.foldl (fun n r => n + r.2.length) 0) ts))

/-- One run of bytes written within a sector. -/
def State.writeSector (s : State) (a off : Nat) (bs : List (BitVec 8)) : Option (BitVec 16) × State :=
  s.writeRuns a [(off, bs)]

/-- The sectors that a write of `n` bytes from an address covers, each with whether it covers it whole. -/
def sectorCover (a n : Nat) : List (Nat × Bool) :=
  (List.range ((a + n + 31) / 32 - a / 32)).map fun i =>
    let q := (a / 32 + i) * 32
    (q, decide (a ≤ q ∧ q + 32 ≤ a + n))

/-- Every sector of a write can be written: the route of each, and the reads that its masked ones need. A write that meets a refusal
changes nothing (R209, R223): the code. -/
def State.writeCheck (s : State) : List (Nat × Bool) → Option (BitVec 16) × State
  | [] => (none, s)
  | (a, whole) :: rest =>
    match s.writeRoute a with
    | .error c => (some c, s.refused a c)
    | .ok ts =>
      match (if whole then (true, s) else s.mergeReads a ts) with
      | (false, s1) => (some 0x0501, s1)
      | (true, s1) => s1.writeCheck rest

/-- Bytes written sector by sector. -/
def State.writeLoop (s : State) : Nat → Nat → List (BitVec 8) → Option (BitVec 16) × State
  | 0, _, _ => (none, s)
  | n + 1, a, bs =>
    if bs = [] then (none, s)
    else
      let off := a % 32
      let take := min (32 - off) bs.length
      match s.writeSector a off (bs.take take) with
      | (none, s1) => s1.writeLoop n (a + take) (bs.drop take)
      | (some c, s1) => (some c, s1)

/-- One write, whole or not at all. -/
def State.writeWhole (s : State) (a : Nat) (bs : List (BitVec 8)) : Option (BitVec 16) × State :=
  match s.writeCheck (sectorCover a bs.length) with
  | (some c, s1) => (some c, s1)
  | (none, s1) => s1.writeLoop (bs.length / 32 + 2) a bs

/-- A write as the requests of its 512-byte blocks (R212), stopping at the first that is refused. -/
def State.writeBlocks (s : State) : Nat → Nat → List (BitVec 8) → Option (BitVec 16) × State
  | 0, _, _ => (none, s)
  | n + 1, a, bs =>
    if bs = [] then (none, s)
    else
      let take := 512 - a % 512
      match s.writeWhole a (bs.take take) with
      | (none, s1) => s1.writeBlocks n (a + take) (bs.drop take)
      | (some c, s1) => (some c, s1)

/-- A write of bytes to stack memory that nothing stands before, block by block: the image store is refused. -/
def State.writeDirect (s : State) (a : Nat) (bs : List (BitVec 8)) : Option (BitVec 16) × State :=
  if bs = [] then (none, s)
  else if inStore a || inStore (a + bs.length - 1) then (some 0x0902, s.refused a 0x0902)
  else (s.passSlots a bs.length).writeBlocks (bs.length / 512 + 2) a bs

/-- The same, dropped whole when any sector of it is refused (R431). -/
def State.hostDirect (s : State) (a : Nat) (bs : List (BitVec 8)) : Option (BitVec 16) × State :=
  if bs = [] then (none, s)
  else if inStore a || inStore (a + bs.length - 1) then (some 0x0902, s.refused a 0x0902)
  else (s.passSlots a bs.length).writeWhole a bs

/-! ### Traffic across the bridge (R18, R21) -/

/-- The half a request is served on: that of the copy that serves it; none when it will be refused (R24, R226, R228). -/
def State.servedHalf (s : State) (a : Nat) : Option (Fin 2) :=
  if !s.stackFenced (fin32 (stackOf a)) && (s.stack (fin32 (stackOf a))).stopped.isNone then some (addrHalf a)
  else
    match s.mirrorAddr a with
    | some m => if s.copyState m = none then some (addrHalf m) else none
    | none => none

/-- Bytes that a unit of one half reads from or writes to stack memory take their direction of the bridge when they cross
(R18, R21). -/
def State.carry (s : State) (from_ : Fin 2) (a n : Nat) (read : Bool) : State :=
  match s.servedHalf a with
  | some t =>
    if t = from_ then s
    else s.modHalf (if read then t else from_) fun y => { y with bridgeBytes := y.bridgeBytes + n }
  | none => s

end Sys2Proof.Machine
end

