-- ==== Sys2Proof/Machine/Pannier.lean ====
section
/-! DEFINITION. The pannier adders: the atomic read-modify-write operations of R229 to R233. -/

namespace Sys2Proof.Machine

/-- What a pannier operation tells the reduction machinery (R230): an LF48 lane that saturated, or a non-finite
element, with the address of its lane. -/
structure PanNote where
  lane : Nat
  nonfinite : Bool
  deriving DecidableEq, Repr

/-- Bytes of a lane of an operation (R229); 0 for a reserved PAN_OP. -/
def panLane (op : Nat) : Nat :=
  match op with
  | 0x1 | 0x3 | 0x5 | 0x6 | 0x9 | 0xA => 4
  | 0x2 | 0x7 | 0x8 => 8
  | 0x4 | 0xB | 0xC => 2
  | 0xD | 0xE => 6
  | _ => 0

/-- Operations a movement descriptor or a message may name: neither reserved nor an LF48 operation. -/
def panMovable (op : Nat) : Bool := decide (1 ≤ op ∧ op ≤ 0xC)

/-- The operand format a descriptor's DST_FMT must name (R229). -/
def panFormat (op : Nat) : Option Fmt :=
  match op with
  | 0x1 | 0x2 | 0x3 | 0x5 | 0x6 | 0x7 | 0x8 | 0x9 | 0xA => some .fp32
  | 0x4 | 0xB | 0xC => some .bf16
  | 0xD => some .lf48
  | _ => none

/-- MAX and MIN of floating-point codes (R230): NaN on either side gives NaN; +0 is above -0. -/
def fpMaxMin (f : FpFmt) (max : Bool) (a b : Nat) : Nat :=
  let x := f.decode a
  let y := f.decode b
  if x.isNan || y.isNan then f.nanCode
  else if x.isZero && y.isZero then
    (if max then (if x.sign && y.sign then a else f.signed false 0)
     else (if x.sign || y.sign then f.signed true 0 else a))
  else if x.lt y then (if max then b else a) else (if max then a else b)

/-- A floating-point addition rounded once (R230). -/
def fpAdd (f : FpFmt) (ovf : Bool) (a b : Nat) : Nat := (f.round ovf ((f.decode a).add (f.decode b))).code

/-- MAX and MIN of two's-complement integers. -/
def intMaxMin (w : Nat) (max : Bool) (a b : Nat) : Nat :=
  if (signed w a < signed w b) = max then b else a

/-- One lane's result (R230), for the operations a descriptor may name. -/
def panLaneOp (op : Nat) (ovf : Bool) (stored arriving : Nat) : Nat :=
  match op with
  | 0x1 => (stored + arriving) % 2 ^ 32
  | 0x2 => (stored + arriving) % 2 ^ 64
  | 0x3 => fpAdd fpFp32 ovf stored arriving
  | 0x4 => fpAdd fpBf16 ovf stored arriving
  | 0x5 => intMaxMin 32 true stored arriving
  | 0x6 => intMaxMin 32 false stored arriving
  | 0x7 => intMaxMin 64 true stored arriving
  | 0x8 => intMaxMin 64 false stored arriving
  | 0x9 => fpMaxMin fpFp32 true stored arriving
  | 0xA => fpMaxMin fpFp32 false stored arriving
  | 0xB => fpMaxMin fpBf16 true stored arriving
  | 0xC => fpMaxMin fpBf16 false stored arriving
  | _ => stored

/-- A value rounded to a whole number of units 2^e0, as an integer (ties to even). -/
def Val.roundTo (v : Val) (e0 : Int) : Option Int :=
  match v with
  | .num n m e =>
    let r : Int := roundHalfEven m (e - e0)
    some (if n then -r else r)
  | _ => none

/-- to_lf48 of R277: none for a non-finite element. -/
def toLf48 (v : Val) (g : Int) : Option Int := v.roundTo (g - 46)

def lf48Max : Int := 2 ^ 47 - 1

/-- An LF48 lane sum (R230): saturating at ±(2^47 - 1); true when it saturated. -/
def lf48Add (a b : Int) : Int × Bool :=
  let x := a + b
  if x > lf48Max then (lf48Max, true) else if x < -lf48Max then (-lf48Max, true) else (x, false)

/-- rime_add (R284) and the reading of a residue word (R231). -/
def rimeAdd (a b : Nat) : Nat := ((if a = 0xFFFF then 0 else a) + b) % 65535

/-- The residue of a lane (R284). -/
def rimeOfLane (l : Int) : Nat := (l % 65535).toNat

/-- The placements of an LF48 group and its residue word (R231). -/
def groupOk (a res : Nat) : Bool :=
  let o := a % 65536
  let r := res % 65536
  o % 96 = 0 && decide (o ≤ 65376) && decide (a / 65536 = res / 65536) && r % 2 = 0
    && (decide (r + 2 ≤ o) || decide (o + 96 ≤ r))

/-- The 16 lanes of a group and their new values: each arriving element is a lane already, or is converted. -/
def groupLanes (conv : Bool) (fmt : Fmt) (g : Int) (stored arriving : List Nat) : List (Nat × Bool × Bool) :=
  (stored.zip arriving).map fun x =>
    let l := signed 48 x.1
    let add : Option Int := if conv then toLf48 (elemVal fmt 8 8 false x.2 127) g else some (signed 48 x.2)
    match add with
    | none => (x.1, false, true)
    | some y => let r := lf48Add l y; (wrap 48 r.1, r.2, false)

/-- The lanes of a sector a masked request carries get the operation's result. -/
def panSectorBytes (op : Nat) (ovf : Bool) (old new : List (BitVec 8)) (mask : List Bool) : List (BitVec 8) :=
  let w := panLane op
  (List.range (old.length / w)).flatMap fun i =>
    let a := (old.drop (i * w)).take w
    if mask = [] || mask.getD (i * w) false then
      natLe w (panLaneOp op ovf (leNat a) (leAt new (i * w) w))
    else a

/-- Every sector of an extent can be combined into: its route and its data are good. The first refusal stops it. -/
def State.panCheck (s : State) : Nat → Nat → Option (BitVec 16) × State
  | 0, _ => (none, s)
  | n + 1, sec =>
    match s.writeRoute (sec * 32) with
    | .error c => (some c, s.refused (sec * 32) c)
    | .ok ts =>
      let t := ts.headD (sec * 32)
      let k := fin32 (stackOf t)
      let s1 := (s.tcLeave t).awaitCopy t
      match s1.checkSector k (sectorOf t) [] with
      | (true, s2) => s2.panCheck n (sec + 1)
      | (false, s2) => (some 0x0501, s2)

/-- Bytes combined into memory at every copy that serves them (R227): the result goes to the mirror too. -/
def State.panStore (s : State) (a : Nat) (bs : List (BitVec 8)) : State :=
  match s.writeRoute a with
  | .error _ => s
  | .ok ts => ts.foldl (fun s t => s.setMemBytes (t / 32 * 32 + a % 32) bs) s

/-- Where the bytes combined with are read: the copy the operation is applied at. -/
def State.panSource (s : State) (a : Nat) : Nat :=
  match s.writeRoute a with
  | .ok (t :: _) => t / 32 * 32 + a % 32
  | _ => a

/-- Bytes of an extent as the adder reads them, sector by sector. -/
def State.panBytes (s : State) (a n : Nat) : List (BitVec 8) := (List.range n).map fun i => s.memByte (s.panSource (a + i))

/-- Bytes stored by the adder: a byte at a time, each at the copies its sector has. -/
def State.panWrite (s : State) (a : Nat) : List (BitVec 8) → State
  | [] => s
  | b :: bs => (s.panStore a [b]).panWrite (a + 1) bs

/-- The sectors the adder has written are whole again: a primary's result goes to its mirror, each copy gets a valid code
(R227), and an armed injection meets the write (R235). -/
def State.panSettle (s : State) : Nat → Nat → State
  | 0, _ => s
  | n + 1, sec =>
    (match s.writeRoute (sec * 32) with
      | .error _ => s
      | .ok ts =>
        let bs := s.memBytes (ts.headD (sec * 32) / 32 * 32) 32
        ts.foldl (fun (s : State) t =>
          (((s.awaitCopy t).setMemBytes (t / 32 * 32) bs).freshSector (sectorOf t)).meetInjection (sectorOf t))
          (s.carryMirror (sec * 32) 32 ts)).panSettle n (sec + 1)

/-- Refused: counted at the stack that refuses (R229, R235). -/
def State.panRefuse (s : State) (a : Nat) : State :=
  s.modStack (fin32 (stackOf a)) fun x => { x with panRefused := satAdd 32 x.panRefused 1 }
def State.panApplied (s : State) (a : Nat) : State :=
  s.modStack (fin32 (stackOf a)) fun x => { x with panOps := satAdd 64 x.panOps 1 }

/-- A plain operation on whole lanes of an extent (R229, R230): refused whole, changing no lane, or applied. -/
def State.panAct (s : State) (op : Nat) (ovf : Bool) (a : Nat) (bs : List (BitVec 8)) (mask : List Bool := []) :
    Option (BitVec 16) × State :=
  let w := panLane op
  if bs = [] then (none, s)
  else if !panMovable op || a % w ≠ 0 || bs.length % w ≠ 0 then (some 0x0302, s.panRefuse a)
  else if inStore a || inStore (a + bs.length - 1) then (some 0x0902, (s.panRefuse a).refused a 0x0902)
  else
    match s.panCheck ((a + bs.length - 1) / 32 + 1 - a / 32) (a / 32) with
    | (some c, s1) => (some c, s1.panRefuse a)
    | (none, s1) =>
      let out := panSectorBytes op ovf (s1.panBytes a bs.length) bs mask
      (none, ((s1.panWrite a out).panSettle ((a + bs.length - 1) / 32 + 1 - a / 32) (a / 32)).panApplied a)

/-- An LF48 operation on a whole group and its residue word (R230, R231): ADD takes sixteen lanes, CONV sixteen elements
of a format under the block's anchor. -/
def State.groupAct (s : State) (conv : Bool) (fmt : Fmt) (g : Int) (a : Nat) (arriving : List Nat)
    (residue res : Nat) : Option (BitVec 16) × List PanNote × State :=
  if !groupOk a res then
    (some 0x050A, [], ((s.panRefuse a).raise 0x050A (unit := stackOf a) (detail := BitVec.ofNat 32 (pageOf a))))
  else if inStore a then (some 0x0902, [], (s.panRefuse a).refused a 0x0902)
  else
    match s.panCheck 3 (a / 32) with
    | (some c, s1) => (some c, [], s1.panRefuse a)
    | (none, s1) =>
      match s1.panCheck 1 (res / 32) with
      | (some c, s2) => (some c, [], s2.panRefuse a)
      | (none, s2) =>
        let old := s2.panBytes a 96
        let r := groupLanes conv fmt g ((List.range 16).map fun i => leAt old (6 * i) 6) arriving
        let notes := ((List.range 16).zip r).filterMap fun x =>
          if x.2.2.1 || x.2.2.2 then some ⟨a + 6 * x.1, x.2.2.2⟩ else none
        let s3 := s2.panWrite a (r.flatMap fun x => natLe 6 x.1)
        let word := rimeAdd (leNat (s3.panBytes res 2)) residue
        (none, notes, (((s3.panWrite res (natLe 2 word)).panSettle 3 (a / 32)).panSettle 1 (res / 32)).panApplied a)

end Sys2Proof.Machine
end

