-- ==== Sys2Proof/Machine/Queues.lean ====
section
/-! DEFINITION. Accesses to stack memory in their order (R19, R215, R232): what a request that waits at a stack, or before the bridge, does at
its sectors, and the accesses that come after it. -/

namespace Sys2Proof.Machine

open Host

/-- An LF48 operation, on a whole group and its residue word (R231). -/
def StkReq.isGroup (r : StkReq) : Bool := r.kind = .pannier && (r.pan = 0xD || r.pan = 0xE)

/-- The sectors a request is for, its residue word's included (R212, R231). -/
def StkReq.sectors (r : StkReq) : List Nat :=
  let last := if r.isGroup then r.addr + 95 else r.addr + r.len - 1
  ((List.range (last / 32 + 1 - r.addr / 32)).map fun i => r.addr / 32 + i) ++ (if r.isGroup then [r.resAddr / 32] else [])

/-- Two requests share a sector (R19, R215, R232). -/
def overlaps (a b : StkReq) : Bool := a.sectors.any fun q => b.sectors.contains q

/-- Upsets strike a sector where it is stored: in the tier cache when it is cached there, else in its stack. -/
def State.upsetSector (s : State) (sec : Nat) (l : List (Nat × BitVec 16)) : State :=
  if (s.half (addrHalf (sec * 32))).tcHas (sec * 32) then
    s.modHalf (addrHalf (sec * 32)) fun h => { h with tcErr := tabSet [] h.tcErr sec (xorErrors (tabGet [] h.tcErr sec) l) }
  else s.setErrors sec (xorErrors (s.errorsOf sec) l)

/-- A request's sectors are read in ascending order. -/
def State.serveRead (s : State) (r : StkReq) (transit : Nat → List (List (Nat × BitVec 16))) :
    Nat → Nat → List (BitVec 8) → Except (BitVec 16) (List (BitVec 8)) × State
  | 0, _, acc => (.ok acc, s)
  | n + 1, sec, acc =>
    match s.readSector (sec * 32) [] (transit sec) r.noAlloc r.prefetch with
    | (.ok bs, s1) => s1.serveRead r transit n (sec + 1) (acc ++ bs)
    | (.error c, s1) => (.error c, s1)

/-- A masked write's enabled bytes, as maximal runs of (address, bytes). -/
def maskRuns (a : Nat) : List (BitVec 8) → List Bool → List (Nat × List (BitVec 8))
  | [], _ => []
  | b :: bs, [] => [(a, b :: bs)]
  | b :: bs, m :: ms =>
    match maskRuns (a + 1) bs ms with
    | (a', l) :: rest =>
      if m then (if a' = a + 1 then (a, b :: l) :: rest else (a, [b]) :: (a', l) :: rest) else (a', l) :: rest
    | [] => if m then [(a, [b])] else []

/-- A masked write by sectors: each sector's address and its runs, by their offset in it. -/
def sectorWrites (a : Nat) (bs : List (BitVec 8)) (mask : List Bool) : List (Nat × List (Nat × List (BitVec 8))) :=
  (List.range ((a + bs.length + 31) / 32 - a / 32)).map fun i =>
    let lo := max a ((a / 32 + i) * 32)
    let hi := min (a + bs.length) ((a / 32 + i) * 32 + 32)
    ((a / 32 + i) * 32, (maskRuns lo ((bs.drop (lo - a)).take (hi - lo)) (mask.drop (lo - a))).map fun r => (r.1 % 32, r.2))

/-- A write request's sectors in ascending order, once none of them is refused: a write that is refused changes nothing (R23, R209,
R223). -/
def State.serveWrites (s : State) (ws : List (Nat × List (Nat × List (BitVec 8)))) : Option (BitVec 16) × State :=
  let l := ws.filter fun w => w.2 ≠ []
  match l.find? fun w => inStore w.1 with
  | some w => (some 0x0902, s.refused w.1 0x0902)
  | none =>
    match s.writeCheck (l.map fun w => (w.1, w.2.any fun r => decide (r.2.length = 32))) with
    | (some c, s1) => (some c, s1)
    | (none, s1) => (none, l.foldl (fun s w => (s.writeRuns w.1 w.2).2) s1)

/-- A pannier request at its adder; what an LF48 operation notes goes to the reduction machinery (R230). -/
def State.servePan (s : State) (r : StkReq) : Option (BitVec 16) × State :=
  if r.pan = 0xD || r.pan = 0xE then
    let conv := r.pan = 0xE
    let f := (fmtOfCode r.srcFmt).getD .bf16
    let w := if conv then f.bits / 8 else 6
    let x := s.groupAct conv f r.anchor r.addr ((List.range 16).map fun i => leAt r.data (i * w) w)
      r.residue.toNat r.resAddr
    (x.1, x.2.2.modRed fun y => { y with notes := y.notes ++ x.2.1.map fun n => (n.lane, n.nonfinite) })
  else s.panAct r.pan r.ovf r.addr (r.data.take r.len) r.mask

/-- What a request does at its sectors, and what it comes to. -/
def State.actRequest (s : State) (r : StkReq) (upset : Option SectorUpset) : ReqAct × State :=
  let first := r.addr / 32
  let n := (r.addr + r.len - 1) / 32 + 1 - first
  let s0 := match upset with
    | some u => s.upsetSector (first + u.sector) u.stored
    | none => s
  let transit (sec : Nat) : List (List (Nat × BitVec 16)) :=
    match upset with
    | some u => if sec = first + u.sector then u.transit else []
    | none => []
  match r.kind with
  | .read =>
    if inStore r.addr then (.refused 0x0902, s0.refused r.addr 0x0902)
    else
      match s0.serveRead r transit n first [] with
      | (.ok bs, s1) => (.data ((bs.drop (r.addr % 32)).take r.len), s1)
      | (.error c, s1) => (.refused c, s1)
  | .write =>
    match s0.serveWrites (sectorWrites r.addr (r.data.take r.len) r.mask) with
    | (none, s1) => (.done, s1)
    | (some c, s1) => (.refused c, s1)
  | .pannier =>
    match s0.servePan r with
    | (none, s1) => (.done, s1)
    | (some c, s1) => (.refused c, s1)

/-- The stack's fence, or its steward's stop, set aside while a request it had admitted completes (R22, R23, R226). -/
def State.completeWith {α : Type} (s : State) (k : Fin 32) (f : State → α × State) : α × State :=
  let stop := (s.stack k).stopped
  let m : BitVec 32 := if s.stackFenced k then 1#32 <<< k.val else 0
  let x := f ((if stop.isSome then s.modStack k fun x => { x with stopped := none } else s).modGlb fun g => { g with
    fencedStacks := g.fencedStacks &&& ~~~m })
  let y := x.2.modGlb fun g => { g with fencedStacks := g.fencedStacks ||| m }
  (x.1, if stop.isSome then y.modStack k fun x => { x with stopped := stop } else y)

/-- Of requests in the order they came, those that must act before an access to some sectors: the ones that share a sector with it, or with one
that must (R215). -/
def mustPrecede (sectors : List Nat) (l : List StkReq) : List StkReq :=
  (l.foldr (fun r (x : List Nat × List StkReq) =>
    if r.acted.isNone && r.sectors.any x.1.contains then (r.sectors ++ x.1, r :: x.2) else x) (sectors, [])).2

/-- Requests in the order of their serials. -/
def inOrderOf (l : List StkReq) : List StkReq :=
  l.foldr (fun r o => o.takeWhile (fun q => decide (q.id < r.id)) ++ r :: o.dropWhile fun q => decide (q.id < r.id)) []

/-- A waiting request acts: it keeps its place, and what it has come to. -/
def State.actWaiting (s : State) (k : Fin 32) (r : StkReq) : State :=
  let x := if (s.stack k).slots.contains r then s.completeWith k fun s => s.actRequest r none else s.actRequest r none
  let mark (q : StkReq) : StkReq := if q = r then { q with acted := some x.1 } else q
  forAllOf allHalves (fun h s => s.modHalf h fun y => { y with bridgeQ := y.bridgeQ.map mark })
    (x.2.modStack k fun y => { y with slots := y.slots.map mark, ingress := y.ingress.map mark })

/-- The requests that wait at a stack, then those before the bridge that are for it. -/
def State.waitingAt (s : State) (k : Fin 32) : List StkReq :=
  inOrderOf ((s.stack k).slots ++ (s.stack k).ingress)
    ++ inOrderOf ((allHalves.flatMap fun h => (s.half h).bridgeQ).filter fun r => stackOf r.addr = k.val)

/-- What waits for the sectors of an access acts before it (R19, R215, R232). -/
def State.serveAhead (s : State) (a n : Nat) : State :=
  let last := a + n - 1
  let ks := if 65536 < n then allStacks else if stackOf a = stackOf last then [fin32 (stackOf a)]
    else [fin32 (stackOf a), fin32 (stackOf last)]
  forAllOf ks (fun k s =>
    match s.waitingAt k with
    | [] => s
    | l => (mustPrecede ((List.range (last / 32 + 1 - a / 32)).map fun i => a / 32 + i) l).foldl (fun s r => s.actWaiting k r) s) s

/-- A read of `n` bytes of stack memory from address `a`, as an engine, a port or the host sees it. -/
def State.stackRead (s : State) (a n : Nat) (noAlloc : Bool := false) : Except (BitVec 16) (List (BitVec 8)) × State :=
  (s.serveAhead a n).readDirect a n noAlloc

/-- A write of bytes to stack memory, as an engine or a port makes it. -/
def State.stackWrite (s : State) (a : Nat) (bs : List (BitVec 8)) : Option (BitVec 16) × State :=
  (s.serveAhead a bs.length).writeDirect a bs

/-- A posted write of the host, dropped whole when any sector of it is refused (R431). -/
def State.hostWrite (s : State) (a : Nat) (bs : List (BitVec 8)) : Option (BitVec 16) × State :=
  (s.serveAhead a bs.length).hostDirect a bs

/-- A pannier operation made inside another row of the table, which passes through a slot of its stack (R212, R233). -/
def State.panApply (s : State) (op : Nat) (ovf : Bool) (a : Nat) (bs : List (BitVec 8)) (mask : List Bool := []) :
    Option (BitVec 16) × State :=
  (if bs = [] then s else (s.serveAhead a bs.length).passSlots a bs.length).panAct op ovf a bs mask

/-- The same for an LF48 group and its residue word. -/
def State.panGroup (s : State) (conv : Bool) (fmt : Fmt) (g : Int) (a : Nat) (arriving : List Nat)
    (residue res : Nat) : Option (BitVec 16) × List PanNote × State :=
  (((s.serveAhead a 96).serveAhead res 2).passSlot a).groupAct conv fmt g a arriving residue res

/-! ### The gauge's flush (R238, R239) -/

/-- The address of a tensor's census record in the bank of a step (R238). -/
def censusAddr (base step t : Nat) : Nat := base + step % 2 * (3 * 2 ^ 20) + 768 * t

/-- The pannier operations a bank's counts make (R238, R239): operation, offset, operand. -/
def gaugeOps (g : GaugeAcc) (under : Nat) : List (Nat × Nat × List (BitVec 8)) :=
  let add (off n : Nat) : List (Nat × Nat × List (BitVec 8)) := if n = 0 then [] else [(0x2, off, natLe 8 n)]
  (match g.amaxExp with
    | some x => [(0x5, 0x008, natLe 4 (wrap 32 x))]
    | none => []) ++
  (if g.amax = 0 then [] else [(0x9, 0x00C, natLe 4 g.amax.toNat)]) ++
  add 0x010 g.values ++ add 0x018 g.zeros ++ add 0x020 g.vanished ++ add 0x028 g.saturated ++ add 0x030 g.nan ++
  add 0x038 g.posInf ++ add 0x040 g.negInf ++ add 0x048 under ++
  (List.range 12).flatMap (fun i => add (0x060 + 8 * i) (tabGet 0 g.whatIf i)) ++
  (List.range 64).flatMap (fun i => add (0x0C0 + 8 * i) (tabGet 0 g.hist i))

/-- The gauge's flush when a bank returns to EMPTY (R239): nothing is sent while GAUGE_CTRL.ENABLE is 0, and a flush that sends
nothing is no record sent (R271). DESIGN CHOICE (log entry 78, unsafe): the spec does not say which of the two census banks takes
the counts of a bank that a step marker has passed while it was open (R238); they go to that of UPD_STEP at the flush. -/
def State.gaugeFlush (s : State) (c : Fin 8) (t : Nat) (g : GaugeAcc) (under : Nat) : State :=
  match s.cfg with
  | none => s
  | some i =>
    let a := censusAddr i.censusBase (s.core c).upd.step.toNat t
    let ops := gaugeOps g under
    if !(s.core c).upd.gaugeEn || ops.isEmpty then s
    else
      (ops.foldl (fun s o => (s.panApply o.1 false (a + o.2.1) o.2.2).2) s).modUpd c fun u => { u with
        gaugeFlushes := satAdd 32 u.gaugeFlushes 1 }

end Sys2Proof.Machine
end

