-- ==== Sys2Proof/Machine/Moraine.lean ====
section
/-! DEFINITION. The moraine: its entries and their records, spans of the pool, and what claims, acquisitions and tokens
do to an entry (R261 to R266). -/

namespace Sys2Proof.Machine

/-! ### Slots and entries -/

/-- The moraine table's entry for a slot (R261). -/
def State.morCfg (s : State) (c : Fin 8) (slot : Nat) : Option MorCfg :=
  s.cfg.bind fun g => g.moraine.find? fun m => m.core = c.val && m.slot = slot

def morKey (c : Fin 8) (slot : Nat) : Nat := c.val * 1024 + slot

def State.morEntries (s : State) : List MorEntry := (s.half s.morHalf).morEntries
def State.modMor (s : State) (f : Half → Half) : State := s.modHalf s.morHalf f

def MorSt.code : MorSt → Nat
  | .free => 0 | .filling => 1 | .present => 2 | .reading => 3 | .dropped => 4 | .lent => 5 | .returning => 6

/-- The 32-byte record of an entry (R262). -/
def morRecord (e : MorEntry) : List (BitVec 8) :=
  let away := e.st = .lent || e.st = .returning
  natLe 4 (e.slot % 1024 + e.core % 8 * 2 ^ 10 + e.seq % 4096 * 2 ^ 13 + e.st.code * 2 ^ 25 + b2n e.recomp * 2 ^ 28)
  ++ natLe 4 e.step.toNat
  ++ natLe 8 (if away then e.far % 2 ^ 41 + e.lender % 2 ^ 13 * 2 ^ 41 else e.addr % 2 ^ 41)
  ++ natLe 8 e.size ++ natLe 8 e.order

/-- An entry's record goes to the ring (R262). -/
def State.putMorRecord (s : State) (e : MorEntry) : State :=
  match s.cfg.bind fun g => g.pool with
  | some p => (s.stackWrite (p.ringBase + 32 * e.ring) (morRecord e)).2
  | none => s

/-- An entry changes, with its record; claim order names it. -/
def State.setMorEntry (s : State) (e : MorEntry) : State :=
  (s.modMor fun h => { h with
    morEntries := h.morEntries.map fun x => if x.order = e.order then e else x }).putMorRecord e

/-- An entry becomes FREE: its record stands FREE in the ring until it is reused (R262). -/
def State.freeMorEntry (s : State) (e : MorEntry) : State :=
  (s.modMor fun h => { h with morEntries := h.morEntries.filter fun x => x.order ≠ e.order }).putMorRecord
    { e with st := .free }

/-! ### The pool's spans (R261, R262) -/

def mibOf (bytes : Nat) : Nat := (bytes + 2 ^ 20 - 1) / 2 ^ 20

/-- An entry that takes a span of the pool. -/
def MorEntry.placed (e : MorEntry) : Bool :=
  e.st = .filling || e.st = .present || e.st = .reading || e.st = .returning

def PoolCfg.ranges (p : PoolCfg) : List (Nat × Nat) :=
  [(p.base0, p.mib0), (p.base1, p.mib1)].filter fun r => r.2 ≠ 0

/-- MiB of the pool in use. -/
def State.morInUse (s : State) : Nat :=
  (s.morEntries.filter MorEntry.placed).foldl (fun n e => n + mibOf e.size) 0

/-- The start of the lowest free span of some ranges that holds a number of MiB, beside the spans in use. -/
def lowestSpan (ranges used : List (Nat × Nat)) (mib : Nat) : Option Nat :=
  let m := 2 ^ 20
  let starts := ranges.map (·.1) ++ used.map fun u => u.1 + u.2 * m
  let fits (a : Nat) : Bool :=
    (ranges.any fun r => decide (r.1 ≤ a ∧ a + mib * m ≤ r.1 + r.2 * m))
      && used.all fun u => decide (a + mib * m ≤ u.1 ∨ u.1 + u.2 * m ≤ a)
  (starts.filter fits).foldl (fun best a =>
    match best with
    | some b => some (min a b)
    | none => some a) none

/-- The lowest free span of the pool for a number of bytes. -/
def State.morSpan (s : State) (bytes : Nat) : Option Nat :=
  match s.cfg.bind fun g => g.pool with
  | none => none
  | some p => lowestSpan p.ranges ((s.morEntries.filter MorEntry.placed).map fun e => (e.addr, mibOf e.size)) (mibOf bytes)

/-- The next record of the ring that is FREE, in ring order (R262). -/
def Half.nextRing (h : Half) : Nat :=
  match (List.range 65536).find? fun i => h.morEntries.all fun e => e.ring ≠ (h.morRing + i) % 65536 with
  | some i => (h.morRing + i) % 65536
  | none => h.morRing

/-- The high-water mark follows the pool (R272). -/
def State.noteMorHigh (s : State) : State :=
  let n := s.morInUse
  s.modMor fun h => { h with morHigh := max h.morHigh n }

/-- A claimed entry is placed at an address, FILLING, with its first claim granted (R262). -/
def State.placeEntry (s : State) (c : Fin 8) (m : MorCfg) (size addr : Nat) : State :=
  let key := morKey c m.slot
  let h := s.half s.morHalf
  let ring := h.nextRing
  let e : MorEntry := {
    core := c.val, slot := m.slot, seq := tabGet 0 h.morClaims key, st := .filling, recomp := m.recomp
    step := (s.core c).upd.step, addr := addr, size := size, order := h.morOrder + 1, claims := 1, ring := ring }
  ((s.modMor fun h => { h with
    morEntries := h.morEntries ++ [e], morOrder := h.morOrder + 1, morRing := (ring + 1) % 65536
    morClaims := tabMod 0 h.morClaims key (· + 1) }).putMorRecord e).noteMorHigh

/-! ### Claims, acquisitions and tokens of an entry (R118, R261, R264, R265) -/

/-- The entry of a slot that a rebuild task's claim places, and no other (R264): REBUILD's task names its SEQ in A1. -/
def Task.rebuilds (t : Task) (m : MorCfg) (seq : Nat) : Bool :=
  m.recomp && t.entry.tid = m.rebuild && t.entry.a1.toNat = seq

def State.findTask (s : State) (c : Fin 8) (key : Nat) : Option Task :=
  (s.core c).seq.tasks.find? fun t => t.key = key

/-- What the claim of a core's task on a slot rebuilds: the SEQ its task's A1 names, when the task is the slot's REBUILD (R264). -/
def State.rebuildSeq (s : State) (tc : Fin 8) (task : Nat) (c : Fin 8) (slot : Nat) : Option Nat :=
  match s.morCfg c slot, s.findTask tc task with
  | some m, some t => if m.recomp && t.entry.tid = m.rebuild then some t.entry.a1.toNat else none
  | _, _ => none

/-- An entry is the target of a running rebuild (R263). -/
def State.rebuilding (s : State) (e : MorEntry) : Bool :=
  match s.morCfg (fin8 e.core) e.slot with
  | none => false
  | some m => allCores.any fun c => (s.core c).seq.tasks.any fun t => t.rebuilds m e.seq

/-- The latest entry of a slot with a sequence number. -/
def State.morEntry (s : State) (c : Fin 8) (slot seq : Nat) : Option MorEntry :=
  (s.morEntries.filter fun e => e.core = c.val && e.slot = slot && e.seq = seq).getLast?

/-- A FILLING entry that still takes claims: a rebuild's claim joins the entry it names, another joins none that is being rebuilt
(R264). -/
def State.morJoin (s : State) (c : Fin 8) (slot fills : Nat) (rebuild : Option Nat) : Option MorEntry :=
  s.morEntries.find? fun e => e.core = c.val && e.slot = slot && e.st = .filling && decide (e.claims < fills) && (match rebuild with
    | some q => e.seq = q
    | none => !s.rebuilding e)

/-- The entry the next acquisition of a slot takes, in ORDER (R261): none once every entry of the step has been
acquired. -/
def State.nextAcquired (s : State) (c : Fin 8) (m : MorCfg) (drains : Nat) : Option Nat :=
  let k := tabGet 0 (s.half s.morHalf).morAcqs (morKey c m.slot) / drains
  if m.entries ≤ k then none else some (if m.newest then m.entries - 1 - k else k)

/-- An acquisition's answer: granted on an entry, waiting, or the entry is lost (R265). -/
inductive MorAns
  | granted (seq : Nat)
  | waits
  | lost
  deriving DecidableEq, Repr

/-- A moraine slot has a task that rebuilds its entries: RECOMP is 1 and the image holds the task REBUILD names (R261, R264). -/
def State.hasRebuild (s : State) (m : MorCfg) : Bool :=
  m.recomp && (s.cfg.any fun g => g.progs.any fun p => p.tid = m.rebuild)

/-- An acquisition of a moraine slot (R261, R264, R265). An entry that is being copied to the lender waits. A lost entry, and a
dropped one that no task rebuilds, ends the task that asks. -/
def State.morAcquire (s : State) (c : Fin 8) (m : MorCfg) (drains : Nat) : MorAns × State :=
  match s.nextAcquired c m drains with
  | none => (.waits, s)
  | some seq =>
    match s.morEntry c m.slot seq with
    | none => (.waits, s)
    | some e =>
      if e.lost || (e.st = .dropped && !s.hasRebuild m) then (.lost, s)
      else if e.lend = .none && (e.st = .present || (e.st = .reading && decide (e.acqs < drains))) then
        (.granted seq, (s.setMorEntry { e with st := .reading, acqs := e.acqs + 1 }).modMor fun h => { h with
          morAcqs := tabMod 0 h.morAcqs (morKey c m.slot) (· + 1) })
      else (.waits, s)

/-- A token's entry: the one its buffer number names, or, when the number reached the module in two bits, the oldest
that fits. -/
def State.morTokenEntry (s : State) (c : Fin 8) (slot buf : Nat) (p : MorEntry → Bool) : Option MorEntry :=
  let mine := s.morEntries.filter fun e => e.core = c.val && e.slot = slot && p e
  match mine.find? fun e => e.seq = buf with
  | some e => some e
  | none => mine.find? fun e => e.seq % 4 = buf

/-- A fill token of an entry; the last of FILLS makes it PRESENT. None when no claim is outstanding. -/
def State.morFill (s : State) (c : Fin 8) (slot buf fills : Nat) : Option State :=
  match s.morTokenEntry c slot buf fun e => e.st = .filling && decide (e.fills < e.claims) with
  | none => none
  | some e =>
    let n := e.fills + 1
    some (s.setMorEntry { e with fills := n, st := if n = fills then .present else .filling })

/-- A release token of an entry; the last of DRAINS makes it FREE (R262). -/
def State.morRelease (s : State) (c : Fin 8) (slot buf drains : Nat) : Option State :=
  match s.morTokenEntry c slot buf fun e => e.st = .reading && decide (e.rels < e.acqs) with
  | none => none
  | some e =>
    let n := e.rels + 1
    some (if n = drains then s.freeMorEntry e else s.setMorEntry { e with rels := n })

/-- A claim of an entry cancelled (R188): with none left, a rebuilt entry is DROPPED again and another is FREE, its
place in the step's order given back when it was the last. -/
def State.morCancel (s : State) (c : Fin 8) (slot buf : Nat) : State :=
  match s.morTokenEntry c slot buf fun e => e.st = .filling with
  | none => s
  | some e =>
    if e.fills + 1 < e.claims then s.setMorEntry { e with claims := e.claims - 1 }
    else
      let key := morKey c slot
      if e.seq + 1 = tabGet 0 (s.half s.morHalf).morClaims key then
        (s.freeMorEntry e).modMor fun h => { h with morClaims := tabMod 0 h.morClaims key (· - 1) }
      else if e.recomp then s.setMorEntry { e with st := .dropped, claims := 0, fills := 0 }
      else s.freeMorEntry e

end Sys2Proof.Machine
end

