-- ==== Sys2Proof/Machine/SlotOps.lean ====
section
/-! DEFINITION. What claims, acquisitions, tokens and cancellations do to a slot, or to the entry of a moraine slot
(R118 to R124, R188, R261). -/

namespace Sys2Proof.Machine

/-- A held claim cancelled by SKIP or a fence, pointers included (R188, R190, R497). -/
def State.cancelClaim (s : State) (c : Fin 8) (slot b : Nat) : State :=
  match s.slotEnt c slot with
  | none => s
  | some e =>
    if (s.morCfg c slot).isSome then s.morCancel c slot b
    else
    let st := s.slotSt c slot
    s.setSlot c slot (pointersAfterCancel e st (cancelOne st b))

/-- The address of a granted buffer (R116), or of the moraine entry a grant named by its sequence number (R261). -/
def State.bufBase (s : State) (c : Fin 8) (slot buf : Nat) : Nat :=
  match s.slotEnt c slot with
  | none => 0
  | some e =>
    if (s.morCfg c slot).isSome then
      match s.morEntry c slot buf with
      | some x => x.addr
      | none => 0
    else e.bufBase buf

/-- A request's result: granted on a buffer, left waiting, or refused with a code. -/
inductive SlotAns
  | granted (buf : Nat)
  | waits
  | refused (code : BitVec 16)
  deriving DecidableEq, Repr

/-- A claim asked of a slot (R118, R121); of a moraine slot, with the entry its task rebuilds (R264). -/
def State.tryClaim (s : State) (c : Fin 8) (slot : Nat) (epoch : BitVec 16) (rebuild : Option Nat) : SlotAns × State :=
  match s.slotEnt c slot with
  | none => (.refused 0x0312, s)
  | some e =>
    if (s.morCfg c slot).isSome then
      match s.morJoin c slot e.fills rebuild with
      | some x => (.granted x.seq, s.setMorEntry { x with claims := x.claims + 1 })
      | none => (.waits, s)
    else
    let st := s.slotSt c slot
    let r := s.isReplace c slot
    if claimable e r st epoch then
      let g := grantClaim e r st epoch
      (.granted g.1, s.setSlot c slot g.2)
    else (.waits, s)

/-- An acquisition asked of a slot (R118, R121). -/
def State.tryAcquire (s : State) (c : Fin 8) (slot : Nat) (epoch : BitVec 16) (neve : Bool) : SlotAns × State :=
  match s.slotEnt c slot with
  | none => (.refused 0x0312, s)
  | some e =>
    match s.morCfg c slot with
    | some m =>
      (match s.morAcquire c m e.drains with
        | (.granted b, s1) => (.granted b, s1)
        | (.waits, s1) => (.waits, s1)
        | (.lost, s1) => (.refused 0x0612, s1))
    | none =>
    let st := s.slotSt c slot
    if acquirable e st epoch neve then
      let g := grantAcquire e st neve
      (.granted g.1, s.setSlot c slot g.2)
    else (.waits, s)

/-- The number the steward attaches to a requester (R120): the tasks and banks of the core first, then the descriptors of the
movement engines, the requests of other modules, and the reduction units. DESIGN CHOICE (log entry 57, unsafe): the spec gives
no numbers. -/
def Requester.number : Requester → Nat
  | .none => 0
  | .task k => 1 + k
  | .bank p b => 2 ^ 64 + p * 2 + b
  | .place core p dst => 2 ^ 65 + core * 32 + p * 2 + b2n dst
  | .remote m u core d => 2 ^ 66 + ((m * 16 + core) * 16 + u) * 256 + d
  | .sender b => 2 ^ 96 + b
  | .finisher b => 2 ^ 97 + b
  | .relay r => 2 ^ 98 + r

/-- The core whose task asks: another core's for a descriptor of its movement engine. -/
def Requester.taskCore (c : Fin 8) : Requester → Fin 8
  | .place core _ _ => fin8 core
  | _ => c

/-- What a request would be answered now. -/
def State.waitAnswer (s : State) (c : Fin 8) (w : SlotWait) : SlotAns × State :=
  if w.acq then s.tryAcquire c w.slot w.epoch w.neve
  else s.tryClaim c w.slot w.epoch (s.rebuildSeq (w.rq.taskCore c) w.task c w.slot)

/-- A waiting request could be granted now. -/
def State.waitReady (s : State) (c : Fin 8) (w : SlotWait) : Bool :=
  decide (s.cycle c < w.start + w.limit) && (match (s.waitAnswer c w).1 with
    | .waits => false
    | _ => true)

/-- A waiting request that could be granted now stands before another on its slot (R120): an acquisition before a claim, and of one kind the
lower number. -/
def State.standsBefore (s : State) (c : Fin 8) (w : SlotWait) : Bool :=
  (s.core c).scr.waits.any fun x =>
    x.slot = w.slot && ((x.acq && !w.acq) || (x.acq = w.acq && decide (x.rq.number < w.rq.number))) && s.waitReady c x

/-- A new request at its slot's owner: granted at once, unless another stands before it (R120, R121). A core held low answers
when its clock runs again (R378), and during a swap the stewards hold each request (R410): until then it waits. -/
def State.ask (s : State) (c : Fin 8) (w : SlotWait) : SlotAns × State :=
  if s.standsBefore c w || !s.coreRuns c || s.swapRunning then (.waits, s) else s.waitAnswer c w

/-- A wait begins: its limit is SCR_SLOT_LIMIT as read in this cycle (R122). A request made during a swap is held by the stewards
instead, and asks again after it (R410). -/
def State.addWait (s : State) (c : Fin 8) (w : SlotWait) : State :=
  if s.swapRunning then s.modImg fun i => { i with held := i.held ++ [.request c w] }
  else s.modScr c fun x => { x with
    waits := x.waits ++ [{ w with start := s.cycle c, limit := x.slotLimit.toNat }] }

/-- A token of a discarded epoch is dropped and counted at the core that owns its slot (R199). -/
def State.specStale (s : State) (epoch : BitVec 16) : Bool := epoch ≠ 0 && s.cas.discarded.contains epoch
def State.countSpecDropped (s : State) (c : Fin 8) : State :=
  s.modSeq c fun q => { q with specDropped := satAdd 32 q.specDropped 1 }

/-- A fill token applied at the owner: false when it is refused with SLOT_INVALID (R124). -/
def State.putFill (s : State) (c : Fin 8) (slot b : Nat) (epoch : BitVec 16) : Bool × State :=
  if s.specStale epoch then (true, s.countSpecDropped c)
  else
    match s.slotEnt c slot with
    | none => (false, s)
    | some e =>
      if (s.morCfg c slot).isSome then
        match s.morFill c slot b e.fills with
        | none => (false, s)
        | some s1 => (true, s1)
      else
        match applyFill e (s.isReplace c slot) (s.slotSt c slot) b with
        | none => (false, s)
        | some st => (true, s.setSlot c slot st)

/-- A release token applied at the owner: false when it is refused with SLOT_INVALID (R124). -/
def State.putRelease (s : State) (c : Fin 8) (slot b : Nat) (epoch : BitVec 16) : Bool × State :=
  if s.specStale epoch then (true, s.countSpecDropped c)
  else
    match s.slotEnt c slot with
    | none => (false, s)
    | some e =>
      if (s.morCfg c slot).isSome then
        match s.morRelease c slot b e.drains with
        | none => (false, s)
        | some s1 => (true, s1)
      else
        match applyRelease e (s.slotSt c slot) b with
        | none => (false, s)
        | some st => (true, s.setSlot c slot st)

end Sys2Proof.Machine
end

