-- ==== Sys2Proof/Machine/Tasks.lean ====
section
/-! DEFINITION. Tasks: their programs and command words, how commands issue in order, and how a task ends
(R62, R162 to R168, R178, R181, R182, R186 to R190). -/

namespace Sys2Proof.Machine

/-! ### Programs -/

def ImgCfg.word (g : ImgCfg) (i : Nat) : BitVec 128 := g.words.getD i 0

/-- The program of a task ID on a core, as the index of its header in WORDS (R162). -/
def ImgCfg.prog (g : ImgCfg) (c tid : Nat) : Option Nat :=
  (g.progs.find? fun p => p.tid = tid && p.core = c).map (·.offset)

def hdrTid (h : BitVec 128) : Nat := fld h 23 0
def hdrParts (h : BitVec 128) : Nat := fld h 27 24
def hdrDecoupled (h : BitVec 128) : Bool := bit h 28
def hdrSpec (h : BitVec 128) : Bool := bit h 29
def hdrStepStart (h : BitVec 128) : Bool := bit h 30
def hdrCycles (h : BitVec 128) : Nat := fld h 50 32
def hdrRetry (h : BitVec 128) : Nat := fld h 52 51
def hdrCount (h : BitVec 128) : Nat := fld h 79 64

/-- The commands of a program, from its header's index. -/
def ImgCfg.cmds (g : ImgCfg) (offset : Nat) : List (BitVec 128) :=
  (g.words.drop (offset + 1)).take (hdrCount (g.word offset))

def cmdEngine (w : BitVec 128) : Nat := fld w 1 0
def cmdOp (w : BitVec 128) : Nat := fld w 7 0
def cmdSched (w : BitVec 128) : Nat := fld w 31 12

/-- The partition of a task, when it occupies one (R163). -/
def Task.part (t : Task) : Option (Fin 4) :=
  if bit t.parts 0 then some 0 else if bit t.parts 1 then some 1
  else if bit t.parts 2 then some 2 else if bit t.parts 3 then some 3 else none

def State.modTask (s : State) (c : Fin 8) (key : Nat) (f : Task → Task) : State :=
  s.modSeq c fun q => { q with tasks := q.tasks.map fun t => if t.key = key then f t else t }

/-- The core runs every task decoupled (R156, R180). -/
def State.taskDecoupled (s : State) (c : Fin 8) (t : Task) : Bool := (s.core c).mov.mode || hdrDecoupled t.hdr

/-- The commands of an admitted task. -/
def State.cmdsOf (s : State) (t : Task) : List (BitVec 128) :=
  match s.cfg with
  | some g => (g.words.drop t.first).take (hdrCount t.hdr)
  | none => []

/-- The index of an engine's next command: the first at or after its counter that belongs to it. -/
def nextIndex (cmds : List (BitVec 128)) (engine start : Nat) : Option Nat :=
  (List.range cmds.length).find? fun i => decide (start ≤ i) && decide (cmdEngine (cmds.getD i 0) = engine)

/-- The base a command's SCHED counts from: that of its admission, or of the last barrier or marker passed before it (R183). -/
def Task.baseOf (t : Task) (i : Nat) : Nat :=
  match t.bases.find? fun b => decide (b.1 ≤ i) with
  | some b => b.2
  | none => t.base

/-- A task's next command on an engine, with its index (R181, R182): no BARRIER or WAIT_MARKER before it may be
unpassed (those before a WAIT_MARKER still issue while it waits), scheduled commands wait for their cycle, and END waits for
every other command. A task whose clock has reached TASK_CYCLES issues no more (R164). -/
def State.nextCmd (s : State) (c : Fin 8) (t : Task) (engine : Nat) : Option (Nat × BitVec 128) :=
  let cmds := s.cmdsOf t
  if (t.st ≠ .running ∧ t.st ≠ .waitMarker) ∨ t.ended ∨ hdrCycles t.hdr ≤ t.clock then none
  else
    match nextIndex cmds engine (t.engPc.get (fin4 engine)) with
    | none => none
    | some i =>
      let w := cmds.getD i 0
      let control := t.engPc.get 3
      let blocked := (List.range i).any fun j =>
        decide (control ≤ j) && (cmdOp (cmds.getD j 0) = 0x07 || cmdOp (cmds.getD j 0) = 0x0B)
      let rest := (List.range 3).all fun e => (nextIndex cmds e (t.engPc.get (fin4 e))).isNone
      let early := decide (control ≤ i) && t.st = .waitMarker
      let due := s.taskDecoupled c t || decide (t.baseOf i + cmdSched w ≤ (s.core c).seq.sched)
      if early || blocked || !due || (cmdOp w = 0x0F && !rest) then none else some (i, w)

/-- The command at an index has issued on its engine. -/
def Task.issued (t : Task) (engine i : Nat) : Task :=
  { t with pc := t.pc + 1, engPc := t.engPc.set (fin4 engine) (i + 1) }

/-- Argument register A0 to A3 (R167). -/
def Task.arg (t : Task) (i : Nat) : Nat :=
  match i with
  | 1 => t.entry.a1.toNat
  | 2 => t.entry.a2.toNat
  | 3 => t.entry.a3.toNat
  | _ => 0

/-! ### Completions (R178) -/

/-- The completion entry of R178. -/
def completionWord (tid status : Nat) (code : BitVec 16) (ctag : BitVec 16) (cycles : Nat) (epoch : BitVec 16) :
    BitVec 128 :=
  BitVec.ofNat 128 (tid % 2 ^ 24 + status % 16 * 2 ^ 24 + code.toNat * 2 ^ 32 + ctag.toNat * 2 ^ 48
    + cycles % 2 ^ 32 * 2 ^ 64 + epoch.toNat * 2 ^ 96)

def Seq.cqFull (q : Seq) : Bool :=
  let n := 2 ^ q.cqLog2.toNat
  (q.cqTail.toNat + 4096 - q.cqHead.toNat) % n = n - 1

/-- An entry goes into the completion ring, with its event; while the ring is full it is held (R178). -/
def State.pushCompletion (s : State) (c : Fin 8) (w : BitVec 128) : State :=
  let q := (s.core c).seq
  if q.cqFull || q.cqHeld ≠ [] then
    s.modSeq c fun q => { q with cqHeld := q.cqHeld ++ [⟨w⟩] }
  else
    let a := q.cqBase.toNat + 16 * (q.cqTail.toNat % 2 ^ q.cqLog2.toNat)
    let s1 := (s.stackWrite a (natLe 16 w.toNat)).2
    (s1.modSeq c fun q => { q with cqTail := q.cqTail + 1 }).msix (4 + c.val)

/-- The end of a task that did not retire: its completion and SEQ_LAST_END. -/
def State.completeTask (s : State) (c : Fin 8) (t : Task) (status : Nat) (code : BitVec 16) : State :=
  let ctag := if t.queue = 0 then 0 else t.entry.ctag
  (s.modSeq c fun q => { q with
    lastEnd := BitVec.ofNat 48 (t.entry.tid % 2 ^ 24 + status * 2 ^ 24 + code.toNat * 2 ^ 32) }).pushCompletion c
    (completionWord t.entry.tid status code ctag t.clock t.epoch)

/-! ### A soft fault's effects in a partition (R62) -/

/-- The banks of a partition stopped by a fault send what the gauge has counted of them (R62, R239). DEDUCED (log entry 78): the
underflows of a bank that had not begun to convert, which R82 counts at its products, are among what it has counted. -/
def State.flushBanks (s : State) (c : Fin 8) (p : Fin 4) : State :=
  allHalves.foldl (fun s b =>
    let k := s.bank c p b
    if k.st ≠ .empty && k.gauged then s.gaugeFlush c (fld k.word 89 78) k.gauge k.underflow else s) s

/-- The array's feeder stops, what is in flight is discarded at the drain, banks empty, sets are marked empty, the
tile being loaded is dropped at its end, and waiting tiles leave the tile buffer. -/
def State.partitionFault (s : State) (c : Fin 8) (p : Fin 4) (code : BitVec 16) : State :=
  let now := (s.core c).arr.now
  let s1 := (s.flushBanks c p).modArr c fun a => { a with
    flights := a.flights.map fun f => if f.part = p.val then { f with discard := true } else f
    tileBuf := a.tileBuf.map fun l =>
      (l.filter fun t => t.part ≠ p.val || t.loading).map fun t =>
        if t.part = p.val then { t with dropped := true } else t }
  let lat := passLatency (s.core c).arr.mode
  s1.modPart c p fun q => { q with
    setA := { q.setA with full := false }, setB := { q.setB with full := false }
    runs := [], fillRuns := [], banks := Vector.replicate 2 {}, active := false, shadowNew := false
    freeAt := now + lat, loadWait := none, markWait := none
    pfault := if code = 0 then q.pfault else code }

/-! ### How a task ends (R187, R188) -/

/-- Faults a task is retried after (R188). -/
def retryable (code : BitVec 16) : Bool := code = 0x0310 || code = 0x0311 || code = 0x0305 || code = 0x0404

/-- A task's commands leave the engine queues, its own slot waits end, and its engines make no further access to the scratchpad
(R102, R187); descriptors already admitted stay. -/
def State.dropCommands (s : State) (c : Fin 8) (t : Task) : State :=
  let mine (w : SlotWait) : Bool :=
    match w.rq with
    | .task k => k = t.key
    | .bank p _ => t.part = some (fin4 p)
    | _ => false
  (s.modCore c fun k => { k with
    mov := { k.mov with queue := k.mov.queue.filter fun a => a.task ≠ t.key }
    scr := { k.scr with
      waits := k.scr.waits.filter fun w => !mine w
      accs := k.scr.accs.filter fun a => !(a.task = t.key && decide (a.port ≤ 9)) }
    seq := { k.seq with
      updQ := k.seq.updQ.filter fun u => u.task ≠ t.key
      tasks := k.seq.tasks.filter fun x => x.key ≠ t.key } })

/-- The density a wait begins at: ceil(64 v / 1024), v the real vectors among the last 1,024 issue slots. -/
def freewheelStart (recent : List Bool) : Nat := ((recent.filter fun b => b).length * 64 + 1023) / 1024

/-- A partition begins to wait (R386). -/
def State.beginFreewheel (s : State) (c : Fin 8) (p : Option (Fin 4)) : State :=
  match p with
  | some p => s.modPart c p fun q => { q with density := freewheelStart q.recent }
  | none => s

def State.endFreewheel (s : State) (c : Fin 8) (p : Option (Fin 4)) : State :=
  match p with
  | some p => s.modPart c p fun q => { q with density := 0, ramp := false }
  | none => s

/-- The partition, when the task has one, takes the effects of R62; it has no admitted task from now on (R386). -/
def State.endInPartition (s : State) (c : Fin 8) (t : Task) (code : BitVec 16) : State :=
  match t.part with
  | some p => (s.partitionFault c p code).beginFreewheel c (some p)
  | none => s

/-- What is kept of a task for its retry, its replay or its skip: it starts again, with its holds inherited; its clock stands until
it is admitted again, for the completion a skip or a discard writes (R178). -/
def Task.restart (t : Task) : Task :=
  { t with
    pc := 0, engPc := Vector.replicate 4 0, base := 0, bases := [], st := .running, ended := false
    holds := (t.holds.filter fun h => !h.posted).map fun h => { h with inherit := true } }

/-- A task ends on a fault (R187, R188): retried while retries last after a retryable fault, else halted with a FAULTED
completion. -/
def State.endOnFault (s : State) (c : Fin 8) (t : Task) (code : BitVec 16) : State :=
  let s1 := (s.dropCommands c t).endInPartition c t code
  let t1 := { t.restart with code := code }
  if retryable code && decide (t.retries < hdrRetry t.hdr) then
    s1.modSeq c fun q => { q with retryQ := q.retryQ ++ [{ t1 with retries := t.retries + 1 }] }
  else
    (s1.modSeq c fun q => { q with halted := q.halted ++ [t1] }).completeTask c t 1 code

/-- A task is ended by a discard (R187, R198): no fault code, status DISCARDED. -/
def State.endDiscarded (s : State) (c : Fin 8) (t : Task) : State :=
  ((s.dropCommands c t).endInPartition c t 0).completeTask c t 2 0

/-- A soft fault: its code is raised, and the task named ends on it. -/
def State.softFault (s : State) (c : Fin 8) (key : Nat) (code : BitVec 16) (detail : BitVec 32 := 0) : State :=
  let s1 := s.raise code (unit := c.val) (detail := detail)
  match s1.findTask c key with
  | some t => s1.endOnFault c t code
  | none => s1

/-- A refusal of another domain reaches the requester's task (R223): the task ends in its own core. -/
def State.refuseTask (s : State) (c : Fin 8) (key : Nat) (code : BitVec 16) : State :=
  match s.findTask c key with
  | some t => s.endOnFault c t code
  | none => s

/-! ### Slots used by execute and update commands (R168) -/

/-- The task's buffer on a slot, of the kind asked, still held and not given up. -/
def Task.held (t : Task) (slot : Nat) (acq : Bool) : Option Hold :=
  (t.holds.filter fun h => h.slot = slot && h.acq = acq && !h.posted).getLast?

/-- A hold inherited from an earlier try, or granted to a command that has not issued yet, is taken by the first command
that asks for its slot (R188). -/
def Task.inherited (t : Task) (slot : Nat) (acq : Bool) : Option Hold :=
  t.holds.find? fun h => h.slot = slot && h.acq = acq && h.inherit && !h.posted

def Task.hold (t : Task) (slot buf : Nat) (acq inherit : Bool) : Task :=
  { t with holds := t.holds ++ [{ slot := slot, buf := buf, acq := acq, inherit := inherit }] }

def Task.posted (t : Task) (slot buf : Nat) (acq : Bool) : Task :=
  let mine (x : Hold) : Bool := x.slot = slot && x.buf = buf && x.acq = acq && !x.posted
  { t with holds := replaceFirst mine (fun x => { x with posted := true }) t.holds }

/-- A command's use of a slot: the buffer, or a wait, or a refusal as naming an unused slot. With the flag clear, the
buffer the task last took on the slot; with it set, an inherited one, or a new one (R168, R188). While the command's request waits,
only SLOT_WAIT_GRANT grants it (R122). -/
def State.commandBuf (s : State) (c : Fin 8) (t : Task) (slot : Nat) (acq flag neve : Bool) : SlotAns × State :=
  if !flag then
    match t.held slot acq with
    | some h => (.granted h.buf, s)
    | none => (.refused 0x0312, s)
  else
    match t.inherited slot acq with
    | some h => (.granted h.buf, s)
    | none =>
      let w : SlotWait := {
        acq := acq, slot := slot, rq := .task t.key, epoch := t.epoch, neve := neve, task := t.key, sched := !s.taskDecoupled c t }
      if (s.core c).scr.waits.any fun x => x.rq = w.rq && x.slot = slot && x.acq = acq then (.waits, s)
      else
        match s.ask c w with
        | (.granted b, s1) => (.granted b, s1.modTask c t.key fun x => x.hold slot b acq true)
        | (.waits, s1) => (.waits, s1.addWait c w)
        | (.refused e, s1) => (.refused e, s1)

/-- A queue of 64 tokens takes one when it has room and none waits before it (R158). -/
def Mov.queueToken (m : Mov) (t : Tok) : Mov :=
  if (m.tokWait.any fun x => x.fill = t.fill) || decide (64 ≤ (if t.fill then m.fillQ else m.relQ).length) then
    { m with tokWait := m.tokWait ++ [t] }
  else if t.fill then { m with fillQ := m.fillQ ++ [t] }
  else { m with relQ := m.relQ ++ [t] }

/-- Held tokens enter their queues as these have room, in order (R158). -/
def Mov.enterTokens (m : Mov) : Mov := m.tokWait.foldl Mov.queueToken { m with tokWait := [] }

/-- A token joins a queue of core `o`, or is held by the engine that posts it, which then waits alone within
SCR_SLOT_LIMIT (R122, R158). -/
def State.queueToken (s : State) (o : Fin 8) (t : Tok) : State :=
  s.modMov o fun m => m.queueToken { t with start := s.cycle o, limit := (s.core o).scr.slotLimit.toNat }

/-- An engine of the core holds a token for a full queue: 0 access, 1 execute, 2 update (R158). -/
def State.tokenHeld (s : State) (c : Fin 8) (engine : Nat) : Bool :=
  allCores.any fun k => (s.core k).mov.tokWait.any fun t => t.core = c.val && t.engine = engine

/-- Tokens a task has posted that no slot has met yet. -/
def State.tokensOf (s : State) (c : Fin 8) (key : Nat) : Bool :=
  allCores.any fun k =>
    let m := (s.core k).mov
    (m.fillQ ++ m.relQ ++ m.tokWait).any fun t => t.core = c.val && t.task = key

/-- A task posts a release or fill token for a buffer it holds (R119); a refused token ends the task (R124). In
decoupled mode a release goes through the release token queue (R158). -/
def State.postToken (s : State) (c : Fin 8) (key slot buf : Nat) (fill : Bool) (epoch : BitVec 16) (engine : Nat := 1) :
    State :=
  if !fill && (s.core c).mov.mode then
    (s.queueToken c {
      slot := slot, buf := buf, fill := false, epoch := epoch, task := key, core := c.val
      engine := engine }).modTask c key fun t => t.posted slot buf true
  else
    let r := if fill then s.putFill c slot buf epoch else s.putRelease c slot buf epoch
    let s1 := r.2.modTask c key fun t => t.posted slot buf (!fill)
    if r.1 then s1 else s1.softFault c key 0x0312 (BitVec.ofNat 32 slot)

/-- Several slots taken together, in the order named: every buffer, or the first wait or refusal. What was granted
before a wait stays held for the command's next try. -/
def State.commandBufs (s : State) (c : Fin 8) (key : Nat) (acq flag : Bool) :
    List Nat → List Nat → SlotAns × List Nat × State
  | [], got => (.granted 0, got, s)
  | slot :: rest, got =>
    match s.findTask c key with
    | none => (.refused 0x0312, got, s)
    | some t =>
      match s.commandBuf c t slot acq flag false with
      | (.granted b, s1) => s1.commandBufs c key acq flag rest (got ++ [b])
      | (.waits, s1) => (.waits, got, s1)
      | (.refused e, s1) => (.refused e, got, s1)

/-- The command has issued: the holds it took or inherited on these slots are now the task's own. -/
def State.consumeHolds (s : State) (c : Fin 8) (key : Nat) (acq : Bool) (slots : List Nat) : State :=
  s.modTask c key fun t => { t with
    holds := t.holds.map fun h => if h.acq = acq && slots.contains h.slot then { h with inherit := false } else h }

end Sys2Proof.Machine
end

