-- ==== Sys2Proof/Machine/Access.lean ====
section
/-! DEFINITION. How a write from the host reaches the control node that owns a register: ownership errors,
unavailable windows and binding (R11 to R16, R405, R430, R432, R463, R465). -/

namespace Sys2Proof.Machine

/-- The control node that owns a register block (R16, and the block table of the scope chapter). -/
inductive Owner
  | oz
  | core (c : Fin 8)
  | half (h : Fin 2)
  /-- The REDUCE block, shared between the two stewards. -/
  | stewards
  /-- The CASCADE block: the steward that runs the cascade agent. -/
  | cascade
  deriving DecidableEq, Repr

/-- A half whose steward is up and not fenced. -/
def State.stewardUp (s : State) (h : Fin 2) : Bool := (s.half h).up && !s.halfFenced h

/-- The owning node is up, and neither fenced nor held in reset (R13). DESIGN CHOICE (log entry 72, unsafe): of the blocks the two stewards share, the
manual says only that both own them; a write is taken while either steward is up and unfenced. -/
def State.ownerUp (s : State) : Owner → Bool
  | .oz => s.oz.up
  | .core c => (s.core c).up && !s.coreFenced c
  | .half h => s.stewardUp h
  | .stewards => s.stewardUp 0 || s.stewardUp 1
  | .cascade => s.stewardUp 0 || s.stewardUp 1

/-- A host port that must be bound and is not (R432, R452). -/
def State.unbound (s : State) : Bool := s.flash.requireBind && !s.host.bound

/-- The module is in M2, or in M3 or M4, where only Oztas's blocks answer (R393, R432). -/
def State.deepSleep (s : State) : Bool := decide (2 ≤ s.pwr.state)

/-- The module offers management alone, in recovery too (R405). -/
def State.managed (s : State) : Bool := s.glb.mode = .managementOnly || s.glb.mode = .recovery

/-- BAR2, BAR4 and CXL.mem are unavailable (R432); so they are while every clock or the main rails are off (R392, R481). -/
def State.windowClosed (s : State) : Bool :=
  !s.host.served || s.deepSleep || s.pwr.tripped || s.pwr.railsLatched || s.managed || s.unbound

/-- A request of an unavailable window is counted (R432). -/
def State.countUnavail (s : State) : State :=
  s.modHost fun h => { h with unavail := satAdd 64 h.unavail 1 }

/-- A BAR0 write that would change an owner's state (R13, R405, R432): dropped and recorded while the node is fenced, in
reset, or outside management; nothing arrives without the host link; dropped in silence in M2 and M3 by request and while an unbound port must be bound.
`open_` marks the GLOBAL and OZTAS mailbox blocks, which an unbound port reaches. -/
def State.bar0Write (s : State) (off : BitVec 27) (o : Owner) (open_ : Bool) (f : State → State) : State :=
  if !s.hostHears then s
  else if (s.unbound && !open_) || (s.deepSleep && o ≠ .oz && !s.managed) then s
  else if !s.ownerUp o || (s.managed && !open_) then s.ownershipError off false
  else f s

/-- A BAR4 doorbell write (R13, R417, R432): counted while the window is unavailable, an ownership error while the owner
is fenced or in reset. -/
def State.bar4Write (s : State) (off : BitVec 27) (o : Owner) (f : State → State) : State :=
  if !s.hostHears then s
  else if s.windowClosed then s.countUnavail
  else if !s.ownerUp o then s.ownershipError off true
  else f s

/-- Offset of a register of a core's block. -/
def coreOff (c : Fin 8) (r : Nat) : BitVec 27 := BitVec.ofNat 27 (0x01000000 + 0x200000 * c.val + r)
/-- Offset of a register of a stack's block. -/
def stackOff (k : Fin 32) (r : Nat) : BitVec 27 := BitVec.ofNat 27 (0x02000000 + 0x10000 * k.val + r)

end Sys2Proof.Machine
end

