-- ==== Sys2Proof/Machine/Desc.lean ====
section
/-! DEFINITION. The fields of a descriptor and of the commands that build one (R135, R169). -/

namespace Sys2Proof.Machine

def dKind (d : BitVec 1024) : Nat := fld d 3 0
def dSrcFmt (d : BitVec 1024) : Nat := fld d 7 4
def dDstFmt (d : BitVec 1024) : Nat := fld d 11 8
def dSrcStored (d : BitVec 1024) : Nat := fld d 13 12
def dMidpoint (d : BitVec 1024) : Bool := bit d 14
def dOvf (d : BitVec 1024) : Bool := bit d 15
def dStage (d : BitVec 1024) : Bool := bit d 16
def dNoAlloc (d : BitVec 1024) : Bool := bit d 17
def dGroupEnd (d : BitVec 1024) : Bool := bit d 18
def dPerm (d : BitVec 1024) (k : Nat) : Nat := fld d (22 + 3 * k) (20 + 3 * k)
def dGroup (d : BitVec 1024) : Nat := fld d 47 36
def dTag (d : BitVec 1024) : Nat := fld d 63 48
def dSrcSlot (d : BitVec 1024) : Nat := fld d 73 64
def dSrcSlotEn (d : BitVec 1024) : Bool := bit d 74
def dSrcCore (d : BitVec 1024) : Nat := fld d 77 75
def dDstSlot (d : BitVec 1024) : Nat := fld d 87 78
def dDstSlotEn (d : BitVec 1024) : Bool := bit d 88
def dDstCore (d : BitVec 1024) : Nat := fld d 91 89
def dSrcSpace (d : BitVec 1024) : Nat := fld d 93 92
def dDstSpace (d : BitVec 1024) : Nat := fld d 96 94
def dModule (d : BitVec 1024) : Nat := fld d 109 97
def dVc (d : BitVec 1024) : Bool := bit d 110
def dPan (d : BitVec 1024) : Nat := fld d 114 111
def dSrcTscale (d : BitVec 1024) : Nat := fld d 122 115
def dSrcBase (d : BitVec 1024) : Nat := fld d 168 128
def dDstTscale (d : BitVec 1024) : Nat := fld d 176 169
def dDstBase (d : BitVec 1024) : Nat := fld d 232 192
def dExt (d : BitVec 1024) (k : Nat) : Nat := fld d (279 + 24 * k) (256 + 24 * k)
/-- Signed source stride of dimension k, 1 to 4; dimension 0 has stride 1. -/
def dSrcStride (d : BitVec 1024) (k : Nat) : Int :=
  if k = 0 then 1 else signed 40 (fld d (423 + 40 * (k - 1)) (384 + 40 * (k - 1)))
def dDstStride (d : BitVec 1024) (k : Nat) : Int :=
  if k = 0 then 1 else signed 40 (fld d (615 + 40 * (k - 1)) (576 + 40 * (k - 1)))
def dSrcAux (d : BitVec 1024) : Nat := fld d 799 768 * 512
def dSrcPlane (d : BitVec 1024) : Nat := fld d 831 800 * 512
def dDstAux (d : BitVec 1024) : Nat := fld d 863 832 * 512
def dDstPlane (d : BitVec 1024) : Nat := fld d 895 864 * 512
def dPadLo (d : BitVec 1024) (k : Nat) : Nat := fld d (903 + 16 * k) (896 + 16 * k)
def dPadHi (d : BitVec 1024) (k : Nat) : Nat := fld d (911 + 16 * k) (904 + 16 * k)
def dPadValue (d : BitVec 1024) : Nat := fld d 1007 976

/-- A field of a word replaced. -/
def putFld {w : Nat} (x : BitVec w) (hi lo v : Nat) : BitVec w :=
  let m : BitVec w := (BitVec.ofNat w (2 ^ (hi + 1 - lo) - 1)) <<< lo
  (x &&& ~~~m) ||| ((BitVec.ofNat w (v % 2 ^ (hi + 1 - lo))) <<< lo)

/-- MOVE's template, patched (R169). -/
def patchDesc (tpl : BitVec 1024) (w : BitVec 128) (arg : Nat → Nat) : BitVec 1024 :=
  let d1 := putFld tpl 168 128 (dSrcBase tpl + 32 * (fld w 74 44 + arg (fld w 123 122)))
  let d2 := putFld d1 232 192 (dDstBase tpl + 32 * (fld w 105 75 + arg (fld w 125 124)))
  if fld w 121 106 = 0 then d2 else putFld d2 63 48 (fld w 121 106)

/-! ### Shapes and places (R136, R137) -/

def dCopy (d : BitVec 1024) : Bool := dKind d = 1
def dPermList (d : BitVec 1024) : List Nat := (List.range 5).map (dPerm d)
/-- Every pad field is 0. -/
def dNoPads (d : BitVec 1024) : Bool := (List.range 5).all fun k => dPadLo d k = 0 && dPadHi d k = 0

/-- Extent and stride of each dimension of a side. -/
def srcShape (d : BitVec 1024) : List (Nat × Int) := (List.range 5).map fun k => (dExt d k, dSrcStride d k)
def dstShape (d : BitVec 1024) : List (Nat × Int) :=
  (List.range 5).map fun k => (dExt d (dPerm d k) + dPadLo d k + dPadHi d k, dDstStride d k)

def product (l : List Nat) : Nat := l.foldl (· * ·) 1

/-- The lowest and the highest element index of a shape. -/
def shapeLow (l : List (Nat × Int)) : Int := l.foldl (fun a x => a + min 0 (((x.1 : Int) - 1) * x.2)) 0
def shapeHigh (l : List (Nat × Int)) : Int := l.foldl (fun a x => a + max 0 (((x.1 : Int) - 1) * x.2)) 0

/-- The coordinates of the n-th element of a shape, dimension 0 innermost, and the number of given coordinates. -/
def coordsOf : List Nat → Nat → List Nat
  | [], _ => []
  | e :: es, n => n % e :: coordsOf es (n / e)
def numberOf : List Nat → List Nat → Nat
  | e :: es, i :: is => i + e * numberOf es is
  | _, _ => 0

/-- The index of the element at some coordinates. -/
def indexAt (l : List (Nat × Int)) (is : List Nat) : Nat :=
  ((l.zip is).foldl (fun a x => a + (x.2 : Int) * x.1.2) (0 : Int)).toNat

/-- One side of a transfer: its format, its base, and the offsets of its second and plane arrays, in bytes. -/
structure Side where
  fmt : Fmt
  base : Nat
  aux : Nat
  plane : Nat
  deriving DecidableEq, Repr

/-- A side of a descriptor over a base; none when its format code is reserved. -/
def dSide (d : BitVec 1024) (dst : Bool) (base : Nat) : Option Side :=
  (fmtOfCode (if dst then dDstFmt d else dSrcFmt d)).map fun f =>
    if dst then ⟨f, base, dDstAux d, dDstPlane d⟩ else ⟨f, base, dSrcAux d, dSrcPlane d⟩

/-- The arrays of a side: first byte, bytes of a unit, elements of a unit (R137). -/
def Side.arrays (x : Side) : List (Nat × Nat × Nat) :=
  let scales : Nat × Nat × Nat := (x.base + x.aux, 1, 32)
  match x.fmt with
  | .lm48 => [(x.base, 4, 1), (x.base + x.aux, 2, 1)]
  | f =>
    if f.isPlaned then ((List.range f.planes).map fun p => (x.base + p * x.plane, 4, 32)) ++ [scales]
    else if f.bits = 8 && f.isBlock then [(x.base, 1, 1), scales]
    else if f.isBlock then [(x.base, f.bits * 4, 32), scales]
    else [(x.base, f.bits / 8, 1)]

/-- The interval of bytes each array of a side touches (R147). -/
def Side.extents (x : Side) (l : List (Nat × Int)) : List (Nat × Nat) :=
  let lo := (shapeLow l).toNat
  let hi := (shapeHigh l).toNat
  x.arrays.map fun a => (a.1 + a.2.1 * (lo / a.2.2), a.1 + a.2.1 * (hi / a.2.2) + a.2.1 - 1)

/-- The highest byte a side touches. -/
def Side.top (x : Side) (l : List (Nat × Int)) : Nat := (x.extents l).foldl (fun m e => max m e.2) 0

/-- Where an element's code lies: bit addresses and widths, most significant piece first (R72, R74, R78, R137). -/
def Side.pieces (x : Side) (e : Nat) : List (Nat × Nat) :=
  match x.fmt with
  | .lm48 => [(8 * (x.base + 4 * e), 32), (8 * (x.base + x.aux + 2 * e), 16)]
  | f =>
    if f.isPlaned then (List.range f.planes).map fun p => (8 * (x.base + p * x.plane + 4 * (e / 32)) + e % 32, 1)
    else if f.isBlock then [(8 * (x.base + f.bits * 4 * (e / 32)) + f.bits * (e % 32), f.bits)]
    else [(8 * (x.base + f.bits / 8 * e), f.bits)]

/-- The byte of an element's block scale. -/
def Side.scaleByte (x : Side) (e : Nat) : Option Nat :=
  if x.fmt.isBlock then some (x.base + x.aux + e / 32) else none

/-- What a descriptor still owes its group once its data is written: pads, FILL elements or a fill token (R144). -/
def descOwes (d : BitVec 1024) : Bool := !dCopy d || !dNoPads d || dDstSlotEn d

/-- A descriptor writes to another module (R138). -/
def State.descRemote (s : State) (d : BitVec 1024) : Bool :=
  (dDstSpace d = 2 || dDstSpace d = 4) && dModule d ≠ s.img.moduleId.toNat

/-- The DESC template of a core (R351). -/
def ImgCfg.template (g : ImgCfg) (c i : Nat) : Option (BitVec 1024) :=
  (g.templates.find? fun t => t.1 = c && t.2.1 = i).map (·.2.2)

end Sys2Proof.Machine
end

