-- ==== Sys2Proof/Machine/Stalls.lean ====
section
/-! DEFINITION. Holds and the causes of a uniform stall (R35, R36, R41, R44, R106, R111, R112). -/

namespace Sys2Proof.Machine

/-- A marker has issued in the partition and has not reached position (0, 0) yet. -/
def State.markPending (s : State) (c : Fin 8) (p : Fin 4) : Bool :=
  (s.core c).arr.flights.any fun f => f.part = p.val && f.marker && !f.swapped

/-- The tile whose marker would come next is being loaded or loaded, and R43 lets a marker of an issue slot enter three cycles
on. -/
def State.markerAt (s : State) (c : Fin 8) (p : Fin 4) (slot : Nat) : Bool :=
  let q := s.part c p
  q.shadowNew && !s.markPending c p && decide (q.loadStart ≤ slot + 3)
def State.markerAllowed (s : State) (c : Fin 8) (p : Fin 4) : Bool := s.markerAt c p (s.core c).arr.now

/-- A marker hold is in force. -/
def State.markHeld (s : State) (c : Fin 8) (p : Fin 4) : Bool := (s.part c p).markWait.isSome && !s.markerAllowed c p

/-- A LOAD waits for a half of its tile buffer. -/
def State.bufferFull (s : State) (c : Fin 8) (p : Fin 4) : Bool :=
  let a := (s.core c).arr
  decide (2 ≤ (a.tileBuf.get (a.mode.loader p.val)).length)
def State.loadHeld (s : State) (c : Fin 8) (p : Fin 4) : Bool := (s.part c p).loadWait.isSome && s.bufferFull c p

/-- The core keeps a schedule counter: it is not in a decoupled gang (R111, R114, R180). -/
def State.scheduled (s : State) (c : Fin 8) : Bool := !(s.core c).mov.mode

/-- The task that holds a partition. -/
def State.partTask (s : State) (c : Fin 8) (p : Fin 4) : Option Task :=
  (s.core c).seq.tasks.find? fun t => t.part = some p

/-- A partition runs a task in scheduled timing: its holds are stalls of the core, where a task in decoupled timing waits
alone (R36, R41, R44, R121, R180). -/
def State.partScheduled (s : State) (c : Fin 8) (p : Fin 4) : Bool :=
  match s.partTask c p with
  | some t => !s.taskDecoupled c t
  | none => false

/-- A scheduled vector is due whose bank refuses its drain credit (R35). -/
def State.creditRefused (s : State) (c : Fin 8) : Bool :=
  allParts.any fun p => s.partScheduled c p &&
    match (s.part c p).runs with
    | r :: _ => !r.gap && decide (r.due ≤ (s.core c).seq.sched) && ((s.bank c p (fin2 (fld r.word 76 76))).st ≠ .opened)
    | [] => false

/-- A held fix-up entry that cannot enter the queue (R106). -/
def State.heldStuck (s : State) (c : Fin 8) : Bool :=
  (s.core c).scr.held ≠ [] && decide (16 ≤ (s.core c).scr.fixups.length)
/-- The stall causes: such an entry found at the start of the cycle, which a retirement of the same cycle does not end (R106, R111), a
slot wait, a marker or load hold, a refused credit. -/
def State.stallFixup (s : State) (c : Fin 8) : Bool := (s.core c).scr.fixStall
def State.stallSlot (s : State) (c : Fin 8) : Bool := (s.core c).scr.waits.any fun w => w.sched
def State.stallHold (s : State) (c : Fin 8) : Bool :=
  allParts.any fun p => s.partScheduled c p && (s.markHeld c p || s.loadHeld c p)
/-- A marker or a LOAD is held, in either timing (R66). -/
def State.anyHold (s : State) (c : Fin 8) : Bool := allParts.any fun p => s.markHeld c p || s.loadHeld c p
def State.stallCause (s : State) (c : Fin 8) : Bool :=
  s.scheduled c && (s.stallFixup c || s.stallSlot c || s.stallHold c || s.creditRefused c)

/-- Stall cycles through which the array still runs: their only causes are marker and load holds (R36). -/
def State.stallRuns (s : State) (c : Fin 8) : Bool := !(s.stallFixup c || s.stallSlot c || s.creditRefused c)

/-- The array advances in the present cycle (R36). -/
def State.arrayRuns (s : State) (c : Fin 8) : Bool := !s.stallCause c || s.stallRuns c

/-- A stall holds in the present array cycle: every engine queue of a core with a schedule counter holds, whatever the timing of
its tasks (R111, R112, R114). -/
def State.queuesHeld (s : State) (c : Fin 8) : Bool := s.scheduled c && ((s.core c).seq.stalled || s.stallCause c)

end Sys2Proof.Machine
end

