-- ==== Sys2Proof/Machine/Scratch.lean ====
section
/-! DEFINITION. Core scratchpads and the slot logic's events (chapter 04). -/

namespace Sys2Proof.Machine

/-! ### Rows (R98 to R108) -/

/-- Rows of a scratchpad: row numbers are address bits [25:9]. -/
def scrRows : Nat := 131072
/-- The bank of a row (R98). -/
def scrBank (row : Nat) : Nat := row % 32

def State.scrByte (s : State) (c : Fin 8) (a : Nat) : BitVec 8 := tabGet 0 (s.core c).scr.data a
def State.scrBytes (s : State) (c : Fin 8) (a n : Nat) : List (BitVec 8) :=
  (List.range n).map fun i => s.scrByte c (a + i)

/-- Bits set in a word's error pattern. -/
def flipCount (x : BitVec 39) : Nat := ((List.range 39).filter fun i => bit x i).length

/-- The words of a row with exactly one flipped bit, and those with more. -/
def Scr.rowErrors (x : Scr) (row : Nat) : List Nat × List Nat :=
  let n (w : Nat) : Nat := flipCount (tabGet 0 x.flips (row * 128 + w))
  ((List.range 128).filter fun w => n w = 1, (List.range 128).filter fun w => 2 ≤ n w)

/-- Every flipped bit of a row is gone: its check bits are fresh. -/
def Scr.cleanRow (x : Scr) (row : Nat) : Scr :=
  { x with flips := x.flips.filter fun e => e.1 / 128 ≠ row }

/-- The oldest queued entry is written back, and the oldest held one takes its place. -/
def Scr.retireOldest (x : Scr) : Scr :=
  match x.fixups with
  | [] => x
  | e :: rest => { x.cleanRow e.row with fixups := rest ++ x.held.take 1, held := x.held.drop 1 }

/-- The corrected row joins the fix-up queue, or its holding register; a row already there adds nothing (R104, R106). Past 16
queued and 8 held entries, which only a command that reads many rows in one step of the model reaches, the oldest retires
first, as it would in the cycles between those rows: no entry is dropped (log entry 56). -/
def Scr.addFixup (x : Scr) (row : Nat) (data : List (BitVec 8)) : Scr :=
  if x.fixups.any (fun e => e.row = row) || x.held.any fun e => e.row = row then x
  else if x.fixups.length < 16 then
    { x with
      fixups := x.fixups ++ [⟨row, data⟩]
      fixHigh := max x.fixHigh (x.fixups.length + 1) }
  else if x.held.length < 8 then { x with held := x.held ++ [⟨row, data⟩] }
  else { x.retireOldest with held := x.retireOldest.held ++ [⟨row, data⟩] }

/-- Uncorrectable words are found in a row: each counted, the row poisoned, and counted in its bank's window (R107, R108,
R132). True when it is the fourth distinct row inside the window. -/
def Scr.uncorrectable (x : Scr) (row tick hardWindow : Nat) : Scr × Bool :=
  let x1 := { x with
    ueCount := satAdd 64 x.ueCount (x.rowErrors row).2.length, ueLast := some row, poison := tabSet false x.poison row true }
  let b := scrBank row
  match tabGet none x.wins b with
  | some w =>
    if tick < w.start + w.w * 1000000 then
      let rows := if w.rows.contains row then w.rows else w.rows ++ [row]
      ({ x1 with wins := tabSet none x1.wins b (some { w with rows := rows }) },
        decide (w.rows.length < 4 ∧ rows.length = 4))
    else ({ x1 with wins := tabSet none x1.wins b (some { start := tick, w := hardWindow, rows := [row] }) }, false)
  | none => ({ x1 with wins := tabSet none x1.wins b (some { start := tick, w := hardWindow, rows := [row] }) }, false)

/-- An uncorrectable word, with the fence of SCR_BANK_FAILED at the fourth row (R108). -/
def State.scrFound (s : State) (c : Fin 8) (row : Nat) : State :=
  let r := (s.core c).scr.uncorrectable row s.tick (s.core c).arr.hardWindow.toNat
  let s1 := s.modScr c fun _ => r.1
  if r.2 then s1.fenceCore c 0x0203 (BitVec.ofNat 32 (scrBank row)) else s1

/-- A row read as a port sees it (R103, R107): true when its data may be used. DESIGN CHOICE (log entry 80, unsafe): a row already
poisoned is not counted again in SCR_UE_COUNT when it is read again (R132). -/
def State.scrReadRow (s : State) (c : Fin 8) (row : Nat) : Bool × State :=
  let x := (s.core c).scr
  if tabGet false x.poison row then (false, s)
  else
    let e := x.rowErrors row
    if e.2 ≠ [] then (false, s.scrFound c row)
    else if e.1 = [] then (true, s)
    else
      (true, s.modScr c fun x => { x.addFixup row (s.scrBytes c (row * 512) 512) with
        ceCount := satAdd 64 x.ceCount e.1.length })

/-- Rows read in ascending order until one is uncorrectable. -/
def State.scrReadRows (s : State) (c : Fin 8) (row : Nat) : Nat → Bool × State
  | 0 => (true, s)
  | n + 1 =>
    match s.scrReadRow c row with
    | (true, s1) => s1.scrReadRows c (row + 1) n
    | (false, s1) => (false, s1)

/-- The rows an extent of bytes touches are read; then its bytes. -/
def State.scrFetch (s : State) (c : Fin 8) (a n : Nat) : Option (List (BitVec 8)) × State :=
  if n = 0 then (some [], s)
  else
    match s.scrReadRows c (a / 512) ((a + n - 1) / 512 + 1 - a / 512) with
    | (true, s1) => (some (s1.scrBytes c a n), s1)
    | (false, s1) => (none, s1)

/-- An armed injection meets the next write of its row (R130). -/
def Scr.meetInject (x : Scr) (row : Nat) : Scr :=
  match x.inject with
  | some i =>
    if i.row = row then
      let m : BitVec 39 := if i.double then 3 else 1
      { x with inject := none, flips := tabSet 0 x.flips (row * 128 + i.word) m }
    else x
  | none => x

/-- What a whole-row write does beside its data (R104, R107, R130): check bits fresh, poison cleared, the row's fix-up
entries gone, an armed injection met. -/
def Scr.rowWritten (x : Scr) (row : Nat) : Scr :=
  { x.cleanRow row with
    poison := tabSet false x.poison row false
    fixups := x.fixups.filter fun e => e.row ≠ row
    held := x.held.filter fun e => e.row ≠ row }.meetInject row

/-- Bytes that cover rows written into a scratchpad, row by row: a row is rewritten whole (R99). -/
def State.scrWrite (s : State) (c : Fin 8) (a : Nat) (bs : List (BitVec 8)) : State :=
  if bs = [] then s
  else
    let rows := (List.range ((a + bs.length - 1) / 512 + 1 - a / 512)).map fun i => a / 512 + i
    s.modScr c fun x =>
      let d := (bs.foldl (fun (acc : List Host.Cell × Nat) b => (tabSet 0 acc.1 acc.2 b, acc.2 + 1)) (x.data, a)).1
      rows.foldl Scr.rowWritten { x with data := d }

/-- Bytes written to an extent that may begin or end within a row: such a row is read, corrected as any read is, and written back
whole with the rest as it was (R99, R103); true when it could be read. -/
def State.scrMerge (s : State) (c : Fin 8) (a : Nat) (bs : List (BitVec 8)) : Bool × State :=
  if bs = [] then (true, s)
  else
    let top := (a + bs.length + 511) / 512 * 512
    let parts := ((if a % 512 = 0 then [] else [a / 512])
      ++ (if (a + bs.length) % 512 = 0 then [] else [(a + bs.length) / 512])).eraseDups
    let r := parts.foldl (fun (r : Bool × State) row => if r.1 then r.2.scrReadRow c row else r) (true, s)
    if !r.1 then r
    else (true, r.2.scrWrite c (a / 512 * 512) (r.2.scrBytes c (a / 512 * 512) (a % 512) ++ bs
      ++ r.2.scrBytes c (a + bs.length) (top - a - bs.length)))

/-! ### Banks and ports (R100 to R102) -/

/-- The bank a burst takes in a cycle of its own count. -/
def ScrAcc.bankAt (a : ScrAcc) (t : Nat) : Option Nat :=
  if a.start ≤ t ∧ t < a.start + a.n then some (scrBank (a.row + (t - a.start))) else none

/-- Two bursts have cycles in common. -/
def ScrAcc.overlaps (a b : ScrAcc) : Bool := decide (a.start < b.start + b.n ∧ b.start < a.start + a.n)

/-- Two bursts of one count take one bank in one cycle: each moves on by a bank a cycle. -/
def ScrAcc.meets (a b : ScrAcc) : Bool := a.overlaps b && decide ((a.row + b.start) % 32 = (b.row + a.start) % 32)

/-- A burst keeps another one off its place: the bank, or the port, which makes one access a cycle (R100). -/
def ScrAcc.blocks (a b : ScrAcc) : Bool := a.meets b || (a.overlaps b && a.port = b.port && decide (a.port < 12))

/-- The order in which the candidates for a bank are taken, and the lower port of one rank; a held fix-up entry goes ahead of every
user (R101, R106). -/
def ScrAcc.rank (a : ScrAcc) : Nat :=
  let r := if a.port = 14 then 0 else if a.sched then 1 else if a.port ≤ 6 then 2 else if a.port = 12 then 3 else if a.port ≤ 9 then 5
    else if a.port ≤ 11 then 4 else 6
  r * 16 + a.port

/-- What is left of a burst from a cycle of its count on, and what is made of it before. -/
def ScrAcc.rest (a : ScrAcc) (t : Nat) : ScrAcc :=
  { a with start := max a.start t, row := a.row + (t - a.start), n := a.n - (t - a.start) }
def ScrAcc.made (a : ScrAcc) (t : Nat) : ScrAcc := { a with n := min a.n (t - a.start) }

/-- The first cycle from `t` on in which a row can be accessed beside those that go before it: a user that is passed over tries
again in the next cycle (R101). -/
def ScrAcc.firstFree (l : List ScrAcc) (x : ScrAcc) (t : Nat) : Nat → Nat
  | 0 => t
  | k + 1 => if l.any fun a => a.blocks { x with start := t, n := 1 } then ScrAcc.firstFree l x (t + 1) k else t

/-- The rows of a burst one by one, each in the first free cycle after the one before it; rows in successive cycles stay together. -/
def ScrAcc.placeRows (l : List ScrAcc) (x : ScrAcc) (fuel : Nat) : Nat → List ScrAcc
  | 0 => []
  | n + 1 =>
    let t := ScrAcc.firstFree l x x.start fuel
    match ScrAcc.placeRows l { x with start := t + 1, row := x.row + 1 } fuel n with
    | y :: ys =>
      if y.start = t + 1 then { x with start := t, n := y.n + 1 } :: ys else { x with start := t, n := 1 } :: y :: ys
    | [] => [{ x with start := t, n := 1 }]

/-- A burst beside those that go before it: as it stands where none keeps a row of it off (R100, R101). -/
def ScrAcc.place (l : List ScrAcc) (x : ScrAcc) : List ScrAcc :=
  if l.any fun a => a.blocks x then ScrAcc.placeRows l x (l.foldl (fun n a => n + a.n) 0) x.n else [x]

/-- Bursts placed one after another, each beside all before it. -/
def ScrAcc.placeAll : List ScrAcc → List ScrAcc → List ScrAcc
  | _, [] => []
  | l, x :: xs =>
    let y := x.place l
    y ++ ScrAcc.placeAll (l ++ y) xs

/-- A burst joins others in the order of R101, behind those of its own rank. -/
def ScrAcc.rankIn (x : ScrAcc) : List ScrAcc → List ScrAcc
  | [] => [x]
  | y :: ys => if x.rank < y.rank then x :: y :: ys else y :: ScrAcc.rankIn x ys

/-- The bursts of a core still to be made, those of the present cycle and of the one before it among them. -/
def State.bursts (s : State) (c : Fin 8) : List ScrAcc :=
  ((s.core c).scr.accs.map fun a => a.rest ((if a.sched then (s.core c).seq.sched else s.cycle c) - 1)).filter fun a => a.n ≠ 0

/-- A burst counted in array cycles: the schedule cycle now due, when no stall holds it, is the present array cycle. -/
def State.inCycles (s : State) (c : Fin 8) (a : ScrAcc) : ScrAcc :=
  if a.sched then
    { a with sched := false, start := a.start - (s.core c).seq.sched + s.cycle c + b2n (s.queuesHeld c) }
  else a

/-- The bank of each entry held outside the fix-up queue, which goes ahead of every user there (R101, R106). -/
def State.heldRows (s : State) (c : Fin 8) : List ScrAcc :=
  if (s.core c).mov.mode then
    (s.core c).scr.held.map fun e => { start := s.cycle c, row := e.row, port := 14 }
  else []

/-- The bursts before which a new one has to wait (R100, R101). -/
def State.before (s : State) (c : Fin 8) (x : ScrAcc) : List ScrAcc :=
  s.heldRows c ++ ((s.bursts c).filter fun a => decide (a.rank ≤ x.rank)).map (s.inCycles c)

/-- The bursts of the core with new ones among them, from an array cycle on (R101): those that the schedule fixed stand, and the
rows of the others still to be made are given their cycles in the order of R101. An access displaced in this way waits, and no row
is lost. -/
def State.replan (s : State) (c : Fin 8) (t : Nat) (new : List ScrAcc) : List ScrAcc :=
  let l := s.bursts c
  let fixed := l.filter fun a => a.sched
  let free := l.filter fun a => !a.sched
  let made := (free.map fun a => a.made t).filter fun a => a.n ≠ 0
  let due := ((free.map fun a => a.rest t).filter fun a => a.n ≠ 0) ++ new
  let held := if new.any fun a => a.port = 14 then [] else s.heldRows c
  fixed ++ made ++ ScrAcc.placeAll (held ++ fixed.map (s.inCycles c)) (due.foldl (fun q x => x.rankIn q) [])

/-- The bursts that the schedule does not fix make way for those it does once a stall has begun or ended (R101, R112). -/
def State.replanAll (s : State) (c : Fin 8) : State :=
  if ((s.core c).scr.accs.any fun a => a.sched) && ((s.core c).scr.accs.any fun a => !a.sched) then
    s.modScr c fun k => { k with accs := s.replan c (s.cycle c) [] }
  else s

/-- A burst that the schedule does not fix takes its banks, from the first cycle it can (R100, R101); `lag` cycles ago it came
due. -/
def State.giveRows (s : State) (c : Fin 8) (row n port task : Nat) (lag : Nat := 0) : State :=
  if n = 0 then s
  else
    let t := s.cycle c - lag
    s.modScr c fun k => { k with accs := s.replan c t [{ start := t, row := row, n := n, port := port, task := task }] }

/-- A bank is given to a user in the present array cycle (R101). -/
def State.useBank (s : State) (c : Fin 8) (row port : Nat) : State :=
  s.modScr c fun k => { k with accs := s.replan c (s.cycle c) [{ start := s.cycle c, row := row, port := port }] }

/-- The rows of a decoupled feeder or converter can be taken from a cycle on (R100, R101, R106). -/
def State.rowsFree (s : State) (c : Fin 8) (row n port : Nat) (lag : Nat := 0) : Bool :=
  let x : ScrAcc := { start := s.cycle c - lag, row := row, n := n, port := port }
  !((s.before c x).any fun a => a.blocks x)

/-- Bank and port of each access of the present array cycle that goes before a rank (R101). -/
def State.usedBy (s : State) (c : Fin 8) (rank : Nat) : List (Nat × Nat) :=
  ((s.bursts c).filter fun a => decide (a.rank < rank)).filterMap fun a =>
    ((s.inCycles c a).bankAt (s.cycle c)).map fun b => (b, a.port)

/-- The banks and ports taken in the present array cycle. -/
def State.usedNow (s : State) (c : Fin 8) : List (Nat × Nat) := s.usedBy c 112

/-- No access that goes before the scrubber takes the bank of a row in the present array cycle (R101, R109). -/
def State.bankIdle (s : State) (c : Fin 8) (row : Nat) : Bool := (s.usedNow c).all fun u => u.1 ≠ scrBank row

/-- No access that goes before a fix-up retirement, nor another retirement, takes the bank of a row (R101, R105). -/
def State.bankFree (s : State) (c : Fin 8) (row : Nat) : Bool := (s.usedBy c 64).all fun u => u.1 ≠ scrBank row

/-- An access to the bank of a row began in the present array cycle: a held entry takes the bank's next cycle (R106). -/
def State.bankBegun (s : State) (c : Fin 8) (row : Nat) : Bool :=
  (s.bursts c).any fun a => !a.sched && a.start = s.cycle c && scrBank a.row = scrBank row

/-- Oztas reads a row through its debug window, corrected as any read is (R130, R449); none while the window is locked or the
row cannot be corrected. The command table has no row for this access or the next (log entry 56). -/
def State.debugRead (s : State) (c : Fin 8) (row : Nat) : Option (List (BitVec 8)) × State :=
  if !s.oz.debugOpen || decide (scrRows ≤ row) then (none, s)
  else
    match s.scrReadRow c row with
    | (true, s1) => (some (s1.scrBytes c (row * 512) 512), s1)
    | (false, s1) => (none, s1)

/-- Oztas writes a row through its debug window (R130, R449). -/
def State.debugWrite (s : State) (c : Fin 8) (row : Nat) (bs : List (BitVec 8)) : State :=
  if !s.oz.debugOpen || decide (scrRows ≤ row) || decide (bs.length ≠ 512) then s else s.scrWrite c (row * 512) bs

/-- Upsets strike the stored words of a row. -/
def State.scrUpset (s : State) (c : Fin 8) (row : Nat) (flips : List (Nat × BitVec 39)) : State :=
  s.modScr c fun x =>
    let upset := flips.foldl (fun t f => tabMod 0 t (row * 128 + f.1 % 128) fun y => y ^^^ f.2) x.flips
    { x with flips := upset }

/-! ### Meanings of the scratchpad's events -/

/-- An entry may retire in the present array cycle (R105): fewer than four have, its bank is idle, and no older entry's is. -/
def State.mayRetire (s : State) (c : Fin 8) (row : Nat) : Bool :=
  let x := (s.core c).scr
  x.fixups.any (fun e => e.row = row) && decide (((s.usedNow c).filter fun u => u.2 = 12).length < 4) && s.bankFree c row
    && !((x.fixups.takeWhile fun e => e.row ≠ row).any fun e => s.bankFree c e.row)

/-- FIXUP_RETIRE: an entry writes its row back with fresh check bits in an idle cycle of its bank, the oldest first, at most
one a bank and four in all in one array cycle (R105); in decoupled mode a held entry does so ahead of every user, and the user it
displaces waits (R106). DESIGN CHOICE (log entry 80, unsafe): the write-back is the queue's own correction and not the row's next
write that an armed injection waits for (R130). -/
def execFixupRetire (c : Fin 8) (row : Nat) (s : State) : Host.Outcome State Fault Refusal :=
  let x := (s.core c).scr
  if !s.coreRuns c then .next s
  else if s.mayRetire c row then
    .next ((s.modScr c fun x => { x.cleanRow row with fixups := removeFirst (fun e => e.row = row) x.fixups }).useBank
      c row 12)
  else if (s.core c).mov.mode && (x.held.any fun e => e.row = row) && !s.bankBegun c row then
    .next ((s.modScr c fun x => { x.cleanRow row with held := removeFirst (fun e => e.row = row) x.held }).useBank c row 14)
  else .next s

/-- FIXUP_HELD_ENTER: the oldest held entry enters the queue when it has room (R106). -/
def execFixupHeldEnter (c : Fin 8) (s : State) : Host.Outcome State Fault Refusal :=
  let x := (s.core c).scr
  match x.held with
  | [] => .next s
  | e :: rest =>
    if s.coreRuns c && decide (x.fixups.length < 16) then
      .next (s.modScr c fun x => { x with
        held := rest, fixups := x.fixups ++ [e], fixHigh := max x.fixHigh (x.fixups.length + 1) })
    else .next s

/-- The scrubber's walk moves on; a finished sweep is counted and the next interval begins (R109, R110). DESIGN CHOICE (log
entry 56, safe): the spec says when the next interval begins after a late sweep; after one that finishes in time it begins at
once too. -/
def Scr.scrubAdvance (x : Scr) : Scr :=
  if x.scrubRow + 1 < scrRows then { x with scrubRow := x.scrubRow + 1 }
  else { x with
    scrubRow := 0, scrubSweeps := satAdd 32 x.scrubSweeps 1, scrubLate := false
    scrubNs := 0, scrubMs := x.scrubInterval.toNat }

/-- SCRUB_READ: the scrubber visits its next row in a cycle that leaves its bank idle (R101, R109): a row with a fix-up entry is
not read; a correctable one joins the queue while it has four free entries; an uncorrectable one is poisoned and ends no task.
DESIGN CHOICE (log entry 56, unsafe): an entry still in the holding register counts as one in the queue; a row already poisoned
is passed over without a report; and the words of a row that could not be enqueued do not count in SCR_CE_COUNT. -/
def execScrubRead (c : Fin 8) (flips : List (Nat × BitVec 39)) (s : State) : Host.Outcome State Fault Refusal :=
  if !s.coreRuns c || !s.bankIdle c (s.core c).scr.scrubRow then .next s
  else
    let row := (s.core c).scr.scrubRow
    let s1 := (s.scrUpset c row flips).useBank c row 13
    let x := (s1.core c).scr
    let has := x.fixups.any (fun e => e.row = row) || x.held.any fun e => e.row = row
    let e := x.rowErrors row
    let s2 :=
      if has || tabGet false x.poison row then s1
      else if e.2 ≠ [] then (s1.scrFound c row).raise 0x0201 (unit := c.val) (detail := BitVec.ofNat 32 row)
      else if e.1 = [] || decide (12 < x.fixups.length) then s1
      else s1.modScr c fun x => { x.addFixup row (s1.scrBytes c (row * 512) 512) with
        ceCount := satAdd 64 x.ceCount e.1.length }
    .next (s2.modScr c fun x => x.scrubAdvance)

/-- SCRUB_INTERVAL_END: the interval ends before the sweep has finished (R110): a report only. -/
def execScrubIntervalEnd (c : Fin 8) (s : State) : Host.Outcome State Fault Refusal :=
  let x := (s.core c).scr
  if s.coreRuns c && !x.scrubLate && decide (x.scrubMs * 1000000 ≤ x.scrubNs) then
    .next ((s.modScr c fun x => { x with scrubLate := true }).raise 0x0205 (unit := c.val)
      (detail := BitVec.ofNat 32 x.scrubRow))
  else .next s

/-! ### Slot requests and tokens (R118 to R124) -/

/-- Where a token or claim addressed to a core's slot goes: after a core fence, to the core that holds the slot in the
active image (R414). -/
def State.slotOwner (s : State) (c : Fin 8) (slot : Nat) : Fin 8 × Nat :=
  if s.coreFenced c then
    match s.img.redirects.find? fun r => r.1 = c.val && r.2.1 = slot with
    | some r => (fin8 r.2.2.1, r.2.2.2)
    | none => (c, slot)
  else (c, slot)

/-- A buffer that a stopped descriptor had been granted stays in its task's record, wherever that record stands (R187). -/
def State.keepHold (s : State) (c : Fin 8) (key : Nat) (h : MoveHold) : State :=
  let f (t : Task) : Task := if t.key = key then { t with moveHolds := t.moveHolds ++ [h] } else t
  s.modSeq c fun q => { q with
    tasks := q.tasks.map f, retryQ := q.retryQ.map f, halted := q.halted.map f, inherit := q.inherit.map f }

/-- A kept buffer is taken by the first descriptor of the retry that asks for its slot (R188). -/
def State.takeHold (s : State) (c : Fin 8) (key : Nat) (p : MoveHold → Bool) : Option MoveHold × State :=
  match s.findTask c key with
  | none => (none, s)
  | some t =>
    match t.moveHolds.find? p with
    | none => (none, s)
    | some h => (some h, s.modTask c key fun t => { t with moveHolds := removeFirst p t.moveHolds })

def State.modPlace (s : State) (c : Fin 8) (p : Nat) (f : Flying → Flying) : State :=
  s.modMov c fun m => { m with flying := tabMod none m.flying p fun x => x.map f }
def State.place (s : State) (c : Fin 8) (p : Nat) : Option Flying := tabGet none (s.core c).mov.flying p

/-- The destination claim a stopped or unfilled descriptor leaves in its task's record. -/
def State.keepClaim (s : State) (c : Fin 8) (f : Flying) : State :=
  match f.dstBuf with
  | none => s
  | some b => s.keepHold c f.task {
      acq := false, core := dDstCore f.desc, slot := dDstSlot f.desc, buf := b, base := f.dstBufBase
      module := if s.descRemote f.desc then some (dModule f.desc) else none }
def State.keepAcquisition (s : State) (c : Fin 8) (f : Flying) : State :=
  match f.srcBuf with
  | none => s
  | some b => s.keepHold c f.task { acq := true, core := dSrcCore f.desc, slot := dSrcSlot f.desc, buf := b }

/-- A descriptor ends without completing (R150, R151): it leaves its place and its waits, its group posts no fill token,
its buffers stay in the task's record, and its task ends with the code. Its place stays taken while acknowledgements of what
it sent are still to come. `own` marks a code its own engine raises. -/
def State.endDesc (s : State) (c : Fin 8) (p : Nat) (code : BitVec 16) (own : Bool) : State :=
  match s.place c p with
  | none => s
  | some f =>
    let s1 := s.modMov c fun m => { m with
      flying := tabSet none m.flying p none
      groupDone := m.groupDone ++ [{
        fl := { f with srcBuf := none, dstBuf := none }, padded := true, stopped := true
        place := if f.acksDue = 0 then none else some p }]
      lastTag := BitVec.ofNat 16 (dTag f.desc), lastCode := code }
    let mine (w : SlotWait) : Bool := w.rq = .place c.val p false || w.rq = .place c.val p true
    let s2 := forAllOf allCores (fun k s => s.modScr k fun x => { x with waits := x.waits.filter fun w => !mine w }) s1
    let s3 := (s2.keepAcquisition c f).keepClaim c f
    if own then s3.softFault c f.task code (BitVec.ofNat 32 (dTag f.desc)) else s3.refuseTask c f.task code

def State.setDst (s : State) (c : Fin 8) (p buf base : Nat) : State :=
  s.modPlace c p fun f => { f with dstBuf := some buf, dstBufBase := base, dstBase := f.dstBase + base }

/-- A descriptor claims its destination slot (R149): of another module by a CLAIM message, of this module at its owner. -/
def State.claimDest (s : State) (c : Fin 8) (p : Nat) : State :=
  match s.place c p with
  | none => s
  | some f =>
    let d := f.desc
    if !dDstSlotEn d then s
    else
      let module := if s.descRemote d then some (dModule d) else none
      let want (h : MoveHold) : Bool :=
        !h.acq && h.core = dDstCore d && h.slot = dDstSlot d && h.module = module
      match s.takeHold c f.task want with
      | (some h, s1) =>
        s1.setDst c p h.buf (if module.isSome then h.base else s1.bufBase (fin8 h.core) h.slot h.buf)
      | (none, s1) =>
        match module with
        | some n =>
          let top := match dSide d true f.dstBase with
            | some x => x.top (dstShape d) + 1
            | none => 0
          s1.sendMsg n 0x04 vcCtrl (slotArgs (dDstSlot d) (dDstCore d) f.epoch.toNat p c.val 0 0 0
            + BitVec.ofNat 144 (top % 2 ^ 34 * 2 ^ 41)) [] (from_ := some (coreHalf c))
        | none =>
          let o := s1.slotOwner (fin8 (dDstCore d)) (dDstSlot d)
          if !s1.coreLive o.1 then s1.endDesc c p 0x0312 true
          else
            let w : SlotWait := { acq := false, slot := o.2, rq := .place c.val p true, epoch := f.epoch, task := f.task }
            match s1.ask o.1 w with
            | (.granted b, s2) => s2.setDst c p b (s2.bufBase o.1 o.2 b)
            | (.waits, s2) => s2.addWait o.1 w
            | (.refused e, s2) => s2.endDesc c p e true

/-- The lower half of a granted buffer's use: the requester learns its buffer (R121, R498). -/
def State.deliverGrant (s : State) (c : Fin 8) (slot buf : Nat) (acq : Bool) (epoch : BitVec 16) (rq : Requester) :
    State :=
  let base := s.bufBase c slot buf
  match rq with
  | .task k => s.modTask c k fun t => t.hold slot buf acq true
  | .bank p b =>
    (s.modBank c (fin4 p) (fin2 b) fun k => { k with buf := some buf }).modTask c (s.bank c (fin4 p) (fin2 b)).task
      fun t => t.hold slot buf acq false
  | .place core p dst =>
    if dst then s.setDst (fin8 core) p buf base
    else (s.modPlace (fin8 core) p fun f => { f with srcBuf := some buf, srcBase := f.srcBase + base }).claimDest
      (fin8 core) p
  | .remote module unit core desc =>
    s.sendMsg module 0x05 vcCtrl (slotArgs slot c.val epoch.toNat desc core unit buf base) [] (from_ := some (coreHalf c))
  | _ => s

/-- A refused request reaches its requester (R122, R124, R498): the requesting task ends in its own core, and a
requester outside the core receives REFUSE. -/
def State.refuseRequest (s : State) (c : Fin 8) (slot : Nat) (epoch : BitVec 16) (rq : Requester) (task : Nat)
    (code : BitVec 16) : State :=
  match rq with
  | .remote module unit core desc =>
    s.sendMsg module 0x06 vcCtrl (slotArgs slot c.val epoch.toNat desc core unit 0 code.toNat) [] (from_ := some (coreHalf c))
  | .place core p _ => s.endDesc (fin8 core) p code true
  | _ => s.softFault c task code (BitVec.ofNat 32 slot)

/-- A request from outside the core. -/
def outside (c : Fin 8) : Requester → Bool
  | .remote _ _ _ _ => true
  | .place core _ _ => core ≠ c.val
  | _ => false

/-- A waiting request stalls the core: its task, or its bank's task, runs there in scheduled timing (R111, R121). -/
def State.waitSched (s : State) (c : Fin 8) (rq : Requester) : Bool :=
  let timed (key : Nat) : Bool := match s.findTask c key with
    | some t => !s.taskDecoupled c t
    | none => false
  match rq with
  | .task k => timed k
  | .bank p b => timed (s.bank c (fin4 p) (fin2 b)).task
  | _ => false

/-- A request at the core that owns its slot is granted, waits, or is refused (R121, R122, R124). -/
def State.placeRequest (s : State) (c : Fin 8) (w : SlotWait) : State :=
  match s.ask c w with
  | (.granted b, s1) => s1.deliverGrant c w.slot b w.acq w.epoch w.rq
  | (.waits, s1) => s1.addWait c w
  | (.refused e, s1) => s1.refuseRequest c w.slot w.epoch w.rq w.task e

/-- SLOT_CLAIM: a claim is granted at the write pointer or waits (R118, R121, R192, R195); one that names an unused slot
is refused (R124). -/
def execSlotClaim (c : Fin 8) (slot : Nat) (rq : Requester) (epoch : BitVec 16) (task : Nat) (s : State) :
    Host.Outcome State Fault Refusal :=
  let o := s.slotOwner c slot
  if s.specStale epoch then .next (s.countSpecDropped o.1)
  else if !s.coreLive o.1 then .next (s.refuseRequest o.1 slot epoch rq task 0x0312)
  else
    .next (s.wakeM1.placeRequest o.1 {
      acq := false, slot := o.2, rq := rq, epoch := epoch, task := task, sched := s.waitSched o.1 rq })

/-- SLOT_ACQUIRE: an acquisition is granted at the read pointer or waits (R118, R121, R126, R194). -/
def execSlotAcquire (c : Fin 8) (slot : Nat) (rq : Requester) (epoch : BitVec 16) (neve : Bool) (task : Nat)
    (s : State) : Host.Outcome State Fault Refusal :=
  let o := s.slotOwner c slot
  if !s.coreLive o.1 then .next (s.refuseRequest o.1 slot epoch rq task 0x0312)
  else
    .next (s.placeRequest o.1 {
      acq := true, slot := o.2, rq := rq, epoch := epoch, neve := neve, task := task, sched := s.waitSched o.1 rq })

/-- The stewards hold a core's tokens: a swap runs (R410), the core's clocks stand and its state is kept (R375, R378, R393), or one that
came before is still held. -/
def State.tokensWait (s : State) (c : Fin 8) : Bool :=
  s.swapRunning || (s.coreLive c && !s.coreRuns c) || s.img.held.any fun
    | .token d slot _ _ _ _ => (s.slotOwner d slot).1 = c
    | _ => false

/-- A token at its owner: applied, held by the stewards (R410), or refused with the posting task's end (R124); it wakes the module
from M1 (R394). -/
def State.takeToken (s : State) (c : Fin 8) (slot buf : Nat) (fill : Bool) (epoch : BitVec 16)
    (poster : Option (Fin 8 × Nat)) : State :=
  let o := s.slotOwner c slot
  if s.tokensWait o.1 then
    s.wakeM1.modImg fun i => { i with held := i.held ++ [.token c slot buf fill epoch poster] }
  else
    let r := if !s.coreLive o.1 then (false, s)
      else if fill then s.putFill o.1 o.2 buf epoch else s.putRelease o.1 o.2 buf epoch
    if r.1 then r.2
    else
      match poster with
      | some p => r.2.softFault p.1 p.2 0x0312 (BitVec.ofNat 32 slot)
      | none => r.2.raise 0x0312 (unit := o.1.val) (detail := BitVec.ofNat 32 slot)

/-- FILL_TOKEN: a fill token counts toward making its buffer FULL (R118, R119, R195). -/
def execFillToken (c : Fin 8) (slot buf : Nat) (epoch : BitVec 16) (poster : Option (Fin 8 × Nat)) (s : State) :
    Host.Outcome State Fault Refusal := .next (s.takeToken c slot buf true epoch poster)

/-- RELEASE_TOKEN: a release token counts toward returning its buffer to EMPTY (R118, R119). -/
def execReleaseToken (c : Fin 8) (slot buf : Nat) (epoch : BitVec 16) (poster : Option (Fin 8 × Nat)) (s : State) :
    Host.Outcome State Fault Refusal := .next (s.takeToken c slot buf false epoch poster)

/-- A waiting request leaves the list. -/
def State.dropWait (s : State) (c : Fin 8) (i : Nat) : State :=
  s.modScr c fun x => { x with waits := x.waits.eraseIdx i }

/-- SLOT_WAIT_GRANT: a waiting request is granted within its window, in the order of R120: acquisitions before claims,
and of one kind in ascending order of requester number (R121, R122). Fill and release tokens that meet a slot in one cycle need
no order here: each changes its own buffer, and either order leaves the slot the same. -/
def execSlotWaitGrant (c : Fin 8) (i : Nat) (s : State) : Host.Outcome State Fault Refusal :=
  match (s.core c).scr.waits[i]? with
  | none => .next s
  | some w =>
    if !s.coreRuns c || s.standsBefore c w || decide (w.start + w.limit ≤ s.cycle c) then .next s
    else
      match s.waitAnswer c w with
      | (.granted b, s1) => .next ((s1.dropWait c i).deliverGrant c w.slot b w.acq w.epoch w.rq)
      | (.refused e, s1) => .next ((s1.dropWait c i).refuseRequest c w.slot w.epoch w.rq w.task e)
      | (.waits, _) => .next s

end Sys2Proof.Machine
end

