-- ==== Sys2Proof/Machine/ArrayOps.lean ====
section
/-! DEFINITION. The matrix array's records, registers, products and accumulator entries (R27 to R31, R45 to R48, R79 to R86,
R496). -/

namespace Sys2Proof.Machine

/-! ### Records (R496) -/

/-- Bytes of a record of `l` elements, with `st` planes stored when the format is planed. -/
def recBytes (f : Fmt) (st l : Nat) : Nat := if f.isPlaned then st * (l / 8) else f.bits * l / 8

/-- The code of element `k` of a record of `l` elements read at `j` planes. -/
def recElem (f : Fmt) (j l : Nat) (bs : List (BitVec 8)) (k : Nat) : Nat :=
  if f.isPlaned then
    (List.range j).foldl (fun c p => c * 2 + leAt bs (l / 8 * p + k / 8) 1 / 2 ^ (k % 8) % 2) 0
  else unpackAt f.bits bs k

/-- Bytes rounded up to whole rows. -/
def rowsUp (n : Nat) : Nat := (n + 511) / 512 * 512

/-- The operand fields LOAD and ISSUE share: format, planes read and stored, midpoint, and the fields' legality. -/
structure OpFmt where
  fmt : Fmt
  planes : Nat
  stored : Nat
  mid : Bool
  deriving DecidableEq, Repr

/-- FMT, PLANES and STORED of a command (R68, R170): FMT is the code of the stored width. -/
def opFmt (code planes stored : Nat) (mid : Bool) : Option OpFmt :=
  match fmtOfCode code with
  | none => none
  | some f =>
    if !f.isArrayOperand then none
    else if f.isPlaned then
      if planes = 3 ∨ stored = 3 ∨ planesOfCode stored ≠ f.planes ∨ f.planes < planesOfCode planes then none
      else some ⟨f, planesOfCode planes, f.planes, mid⟩
    else if planes ≠ 0 ∨ stored ≠ 0 then none
    else some ⟨f, 8, 8, mid⟩

def OpFmt.bits (o : OpFmt) : Nat := readBits o.fmt o.planes
/-- A 4-bit operand, as read. -/
def OpFmt.isFour (o : OpFmt) : Bool := o.bits = 4
def OpFmt.isFloat (o : OpFmt) : Bool := o.fmt.isFloatPath
def OpFmt.value (o : OpFmt) (code scale : Nat) : Val := elemVal o.fmt o.planes o.stored o.mid code scale
def OpFmt.uMax (o : OpFmt) : Int := Machine.uMax o.fmt o.planes o.stored o.mid

/-- A tile header's formats (R28). -/
def TileHdr.op (h : TileHdr) : OpFmt :=
  ⟨h.fmt, if h.fmt.isPlaned then planesOfCode h.planes.toNat else 8, if h.fmt.isPlaned then h.fmt.planes else 8,
    h.midpoint⟩

/-- Elements a tile's column holds: its reduction depth, doubled for tiles read at 4 bits. -/
def tileDepth (m : PartMode) (o : OpFmt) : Nat := if o.isFour then 2 * m.rows else m.rows

/-! ### Stationary tiles (R28, R496) -/

/-- Bytes of a tile's element part, and of its scale array. -/
def tileElemBytes (m : PartMode) (o : OpFmt) : Nat :=
  let l := tileDepth m o
  if o.fmt.isPlaned then o.stored * rowsUp (m.cols * (l / 8)) else rowsUp (m.cols * recBytes o.fmt o.stored l)
/-- Bytes of the element part the loader reads: of a planed tile, plane arrays 0 to PLANES - 1 alone. -/
def tileReadBytes (m : PartMode) (o : OpFmt) : Nat :=
  if o.fmt.isPlaned then o.planes * rowsUp (m.cols * (tileDepth m o / 8)) else tileElemBytes m o
def tileScaleBytes (m : PartMode) (o : OpFmt) : Nat := if o.fmt.isBlock then m.cols * (tileDepth m o / 32) else 0

/-- Element `k` of column `j` of a tile, from the bytes of its buffer extent. -/
def tileElem (m : PartMode) (o : OpFmt) (bs : List (BitVec 8)) (j k : Nat) : Nat :=
  let l := tileDepth m o
  if o.fmt.isPlaned then
    let plane := rowsUp (m.cols * (l / 8))
    (List.range o.planes).foldl
      (fun c p => c * 2 + leAt bs (p * plane + j * (l / 8) + k / 8) 1 / 2 ^ (k % 8) % 2) 0
  else
    let rb := recBytes o.fmt o.stored l
    unpackAt o.fmt.bits ((bs.drop (j * rb)).take rb) k

/-- The scale of element `k` of column `j`: the block's byte, or the tensor scale. -/
def tileScale (m : PartMode) (o : OpFmt) (tscale : Nat) (bs : List (BitVec 8)) (j k : Nat) : Nat :=
  if o.fmt.isBlock then leAt bs (tileElemBytes m o + j * (tileDepth m o / 32) + k / 32) 1
  else if o.fmt.isTensorScaled then tscale else 0

/-- Parity of a 16-bit word. -/
def parity16 (x : Nat) : Nat := (List.range 16).foldl (fun p i => (p + x / 2 ^ i) % 2) 0

/-- A register whose parity bit does not fit its data (R29). -/
def parityBad (w : BitVec 17) : Bool := decide (parity16 (w.toNat % 65536) ≠ w.toNat / 65536)

/-- The register word the loader writes for row `r` of column `j` (R28), with its parity bit. -/
def tileWord (m : PartMode) (o : OpFmt) (tscale : Nat) (bs : List (BitVec 8)) (r j : Nat) : BitVec 17 :=
  let w :=
    if o.bits = 16 then tileElem m o bs j r
    else if o.isFour then
      tileElem m o bs j (2 * r) + tileElem m o bs j (2 * r + 1) * 16 + tileScale m o tscale bs j (2 * r) * 256
    else tileElem m o bs j r + tileScale m o tscale bs j r * 256
  BitVec.ofNat 17 (w + parity16 w * 65536)

/-- Every register word of a tile, keyed row*512 + column within the partition. -/
def tileRegs (m : PartMode) (o : OpFmt) (tscale : Nat) (bs : List (BitVec 8)) : Tab (BitVec 17) :=
  (List.range (m.rows * 512)).filterMap fun n =>
    let w := if n % 512 < m.cols then tileWord m o tscale bs (n / 512) (n % 512) else 0
    if w = 0 then none else some (n, w)

/-- The value a cell's register stands for, and the class the products use: element 0, or element 1 at 4 bits. -/
def regVal (o : OpFmt) (w : BitVec 17) (second : Bool) (tscale : Option Nat) : Val :=
  let x := w.toNat % 65536
  let sc := tscale.getD (x / 256)
  if o.bits = 16 then o.value x 0
  else if o.isFour then o.value (if second then x / 16 % 16 else x % 16) (x / 256)
  else o.value (x % 256) (if o.fmt.isTensorScaled then sc else x / 256)

/-! ### Input vectors (R496) -/

/-- The lanes of input vector `i` of a run of `n` vectors, from the bytes of the run's extent. -/
def vecLanes (o : OpFmt) (l n tscale i : Nat) (bs : List (BitVec 8)) : Tab Lane :=
  let w := rowsUp (recBytes o.fmt o.stored l)
  let rec_ := (bs.drop (i * w)).take w
  let scales := (bs.drop (n * w + i * (l / 32))).take (l / 32)
  (List.range l).filterMap fun k =>
    let lane : Lane := {
      code := BitVec.ofNat 16 (recElem o.fmt o.planes l rec_ k)
      scale := BitVec.ofNat 8 (if o.fmt.isBlock then leAt scales (k / 32) 1
        else if o.fmt.isTensorScaled then tscale else 0) }
    if lane = {} then none else some (k, lane)

/-! ### Products (R79, R82, R83) -/

/-- An entry and what a vector's products have met on the way: a trap's cause, and products below the window. -/
structure ProdSt where
  e : AccEntry
  under : Nat := 0
  nf : Bool := false
  sat : Bool := false
  deriving DecidableEq, Repr

def accInt (x : BitVec 96) : Int := x.toInt

/-- One product of R82. Under a trap its cause is noted and the entry is left. -/
def applyProduct (anchor : Int) (nfTrap satTrap : Bool) (p : ProdSt) (a b : Val) : ProdSt :=
  let note (p : ProdSt) (e : AccEntry) : ProdSt := { p with e := e, nf := p.nf || nfTrap }
  match a.mul b with
  | .nan => note p { p.e with recNan := true }
  | .inf true => note p { p.e with recNeg := true }
  | .inf false => note p { p.e with recPos := true }
  | .num s m e =>
    if m = 0 then p
    else if e > anchor then
      if satTrap then { p with sat := true }
      else
        let was := p.e.sat && decide ((accInt p.e.acc < 0) ≠ (s = true))
        { p with e := { p.e with
            recNan := p.e.recNan || was, sat := true
            acc := BitVec.ofInt 96 (if s then -(2 ^ 95 - 1) else 2 ^ 95 - 1) } }
    else if p.e.sat then p
    else
      let v : Int := roundHalfEven m (e - (anchor - 62))
      { p with
        e := { p.e with acc := BitVec.ofInt 96 (accInt p.e.acc + (if s then -v else v)) }
        under := p.under + b2n (decide (e < anchor - 62)) }

/-- A pass over an entry in the fixed-point path: every pair's product. DESIGN CHOICE (log entry 55, unsafe): the spec gives no
order among the products of one vector, on which the underflow count turns when one of them saturates the entry; the model
takes them in ascending reduction index. -/
def applyPass (anchor : Int) (nfTrap satTrap : Bool) (e : AccEntry) (pairs : List (Val × Val)) : ProdSt :=
  pairs.foldl (fun p x => applyProduct anchor nfTrap satTrap p x.1 x.2) { e := e }

/-- A chunk sum of R86 as an FP32 word: fused multiply-adds in ascending reduction index from +0. -/
def chunkSum (pairs : List (Val × Val)) : Nat :=
  pairs.foldl (fun t x => toF32 ((x.1.mul x.2).add (f32 t))) 0

/-- entry_update of R86: the entry's record mirrors its FP32 value. -/
def applyFloat (first nfTrap : Bool) (e : AccEntry) (pairs : List (Val × Val)) : ProdSt :=
  let t := chunkSum pairs
  let v := if first then t else f32Add (fld e.acc 31 0) t
  let x := f32 v
  { e := { e with
      acc := BitVec.ofNat 96 v, fp := true, recNan := x.isNan
      recPos := decide (x = .inf false), recNeg := decide (x = .inf true) }
    nf := nfTrap && !x.isFinite }

/-! ### Tensors -/

def ImgCfg.tensor (g : ImgCfg) (t : Nat) : Option TensorCfg := g.tensors.find? fun x => x.id = t
def State.tensor (s : State) (t : Nat) : Option TensorCfg := s.cfg.bind fun g => g.tensor t

def leadOn (w : BitVec 32) : Bool := bit w 0
def leadHeadroom (w : BitVec 32) : Nat := fld w 3 1
def leadW (w : BitVec 32) : Nat := fld w 15 4
def leadI (w : BitVec 32) : Nat := fld w 27 16

/-- The core's copy of a tensor's scale record (R240, R241). -/
def State.scaleRec (s : State) (c : Fin 8) (t : Nat) : BitVec 128 := tabGet 0 (s.core c).upd.scaleTable t
def scaleT (r : BitVec 128) : Nat := fld r 7 0
def scaleBound (r : BitVec 128) : Nat := fld r 15 8
def scaleXceil (r : BitVec 128) : Nat := fld r 23 16
def scaleCentre (r : BitVec 128) : Int := signed 32 (fld r 63 32)

/-! ### Stationary sets -/

/-- The tile header a set has: of the tile being loaded into it, or the one it holds. -/
def State.setHdr (s : State) (c : Fin 8) (p : Fin 4) (b : Bool) : TileHdr :=
  let a := (s.core c).arr
  match (a.tileBuf.get (a.mode.loader p.val)).find? fun t => t.part = p.val && t.loading && t.toB = b with
  | some t => t.hdr
  | none => if b then (a.parts.get p).setB.hdr else (a.parts.get p).setA.hdr

/-- The set the next vector computes with, were it to issue without a marker. -/
def State.nextSet (s : State) (c : Fin 8) (p : Fin 4) : Bool := (s.part c p).selB != s.markPending c p

/-- A register of a set, by row and column within the partition. -/
def State.setReg (s : State) (c : Fin 8) (p : Fin 4) (b : Bool) (r j : Nat) : BitVec 17 :=
  let a := (s.core c).arr
  tabGet 0 (if b then a.statB else a.statA) (a.cellKey (a.mode.row0 p.val + r) (a.mode.col0 p.val + j))

/-- The registers of a set of a partition, as a tile's words. -/
def State.setWords (s : State) (c : Fin 8) (p : Fin 4) (b : Bool) : Tab (BitVec 17) :=
  let m := (s.core c).arr.mode
  (List.range (m.rows * 512)).filterMap fun n =>
    let w := if n % 512 < m.cols then s.setReg c p b (n / 512) (n % 512) else 0
    if w = 0 then none else some (n, w)

/-- The pairs of one output of a vector (R38, R39): down a column in plain reading, along a row in transposed. -/
def flightPairs (m : PartMode) (st : OpFmt) (inp : OpFmt) (reg : Nat → Nat → BitVec 17) (f : Flight)
    (wScale iScale : Option Nat) (o : Nat) : List (Val × Val) :=
  let lane (k : Nat) : Val :=
    let l := tabGet {} f.lanes k
    inp.value l.code.toNat (if inp.fmt.isTensorScaled then iScale.getD l.scale.toNat else l.scale.toNat)
  if f.transposed then
    (List.range m.cols).map fun k => (regVal st (reg o k) f.half wScale, lane k)
  else if st.isFour then
    (List.range (2 * m.rows)).map fun k => (regVal st (reg (k / 2) o) (k % 2 = 1) wScale, lane k)
  else (List.range m.rows).map fun k => (regVal st (reg k o) false wScale, lane k)

/-- A flight's input format. -/
def Flight.op (f : Flight) : OpFmt :=
  ⟨f.fmt, if f.fmt.isPlaned then planesOfCode f.planes.toNat else 8, if f.fmt.isPlaned then f.fmt.planes else 8,
    f.midpoint⟩

end Sys2Proof.Machine
end

