-- ==== Sys2Proof/Machine/Gauge.lean ====
section
/-! DEFINITION. The drain conversion of an accumulator entry (R87 to R91) and the gauge that watches it (R236 to R239). -/

namespace Sys2Proof.Machine

/-! ### An entry's value at conversion (R87) -/

/-- What an entry resolves to: a NaN or infinity, a saturated lane with its sign, or the exact value. -/
inductive Resolved
  | special (v : Val)
  | saturated (neg : Bool)
  | exact (v : Val)
  deriving DecidableEq, Repr

def AccEntry.resolve (e : AccEntry) (anchor : Int) : Resolved :=
  if e.recNan || (e.recPos && e.recNeg) then .special .nan
  else if e.recPos then .special (.inf false)
  else if e.recNeg then .special (.inf true)
  else if e.sat then .saturated (decide (accInt e.acc < 0))
  else if e.fp then .exact (f32 (fld e.acc 31 0))
  else .exact (Val.ofInt (accInt e.acc) (anchor - 62))

/-- The value an output conversion starts from: a saturated lane counts as the largest finite FP32 value. -/
def Resolved.val : Resolved → Val
  | .special v => v
  | .saturated n => maxFp32 n
  | .exact v => v

/-- Codes and scale of one group of lanes in the output format: one lane of a plain format, 32 of a block format. -/
def drainBlock (f : Fmt) (nonfinite : Bool) (xo : Nat) (rs : List Resolved) : Nat × List Conv :=
  if f.isBlock then
    let r := convBlock f nonfinite (rs.map Resolved.val)
    if r.1 = 0xFF then r
    else
      (r.1, (rs.zip r.2).map fun x =>
        match x.1 with
        | .saturated n =>
          match f.elem with
          | some ef => { code := ef.overflow n false, saturated := true }
          | none => { code := (if n then 2 ^ (f.planes - 1) else 0) + (2 ^ (f.planes - 1) - 1), saturated := true }
        | _ => x.2)
  else
    let sh : Int := if f.isTensorScaled then 127 - (xo : Int) else 0
    let ef := f.elem.getD fpFp32
    (0, rs.map fun r =>
      match r with
      | .special v => ef.round nonfinite v
      | .saturated n => { code := ef.overflow n nonfinite, saturated := true }
      | .exact v => ef.round nonfinite (v.scale sh))

/-- The 32-lane groups of a row, each converted. -/
def chunks32 : Nat → List Resolved → List (List Resolved)
  | 0, _ => []
  | n + 1, l => l.take 32 :: chunks32 n (l.drop 32)

/-- A row's groups in the output format. -/
def drainRow (f : Fmt) (nonfinite : Bool) (xo : Nat) (rs : List Resolved) : List (Nat × List Conv) :=
  (chunks32 (rs.length / 32) rs).map (drainBlock f nonfinite xo)

/-- A row's record bytes (R496) and its scale bytes. -/
def drainBytes (f : Fmt) (blocks : List (Nat × List Conv)) : List (BitVec 8) × List (BitVec 8) :=
  let codes := blocks.flatMap fun b => b.2.map (·.code)
  let bytes :=
    if f.isPlaned then
      (List.range f.planes).flatMap fun p => blocks.flatMap fun b =>
        natLe 4 (planeWord f.planes p (b.2.map (·.code)))
    else packBytes f.bits codes
  (bytes, if f.isBlock then blocks.map fun b => BitVec.ofNat 8 b.1 else [])

/-! ### The gauge (R236, R237) -/

/-- The tensor scales the what-if counts use for E4M3 and E5M2 (R237). -/
structure WhatIf where
  xE4m3 : Nat
  xE5m2 : Nat
  deriving DecidableEq, Repr

/-- The R90 scale of a block before it is clamped. -/
def rawBlockScale (j : Nat) (amax : Val) : Int :=
  match amax.exponent, amax with
  | some t, .num _ m e =>
    let x : Int := max 0 (t + 127)
    if roundHalfEven m (e + 127 - x + planeShift j) = 2 ^ (planeShift j + 1).toNat then x + 1 else x
  | _, _ => 0

/-- The magnitude a lane brings to its block's scale: a saturated lane the largest finite FP32 value, and so an infinity under
SATURATE (R87, R90, R91). -/
def Resolved.plain (nonfinite : Bool) : Resolved → Option Val
  | .exact v => if v.isFinite then some v else if nonfinite || v.isNan then none else some (maxFp32 v.sign)
  | .saturated n => some (maxFp32 n)
  | .special (.inf n) => if nonfinite then none else some (maxFp32 n)
  | .special _ => none

/-- What-if counts: index 2k overflow and 2k+1 vanish, for E4M3, E5M2, PB8, PB6, PB4, BF16 (R238). -/
def bump (t : Tab Nat) (i : Nat) (b : Bool) : Tab Nat := if b then tabMod 0 t i (· + 1) else t

def whatIfCount (w : WhatIf) (bscale : Nat → Int) (t : Tab Nat) (v : Val) : Tab Nat :=
  let a := fpE4m3.round false (v.scale (127 - (w.xE4m3 : Int)))
  let b := fpE5m2.round false (v.scale (127 - (w.xE5m2 : Int)))
  let h := fpBf16.round false v
  let t1 := bump (bump (bump (bump t 0 a.saturated) 1 a.vanished) 2 b.saturated) 3 b.vanished
  let pb (t : Tab Nat) (i : Nat) (f : Fmt) : Tab Nat :=
    let x := bscale f.planes
    let c := blockElem f (min x 254).toNat v
    bump (bump t i (decide (254 < x))) (i + 1) c.vanished
  bump (bump (pb (pb (pb t1 4 .pb8) 6 .pb6) 8 .pb4) 10 h.saturated) 11 h.vanished

/-- One lane's counts (R236). -/
def gaugeLane (centre anchor : Int) (w : WhatIf) (bscale : Nat → Int) (g : GaugeAcc) (r : Resolved) (c : Conv) :
    GaugeAcc :=
  let g1 := { g with values := g.values + 1 }
  let top (g : GaugeAcc) (x : Int) : Option Int := some (match g.amaxExp with | some y => max x y | none => x)
  match r with
  | .special .nan => { g1 with nan := g1.nan + 1 }
  | .special (.inf true) => { g1 with negInf := g1.negInf + 1 }
  | .special _ => { g1 with posInf := g1.posInf + 1 }
  | .saturated _ => { g1 with saturated := g1.saturated + 1, amaxExp := top g1 (anchor + 1) }
  | .exact v =>
    let g2 := { g1 with
      zeros := g1.zeros + b2n v.isZero
      vanished := g1.vanished + b2n c.vanished
      saturated := g1.saturated + b2n c.saturated }
    let g3 : GaugeAcc := if c.saturated then g2 else { g2 with whatIf := whatIfCount w bscale g2.whatIf v }
    match v.exponent with
    | some t =>
      if c.saturated then g3
      else { g3 with
        hist := tabMod 0 g3.hist (clampTo 0 63 (t - centre + 32).toNat) (· + 1)
        amaxExp := top g3 t
        amax := if (f32 g3.amax.toNat).lt v.abs then BitVec.ofNat 32 (toF32 v.abs) else g3.amax }
    | none => g3

/-- A 32-lane group's counts. -/
def gaugeBlock (centre anchor : Int) (w : WhatIf) (nonfinite : Bool) (g : GaugeAcc) (rs : List Resolved) (cs : List Conv) : GaugeAcc :=
  let amax := (rs.filterMap fun r => r.plain nonfinite).foldl maxMag Val.zero
  (rs.zip cs).foldl (fun g x => gaugeLane centre anchor w (fun j => rawBlockScale j amax) g x.1 x.2) g

/-- A row's counts. -/
def gaugeRow (centre anchor : Int) (w : WhatIf) (nonfinite : Bool) (g : GaugeAcc) (rs : List Resolved) (bs : List (Nat × List Conv)) :
    GaugeAcc :=
  ((chunks32 (rs.length / 32) rs).zip bs).foldl (fun g x => gaugeBlock centre anchor w nonfinite g x.1 x.2.2) g

end Sys2Proof.Machine
end

