-- ==== Sys2Proof/Machine/Array.lean ====
section
/-! DEFINITION. The matrix array's commands and events (chapter 02), and the uniform stall (R111 to R114). -/

namespace Sys2Proof.Machine

open Host

/-! ### The uniform stall (R111) -/

/-- UNIFORM_STALL_END: in the first cycle with no stall cause the held schedule cycle issues (R111). -/
def execUniformStallEnd (c : Fin 8) (s : State) : Outcome State Fault Refusal :=
  if (s.core c).seq.stalled && !s.stallCause c then .next ((s.modSeq c fun q => { q with stalled := false }).replanAll c)
  else .next s

/-! ### Taking a task's next command -/

/-- The command a task issues next, when it is the one named and may issue now (R111, R181, R182): in decoupled timing
an execute command waits for the partition's run to end. -/
def State.cmdReady (s : State) (c : Fin 8) (key op : Nat) : Option (Task × Nat × BitVec 128) :=
  if !s.coreRuns c then none
  else
    match s.findTask c key with
    | none => none
    | some t =>
      let free := match t.part with
        | some p => (s.part c p).runs = [] && (s.part c p).fillRuns = []
        | none => true
      let dec := s.taskDecoupled c t
      if dec && op % 4 = 1 && !free then none
      else if s.queuesHeld c then none
      else if op % 4 = 1 && s.tokenHeld c 1 then none
      else
        match s.nextCmd c t (op % 4) with
        | some (i, w) => if cmdOp w = op then some (t, i, w) else none
        | none => none

/-- A command that fails where it would issue: the soft fault ends its task. -/
def State.failCmd (s : State) (c : Fin 8) (key : Nat) (code : BitVec 16) (detail : Nat := 0) : State :=
  s.softFault c key code (BitVec.ofNat 32 detail)

/-- First byte of a scratchpad extent of a granted buffer, from a row within it; none when it leaves the scratchpad or
the slot is homed in stack memory (R99, R100). -/
def State.scrExtent (s : State) (c : Fin 8) (slot buf row bytes : Nat) : Option Nat :=
  match s.slotEnt c slot with
  | some e =>
    let a := e.bufBase buf + row * 512
    if e.home || a % 512 ≠ 0 || decide (2 ^ 26 < a + bytes) then none else some a
  | none => none

/-! ### Row accesses of the engines (R100 to R102) -/

/-- The execute and vector engines' accesses of a task are fixed by the schedule (R101, R180). -/
def State.keyScheduled (s : State) (c : Fin 8) (key : Nat) : Bool :=
  s.scheduled c && match s.findTask c key with
    | some t => !s.taskDecoupled c t
    | none => false

/-- A burst that the schedule fixes, from the present schedule cycle on, after those of its own port (R100), and the tasks that
lose a bank by it: the access on the higher port of two that meet (R102). A burst that loses is not made; what it would have met
after that stays. -/
def State.fixRows (s : State) (c : Fin 8) (row n port key : Nat) (lag : Nat := 0) : List Nat × State :=
  if n = 0 then ([], s)
  else
    let now := (s.core c).seq.sched - lag
    let old := (s.bursts c).filter fun a => a.sched
    let from_ := (old.filter fun a => a.port = port).foldl (fun t a => max t (a.start + a.n)) now
    let x : ScrAcc := { sched := true, start := from_, row := row, n := n, port := port, task := key }
    let met := old.filter fun a => a.meets x
    let lost := met.filter fun a => decide (a.port ≤ port)
    let won (a : ScrAcc) : Bool := decide (port < a.port) && lost.all fun b => decide (max a.start x.start ≤ max b.start x.start)
    let losers := ((met.filter won).map fun a => a.task) ++ (if lost = [] then [] else [key])
    (losers,
      if lost = [] then
        let s1 := s.modScr c fun k => { k with accs := k.accs.filter (fun a => !(a.sched && losers.contains a.task)) ++ [x] }
        s1.modScr c fun k => { k with accs := s1.replan c (s.cycle c - lag) [] }
      else s)

/-- A task's accesses to rows of its core's scratchpad, whose port takes them in turn: true when the task keeps its banks; one
that loses a bank to it ends with 0x0206 (R100, R101, R102). -/
def State.takeRows (s : State) (c : Fin 8) (row n port key : Nat) (lag : Nat := 0) : Bool × State :=
  if !s.keyScheduled c key then (true, s.giveRows c row n port key lag)
  else
    let r := s.fixRows c row n port key lag
    let s1 := (r.1.filter fun k => k ≠ key).eraseDups.foldl (fun s k => s.failCmd c k 0x0206 (scrBank row)) r.2
    if r.1.contains key then (false, s1.failCmd c key 0x0206 (scrBank row)) else (true, s1)

/-- The same of several extents, by first row, rows and port, in turn; the first that loses its bank ends it. -/
def State.takeAll (s : State) (c : Fin 8) (key lag : Nat) : List (Nat × Nat × Nat) → Bool × State
  | [] => (true, s)
  | (row, n, port) :: rest =>
    match s.takeRows c row n port key lag with
    | (true, s1) => s1.takeAll c key lag rest
    | r => r

/-- Rows that `bytes` bytes from a byte address on touch. -/
def rowsOf (a bytes : Nat) : Nat := if bytes = 0 then 0 else (a + bytes - 1) / 512 + 1 - a / 512

/-! ### LOAD and the north loader (R41, R43, R58, R170) -/

/-- LOAD's operands (R170). -/
def loadFmt (w : BitVec 128) : Option OpFmt := opFmt (fld w 69 66) (fld w 71 70) (fld w 73 72) (bit w 74)
def loadHdr (w : BitVec 128) (o : OpFmt) : TileHdr where
  fmt := o.fmt
  planes := BitVec.ofNat 2 (fld w 71 70)
  midpoint := o.mid
  chunk := BitVec.ofNat 8 (fld w 82 75)
  first := bit w 83
  last := bit w 84
  tag := BitVec.ofNat 16 (fld w 100 85)
  tscale := BitVec.ofNat 8 (fld w 108 101)

/-- A tile joins its loader's buffer, complete. -/
def State.pushTile (s : State) (c : Fin 8) (p : Fin 4) (b : BufTile) : State :=
  s.modArr c fun a =>
    let l := a.mode.loader p.val
    { a with tileBuf := a.tileBuf.set l (a.tileBuf.get l ++ [b]) }

/-- The bytes of a tile's extent: the loader reads the rows of its plane arrays 0 to PLANES - 1 and of its scale array, and
skips the rest (R496). -/
def State.tileFetch (s : State) (c : Fin 8) (m : PartMode) (o : OpFmt) (a : Nat) : Option (List (BitVec 8)) × State :=
  match s.scrFetch c a (tileReadBytes m o) with
  | (none, s1) => (none, s1)
  | (some _, s1) =>
    match s1.scrFetch c (a + tileElemBytes m o) (tileScaleBytes m o) with
    | (none, s2) => (none, s2)
    | (some _, s2) => (some (s2.scrBytes c a (tileElemBytes m o + tileScaleBytes m o)), s2)

/-- LOAD: a stationary tile is drawn from its slot into the tile buffer with its header (R28, R41, R168, R170); it waits
while both halves of the buffer are taken. -/
def execLoad (c : Fin 8) (task : Nat) (s : State) : Outcome State Fault Refusal :=
  match s.cmdReady c task 0x05 with
  | none => .next s
  | some (t, i, w) =>
    match t.part, loadFmt w with
    | none, _ => .next (s.failCmd c task 0x0104)
    | some _, none => .next (s.failCmd c task 0x0601)
    | some p, some o =>
      if s.bufferFull c p then
        .next (s.modPart c p fun q => { q with
          loadWait := if q.loadWait.isSome then q.loadWait else some (s.cycle c, (s.core c).scr.slotLimit.toNat) })
      else
        let slot := fld w 41 32
        match s.commandBuf c t slot true (bit w 111) false with
        | (.waits, s1) => .next s1
        | (.refused e, s1) => .next (s1.failCmd c task e slot)
        | (.granted b, s1) =>
          let m := (s1.core c).arr.mode
          let n := tileElemBytes m o + tileScaleBytes m o
          match s1.scrExtent c slot b (fld w 65 42 + t.arg (fld w 110 109)) n with
          | none => .next (s1.failCmd c task 0x0204 slot)
          | some a =>
            let rows := [(a / 512, rowsOf a (tileReadBytes m o), 2),
              ((a + tileElemBytes m o) / 512, rowsOf (a + tileElemBytes m o) (tileScaleBytes m o), 2)]
            match s1.takeAll c task 0 rows with
            | (false, s2) => .next s2
            | (true, s2) =>
            match s2.tileFetch c m o a with
            | (none, s2) => .next (s2.failCmd c task 0x0201 (a / 512))
            | (some bs, s2) =>
              let tile : BufTile := {
                part := p.val, hdr := loadHdr w o, regs := tileRegs m o (fld w 108 101) bs, ready := true
                readyCycle := (s2.core c).arr.now, task := task, slot := slot }
              let s3 := ((s2.pushTile c p tile).modPart c p fun q => { q with loadWait := none }).modTask c task
                fun t => t.issued 1 i
              let s4 := s3.consumeHolds c task true [slot]
              .next (if bit w 112 then s4.postToken c task slot b false t.epoch else s4)

/-- The set a partition's loader writes next: the one that is not active. -/
def Part.shadowIsB (q : Part) : Bool := !q.selB

/-- A waiting tile may begin to load (R43): no earlier tile waits for its marker, and the loader's first write, which the
loader settles up to three cycles ahead as the feeder does a marker's entry, comes one residency after the last entry. -/
def State.loadAllowed (s : State) (c : Fin 8) (t : BufTile) : Bool :=
  let a := (s.core c).arr
  let p := fin4 t.part
  let q := s.part c p
  t.ready && !t.loading && !q.shadowNew && !s.markPending c p &&
    match q.lastEntry with
    | some e => decide (e + a.mode.residency ≤ a.now + 3)
    | none => true

/-- Vectors still in flight that met the tile a set has held so far keep it when the loader begins to write that set: every
cell they have yet to reach has still the old register (R43). -/
def State.keepMet (s : State) (c : Fin 8) (p : Fin 4) (toB : Bool) : State :=
  let old (f : Flight) : Bool := f.part = p.val && f.setB = toB && f.met.isNone && !f.bubble
  if (s.core c).arr.flights.any old then
    let m : TileHdr × Tab (BitVec 17) :=
      (if toB then (s.part c p).setB.hdr else (s.part c p).setA.hdr, s.setWords c p toB)
    s.modArr c fun a => { a with flights := a.flights.map fun f => if old f then { f with met := some m } else f }
  else s

/-- The cycle of the first write of a load that begins now. -/
def State.loadStartAt (s : State) (c : Fin 8) (p : Fin 4) : Nat :=
  let a := (s.core c).arr
  match (s.part c p).lastEntry with
  | some e => max a.now (e + a.mode.residency)
  | none => a.now

/-- SHADOW_LOAD_BEGIN: the loader begins the tile that became complete first, the northern quadrant on a tie (R41, R43,
R58). -/
def execShadowLoadBegin (c : Fin 8) (loader : Fin 2) (s : State) : Outcome State Fault Refusal :=
  let a := (s.core c).arr
  let l := a.tileBuf.get loader
  let ok := l.filter fun t => s.loadAllowed c t
  let first := ok.foldl (fun m t => if t.readyCycle < m.readyCycle ∨ (t.readyCycle = m.readyCycle ∧ t.part < m.part)
    then t else m) (ok.headD {})
  if !s.coreRuns c || !s.arrayRuns c || l.any (fun t => t.loading) || ok = [] then .next s
  else
    let p := fin4 first.part
    let toB := (s.part c p).shadowIsB
    let at_ := s.loadStartAt c p
    .next (((s.keepMet c p toB).modArr c fun x => { x with
        tileBuf := x.tileBuf.set loader (replaceFirst (fun t => t = first)
          (fun t => { t with loading := true, startCycle := at_, toB := toB, span := a.mode.residency }) l) }).modPart
            c p fun q => { q with shadowNew := true, loadStart := at_ })

/-- One cycle of the north loader: each half writes the row of its tile whose position in the data path is due, into the
physical cells of that row; a load once begun writes its rows to the end, its tile dropped or not (R41, R51, R62). -/
def Arr.loadRow (a : Arr) (t : BufTile) : Arr :=
  if !t.loading || decide (a.now < t.startCycle) then a
  else
    match (List.range a.mode.rows).find? fun r => decide (t.startCycle + a.rowPos t.part r = a.now) with
    | none => a
    | some r =>
      let put (st : Tab (BitVec 17)) : Tab (BitVec 17) :=
        foldUpTo a.mode.cols (fun j st =>
          tabSet 0 st (a.cellKey (a.mode.row0 t.part + r) (a.mode.col0 t.part + j)) (tabGet 0 t.regs (r * 512 + j))) st
      if t.toB then { a with statB := put a.statB } else { a with statA := put a.statA }
def Arr.loadRows (a : Arr) : Arr := (a.tileBuf.get 0 ++ a.tileBuf.get 1).foldl Arr.loadRow a

/-- SHADOW_LOAD_END: 520 cycles on, or 260 for a quadrant, the load ends and its buffer half is free; a tile dropped by a
soft fault leaves the set empty (R41, R58, R62). -/
def execShadowLoadEnd (c : Fin 8) (loader : Fin 2) (s : State) : Outcome State Fault Refusal :=
  let a := (s.core c).arr
  match (a.tileBuf.get loader).find? fun t => t.loading with
  | none => .next s
  | some t =>
    if !s.coreRuns c || decide (a.now < t.startCycle + t.span) then .next s
    else
      let p := fin4 t.part
      let s1 := s.modArr c fun a => { a with
        tileBuf := a.tileBuf.set loader (removeFirst (fun x => x.loading) (a.tileBuf.get loader)) }
      if t.dropped then .next s1
      else
        .next (s1.modPart c p fun q =>
          if t.toB then { q with setB := { hdr := t.hdr, full := true } }
          else { q with setA := { hdr := t.hdr, full := true } })

/-- LOAD_HOLD_LIMIT: a load hold that lasts the slot limit ends the partition's task with ARR_MODE_CONFLICT (R41). DESIGN CHOICE (log
entry 80, unsafe): R41 speaks of the hold under scheduled timing; a LOAD that waits so in decoupled timing meets the same limit. -/
def execLoadHoldLimit (c : Fin 8) (p : Fin 4) (s : State) : Outcome State Fault Refusal :=
  match (s.part c p).loadWait, s.partTask c p with
  | some (w, n), some t =>
    if s.coreRuns c && s.loadHeld c p && decide (w + n ≤ s.cycle c) then .next (s.failCmd c t.key 0x0104 p.val)
    else .next s
  | _, _ => .next s

/-! ### OPEN and ISSUE (R171, R172) -/

/-- A page of a region is lost in every copy. -/
def State.regionLost (s : State) (base len : Nat) : Bool :=
  (List.range ((base % 65536 + len + 65535) / 65536)).any fun i =>
    match s.readRoute (base / 65536 * 65536 + i * 65536) with
    | .error _ => true
    | .ok _ => false

/-- Both copies of a page of the scale region or of the census region are lost (R243). -/
def State.scaleLost (s : State) : Bool :=
  match s.cfg with
  | none => false
  | some g => s.regionLost g.scaleBase 65536 || s.regionLost g.censusBase (6 * 2 ^ 20)

/-- OPEN: an EMPTY bank opens with its entry count, orientation, bounds and anchor (R46, R47, R81, R171, R241). -/
def execOpenBank (c : Fin 8) (task : Nat) (s : State) : Outcome State Fault Refusal :=
  match s.cmdReady c task 0x09 with
  | none => .next s
  | some (t, i, w) =>
    match t.part with
    | none => .next (s.failCmd c task 0x0104)
    | some p =>
      let b := fin2 (fld w 32 32)
      let ten := s.tensor (fld w 89 78)
      let pol := policyOf (match ten with | some x => x.policy | none => 0xF)
      let lead := match ten with | some x => x.lead | none => 0
      let drain := match pol.fmt with | some f => f.isDrainOutput | none => false
      let m := (s.core c).arr.mode
      if !drain then .next (s.failCmd c task 0x0601 p.val)
      else if (s.bank c p b).st ≠ .empty ∨ m.entries < fld w 42 33 + 1 then .next (s.failCmd c task 0x0104 p.val)
      else if leadOn lead && s.scaleLost then .next (s.failCmd c task 0x0604 p.val)
      else
        let t0 := s.scaleRec c (fld w 89 78)
        let led (t : Nat) : Option Nat := if leadOn lead then some (scaleT (s.scaleRec c t)) else none
        let pick (led cmd : Nat) : BitVec 8 := BitVec.ofNat 8 (if leadOn lead then led else cmd)
        let bk : Bank := {
          st := .opened, n := fld w 42 33 + 1, transposed := bit w 43, word := w
          wScale := led (leadW lead), iScale := led (leadI lead)
          xo := pick (scaleT t0) (fld w 77 70)
          xw := pick (scaleBound (s.scaleRec c (leadW lead))) (fld w 61 54)
          xi := pick (scaleBound (s.scaleRec c (leadI lead))) (fld w 69 62)
          anchor := if pol.fixed then some (signed 10 (fld w 53 44)) else none
          task := task, gauged := !hdrSpec t.hdr }
        .next (((s.clearPool c p b).modBank c p b fun _ => bk).modTask c task fun t => t.issued 1 i)

/-- The input format of ISSUE. -/
def issueFmt (w : BitVec 128) : Option OpFmt := opFmt (fld w 94 91) (fld w 96 95) (fld w 98 97) (bit w 99)

/-- ISSUE: a run of vectors is queued for its partition, once its bank, orientation and entries are allowed (R38, R40, R46,
R172) and its input buffer is granted (R168). -/
def execIssue (c : Fin 8) (task : Nat) (s : State) : Outcome State Fault Refusal :=
  match s.cmdReady c task 0x0D with
  | none => .next s
  | some (t, i, w) =>
    match t.part, issueFmt w with
    | none, _ => .next (s.failCmd c task 0x0104)
    | some p, none => .next (s.failCmd c task 0x0601 p.val)
    | some p, some _ =>
      let bk := s.bank c p (fin2 (fld w 76 76))
      let n := fld w 75 66 + 1
      if (bit w 87 && (s.core c).arr.mode ≠ .full) || bk.st ≠ .opened || bk.transposed ≠ bit w 87
          || decide (bk.n < fld w 86 77 + n) then
        .next (s.failCmd c task 0x0104 p.val)
      else
        let slot := fld w 41 32
        match s.commandBuf c t slot true (bit w 110) false with
        | (.waits, s1) => .next s1
        | (.refused e, s1) => .next (s1.failCmd c task e slot)
        | (.granted b, s1) =>
          match s1.scrExtent c slot b (fld w 65 42 + t.arg (fld w 109 108)) 0 with
          | none => .next (s1.failCmd c task 0x0204 slot)
          | some a =>
            let r : Run := { task := task, word := w, rowBase := a / 512, buf := b, due := (s1.core c).seq.sched }
            .next (((s1.modPart c p fun q => { q with runs := q.runs ++ [r] }).modTask c task
              fun t => t.issued 1 i).consumeHolds c task true [slot])

/-- FILLER: freewheel filler vectors for a number of issue slots (R173). -/
def execFiller (c : Fin 8) (task : Nat) (s : State) : Outcome State Fault Refusal :=
  match s.cmdReady c task 0x11 with
  | none => .next s
  | some (t, i, w) =>
    match t.part with
    | none => .next (s.failCmd c task 0x0104)
    | some p =>
      .next ((s.modPart c p fun q => { q with fillRuns := q.fillRuns ++ [⟨task, fld w 55 32⟩] }).modTask c task
        fun t => t.issued 1 i)

/-! ### Vectors (R31 to R36, R42 to R44) -/

/-- The next issue slot of a partition: each array cycle of the present tick has one (R31). -/
def State.issueSlot (s : State) (c : Fin 8) (p : Fin 4) : Option Nat :=
  let a := (s.core c).arr
  let n := max a.tickFrom (match (s.part c p).lastIssue with | some k => k + 1 | none => 0)
  if n ≤ a.now then some n else none

/-- An issue slot used: the partition's history of real vectors (R386), and a bubble counted (R66). -/
def State.slotUsed (s : State) (c : Fin 8) (p : Fin 4) (slot : Nat) (real : Bool) : State :=
  let s1 := s.modPart c p fun q => { q with lastIssue := some slot, recent := (real :: q.recent).take 1024 }
  if real then s1 else s1.modArr c fun a => { a with bubbles := satAdd 64 a.bubbles 1 }

/-- An issue slot used by a filler vector, a FILLER command's or freewheel's (R173, R386, R388): the pattern of the feeder's
generator in place of a row, and no bubble. -/
def State.fillSlot (s : State) (c : Fin 8) (p : Fin 4) (slot task : Nat) (left : List FillRun) : State :=
  (s.modArr c fun x => { x with
      flights := x.flights ++ [{ part := p.val, filler := true, setB := s.nextSet c p, issueCycle := slot, task := task }] }).modPart
    c p fun q => { q with fillRuns := left, lastIssue := some slot, recent := (false :: q.recent).take 1024 }

/-- The run's length of a vector (R496). -/
def vecLen (m : PartMode) (st : OpFmt) (transposed : Bool) : Nat :=
  if transposed then m.cols else if st.isFour then 2 * m.rows else m.rows

/-- A marker hold has found the tile buffer empty past the slot limit (R44, R125). -/
def State.tileStarved (s : State) (c : Fin 8) (p : Fin 4) : Bool :=
  let q := s.part c p
  let a := (s.core c).arr
  match q.markWait with
  | some (w, n) =>
    !q.shadowNew && !((a.tileBuf.get (a.mode.loader p.val)).any fun t => t.part = p.val) && decide (w + n ≤ s.cycle c)
  | none => false

/-- A marker that must be held (R44): a bubble in decoupled timing or through a hold's stall. A hold begun in a slot of an array
cycle already past counts that cycle, where no other hold of the core did (R66). -/
def State.holdMarker (s : State) (c : Fin 8) (p : Fin 4) (slot : Nat) : State :=
  let lag := (s.core c).arr.now - slot
  let at_ := s.cycle c - lag
  let begun (w : Option (Nat × Nat)) : Bool := w.any fun x => decide (x.1 ≤ at_)
  let counted := allParts.any fun x => begun (s.part c x).markWait || begun (s.part c x).loadWait
  ((s.modPart c p fun q => { q with
    markWait := if q.markWait.isSome then q.markWait else some (at_, (s.core c).scr.slotLimit.toNat) }).modArr c fun a =>
      { a with markerHold := satAdd 64 a.markerHold (if counted then 0 else lag) }).slotUsed c p slot false

/-- The row of a run's scale array that its next vector is the first to need, when it needs a new one (R103, R496). -/
def scaleRowOf (r : Run) (l n rpv : Nat) (o : OpFmt) : Option Nat :=
  let off := r.next * (l / 32)
  if o.fmt.isBlock && (r.next = 0 || off % 512 = 0) then some (r.rowBase + n * rpv + off / 512) else none

/-- The rows one vector reads, its element rows and a new row of scales: every word checked; the row that cannot be
corrected (R103, R107). -/
def State.vectorRows (s : State) (c : Fin 8) (row rpv : Nat) (scale : Option Nat) : Option Nat × State :=
  match s.scrReadRows c row rpv with
  | (false, s1) => (some row, s1)
  | (true, s1) =>
    match scale with
    | none => (none, s1)
    | some k =>
      match s1.scrReadRow c k with
      | (false, s2) => (some k, s2)
      | (true, s2) => (none, s2)

/-- A marker that rides on a bubble (R42): its vector's bank refuses the drain credit, and the cells swap all the same. -/
def State.markBubble (s : State) (c : Fin 8) (p : Fin 4) (slot : Nat) (r : Run) : State :=
  (((s.modArr c fun a => { a with
      flights := a.flights ++ [{
        part := p.val, bubble := true, marker := true, setB := !s.nextSet c p, issueCycle := slot, task := r.task }] }).modPart
    c p fun q => { q with markWait := none, runs := { r with marked := true } :: q.runs.drop 1 }).slotUsed c p slot false)

/-- The vector at the head of a run issues, in an issue slot (R32, R33, R35): the rows of the planes it is read at are fetched,
and its lanes carry its scales, of a pass into a led bank the bank's own (R75, R241); a decoupled feeder whose port or bank another
user holds tries again in the next cycle, and the slot is a bubble (R36, R100, R101, R106). -/
def State.issueVector (s : State) (c : Fin 8) (p : Fin 4) (slot : Nat) (r : Run) (o : OpFmt) (mark : Bool) : State :=
  let w := r.word
  let a := (s.core c).arr
  let lag := a.now - slot
  let set := if mark then !s.nextSet c p else s.nextSet c p
  let st := (s.setHdr c p set).op
  let l := vecLen a.mode st (bit w 87)
  let n := fld w 75 66 + 1
  let rpv := rowsUp (recBytes o.fmt o.stored l) / 512
  let rows := rowsUp (recBytes o.fmt o.planes l) / 512
  let scaleBytes := if o.fmt.isBlock then n * (l / 32) else 0
  let bytes := n * rpv * 512 + scaleBytes
  let row := r.rowBase + r.next * rpv
  let port := if bit w 87 || p.val % 2 = 1 then 1 else 0
  if 2 ^ 26 < r.rowBase * 512 + bytes then s.failCmd c r.task 0x0204 p.val
  else if !s.keyScheduled c r.task && !s.rowsFree c row rows port lag then s.slotUsed c p slot false
  else
    let scale := scaleRowOf r l n rpv o
    match s.takeAll c r.task lag ((row, rows, port) :: (scale.map fun k => (k, 1, port)).toList) with
    | (false, s0) => s0
    | (true, s0) =>
      match s0.vectorRows c row rows scale with
      | (some bad, s1) => s1.failCmd c r.task 0x0201 bad
      | (none, s1) =>
        let base := r.rowBase * 512
        let bs := s1.scrBytes c base bytes
        let f : Flight := {
          part := p.val, marker := mark, setB := set, bank := fld w 76 76, entry := fld w 86 77 + r.next
          transposed := bit w 87, half := bit w 89, fmt := o.fmt, planes := BitVec.ofNat 2 (fld w 96 95)
          midpoint := o.mid, lanes := vecLanes o l n ((s.bank c p (fin2 (fld w 76 76))).iScale.getD (fld w 107 100)) r.next bs, issueCycle := slot, task := r.task }
        let last := decide (r.next + 1 = n)
        let step := if o.isFloat then 2 else 1
        let s2 := (s1.modArr c fun x => { x with flights := x.flights ++ [f] }).slotUsed c p slot true
        let s3 := s2.modPart c p fun q => { q with
          markWait := none
          runs := if last then (if o.isFloat then [{ r with next := n, gap := true }] else []) ++ q.runs.drop 1
            else { r with next := r.next + 1, gap := o.isFloat, due := r.due + step } :: q.runs.drop 1 }
        if !last then s3
        else
          let s4 := if bit w 90 then
              (s3.modBank c p (fin2 (fld w 76 76)) fun b => { b with
                st := .closed, closeCycle := slot, closeSeq := a.closeCount }).modArr c fun x =>
                  { x with closeCount := x.closeCount + 1 }
            else s3
          if bit w 111 then
            match s4.findTask c r.task with
            | some t => s4.postToken c r.task (fld w 41 32) r.buf false t.epoch
            | none => s4
          else s4

/-- VECTOR_ISSUE: the next issue slot of a partition: the run's next vector when its conditions hold, a filler, or a bubble
(R31, R34, R35, R36, R40, R42, R44, R172, R173). With no run and no FILLER command, freewheel runs at the partition's density
d: DESIGN CHOICE (log entry 78, unsafe): the spec does not say which d of 64 issue slots are filler; the model takes the first d
(R386, R388). DESIGN CHOICE (log entry 54, safe): the spec lets a marker ride on a bubble and does not say when; it does here
when only the drain credit of its vector is refused. -/
def execVectorIssue (c : Fin 8) (p : Fin 4) (s : State) : Outcome State Fault Refusal :=
  let a := (s.core c).arr
  let q := s.part c p
  match s.issueSlot c p with
  | none => .next s
  | some n =>
    let held := s.stallCause c || (decide (n < a.now) && (s.core c).seq.stalled)
    if !s.coreRuns c || decide (a.mode.count ≤ p.val) || !s.arrayRuns c then .next s
    else if held then .next (s.slotUsed c p n false)
    else
      match q.runs with
      | [] =>
        match q.fillRuns with
        | [] => .next (if n % 64 < q.density then s.fillSlot c p n 0 [] else s.slotUsed c p n false)
        | f :: fs => .next (s.fillSlot c p n f.task (if f.left ≤ 1 then fs else { f with left := f.left - 1 } :: fs))
      | r :: _ =>
        let w := r.word
        let dec := match s.findTask c r.task with | some t => s.taskDecoupled c t | none => true
        if r.gap then
          .next ((s.modPart c p fun q => { q with
            runs := (if r.next = fld w 75 66 + 1 then [] else [{ r with gap := false }]) ++ q.runs.drop 1 }).slotUsed
              c p n false)
        else if !dec && decide ((s.core c).seq.sched - (a.now - n) < r.due) then .next (s.slotUsed c p n false)
        else
          match issueFmt w with
          | none => .next (s.failCmd c r.task 0x0601 p.val)
          | some o =>
            let mark := bit w 88 && r.next = 0 && !r.marked
            if mark && !s.markerAt c p n then .next (s.holdMarker c p n)
            else if !mark && !(q.active || s.markPending c p) then .next (s.failCmd c r.task 0x0104 p.val)
            else
              let st := (s.setHdr c p (if mark then !s.nextSet c p else s.nextSet c p)).op
              if (st.isFloat || o.isFloat) && st.fmt ≠ o.fmt then .next (s.failCmd c r.task 0x0104 p.val)
              else if (s.bank c p (fin2 (fld w 76 76))).st ≠ .opened then
                .next (if mark then s.markBubble c p n r else s.slotUsed c p n false)
              else .next (s.issueVector c p n r o mark)

/-- An engine whose token has waited for a full token queue to its limit: the token is given up and its task ends
(R158). -/
def State.tokenLimit (s : State) (c : Fin 8) (fill : Bool) : State :=
  let due (t : Tok) : Bool := t.fill = fill && decide (t.start + t.limit ≤ s.cycle c)
  match (s.core c).mov.tokWait.find? due with
  | none => s
  | some t =>
    if !s.coreRuns c then s
    else
      (s.modMov c fun m => { m with tokWait := removeFirst due m.tokWait }).softFault (fin8 t.core) t.task 0x0311 (BitVec.ofNat 32 t.slot)

/-- SLOT_WAIT_LIMIT: a wait ungranted in cycle w + N ends (R122, R123): SLOT_UNDERFILL for an acquisition, SLOT_OVERFILL
for a claim, a counted refusal for a claim from outside; no buffer, pointer or count changes. Past the list of waits, `i`
names the partitions, whose marker may be held for an empty tile buffer (R44, R125). -/
def execSlotWaitLimit (c : Fin 8) (i : Nat) (s : State) : Outcome State Fault Refusal :=
  match (s.core c).scr.waits[i]? with
  | none =>
    let p := i - (s.core c).scr.waits.length
    if 4 ≤ p then .next (s.tokenLimit c (p = 4))
    else
      match s.partTask c (fin4 p) with
      | some t => if s.coreRuns c && s.tileStarved c (fin4 p) then .next (s.failCmd c t.key 0x0310 p) else .next s
      | none => .next s
  | some w =>
    if !s.coreRuns c || decide (s.cycle c < w.start + w.limit) then .next s
    else
      let s1 := s.dropWait c i
      if w.acq then .next (s1.refuseRequest c w.slot w.epoch w.rq w.task 0x0310)
      else
        let s2 := if outside c w.rq then
            s1.modScr c fun x => { x with claimRefused := satAdd 32 x.claimRefused 1 } else s1
        .next (s2.refuseRequest c w.slot w.epoch w.rq w.task 0x0311)


/-! ### What holds a schedule cycle (R111) -/

/-- Operations of VEC with two sources (R174). -/
def vecTwo (vop : Nat) : Bool := vop = 0 || vop = 1 || vop = 2 || vop = 6

/-- The slots a command takes as it issues, with its flags set: acquisitions, then claims (R168). -/
def cmdSlots (w : BitVec 128) : List (Nat × Bool) :=
  let when_ (b : Bool) (l : List (Nat × Bool)) : List (Nat × Bool) := if b then l else []
  let op := cmdOp w
  if op = 0x05 then when_ (bit w 111) [(fld w 41 32, true)]
  else if op = 0x0D then when_ (bit w 110) [(fld w 41 32, true)]
  else if op = 0x15 then
    when_ (bit w 116) ((fld w 47 38, true) :: when_ (vecTwo (fld w 37 32)) [(fld w 57 48, true)])
      ++ when_ (bit w 118) [(fld w 67 58, false)]
  else if op = 0x06 then
    when_ (bit w 120) [(fld w 41 32, true), (fld w 51 42, true), (fld w 61 52, true)]
      ++ when_ (bit w 122) [(fld w 51 42 + 1, false), (fld w 61 52 + 1, false), (fld w 71 62, false)]
  else []

/-- A slot a due command would take: its wait begins, or stands already, and the command goes no further; or the trial goes on with
the buffer granted (R121). -/
def State.seekSlot (key : Nat) (c : Fin 8) (r : Bool × State) (x : Nat × Bool) : Bool × State :=
  match r.1, r.2.findTask c key with
  | true, some t =>
    match r.2.commandBuf c t x.1 x.2 true false with
    | (.waits, s1) => (false, s1)
    | (_, s1) => (true, s1)
  | _, _ => r

/-- A LOAD begins to wait for a half of its tile buffer (R41). -/
def State.holdLoad (s : State) (c : Fin 8) (p : Fin 4) : State :=
  s.modPart c p fun q => { q with
    loadWait := if q.loadWait.isSome then q.loadWait else some (s.cycle c, (s.core c).scr.slotLimit.toNat) }

/-- A marked vector is due whose marker must be held (R44). -/
def State.markDue (s : State) (c : Fin 8) (p : Fin 4) : Bool :=
  match (s.part c p).runs with
  | r :: _ => !r.gap && bit r.word 88 && r.next = 0 && !r.marked && decide (r.due ≤ (s.core c).seq.sched)
      && !s.markerAllowed c p
  | [] => false

/-- The converter half is free for a bank: none converts there, and no bank that closed earlier waits there. -/
def State.converterFree (s : State) (c : Fin 8) (p : Fin 4) (b : Fin 2) : Bool :=
  let m := (s.core c).arr.mode
  let mine := s.bank c p b
  allParts.all fun q => allHalves.all fun x =>
    let k := s.bank c q x
    !(m.sameConverter p.val q.val) || (q = p && x = b) ||
      (k.st ≠ .converting && !(k.st = .closed && decide (k.closeSeq < mine.closeSeq)))

/-- A closed bank's conversion is due: one pass latency after its last vector issued, that vector added, and the converter half
free (R46, R49, R58). -/
def State.convertDue (s : State) (c : Fin 8) (p : Fin 4) (b : Fin 2) : Bool :=
  let a := (s.core c).arr
  let k := s.bank c p b
  k.st = .closed && decide (k.closeCycle + passLatency a.mode ≤ a.now)
    && !(a.flights.any fun f => f.part = p.val && f.bank = b.val && !f.filler && !f.bubble) && s.converterFree c p b

/-- The width of a bank's output record in rows. -/
def State.recordRows (s : State) (c : Fin 8) (p : Fin 4) (b : Fin 2) : Nat :=
  let k := s.bank c p b
  let m := (s.core c).arr.mode
  let pol := policyOf (match s.tensor (fld k.word 89 78) with | some x => x.policy | none => 0)
  let f := pol.fmt.getD .fp32
  rowsUp (recBytes f f.planes (if k.transposed then m.rows else m.cols)) / 512

/-- The extent of a bank's output in its buffer, records and scale array, lies in the scratchpad (R99, R496). -/
def State.outputFits (s : State) (c : Fin 8) (p : Fin 4) (b : Fin 2) (buf : Nat) : Bool :=
  let k := s.bank c p b
  let m := (s.core c).arr.mode
  let pol := policyOf (match s.tensor (fld k.word 89 78) with | some x => x.policy | none => 0)
  let l := if k.transposed then m.rows else m.cols
  let scales := match pol.fmt with
    | some f => if f.isBlock then rowsUp (k.n * (l / 32)) else 0
    | none => 0
  (s.scrExtent c (fld k.word 99 90) buf (fld k.word 123 100) (k.n * s.recordRows c p b * 512 + scales)).isSome

/-- The claim a bank's conversion makes of its destination slot: one that a wait of its own already stands for makes none. -/
def State.bankWait (s : State) (c : Fin 8) (p : Fin 4) (b : Fin 2) : Option (Task × SlotWait) :=
  let k := s.bank c p b
  let slot := fld k.word 99 90
  if k.buf.isSome || !bit k.word 124 || (s.core c).scr.waits.any (fun w => w.rq = .bank p.val b.val) then none
  else
    match s.findTask c k.task with
    | none => none
    | some t =>
      if (t.inherited slot false).isSome then none
      else some (t, {
        acq := false, slot := slot, rq := .bank p.val b.val, epoch := t.epoch, task := k.task, sched := !s.taskDecoupled c t })

/-- A due bank's claim of its destination slot: one that cannot be granted begins to wait (R49, R121). -/
def State.seekBank (s : State) (c : Fin 8) (p : Fin 4) (b : Fin 2) : State :=
  match (if s.convertDue c p b && (s.bank c p b).lastChunk.isSome then s.bankWait c p b else none) with
  | none => s
  | some (_, w) =>
    if !w.sched then s
    else
      match s.ask c w with
      | (.waits, s1) => s1.addWait c w
      | (.granted _, s1) => s1
      | _ => s

/-- A command of the trial issues: its holds are its own, a LOAD fills a half of its tile buffer, an UPDATE joins the queue. -/
def State.seekIssue (s : State) (c : Fin 8) (t : Task) (e i : Nat) (w : BitVec 128) : State :=
  let uses := cmdSlots w
  let s1 := ((s.modTask c t.key fun t => t.issued e i).consumeHolds c t.key true ((uses.filter (·.2)).map (·.1))).consumeHolds
    c t.key false ((uses.filter fun x => !x.2).map (·.1))
  match t.part with
  | some p => if cmdOp w = 0x05 then s1.pushTile c p { part := p.val, task := t.key, slot := fld w 41 32 } else s1
  | none => s1

/-- The causes among the due commands of an engine of a scheduled task, in order up to the first that waits. -/
def State.seekEngine (s : State) (c : Fin 8) (key e : Nat) : Nat → State
  | 0 => s
  | n + 1 =>
    match s.findTask c key with
    | none => s
    | some t =>
      match s.nextCmd c t e with
      | none => s
      | some (i, w) =>
        let full := match t.part with | some p => cmdOp w = 0x05 && s.bufferFull c p | none => false
        if full then (match t.part with | some p => s.holdLoad c p | none => s)
        else if cmdOp w = 0x06 then
          if (s.core c).seq.updQ = [] then
            ((s.seekIssue c t e i w).modSeq c fun q => { q with updQ := [{ task := key, word := w }] })
          else s
        else
          let r := (cmdSlots w).foldl (State.seekSlot key c) (true, s)
          if r.1 then (r.2.seekIssue c t e i w).seekEngine c key e n else r.2

/-- The causes found among a scheduled task's due commands. -/
def State.seekTask (s : State) (c : Fin 8) (t : Task) : State :=
  if s.taskDecoupled c t then s
  else [0, 1, 2].foldl (fun (s : State) e => s.seekEngine c t.key e (s.cmdsOf t).length) s

/-- The cause found at the head of the update queue. -/
def State.seekUpdate (s : State) (c : Fin 8) : State :=
  match (s.core c).seq.updQ with
  | u :: _ =>
    (match s.findTask c u.task with
      | some t => if s.taskDecoupled c t then s else ((cmdSlots u.word).foldl (State.seekSlot u.task c) (true, s)).2
      | none => s)
  | [] => s

/-- The stall causes of the schedule cycle now due, found before any of its actions issues: the cycle is held whole (R111). The
actions are tried in turn on a copy of the core, so that each meets the slots and buffers as those before it leave them; what stays
of the trial is the waits that began. -/
def State.seekCauses (s : State) (c : Fin 8) : State :=
  if !s.scheduled c then s
  else
    let s0 := s.modScr c fun x => { x with fixStall := s.heldStuck c }
    let s1 := allParts.foldl (fun s p => allHalves.foldl (fun s b => s.seekBank c p b) s) s0
    let s2 := ((s.core c).seq.tasks.foldl (fun s t => s.seekTask c t) s1).seekUpdate c
    let s3 := allParts.foldl (fun (s : State) p => s.modPart c p fun q => { q with loadWait := (s2.part c p).loadWait })
      (s0.modScr c fun x => { x with waits := (s2.core c).scr.waits })
    allParts.foldl (fun (s : State) p =>
      if s.partScheduled c p && s.markDue c p then
        s.modPart c p fun q => { q with
          markWait := if q.markWait.isSome then q.markWait else some (s.cycle c, (s.core c).scr.slotLimit.toNat) }
      else s) s3

/-- SCR_READ_RETURN: a row read at a port returns its data, corrected inline (R103, R104, R106); a row that cannot be
corrected returns nothing and ends the reading task (R107). Ports 3 to 6 only write, and neither a port nor a bank makes two
accesses a cycle (R100). Every engine's read is held while a stall holds the read-data stages, the movement engine's is not (R112). -/
def execScrReadReturn (c : Fin 8) (port : Fin 12) (row : Nat) (task : Option Nat) (flips : List (Nat × BitVec 39))
    (s : State) : Outcome State Fault Refusal :=
  if !s.coreRuns c || decide (scrRows ≤ row) || decide (3 ≤ port.val ∧ port.val ≤ 6) || !s.rowsFree c row 1 port.val
      || (s.queuesHeld c && decide (port.val < 10)) then .next s
  else
    match ((s.scrUpset c row flips).useBank c row port.val).scrReadRow c row with
    | (true, s1) =>
      .next (s1.modScr c fun x => { x with portData := tabSet [] x.portData port.val (s1.scrBytes c (row * 512) 512) })
    | (false, s1) =>
      match task with
      | some k => .next (s1.softFault c k 0x0201 (BitVec.ofNat 32 row))
      | none => .next (s1.raise 0x0201 (unit := c.val) (detail := BitVec.ofNat 32 row))

/-! ### Hard faults (R29, R30, R61 to R64) -/

/-- The quadrants a hard fault marks: its cell's, or both of its column half when the row is unknown (R63). -/
def quadMask (row : Option Nat) (col : Nat) : BitVec 4 :=
  let e := if 256 ≤ col then 1 else 0
  match row with
  | some r => 1#4 <<< ((if 256 ≤ r then 2 else 0) + e)
  | none => (1#4 <<< e) ||| (1#4 <<< (2 + e))

/-- A hard fault (R63, R64): the soft fault's effects, the suspect bits, and the observation window. -/
def State.hardFault (s : State) (c : Fin 8) (p : Fin 4) (code : BitVec 16) (row : Option Nat) (col : Nat) : State :=
  let detail := BitVec.ofNat 32 (match row with | some r => r * 512 + col | none => 2 ^ 18 + col)
  let s1 := match s.partTask c p with
    | some t => s.softFault c t.key code detail
    | none => (s.raise code (unit := c.val) (detail := detail)).partitionFault c p code
  let s2 := s1.modArr c fun a => { a with suspect := a.suspect ||| quadMask row col }
  let a := (s2.core c).arr
  match a.hardFirst with
  | some t0 =>
    if s2.tick < t0 + a.hardW * 1000000 then s2.fenceCore c 0x0120
    else s2.modArr c fun a => { a with hardFirst := some s2.tick, hardW := a.hardWindow.toNat }
  | none => s2.modArr c fun a => { a with hardFirst := some s2.tick, hardW := a.hardWindow.toNat }

/-- The logical line of a physical line in the data path; a spare out of use and a pass-through line have none (R51). -/
def logicalOf (t : Tab (BitVec 8)) (line : Nat) : Option Nat :=
  let g := line / 65
  let o := line % 65
  let b := tabGet 0 t g
  let i := g * 64 + (if spokeInUse b && decide (spokeLine b < o) then o - 1 else o)
  if o = 64 && !spokeInUse b then none else if lineOf t i = line then some i else none

/-- The first register of a partition's set that fails its parity check, as a logical cell (R29), but for rows of the partition
that are left out. -/
def Arr.badCell (a : Arr) (p : Nat) (setB : Bool) (skip : Nat → Bool := fun _ => false) : Option (Nat × Nat) :=
  (if setB then a.statB else a.statA).findSome? fun x =>
    match logicalOf a.spokeRow (x.1 / 520), logicalOf a.spokeCol (x.1 % 520) with
    | some r, some j =>
      if parityBad x.2 && decide (a.mode.row0 p ≤ r ∧ r < a.mode.row0 p + a.mode.rows) && !skip (r - a.mode.row0 p)
          && decide (a.mode.col0 p ≤ j ∧ j < a.mode.col0 p + a.mode.cols) then some (r, j) else none
    | _, _ => none

/-- The tile a partition's loader is writing into a set. -/
def Arr.tileInto (a : Arr) (p : Nat) (setB : Bool) : Option BufTile :=
  (a.tileBuf.get (a.mode.loader p)).find? fun t => t.part = p && t.loading && t.toB = setB

/-- The loader has yet to write a row of its tile (R41). -/
def Arr.rowToCome (a : Arr) (t : BufTile) (r : Nat) : Bool := decide (a.now ≤ t.startCycle + a.rowPos t.part r)

/-- The first cell whose register fails its parity check as the cell swaps it in (R29): a row the loader is still to write is
swapped in with what it writes there, since the marker follows the loader (R43). -/
def Arr.badSwap (a : Arr) (p : Nat) (setB : Bool) : Option (Nat × Nat) :=
  match a.tileInto p setB with
  | none => a.badCell p setB
  | some t =>
    match a.badCell p setB (a.rowToCome t) with
    | some x => some x
    | none => (t.regs.find? fun x => parityBad x.2 && a.rowToCome t (x.1 / 512)).map fun x =>
        (a.mode.row0 p + x.1 / 512, a.mode.col0 p + x.1 % 512)

/-- An upset flips a data bit of a stationary register, in the cell or still with the loader: its parity no longer fits (R29). -/
def State.strikeReg (s : State) (c : Fin 8) (p : Fin 4) (setB : Bool) (row col : Nat) : State :=
  s.modArr c fun a =>
    let coming := match a.tileInto p.val setB with
      | some t => a.rowToCome t (row - a.mode.row0 p.val)
      | none => false
    if coming then
      { a with tileBuf := a.tileBuf.set (a.mode.loader p.val) ((a.tileBuf.get (a.mode.loader p.val)).map fun t =>
        if t.part = p.val && t.loading && t.toB = setB then
          { t with regs := tabMod 0 t.regs ((row - a.mode.row0 p.val) * 512 + (col - a.mode.col0 p.val)) (· ^^^ 1) } else t) }
    else if setB then { a with statB := tabMod 0 a.statB (a.cellKey row col) (· ^^^ 1) }
    else { a with statA := tabMod 0 a.statA (a.cellKey row col) (· ^^^ 1) }

/-- MARKER_SWAP: three cycles after its issue the marker enters position (0, 0): the set selectors invert and the header
switches (R42, R43), each cell's own selector as the marker passes it; the registers of the set swapped in are checked, and
one whose parity does not fit is a hard fault (R29). `upset` strikes one of them. -/
def execMarkerSwap (c : Fin 8) (p : Fin 4) (upset : Option Nat) (s : State) : Outcome State Fault Refusal :=
  let a := (s.core c).arr
  match a.flights.find? fun f => f.part = p.val && f.marker && !f.swapped with
  | none => .next s
  | some f =>
    if !s.coreRuns c || !s.arrayRuns c || decide (a.now < f.issueCycle + 3) then .next s
    else
      let s0 := match upset with
        | some cell => s.strikeReg c p f.setB (cell / 512 % 512) (cell % 512)
        | none => s
      let s1 := (s0.modArr c fun a => { a with
          flights := replaceFirst (fun x => x.part = p.val && x.marker && !x.swapped) (fun x => { x with swapped := true })
            a.flights
          swaps := satAdd 64 a.swaps 1 }).modPart c p fun q =>
        { q with selB := !q.selB, active := !f.discard, shadowNew := false, lastEntry := some (f.issueCycle + 3)
                 marks := ((f.issueCycle + 3) :: q.marks).take 4 }
      match (s0.core c).arr.badSwap p.val f.setB with
      | some x => .next (s1.hardFault c p 0x0110 (some x.1) x.2)
      | none => .next s1

/-! ### Outputs (R45 to R48, R82 to R86) -/

/-- The bank's anchor for a pass: as latched, or selected by its first pass (R47, R81). -/
def Bank.passAnchor (b : Bank) (st inp : OpFmt) : Int :=
  match b.anchor with
  | some x => x
  | none => autoAnchor st.uMax inp.uMax b.xw.toNat b.xi.toNat

/-- The pass's chunk fits the entry (R48). -/
def chunkOk (h : TileHdr) (e : AccEntry) : Bool :=
  (h.chunk = 0 && h.first) ||
    match e.chunk with
    | some k => h.chunk.toNat = k.toNat + 1
    | none => false

/-- The outputs of one vector applied to its bank's entries: none when a pass is out of chunk order, else the new
entries, the underflows, and whether a trap was met. -/
structure PassOut where
  entries : Tab AccEntry
  under : Nat := 0
  nf : Bool := false
  sat : Bool := false
  order : Bool := false
  deriving DecidableEq, Repr

/-- One output lane of a vector. DESIGN CHOICE (log entry 54, unsafe): the spec does not say what a bank holds whose passes
mix BF16 or FP16 chunks with fixed-point ones; an entry keeps a mark of the path that wrote it last, and an FP32 chunk is added
into the low 32 bits. -/
def passLane (h : TileHdr) (float : Bool) (anchor : Int) (pol : Policy) (key : Nat) (pairs : List (Val × Val))
    (x : PassOut) : PassOut :=
  let e := tabGet {} x.entries key
  if !chunkOk h e then { x with order := true }
  else
    let e0 : AccEntry := if h.first then {} else e
    let r := if float then applyFloat h.first pol.nfTrap e0 pairs
      else applyPass anchor pol.nfTrap pol.satTrap e0 pairs
    { x with
      entries := tabSet {} x.entries key { r.e with chunk := some h.chunk }
      under := x.under + r.under, nf := x.nf || r.nf, sat := x.sat || r.sat }

/-- What the checks of a vector find (R29, R30): the parity of the registers it met, a filler's and a discarded vector's
included, or the residue of a column's partial sum at the drain; in a partition whose active set is empty a filler meets zeros
(R388). `upset` strikes a register or a partial sum: the residue
carried beside the sum and the residue of the sum differ in that column. A bubble has no valid product and is not checked. -/
def State.vectorFault (s : State) (c : Fin 8) (p : Fin 4) (f : Flight) (upset : Option CellUpset) :
    Option (BitVec 16 × Option Nat × Nat) :=
  let a := (s.core c).arr
  let struck (u : CellUpset) : BitVec 17 :=
    let w := match f.met with
      | some m => tabGet 0 m.2 ((u.row - a.mode.row0 p.val) * 512 + (u.col - a.mode.col0 p.val))
      | none => s.setReg c p f.setB (u.row - a.mode.row0 p.val) (u.col - a.mode.col0 p.val)
    w ^^^ 1
  if f.bubble || (f.filler && !(s.part c p).active) then none
  else
    match upset with
    | some u =>
      if !u.parity then some (0x0111, none, u.col)
      else if parityBad (struck u) then some (0x0110, some u.row, u.col) else none
    | none =>
      match f.met with
      | some m => (m.2.find? fun x => parityBad x.2).map fun x =>
          (0x0110, some (a.mode.row0 p.val + x.1 / 512), a.mode.col0 p.val + x.1 % 512)
      | none => (a.badCell p.val f.setB).map fun x => (0x0110, some x.1, x.2)

/-- The header of the tile a vector met in the cells (R42, R43). -/
def State.metHdr (s : State) (c : Fin 8) (p : Fin 4) (f : Flight) : TileHdr :=
  match f.met with
  | some m => m.1
  | none => s.setHdr c p f.setB

/-- A register of the tile a vector met in the cells (R42, R43). -/
def State.metReg (s : State) (c : Fin 8) (p : Fin 4) (f : Flight) (r j : Nat) : BitVec 17 :=
  match f.met with
  | some m => tabGet 0 m.2 (r * 512 + j)
  | none => s.setReg c p f.setB r j

/-- The products of one output of a vector, under the lead scales its bank took as it opened (R37, R45, R82, R241). -/
def State.passPairs (s : State) (c : Fin 8) (p : Fin 4) (f : Flight) (o : Nat) : List (Val × Val) :=
  let bk := s.bank c p (fin2 f.bank)
  flightPairs (s.core c).arr.mode (s.metHdr c p f).op f.op (s.metReg c p f) f bk.wScale bk.iScale o

/-- A vector's products joined to the entries of its bank (R45, R48, R82): every output lane of the pass in turn. -/
def State.drainPass (s : State) (c : Fin 8) (p : Fin 4) (f : Flight) : PassOut :=
  let a := (s.core c).arr
  let bk := s.bank c p (fin2 f.bank)
  let hdr := s.metHdr c p f
  let ten := s.tensor (fld bk.word 89 78)
  let pol := policyOf (match ten with | some x => x.policy | none => 0)
  let outs := if f.transposed then a.mode.rows else a.mode.cols
  foldUpTo outs (fun o x =>
    passLane hdr hdr.op.isFloat (bk.passAnchor hdr.op f.op) pol (poolKey a.mode p.val f.transposed f.entry o)
      (s.passPairs c p f o) x) { entries := s.poolOf c (fin2 f.bank) }

/-- VECTOR_OUTPUT_ARRIVE: one pass latency after its issue the oldest vector of a partition reaches the drain (R45 to
R50, R82): the checks of R29 and R30 are made, and its products join its entries, or the drain discards it. DESIGN CHOICE (log
entry 54, unsafe): a pass out of chunk order that also meets a trap raises ARR_CHUNK_ORDER; the spec ranks the two traps alone
(R84). -/
def execVectorOutputArrive (c : Fin 8) (p : Fin 4) (upset : Option CellUpset) (s : State) :
    Outcome State Fault Refusal :=
  let a := (s.core c).arr
  match a.flights.find? fun f => f.part = p.val with
  | none => .next s
  | some f =>
    if !s.coreRuns c || !s.arrayRuns c || decide (a.now < f.issueCycle + passLatency a.mode)
        || (f.marker && !f.swapped) then .next s
    else
      let s1 := s.modArr c fun a => { a with flights := removeFirst (fun f => f.part = p.val) a.flights }
      let b := fin2 f.bank
      let bk := s1.bank c p b
      match s.vectorFault c p f upset with
      | some u => .next (s1.hardFault c p u.1 u.2.1 u.2.2)
      | none =>
        if f.discard || f.filler || f.bubble || bk.st = .empty then .next s1
        else
          let hdr := s1.metHdr c p f
          let x := s1.drainPass c p f
          let late := match bk.lastChunk with
            | some k => decide (k.toNat < hdr.chunk.toNat)
            | none => false
          if x.order || late then .next (s1.failCmd c f.task 0x0103 p.val)
          else if x.nf then .next (s1.failCmd c f.task 0x0101 p.val)
          else if x.sat then .next (s1.failCmd c f.task 0x0102 p.val)
          else
            .next ((s1.modArr c fun a => { a with pool := a.pool.set b x.entries }).modBank c p b fun k => { k with
              underflow := k.underflow + x.under
              anchor := if hdr.op.isFloat then k.anchor else some (k.passAnchor hdr.op f.op)
              lastChunk := if k.lastChunk.isNone && hdr.last then some hdr.chunk else k.lastChunk })

/-! ### Conversion (R46, R49, R58) -/

/-- BANK_CONVERT_BEGIN: a CLOSED bank starts converting one pass latency after its last vector issued, in order of
closing, once its destination buffer is claimed (R46, R48, R49, R58); an output whose extent leaves the scratchpad writes
nothing (R99). In scheduled timing a claim that is not granted begins to wait at the start of the next cycle (R111). -/
def execBankConvertBegin (c : Fin 8) (p : Fin 4) (b : Fin 2) (s : State) : Outcome State Fault Refusal :=
  let k := s.bank c p b
  let slot := fld k.word 99 90
  let begin_ (s : State) (buf : Nat) : State :=
    if s.outputFits c p b buf then
      s.modBank c p b fun k => { k with st := .converting, buf := some buf, convCycle := (s.core c).arr.now, conv := 0 }
    else s.failCmd c k.task 0x0204 slot
  if !s.coreRuns c || !s.arrayRuns c || !s.convertDue c p b then .next s
  else if k.lastChunk.isNone then .next (s.failCmd c k.task 0x0103 p.val)
  else
    match k.buf, s.findTask c k.task, s.bankWait c p b with
    | some buf, _, _ => .next (begin_ s buf)
    | none, none, _ => .next s
    | none, some _, some (_, w) =>
      (match s.ask c w with
        | (.granted buf, s1) => .next (begin_ (s1.modTask c k.task fun t => t.hold slot buf false false) buf)
        | (.waits, s1) => .next (if w.sched then s else s1.addWait c w)
        | (.refused e, s1) => .next (s1.failCmd c k.task e slot))
    | none, some t, none =>
      if (s.core c).scr.waits.any (fun w => w.rq = .bank p.val b.val) then .next s
      else if !bit k.word 124 then
        match t.held slot false with
        | some h => .next (begin_ s h.buf)
        | none => .next (s.failCmd c k.task 0x0312 slot)
      else
        match t.inherited slot false with
        | some h => .next (begin_ (s.consumeHolds c k.task false [slot]) h.buf)
        | none => .next s

/-- The lanes of an entry of a bank, in lane order. -/
def State.entryAt (s : State) (c : Fin 8) (p : Fin 4) (b : Fin 2) (e : Nat) : List AccEntry :=
  let m := (s.core c).arr.mode
  let k := s.bank c p b
  (List.range (if k.transposed then m.rows else m.cols)).map fun o =>
    tabGet {} (s.poolOf c b) (poolKey m p.val k.transposed e o)

/-- An entry's chunk records are the last chunk's (R48). -/
def State.entryGood (s : State) (c : Fin 8) (p : Fin 4) (b : Fin 2) (e : Nat) : Bool :=
  (s.entryAt c p b e).all fun x => x.chunk = (s.bank c p b).lastChunk

/-- An entry in its output format, elements and scales, and the gauge's counts with it. -/
def State.convertRow (s : State) (c : Fin 8) (p : Fin 4) (b : Fin 2) (e : Nat) :
    (List (BitVec 8) × List (BitVec 8)) × GaugeAcc :=
  let k := s.bank c p b
  let id := fld k.word 89 78
  let ten := s.tensor id
  let pol := policyOf (match ten with | some x => x.policy | none => 0)
  let lead := match ten with | some x => x.lead | none => 0
  let f := pol.fmt.getD .fp32
  let r := s.scaleRec c id
  let centre := scaleCentre r
  let cand (g : Fmt) (bias : Int) : Nat :=
    if pol.fmt = some g then scaleT r else clampTo 0 254 (centre + bias + leadHeadroom lead).toNat
  let w : WhatIf := ⟨cand .e4m3 119, cand .e5m2 112⟩
  let lanes := (s.entryAt c p b e).map fun x => x.resolve (k.anchor.getD 0)
  let row := drainRow f pol.nonfinite k.xo.toNat lanes
  (drainBytes f row, gaugeRow centre (k.anchor.getD 0) w pol.nonfinite k.gauge lanes row)

/-- Bytes padded with 0 to whole rows (R496). -/
def padRow (bs : List (BitVec 8)) : List (BitVec 8) := bs ++ List.replicate (rowsUp bs.length - bs.length) 0

/-- The first port a converter half writes on: ports 3 to 6 serve the whole converter, two of them each half (R58, R100). -/
def convPort (m : PartMode) (p : Nat) : Nat := if m ≠ .full ∧ p % 2 = 1 then 5 else 3

/-- One entry of a CONVERTING bank leaves the converter, at one entry an array cycle (R48, R49, R496): an entry whose record is
not the last chunk's stops the bank; otherwise its record is written from row DST_ROW + e × w, and the gauge counts it. The
rows are accesses of one cycle on ports 3 to 6; a decoupled converter tries again in the next cycle where another user holds
one of their banks (R100, R101, R102). -/
def State.convertEntry (s : State) (c : Fin 8) (p : Fin 4) (b : Fin 2) : State :=
  let k := s.bank c p b
  match k.buf with
  | none => s
  | some buf =>
    if k.st ≠ .converting || decide (k.n ≤ k.conv) then s
    else if !s.entryGood c p b k.conv then s.failCmd c k.task 0x0103 p.val
    else
      let r := s.convertRow c p b k.conv
      let w := s.recordRows c p b
      match s.scrExtent c (fld k.word 99 90) buf (fld k.word 123 100 + k.conv * w) (w * 512) with
      | none => s.failCmd c k.task 0x0204 (fld k.word 99 90)
      | some at_ =>
        let rows := (List.range w).map fun i => (at_ / 512 + i, 1, convPort (s.core c).arr.mode p.val + i)
        if !s.keyScheduled c k.task && !(rows.all fun x => s.rowsFree c x.1 1 x.2.2) then s
        else
          match s.takeAll c k.task 0 rows with
          | (false, s0) => s0
          | (true, s0) =>
            (s0.scrWrite c at_ (padRow r.1.1)).modBank c p b fun k => { k with
              conv := k.conv + 1, gauge := r.2, scales := k.scales ++ r.1.2 }

/-- The converters' work of one array cycle. -/
def State.convertCycle (s : State) (c : Fin 8) : State :=
  allParts.foldl (fun s p => allHalves.foldl (fun s b =>
    if (s.bank c p b).st = .converting && decide ((s.bank c p b).convCycle + (s.bank c p b).conv < (s.core c).arr.now) then
      s.convertEntry c p b else s) s) s

/-- BANK_CONVERT_END: every entry has been written to the destination buffer; the scale array follows the records, the gauge's
counts leave, the fill token is set, and the bank returns to EMPTY (R46, R49, R239, R496). -/
def execBankConvertEnd (c : Fin 8) (p : Fin 4) (b : Fin 2) (s : State) : Outcome State Fault Refusal :=
  let k := s.bank c p b
  match k.buf with
  | none => .next s
  | some buf =>
    if !s.coreRuns c || !s.arrayRuns c || k.st ≠ .converting || decide (k.conv < k.n) then .next s
    else
      let slot := fld k.word 99 90
      let scales := padRow k.scales
      match s.scrExtent c slot buf (fld k.word 123 100 + k.n * s.recordRows c p b) scales.length with
      | none => .next (s.failCmd c k.task 0x0204 slot)
      | some at_ =>
        match s.takeAll c k.task 0 [(at_ / 512, rowsOf at_ scales.length, convPort (s.core c).arr.mode p.val)] with
        | (false, s0) => .next s0
        | (true, s0) =>
        let s1 := s0.scrWrite c at_ scales
        let s2 := if k.gauged then s1.gaugeFlush c (fld k.word 89 78) k.gauge k.underflow else s1
        let s3 := s2.modBank c p b fun _ => {}
        if bit k.word 125 then
          match s3.findTask c k.task with
          | some t => .next (s3.postToken c k.task slot buf true t.epoch)
          | none => .next s3
        else .next s3

/-- PARTITION_FREE: one pass latency after a soft fault or a discard the partition may take a new task (R62). -/
def execPartitionFree (c : Fin 8) (p : Fin 4) (s : State) : Outcome State Fault Refusal :=
  let q := s.part c p
  if q.freeAt ≠ 0 && decide (q.freeAt ≤ (s.core c).arr.now) then .next (s.modPart c p fun q => { q with freeAt := 0 })
  else .next s

/-! ### Directed checks and field sparing (R53, R55, R56, R65) -/

/-- Partitions that overlap a quadrant (R57). -/
def quadParts (m : PartMode) (q : Nat) : List (Fin 4) :=
  match m with
  | .full => [0]
  | .half => [fin4 (q % 2)]
  | .quarter => [fin4 q]

/-- The partitions over a quadrant have no task and are free. -/
def State.quadFree (s : State) (c : Fin 8) (q : Nat) : Bool :=
  (quadParts (s.core c).arr.mode q).all fun p => (s.partTask c p).isNone && (s.part c p).freeAt = 0

/-- DIRECTED_CHECK_BEGIN: the sequencer starts the check of a suspect quadrant before its next task (R65). DESIGN CHOICE (log
entry 54, safe): the spec does not say whether the checks of two quadrants of one core may overlap; the model runs one at a
time. -/
def execDirectedCheckBegin (c : Fin 8) (q : Fin 4) (s : State) : Outcome State Fault Refusal :=
  let a := (s.core c).arr
  if s.coreRuns c && bit a.suspect q.val && a.check.isNone && !(a.respare.any fun r => r.2.2 = q.val)
      && s.quadFree c q.val then
    .next (s.modArr c fun a => { a with check := some ⟨q.val, a.now⟩ })
  else .next s

/-- A line already awaits the rewrite: the check of another quadrant has localised it (R65). -/
def Arr.awaits (a : Arr) (col : Bool) (line : Nat) : Bool := a.respare.any fun r => r.1 = col && r.2.1 = line

/-- The spare of a logical line's group can still take it: FREE, promised to no other line, and at most eight
defects in all (R55, R56, R65). -/
def Arr.canSpare (a : Arr) (col : Bool) (line : Nat) : Bool :=
  let g := line / 64
  spokeState (tabGet 0 (if col then a.spokeCol else a.spokeRow) g) = 0
    && !(a.respare.any fun r => r.1 = col && r.2.1 / 64 = g && r.2.1 ≠ line)
    && (a.awaits col line || decide (a.defects + (a.respare.map fun r => (r.1, r.2.1)).eraseDups.length + 1 ≤ 8))

/-- A field-sparing entry: state 0b10 and the line's offset (R53). -/
def fieldByte (line : Nat) : BitVec 8 := BitVec.ofNat 8 (128 + line % 64)

/-- DIRECTED_CHECK_END: 4,096 cycles on, the check passes, localises a line for sparing, or fences the core (R55, R56,
R65). -/
def execDirectedCheckEnd (c : Fin 8) (q : Fin 4) (found : CheckResult) (s : State) : Outcome State Fault Refusal :=
  let a := (s.core c).arr
  match a.check with
  | none => .next s
  | some k =>
    if !s.coreRuns c || k.quad ≠ q.val || decide (a.now < k.start + 4096) then .next s
    else
      let s1 := s.modArr c fun a => { a with check := none }
      match found with
      | .pass => .next (s1.modArr c fun a => { a with suspect := a.suspect &&& ~~~(1#4 <<< q.val) })
      | .line col i =>
        if a.canSpare col i then
          .next ((s1.modArr c fun a => { a with respare := a.respare ++ [(col, i, q.val)] }).modFlash fun f =>
            let key := c.val * 8 + i / 64
            if col then { f with fieldCol := tabSet 0 f.fieldCol key (fieldByte i) }
            else { f with fieldRow := tabSet 0 f.fieldRow key (fieldByte i) })
        else .next (s1.fenceCore c 0x0121 (BitVec.ofNat 32 i))
      | .notLocalised => .next (s1.fenceCore c 0x0122 (BitVec.ofNat 32 q.val))

/-- The whole array is idle (R55): no partition has a task, nothing is in flight, every bank is EMPTY. -/
def State.arrayIdle (s : State) (c : Fin 8) : Bool :=
  (allParts.all fun p => (s.partTask c p).isNone && allHalves.all fun b => (s.bank c p b).st = .empty)
    && (s.core c).arr.flights.all fun f => f.bubble

/-- SPOKE_MAP_REWRITE: at a moment the whole array is idle the rewrite starts (R55). -/
def execSpokeMapRewrite (c : Fin 8) (s : State) : Outcome State Fault Refusal :=
  let a := (s.core c).arr
  if s.coreRuns c && a.respare ≠ [] && a.rewriteAt.isNone && s.arrayIdle c then
    .next (s.modArr c fun a => { a with rewriteAt := some a.now })
  else .next s

/-- SPOKE_MAP_REWRITE_END: 64 cycles on, the lines' spares are in use, both sets of every partition are empty, and the
quadrants' suspect bits are clear (R55, R65). DEDUCED (log entry 54): the rule empties the sets and no more, so complete tiles
that wait in the tile buffer stay, and a load that is running runs to its end (R41) and leaves its set empty. -/
def execSpokeMapRewriteEnd (c : Fin 8) (s : State) : Outcome State Fault Refusal :=
  let a := (s.core c).arr
  match a.rewriteAt with
  | none => .next s
  | some t =>
    if !s.coreRuns c || decide (a.now < t + 64) then .next s
    else
      let put (col : Bool) (t : Tab (BitVec 8)) : Tab (BitVec 8) :=
        (a.respare.filter fun r => r.1 = col).foldl (fun t r => tabSet 0 t (r.2.1 / 64) (fieldByte r.2.1)) t
      let clear := a.respare.foldl (fun (m : BitVec 4) r => m &&& ~~~(1#4 <<< r.2.2)) a.suspect
      let s1 := s.modArr c fun a => { a with
        spokeRow := put false a.spokeRow, spokeCol := put true a.spokeCol, suspect := clear
        respare := [], rewriteAt := none, rewriteHold := false
        tileBuf := a.tileBuf.map fun l => l.map fun t => if t.loading then { t with dropped := true } else t }
      .next (forAllOf allParts (fun p s => s.modPart c p fun q => { q with
        setA := {}, setB := {}, active := false, shadowNew := false, lastEntry := none }) s1)

end Sys2Proof.Machine
end

