-- ==== Sys2Proof/Machine/StackCmds.lean ====
section
/-! DEFINITION. The stack controllers' events (chapter 07): requests, refresh, patrol, remapping, retirement, fences. -/

namespace Sys2Proof.Machine

open Host

/-! ### The ingress and the request slots (R212 to R215) -/

/-- A request lies in 1 to 16 sectors of one 512-byte block, or is one LF48 group (R212). -/
def StkReq.wellFormed (r : StkReq) : Bool :=
  decide (r.cls < 28) && decide (r.addr < 2 ^ 41) &&
    if r.kind = .pannier && (r.pan = 0xD || r.pan = 0xE) then true
    else decide (1 ≤ r.len) && decide (r.addr / 512 = (r.addr + r.len - 1) / 512)

/-- The half a requester's data enters the fabric at: a core's, a port's or the tier cache's; the host interface lies on
the bridge die (R16). -/
def StkReq.half (r : StkReq) : Option (Fin 2) :=
  if r.cls < 8 then some (coreHalf (fin8 r.cls))
  else if r.cls < 26 then some (portHalf (fin18 (r.cls - 8)))
  else if r.cls = 26 then none
  else some (addrHalf r.addr)

/-- Entries of a class in the ingress beyond its 16 reserved ones. -/
def sharedUse (l : List StkReq) : Nat :=
  (List.range 28).foldl (fun n c => n + ((l.filter fun r => r.cls = c).length - 16)) 0

/-- The ingress has room for a class's request to a bank (R212, R213). -/
def ingressRoom (l : List StkReq) (cls bank : Nat) : Bool :=
  decide ((l.filter fun r => r.cls = cls && bankKey r.addr = bank).length < 8) &&
    (decide ((l.filter fun r => r.cls = cls).length < 16) || decide (sharedUse l < 576))

/-- The half whose bridge direction the request's data takes, when it crosses (R18, R21). -/
def State.crossing (s : State) (r : StkReq) : Option (Fin 2) :=
  match r.half, s.servedHalf r.addr with
  | some h, some t => if h = t then none else some (if r.kind = .read then t else h)
  | _, _ => none

/-- The requester is a fenced core, port or half-die (R23). -/
def State.requesterFenced (s : State) (r : StkReq) : Bool :=
  if r.cls < 8 then s.coreFenced (fin8 r.cls)
  else if r.cls < 26 then s.portFenced (fin18 (r.cls - 8)) || s.halfFenced (portHalf (fin18 (r.cls - 8)))
  else r.cls = 27 && s.halfFenced (addrHalf r.addr)

/-- A request before the bridge waits behind an earlier one of its requester to its sectors (R19). -/
def State.heldBefore (s : State) (r : StkReq) : Bool :=
  allHalves.any fun h => (s.half h).bridgeQ.any fun q => q.cls = r.cls && decide (q.id < r.id) && overlaps q r

/-- The order of the next request that waits before the bridge, in either direction. -/
def State.bridgeNext (s : State) : Nat :=
  allHalves.foldl (fun n h => (s.half h).bridgeQ.foldl (fun n q => max n (q.id + 1)) n) 0

/-- A request joins the ingress of its stack (R206, R212). -/
def State.enterIngress (s : State) (r : StkReq) : State :=
  s.modStack (fin32 (stackOf r.addr)) fun y => { y with
    ingress := y.ingress ++ [{ r with id := y.reqCtr, enter := s.tick, promoted := false }]
    reqCtr := y.reqCtr + 1 }

/-- The ingress of a request's stack has room for it (R212, R213). -/
def State.roomFor (s : State) (r : StkReq) : Bool :=
  ingressRoom (s.stack (fin32 (stackOf r.addr))).ingress r.cls (bankKey r.addr)

/-- STACK_REQUEST: a request enters the ingress of the stack its address maps to, or is held at its requester (R206,
R212, R213); traffic beyond the bridge's rate waits in the sending half's fabric (R21); nothing crosses a closed bridge, a fenced
unit makes no request, and a fenced stack takes each for its mirror or a refusal (R23, R24, R226). -/
def execStackRequest (asked : StkReq) (s : State) : Outcome State Fault Refusal :=
  let req := { asked with acted := none }
  let k := fin32 (stackOf req.addr)
  if !req.wellFormed || (s.stack k).st = .training || s.stackHeld k || s.requesterFenced req then .next s
  else
    match s.crossing req with
    | some h =>
      let y := s.half h
      let r := { req with id := s.bridgeNext }
      if !y.bridgeOpen then .next s
      else if y.bridgeQ ≠ [] || decide (4096 < y.bridgeBytes + req.len) || s.heldBefore r then
        .next (s.modHalf h fun y => { y with bridgeQ := y.bridgeQ ++ [r] })
      else if s.roomFor req then
        .next ((s.modHalf h fun y => { y with bridgeBytes := y.bridgeBytes + req.len }).enterIngress req)
      else .next s
    | none =>
      if s.roomFor req && !s.heldBefore { req with id := s.bridgeNext } then .next (s.enterIngress req) else .next s

/-- Requests backed up before the bridge cross it in order, as far as the cycle's bytes and the ingress allow; none passes an
earlier one of its requester to its sectors (R19, R21, R213). -/
def State.bridgePass (s : State) (h : Fin 2) : State :=
  let step (x : State × List StkReq) (r : StkReq) : State × List StkReq :=
    let y := x.1.half h
    if decide (y.bridgeBytes + r.len ≤ 4096) && x.1.roomFor r && !x.1.heldBefore r then
      (((x.1.modHalf h fun y => { y with
          bridgeBytes := y.bridgeBytes + r.len, bridgeQ := y.bridgeQ.filter fun q => q.id ≠ r.id })).enterIngress r, x.2)
    else (x.1, x.2 ++ [r])
  let r := (s.half h).bridgeQ.foldl step (s, [])
  r.1.modHalf h fun y => { y with bridgeQ := r.2 }

/-- One fabric cycle of a direction of the bridge (R21): 4,096 bytes leave, what waits is counted as a stall, and what was backed
up follows. Once the bridge is closed, what waited reaches its stack's refusal or mirror without crossing (R24). -/
def State.bridgeCycle (s : State) (h : Fin 2) : State :=
  let x := s.half h
  if x.bridgeOpen then
    (s.modHalf h fun y => { y with
      bridgeStall := satAdd 64 y.bridgeStall (b2n (y.bridgeQ ≠ [] || decide (4096 < y.bridgeBytes)))
      bridgeBytes := y.bridgeBytes - 4096 }).bridgePass h
  else
    x.bridgeQ.foldl (fun (s : State) r => s.enterIngress r) (s.modHalf h fun y => { y with bridgeQ := [], bridgeBytes := 0 })

/-- A request may take a slot: its bank is below Q and no bank of its sectors owes a forced refresh (R214, R217). -/
def Stack.admissible (x : Stack) (r : StkReq) : Bool :=
  decide (x.bankUse (bankKey r.addr) < x.quota.toNat) && r.sectors.all fun q => decide (tabGet 0 x.owed (bankKey (q * 32)) < 8)

/-- What a refused request's requester learns (R223): its task ends in its own core; the host gets an
unsupported-request completion. -/
def State.refuseRequester (s : State) (r : StkReq) (code : BitVec 16) : State :=
  match r.task with
  | some t => s.refuseTask (fin8 t.1) t.2 code
  | none => if r.cls = 26 then s.modHost fun h => { h with lastUr := true } else s

/-- A request that has acted is complete: its data, or its refusal, reaches its requester; data read for a unit fenced since is discarded
(R23). -/
def State.endRequest (s : State) (k : Fin 32) (r : StkReq) : ReqAct → State
  | .data bs => if s.requesterFenced r then s else s.modStack k fun x => { x with lastData := bs }
  | .done => s
  | .refused c => s.refuseRequester r c

/-- A request is served: it acts, unless it has acted already because a later access to its sectors found it waiting (R19, R215). -/
def State.serveRequest (s : State) (k : Fin 32) (r : StkReq) (upset : Option SectorUpset) : State :=
  match r.acted with
  | some x => s.endRequest k r x
  | none =>
    let x := s.actRequest r upset
    x.2.endRequest k r x.1

/-- An admitted request is served, whatever has come over its stack since (R22, R23, R226). -/
def State.serveAdmitted (s : State) (k : Fin 32) (r : StkReq) (upset : Option SectorUpset) : State :=
  (s.completeWith k fun s => ((), s.serveRequest k r upset)).2

/-- No request that entered before waits for one of its sectors: requests to a sector are admitted in order (R19, R215, R232). -/
def Stack.inOrder (x : Stack) (r : StkReq) : Bool := !(x.ingress.any fun q => decide (q.id < r.id) && overlaps q r)

/-- STACK_REQUEST_ADMIT: one request takes a freed slot (R214): the oldest promoted one whose bank is below Q, else the
oldest whose bank is below Q, none before an earlier one to its sectors (R215). A stack whose steward has stopped it admits none
(R22). A fenced stack admits none: each request waiting there is served by its mirror copy or refused (R226), after the admitted ones
to its sectors (R215). -/
def execStackRequestAdmit (k : Fin 32) (s : State) : Outcome State Fault Refusal :=
  let x := s.stack k
  if s.stackHeld k then .next s
  else if s.stackFenced k then
    match x.ingress.find? fun r => x.inOrder r && !(x.slots.any fun q => overlaps q r) with
    | none => .next s
    | some r => .next ((s.modStack k fun y => { y with ingress := y.ingress.filter fun q => q.id ≠ r.id }).serveRequest k r none)
  else
    let best := match x.ingress.find? fun r => r.promoted && x.admissible r && x.inOrder r with
      | some r => some r
      | none => x.ingress.find? fun r => x.admissible r && x.inOrder r
    match best with
    | some r =>
      if x.slots.length < 512 ∧ x.st = .ready ∧ x.stopped = none then
        .next (s.modStack k fun y =>
          let slots := y.slots ++ [r]
          let bank := bankKey r.addr
          let use := (slots.filter fun q => bankKey q.addr = bank).length
          { y with
            ingress := y.ingress.filter fun q => q.id ≠ r.id
            slots := slots
            slotHigh := max y.slotHigh slots.length
            quotaFull := if use = y.quota.toNat then y.fullWord bank s.tick else y.quotaFull })
      else .next s
    | none => .next s

/-- REQUEST_PROMOTE: a request that has waited 2,000 ns since it entered the ingress is promoted (R214). -/
def execRequestPromote (k : Fin 32) (id : Nat) (s : State) : Outcome State Fault Refusal :=
  let x := s.stack k
  let old (r : StkReq) : Bool := r.id = id && !r.promoted && decide (r.enter + 2000 ≤ s.tick)
  if !s.stackHeld k && (x.ingress.any old || x.slots.any old) then
    let up (r : StkReq) : StkReq := if old r then { r with promoted := true } else r
    .next (s.modStack k fun y => { y with
      ingress := y.ingress.map up, slots := y.slots.map up, promotedCt := satAdd 64 y.promotedCt 1 })
  else .next s

/-- The oldest of a list of requests: the one that entered the ingress first (R215). -/
def oldest : List StkReq → Option StkReq
  | [] => none
  | r :: l => some (l.foldl (fun m q => if q.id < m.id then q else m) r)

/-- The request a bank serves next (R215): promoted, oldest first; then the open row; then the oldest. None while a bank of its
sectors owes a forced refresh or is being copied (R217, R220). -/
def Stack.nextOf (x : Stack) (bank : Nat) : Option StkReq :=
  let free (r : StkReq) : Bool := decide (bankKey r.addr = bank) && !(x.slots.any fun q => decide (q.id < r.id) && overlaps q r)
    && !(r.sectors.any fun q => x.copying (bankKey (q * 32)) || decide (8 ≤ tabGet 0 x.owed (bankKey (q * 32))))
  let mine := x.slots.filter free
  match oldest (mine.filter (·.promoted)) with
  | some r => some r
  | none =>
    match oldest (mine.filter fun r => tabGet 0 x.openRow bank = rowOf r.addr + 1) with
    | some r => some r
    | none => oldest mine

/-- A served request gives its slot back; its row stays open. -/
def Stack.served (x : Stack) (r : StkReq) : Stack :=
  { x with
    slots := x.slots.filter fun q => q.id ≠ r.id
    openRow := tabSet 0 x.openRow (bankKey r.addr) (rowOf r.addr + 1) }

/-- STACK_REQUEST_SERVE: a bank serves the request its order puts first (R209, R215, R223, R227). -/
def execStackRequestServe (k : Fin 32) (id : Nat) (upset : Option SectorUpset) (s : State) :
    Outcome State Fault Refusal :=
  let x := s.stack k
  match x.slots.find? fun r => r.id = id with
  | none => .next s
  | some r =>
    if !s.stackHeld k ∧ r.kind ≠ .pannier ∧ (x.nextOf (bankKey r.addr)).map (·.id) = some id then
      .next ((s.modStack k fun y => y.served r).serveAdmitted k r upset)
    else .next s

/-- PANNIER_OP: the adder combines an admitted operation in one act (R230, R232). -/
def execPannierOp (k : Fin 32) (id : Nat) (s : State) : Outcome State Fault Refusal :=
  let x := s.stack k
  match x.slots.find? fun r => r.id = id with
  | none => .next s
  | some r =>
    if !s.stackHeld k ∧ r.kind = .pannier ∧ (x.nextOf (bankKey r.addr)).map (·.id) = some id then
      .next ((s.modStack k fun y => y.served r).serveAdmitted k r none)
    else .next s

/-- BANK_REFRESH: a bank's refresh is done when due, owed while the bank holds admitted requests, pulled in while it is
idle, or forced with 8 owed; it never interrupts a copy, during which one that falls due is owed (R217, R220). A refresh closes the
bank's row. -/
def execBankRefresh (k : Fin 32) (channel bank : Nat) (kind : RefreshKind) (s : State) :
    Outcome State Fault Refusal :=
  let x := s.stack k
  let b := channel * 32 + bank
  let owed := tabGet 0 x.owed b
  let ahead := tabGet 0 x.ahead b
  let postpone (y : Stack) : Stack := { y with owed := tabSet 0 y.owed b (owed + 1) }
  if 16 ≤ channel ∨ 32 ≤ bank ∨ x.selfRefresh ∨ s.stackHeld k then .next s
  else
    match kind with
    | .due =>
      if 0 < ahead then .next (s.modStack k fun y => { y with ahead := tabSet 0 y.ahead b (ahead - 1) })
      else if x.copying b then (if owed < 8 then .next (s.modStack k postpone) else .next s)
      else if x.bankUse b = 0 then .next (s.modStack k fun y => { y with openRow := tabSet 0 y.openRow b 0 })
      else .next s
    | .postponed =>
      if (0 < x.bankUse b ∨ x.copying b) ∧ owed < 8 then .next (s.modStack k postpone)
      else .next s
    | .pulledIn =>
      if x.bankUse b = 0 ∧ !x.copying b ∧ (0 < owed ∨ ahead < 8) then
        .next (s.modStack k fun y => { y with
          owed := tabSet 0 y.owed b (owed - 1)
          ahead := if owed = 0 then tabSet 0 y.ahead b (ahead + 1) else y.ahead
          openRow := tabSet 0 y.openRow b 0 })
      else .next s
    | .forced =>
      if owed = 8 ∧ !x.copying b then
        .next (s.modStack k fun y => { y with
          owed := tabSet 0 y.owed b 7, openRow := tabSet 0 y.openRow b 0 })
      else .next s

/-! ### Patrol (R210) -/

/-- Working sectors of a stack: channel, bank, row and column, in the order of the patrol. -/
def sectorsOfStack : Nat := 16 * 32 * 65536 * 64

/-- PATROL_READ: the patrol checks its next sector (R210): corrected and counted, or poisoned with no task ended; it waits for a
bank that is being copied. A finished sweep takes the interval in force for the next one (R235). -/
def execPatrolRead (k : Fin 32) (upset : Option SectorUpset) (s : State) : Outcome State Fault Refusal :=
  let x := s.stack k
  if x.st ≠ .ready ∨ s.stackHeld k then .next s
  else
    let n := x.patrolPos
    let key := n / 64
    let sec := rowAddr k key (n % 64) / 32
    let s0 := match upset with
      | some u => s.setErrors sec (xorErrors (s.errorsOf sec) u.stored)
      | none => s
    let transit := match upset with
      | some u => u.transit
      | none => []
    let s1 := match s0.decodeRead k sec transit with
      | (true, s1) => s1
      | (false, s1) => s1.poisonSector k sec
    if x.copying (key / 65536) then .next s
    else .next (s1.modStack k fun y =>
      if n + 1 < sectorsOfStack then { y with patrolPos := n + 1 }
      else { y with patrolPos := 0, patrolSweeps := y.patrolSweeps + 1, patrolNow := y.patrol.toNat })

/-! ### Remapping and retirement (R219 to R225) -/

/-- The first waiting row whose bank and channel the remap engine has free. -/
def Stack.nextCopy (x : Stack) : Option Nat :=
  x.copyQ.find? fun key =>
    decide (tabGet 0 x.owed (key / 65536) < 8) &&
      !(x.copies.any fun c => c / 65536 / 32 = key / 65536 / 32)

/-- REMAP_COPY_BEGIN: the copy of the next waiting row begins (R219, R220), at most 16 at once, one per channel; a row
whose bank has no spare left enters RETIRING. -/
def execRemapCopyBegin (k : Fin 32) (s : State) : Outcome State Fault Refusal :=
  let x := s.stack k
  match x.nextCopy with
  | none => .next s
  | some key =>
    if x.st ≠ .ready ∨ s.stackHeld k ∨ 16 ≤ x.copies.length then .next s
    else
      let s1 := s.modStack k fun y => { y with copyQ := y.copyQ.filter fun r => r ≠ key }
      if (x.freeSpare (key / 65536)).isNone then .next (s1.retirePage k key 1)
      else
        .next (s1.modStack k fun y =>
          let z := y.setRow key { y.row key with st := .copying }
          { z with copies := z.copies ++ [key] })

/-- REMAP_COPY_FLIP: the copy ends and the row's pointer switches to its spare in one stack cycle (R219, R220); the
tracker counts the row from 0, and the remap goes to the flash record (R218, R224). -/
def execRemapCopyFlip (k : Fin 32) (key : Nat) (s : State) : Outcome State Fault Refusal :=
  if s.stackHeld k then .next s else .next (s.flipCopy k key)

/-- A RETIRING page becomes RETIRED; another page number is ignored (R222). -/
def State.retireAck (s : State) (k : Fin 32) (page : Nat) : State :=
  if (s.stack k).retiring.any fun y => y.1 = page then
    s.modStack k fun y => { y with
      retiring := y.retiring.filter fun z => z.1 ≠ page
      retired := y.retired ++ [page]
      rows := y.rows.map fun z => if pageOfRow k z.1 = page && z.2.st = .retiring then
        (z.1, { z.2 with st := .retired }) else z }
  else s

/-- STK_INJECT: GO arms one sector error while the debug window is open, and is dropped otherwise (R235). -/
def State.stkArm (s : State) (k : Fin 32) (val : BitVec 64) : State :=
  if s.oz.debugOpen && bit val 63 then
    s.modStack k fun y => { y with inject := some (fld val 40 5 * 32, bit val 41) }
  else s

end Sys2Proof.Machine
end

