-- ==== Sys2Proof/Machine/Extents.lean ====
section
/-! DEFINITION. What a command reads and writes in its buffers, as admission sees it (R99, R244, R245, R496). -/

namespace Sys2Proof.Machine

/-! ### Profiles (R244) -/

/-- An update profile's fields. -/
structure UpdProf where
  opt : Nat
  masterFp32 : Bool
  momBf16 : Bool
  nesterov : Bool
  firstMom : Bool
  gradFp32 : Bool
  wcTensor : Nat
  beta1 : Val
  beta2 : Val
  eps : Val
  wd : Val
  seed : Nat
  lrBase : Nat
  lrLen : Nat
  extOfs : Nat
  mom2Ofs : Nat
  wcOfs : Nat
  wcStride : Nat
  deriving DecidableEq, Repr

def profileOf (w : BitVec 512) : UpdProf where
  opt := fld w 3 0
  masterFp32 := bit w 4
  momBf16 := bit w 5
  nesterov := bit w 6
  firstMom := bit w 7
  gradFp32 := bit w 8
  wcTensor := fld w 20 9
  beta1 := f32 (fld w 63 32)
  beta2 := f32 (fld w 95 64)
  eps := f32 (fld w 127 96)
  wd := f32 (fld w 159 128)
  seed := fld w 255 192
  lrBase := fld w 296 256
  lrLen := fld w 351 320
  extOfs := fld w 383 352
  mom2Ofs := fld w 415 384
  wcOfs := fld w 447 416
  wcStride := fld w 479 448

/-- FACTORED works on whole groups of 16 vectors. -/
def UpdProf.factored (p : UpdProf) : Bool := p.opt = 2
/-- A first moment is kept. -/
def UpdProf.moment1 (p : UpdProf) : Bool := p.opt = 0 || p.opt = 1 || p.firstMom

/-- The formats of the moments and of the gradient. -/
def UpdProf.momFmt (p : UpdProf) : FpFmt := if p.momBf16 then fpBf16 else fpFp32
def UpdProf.gradFmt (p : UpdProf) : FpFmt := if p.gradFp32 then fpFp32 else fpBf16
/-- Bytes of a vector in an array. -/
def UpdProf.momLen (p : UpdProf) : Nat := 64 * p.momFmt.bits
def UpdProf.gradLen (p : UpdProf) : Nat := 64 * p.gradFmt.bits

/-- Bytes a vector takes in the array at row ROW, and in each of the others. -/
def wcLen0 (f : Fmt) : Nat := if f.isBlock then 16 else 64 * f.bits
def wcLenN (f : Fmt) : Nat := if f.isPlaned then 64 else 64 * f.bits
def wcArrays (f : Fmt) : Nat := if f.isPlaned then f.planes else if f.isBlock then 1 else 0
/-! ### The extents of a command (R99) -/

/-- A slot a command uses, the row its extent starts on within the buffer, and the extent's bytes. -/
structure RowUse where
  slot : Nat
  row : Nat
  bytes : Nat
  deriving DecidableEq, Repr

/-- LOAD's tile. -/
def loadUses (m : PartMode) (arg : Nat → Nat) (w : BitVec 128) : List RowUse :=
  match loadFmt w with
  | some o => [⟨fld w 41 32, fld w 65 42 + arg (fld w 110 109), tileElemBytes m o + tileScaleBytes m o⟩]
  | none => []

/-- ISSUE's records and scale array, at the length that a tile not read at 4 bits gives: the tile in force is not known at
admission. -/
def issueUses (m : PartMode) (arg : Nat → Nat) (w : BitVec 128) : List RowUse :=
  match issueFmt w with
  | some o =>
    let n := fld w 75 66 + 1
    let l := if bit w 87 then m.cols else m.rows
    [⟨fld w 41 32, fld w 65 42 + arg (fld w 109 108),
      n * rowsUp (recBytes o.fmt o.stored l) + (if o.fmt.isBlock then n * (l / 32) else 0)⟩]
  | none => []

/-- OPEN's output records and scale array. -/
def ImgCfg.openUses (g : ImgCfg) (m : PartMode) (w : BitVec 128) : List RowUse :=
  match (g.tensor (fld w 89 78)).bind fun x => (policyOf x.policy).fmt with
  | some f =>
    let n := fld w 42 33 + 1
    let l := if bit w 43 then m.rows else m.cols
    [⟨fld w 99 90, fld w 123 100, n * rowsUp (recBytes f f.planes l) + (if f.isBlock then n * (l / 32) else 0)⟩]
  | none => []

/-- Bytes of an element of VEC's operand format, 0 FP32, 1 BF16, 2 FP16. -/
def vecWidth (n : Nat) : Nat := if n = 0 then 4 else 2

/-- VEC's operands and result; SUMSQ (5) writes one vector, and ADD, MUL, AXPY and MAX (0 to 2, 6) have a B. -/
def vecUses (w : BitVec 128) : List RowUse :=
  let vop := fld w 37 32
  let n := (fld w 83 68 + 1) * 512
  let row := fld w 113 90
  [⟨fld w 47 38, row, n * vecWidth (fld w 85 84)⟩,
    ⟨fld w 67 58, row, (if vop = 5 then 512 else n) * vecWidth (fld w 89 88)⟩]
  ++ (if vop < 3 ∨ vop = 6 then [⟨fld w 57 48, row, n * vecWidth (fld w 87 86)⟩] else [])

/-- UPDATE's arrays, at the offsets of its profile (R244, R245). -/
def ImgCfg.updateUses (g : ImgCfg) (w : BitVec 128) : List RowUse :=
  match g.profiles[fld w 117 112]? with
  | none => []
  | some raw =>
    let p := profileOf raw
    let row := fld w 95 72
    let n := fld w 111 96 + 1
    let m2 := if p.factored then n / 16 * 1024 else n * p.momLen
    let master (slot : Nat) : List RowUse :=
      ⟨slot, row, n * 2048⟩ :: (if p.masterFp32 then [] else [⟨slot, row + p.extOfs, n * 1024⟩])
    let moments (slot : Nat) : List RowUse :=
      (if p.moment1 then [⟨slot, row, n * p.momLen⟩] else []) ++ (if p.opt ≠ 0 then [⟨slot, row + p.mom2Ofs, m2⟩] else [])
    let copy : List RowUse :=
      match (g.tensor p.wcTensor).bind fun t => (policyOf t.policy).fmt with
      | some f => ⟨fld w 71 62, row, n * wcLen0 f⟩ :: (List.range (wcArrays f)).map fun i =>
          ⟨fld w 71 62, row + p.wcOfs + i * p.wcStride, n * wcLenN f⟩
      | none => []
    ⟨fld w 41 32, row, n * p.gradLen⟩ :: (master (fld w 51 42) ++ master (fld w 51 42 + 1) ++ moments (fld w 61 52)
      ++ moments (fld w 61 52 + 1) ++ copy)

/-- Every extent a command names. -/
def ImgCfg.cmdUses (g : ImgCfg) (m : PartMode) (arg : Nat → Nat) (w : BitVec 128) : List RowUse :=
  let op := cmdOp w
  if op = 0x05 then loadUses m arg w else if op = 0x0D then issueUses m arg w
  else if op = 0x09 then g.openUses m w else if op = 0x15 then vecUses w else if op = 0x06 then g.updateUses w else []

/-- A command names an extent that runs past the scratchpad in a buffer of its slot: which of them it will be granted is not
known at admission, and a command that might leave the scratchpad is refused there (R99, log entry 70). -/
def ImgCfg.rowBeyond (g : ImgCfg) (core : Nat) (m : PartMode) (arg : Nat → Nat) (w : BitVec 128) : Bool :=
  (g.cmdUses m arg w).any fun u => match g.slotRaw core u.slot with
    | some raw =>
      let e := slotEntOf raw
      !e.home && (List.range e.depth).any fun b => decide (2 ^ 26 < e.bufBase b + u.row * 512 + u.bytes)
    | none => false
def State.rowBeyond (s : State) (c : Fin 8) (t : Task) (w : BitVec 128) : Bool :=
  match s.cfg with
  | some g => g.rowBeyond c.val (s.core c).arr.mode t.arg w
  | none => false

end Sys2Proof.Machine
end

