-- ==== Sys2Proof/Machine/Sequencer.lean ====
section
/-! DEFINITION. The core sequencer: work queues and admission, issue of the control commands, barriers, how tasks
retire, are replayed and are skipped (chapter 06, R162 to R190, R200). -/

namespace Sys2Proof.Machine

open Host

/-! ### What a task still has under way (R183, R186) -/

/-- Descriptors of a task that have not completed: queued, in flight, or written in a group still open. -/
def Mov.busyFor (m : Mov) (key : Nat) : Bool :=
  (m.queue.any fun a => a.task = key) || (m.groupDone.any fun g => g.fl.task = key && !g.stopped && descOwes g.fl.desc)
    || (m.flying.any fun f => match f.2 with | some x => x.task = key | none => false)

/-- Every command of the task that has issued has completed: descriptors, banks, runs, tokens. -/
def State.taskIdle (s : State) (c : Fin 8) (t : Task) : Bool :=
  let k := s.core c
  let part := match t.part with
    | none => true
    | some p =>
      let q := s.part c p
      (q.runs.all fun r => r.task ≠ t.key) && (q.fillRuns.all fun r => r.task ≠ t.key)
        && allHalves.all fun b => (q.banks.get b).st = .empty || (q.banks.get b).task ≠ t.key
  part && !k.mov.busyFor t.key && !s.tokensOf c t.key && k.seq.updQ.all fun u => u.task ≠ t.key

/-- Every command before index i has issued. -/
def State.earlierIssued (s : State) (t : Task) (i : Nat) : Bool :=
  let cmds := s.cmdsOf t
  [0, 1, 2, 3].all fun e =>
    match nextIndex cmds e (t.engPc.get (fin4 e)) with
    | some j => decide (i ≤ j)
    | none => true

/-! ### The control commands (R166, R183 to R186) -/

/-- NOP: a schedule position passes (R166). -/
def execNop (c : Fin 8) (task : Nat) (s : State) : Outcome State Fault Refusal :=
  match s.cmdReady c task 0x03 with
  | none => .next s
  | some (_, i, _) => .next (s.modTask c task fun t => t.issued 3 i)

/-- The cores that count a core's arrivals at a barrier of a scope: its gang, or the module. -/
def State.barrierCores (s : State) (c : Fin 8) (scope : Nat) : List (Fin 8) :=
  if scope = 1 then
    let g := (s.core c).mov.gang ||| (1#8 <<< c.val)
    allCores.filter fun x => bit g x.val
  else allCores

/-- The key of a barrier's count of arrivals: by its ID, its scope, and for a gang its first core. -/
def State.barrierKey (s : State) (c : Fin 8) (scope id : Nat) : Nat :=
  let g := if scope = 1 then ((s.barrierCores c 1).headD c).val else 0
  (g * 4 + scope) * 256 + id

/-- Arrivals the barrier table sets for an ID (R183, R351). -/
def State.barrierCount (s : State) (id : Nat) : Nat :=
  match s.cfg.bind fun g => g.barriers.find? fun b => b.1 = id with
  | some b => b.2
  | none => 0

/-- A task goes on from a barrier or a marker: its later commands count from a new base (R183). -/
def State.resumeTask (s : State) (c : Fin 8) (key : Nat) : State :=
  match s.findTask c key with
  | none => s
  | some t =>
    (s.modTask c key fun t => { t with
      st := .running, bases := (t.engPc.get 3, (s.core c).seq.sched) :: t.bases }).endFreewheel c t.part

/-- BARRIER: the task arrives once its earlier commands have completed (R183); at task scope it goes on at once, at a
cascade barrier the master hears of the arrival. -/
def execBarrier (c : Fin 8) (task : Nat) (s : State) : Outcome State Fault Refusal :=
  match s.cmdReady c task 0x07 with
  | none => .next s
  | some (t, i, w) =>
    if !s.earlierIssued t i || !s.taskIdle c t then .next s
    else
      let scope := fld w 41 40
      let id := fld w 39 32
      let s1 := s.modTask c task fun t => t.issued 3 i
      if scope = 0 then .next (s1.resumeTask c task)
      else
        let s2 := s1.modTask c task fun t => { t with
          st := .atBarrier, barTick := s.tick, barLimit := (s.core c).seq.barrierLimit.toNat
          barId := id, barScope := scope, barFiller := bit w 42 }
        let s3 := if bit w 42 then s2.beginFreewheel c t.part else s2
        if scope = 3 then
          .next (s3.sendMsg s.cas.master.toNat 0x13 vcCtrl (BitVec.ofNat 144 id) [] s.cas.term.toNat)
        else .next (s3.modCas fun x => { x with barArr := tabMod 0 x.barArr (s.barrierKey c scope id) (· + 1) })

/-- A wait at a barrier has reached tick a + L (R9, R184). -/
def State.barrierLate (s : State) (t : Task) : Bool := decide (t.barTick + t.barLimit * 1000000 ≤ s.tick)

/-- Every task of some cores that waits at a barrier of a scope goes on; one whose window has ended times out (R9, R184). -/
def State.releaseBarrier (s : State) (cores : List (Fin 8)) (scope id : Nat) : State :=
  forAllOf cores (fun c s =>
    ((s.core c).seq.tasks.filter fun t => t.st = .atBarrier && t.barScope = scope && t.barId = id).foldl
      (fun s t => if s.barrierLate t then s.failCmd c t.key 0x0404 t.barId else s.resumeTask c t.key) s) s

/-- BARRIER_RELEASE: a gang or module barrier with its full count of arrivals releases, with new bases (R183). -/
def execBarrierRelease (c : Fin 8) (id : Nat) (s : State) : Outcome State Fault Refusal :=
  match (s.core c).seq.tasks.find? fun t => t.st = .atBarrier && t.barId = id && t.barScope ≠ 3 with
  | none => .next s
  | some t =>
    let key := s.barrierKey c t.barScope id
    let n := s.barrierCount id
    if s.coreRuns c && decide (n ≤ tabGet 0 s.cas.barArr key) then
      .next ((s.releaseBarrier (s.barrierCores c t.barScope) t.barScope id).modCas fun x => { x with
        barArr := tabMod 0 x.barArr key fun a => a - n })
    else .next s

/-- BARRIER_TIMEOUT: at tick a + L an unreleased wait ends its task; the arrival stays counted (R184). -/
def execBarrierTimeout (c : Fin 8) (task : Nat) (s : State) : Outcome State Fault Refusal :=
  match s.findTask c task with
  | none => .next s
  | some t =>
    if s.coreRuns c && t.st = .atBarrier && s.barrierLate t then
      .next (s.failCmd c task 0x0404 t.barId)
    else .next s

/-- WAIT_MARKER: the task's later commands wait for the next marker tick, its clock stopped (R164, R185). The commands before it
on other engines go on as they can: engines are ordered only by slot tokens and BARRIER (R182). -/
def execWaitMarker (c : Fin 8) (task : Nat) (s : State) : Outcome State Fault Refusal :=
  match s.cmdReady c task 0x0B with
  | none => .next s
  | some (t, i, _) =>
    .next ((s.modTask c task fun t => { t.issued 3 i with st := .waitMarker, barTick := s.tick }).beginFreewheel c t.part)

/-- END: the last command issues; the task may retire (R186). -/
def execEndTask (c : Fin 8) (task : Nat) (s : State) : Outcome State Fault Refusal :=
  match s.cmdReady c task 0x0F with
  | none => .next s
  | some (_, i, _) => .next (s.modTask c task fun t => { t.issued 3 i with ended := true, st := .ending })

/-! ### Host queues and the completion ring (R176, R178, R434, R468) -/

/-- WQ_DOORBELL: a new TAIL for a host queue (R176, R434); one too far ahead is ignored and reported. -/
def execWqDoorbell (c : Fin 8) (q : Fin 3) (val : BitVec 64) (s : State) : Outcome State Fault Refusal :=
  .next (s.bar4Write (BitVec.ofNat 27 (0x1000 * (4 * c.val + q.val + 1))) (.core c) fun s =>
    let w := (s.core c).seq.wqs.get q
    let tail : BitVec 16 := val.truncate 16
    let s1 := s.wakeM1
    if 2 ^ w.log2.toNat < (tail - w.head).toNat then
      s1.raise 0x0401 (unit := c.val) (detail := BitVec.ofNat 32 ((q.val + 1) * 65536 + tail.toNat))
    else s1.modSeq c fun x => { x with wqs := x.wqs.set q { w with tail := tail } })

/-- A host queue may be given a new base or size: it is empty and no task of it is admitted, waiting for its retry or
halted (R176). -/
def Seq.queueIdle (x : Seq) (q : Fin 3) : Bool :=
  let w := x.wqs.get q
  let no (l : List Task) : Bool := l.all fun t => t.queue ≠ q.val + 1
  w.head = w.tail && no x.tasks && no x.halted && no x.retryQ

/-- A write of SEQ_WQn_BASE or of the size field of SEQ_WQn_SIZE_HEAD (R176, R203, R464). -/
def State.wqConfig (s : State) (c : Fin 8) (q : Fin 3) (size : Bool) (val : BitVec 64) : State :=
  let x := (s.core c).seq
  let w := x.wqs.get q
  if !x.queueIdle q then s
  else if size then
    if fld val 3 0 < 4 ∨ 12 < fld val 3 0 then s
    else s.modSeq c fun x => { x with wqs := x.wqs.set q { w with log2 := val.truncate 4 } }
  else s.modSeq c fun x => { x with wqs := x.wqs.set q { w with base := (val &&& ~~~31#64).truncate 41 } }

def execWqReconfigure (c : Fin 8) (q : Fin 3) (size : Bool) (val : BitVec 64) (s : State) :
    Outcome State Fault Refusal :=
  .next (s.bar0Write (coreOff c (0xB060 + 16 * (q.val + 1) + if size then 8 else 0)) (.core c) false
    fun s => s.wqConfig c q size val)

/-- A write of SEQ_CQ_BASE or of SEQ_CQ_CTRL.LOG2 (R178, R468): only while the ring is empty and holds nothing back. -/
def State.cqConfig (s : State) (c : Fin 8) (size : Bool) (val : BitVec 64) : State :=
  let x := (s.core c).seq
  if x.cqHead ≠ x.cqTail ∨ x.cqHeld ≠ [] then s
  else if size then
    if fld val 3 0 < 4 ∨ 12 < fld val 3 0 then s
    else s.modSeq c fun x => { x with cqLog2 := val.truncate 4 }
  else s.modSeq c fun x => { x with cqBase := (val &&& ~~~15#64).truncate 41 }

def execCqReconfigure (c : Fin 8) (size : Bool) (val : BitVec 64) (s : State) : Outcome State Fault Refusal :=
  .next (s.bar0Write (coreOff c (if size then 0xB0A8 else 0xB0A0)) (.core c) false fun s => s.cqConfig c size val)

/-- Held completions enter the ring, oldest first, while it has room (R178). -/
def State.drainHeld (s : State) (c : Fin 8) : Nat → State
  | 0 => s
  | n + 1 =>
    let q := (s.core c).seq
    match q.cqHeld with
    | [] => s
    | e :: rest =>
      if q.cqFull then s
      else
        let s1 := s.modSeq c fun q => { q with cqHeld := [] }
        let s2 := (s1.pushCompletion c e.word).modSeq c fun q => { q with cqHeld := rest }
        s2.drainHeld c n

/-- A write of SEQ_CQ_CTRL.HEAD (R178, R468): one that would pass TAIL is ignored; room lets held completions in. -/
def State.cqHeadTo (s : State) (c : Fin 8) (head : BitVec 12) : State :=
  let q := (s.core c).seq
  if (q.cqTail - q.cqHead).toNat < (head - q.cqHead).toNat then s
  else
    let s1 := s.modSeq c fun q => { q with cqHead := head }
    s1.drainHeld c (q.cqHeld.length + 1)

def execCqHeadWrite (c : Fin 8) (head : BitVec 12) (s : State) : Outcome State Fault Refusal :=
  .next (s.bar0Write (coreOff c 0xB0A8) (.core c) false fun s => s.cqHeadTo c head)

/-! ### Queue entries (R176, R177) -/

def entryOf (w : BitVec 256) : WqEntry where
  tid := fld w 23 0
  specEn := bit w 24
  specId := BitVec.ofNat 16 (fld w 47 32)
  ctag := BitVec.ofNat 16 (fld w 63 48)
  a1 := BitVec.ofNat 32 (fld w 95 64)
  a2 := BitVec.ofNat 32 (fld w 127 96)
  a3 := BitVec.ofNat 32 (fld w 159 128)

def entryReserved (w : BitVec 256) : Bool := fld w 31 25 ≠ 0 || fld w 255 160 ≠ 0

/-- A core's run list in the active image (R351). -/
def State.runEntries (s : State) (c : Fin 8) : List (BitVec 256) :=
  match s.cfg with
  | none => []
  | some g =>
    let k := g.cores.getD c.val {}
    (g.runList.drop k.runFirst).take k.runCount

/-- The address of a host queue's entry of a count. -/
def Wq.entryAddr (w : Wq) (count : Nat) : Nat := w.base.toNat + 32 * (count % 2 ^ w.log2.toNat)

/-- The entry at a queue's head: its words, or the code of a refused read, or nothing. -/
inductive HeadEnt
  | nothing
  | words (w : BitVec 256)
  | unreadable (code : BitVec 16)
  deriving DecidableEq, Repr

def State.headEntry (s : State) (c : Fin 8) (q : Nat) : HeadEnt × State :=
  let x := (s.core c).seq
  if q = 0 then
    match (s.runEntries c)[x.runPos]? with
    | some w => (.words w, s)
    | none => (.nothing, s)
  else
    let w := x.wqs.get (Fin.ofNat 3 (q - 1))
    if w.head = w.tail then (.nothing, s)
    else
      match s.stackRead (w.entryAddr w.head.toNat) 32 with
      | (.ok bs, s1) => (.words (BitVec.ofNat 256 (leNat bs)), s1)
      | (.error code, s1) => (.unreadable code, s1)

/-- A queue moves on to its next entry; WQ0 wraps at the end of the run list (R176). -/
def State.popHead (s : State) (c : Fin 8) (q : Nat) : State :=
  let n := (s.runEntries c).length
  s.modSeq c fun y =>
    let x := { y with specWait := tabSet none y.specWait q none }
    if q = 0 then
      if x.runPos + 1 < n then { x with runPos := x.runPos + 1 }
      else { x with runPos := 0, runWrapped := true }
    else
      let i := Fin.ofNat 3 (q - 1)
      let w := x.wqs.get i
      { x with wqs := x.wqs.set i { w with head := w.head + 1 } }

/-! ### Epoch places (R191) -/

def Seq.place (x : Seq) (id : BitVec 16) : Option (Fin 2) :=
  allHalves.find? fun i => (x.epochs.get i).st ≠ .free && (x.epochs.get i).id = id

def Seq.modEpoch (x : Seq) (i : Fin 2) (f : Epoch → Epoch) : Seq := { x with epochs := x.epochs.set i (f (x.epochs.get i)) }

/-- The newest epoch that is open, or also settling when asked (R191, R197). -/
def Seq.newest (x : Seq) (settlingToo : Bool) : Option (Fin 2) :=
  let ok (i : Fin 2) : Bool :=
    (x.epochs.get i).st = .opened || (settlingToo && (x.epochs.get i).st = .settling)
  if ok 0 && ok 1 then (if (x.epochs.get 0).seq < (x.epochs.get 1).seq then some 1 else some 0)
  else if ok 0 then some 0
  else if ok 1 then some 1
  else none

/-- An epoch into which a task that names it can be admitted. -/
def Seq.admitsInto (x : Seq) (id : BitVec 16) : Bool :=
  match x.place id with
  | some i => (x.epochs.get i).st ≠ .discarding
  | none => false

/-- Tasks counted against speculation capacity (R200). -/
def Seq.counted (x : Seq) : Nat := (x.epochs.get 0).counted + (x.epochs.get 1).counted

/-- Reruns wait to be admitted, or for the discard before them: no other speculative task goes first (R198). -/
def Seq.rerunsPending (x : Seq) : Bool :=
  allHalves.any fun i =>
    let e := x.epochs.get i
    e.st ≠ .free && (e.rerunLeft ≠ [] || e.rerunOf ≠ 0)

/-! ### Admission (R179, R185, R193, R200, R255) -/

/-- A step-boundary marker admits tasks: no epoch of the step before is still open, and the lead has run (R185, R243). -/
def State.markerClear (s : State) (c : Fin 8) : Bool :=
  let x := (s.core c).seq
  (x.prevEpochs.all fun id => (x.place id).isNone) && (allHalves.all fun h => (s.half h).leadDone.isNone)
    && s.img.leadDue.isNone && !s.cas.stopStepStart

/-- The queue has a marker a STEP_START task can take (R179, R185): in a host queue, one that has come since the entry at the
head was queued. DESIGN CHOICE (log entry 65, unsafe): the spec does not say from when a host queue's entry counts its next
marker, nor how many entries one marker admits; it is one here. -/
def Seq.hasMarker (x : Seq) (q : Nat) : Bool :=
  if q = 0 then x.q0Steps ≠ []
  else
    let i := Fin.ofNat 3 (q - 1)
    let w := x.wqs.get i
    bit x.hostMark q && decide ((w.tail - x.markTails.get i).toNat < (w.tail - w.head).toNat)

/-- The partition of a task is free, not halted, and over no quadrant that a directed check must pass first (R65, R179). -/
def State.partFree (s : State) (c : Fin 8) (p : Fin 4) : Bool :=
  let a := (s.core c).arr
  decide (p.val < a.mode.count) && (s.partTask c p).isNone && decide ((s.part c p).freeAt ≤ a.now)
    && !((s.core c).seq.halted.any fun t => t.part = some p)
    && (List.range 4).all fun q => !(bit a.suspect q && (quadParts a.mode q).contains p)

/-- A task with PART_MASK 0 that has halted holds its queue back (R188). -/
def Seq.laneHalted (x : Seq) (q : Nat) : Bool := x.halted.any fun t => t.part.isNone && t.queue = q

/-- A slot a speculative command may write: a scratchpad-homed slot of the core, a KEEP object or a REPLACE object
(R193). -/
def State.specSlotOk (s : State) (c : Fin 8) (slot : Nat) : Bool :=
  match s.slotEnt c slot with
  | some e => !e.home || e.versioned || s.isReplace c slot
  | none => true

/-- The destinations of a command of a speculative task are allowed (R193); a remote space whose module is this one is local
(R138). -/
def State.specCmdOk (s : State) (c : Fin 8) (w : BitVec 128) : Bool :=
  let op := cmdOp w
  if op = 0x15 then s.specSlotOk c (fld w 67 58)
  else if op = 0x06 then
    s.specSlotOk c (fld w 51 42 + 1) && s.specSlotOk c (fld w 61 52 + 1) && s.specSlotOk c (fld w 71 62)
  else if op = 0x04 then
    match s.cfg.bind fun g => g.template c.val (fld w 43 32) with
    | none => true
    | some d =>
      let sp := dDstSpace d
      if !dDstSlotEn d then false
      else if sp = 0 then
        (match s.slotEnt c (dDstSlot d) with
          | some e => fin8 (dDstCore d) = c && !e.home
          | none => true)
      else if sp = 1 then
        (match s.slotEnt (fin8 (dDstCore d)) (dDstSlot d) with
          | some e => e.versioned || s.isReplace (fin8 (dDstCore d)) (dDstSlot d)
          | none => true)
      else decide (sp = 2) && (s.descRemote d || (match s.slotEnt (fin8 (dDstCore d)) (dDstSlot d) with
        | some e => e.versioned || s.isReplace (fin8 (dDstCore d)) (dDstSlot d)
        | none => true))
  else true

/-- What admitting a candidate comes to. -/
inductive Admit
  /-- Some condition does not hold: nothing happens. The task may lack an epoch or capacity besides, and a wait it has begun runs
  on (R200). -/
  | hold (lacks : Bool)
  /-- A speculative task finds no epoch or no capacity: its wait runs (R200). -/
  | starved
  | admitted (s : State)

/-- The phase of a task ID (R373); a task without one counts as idle. -/
def ImgCfg.taskPhaseOf (g : ImgCfg) (tid : Nat) : Nat :=
  match g.taskPhase.find? fun r => decide (r.1 ≤ tid ∧ tid ≤ r.2.1) with
  | some r => r.2.2
  | none => 5

/-- The epoch a speculative candidate binds to: the one it had, the one it names, or the newest open one (R177, R191). -/
def Seq.bindEpoch (x : Seq) (t : Task) : Option (BitVec 16) :=
  if t.epoch ≠ 0 && x.admitsInto t.epoch then some t.epoch
  else if t.entry.specEn then (if x.admitsInto t.entry.specId then some t.entry.specId else none)
  else (x.newest false).map fun i => (x.epochs.get i).id

/-- A retired run-list task is marked in both stewards' sets of its step (R415). -/
def State.markRetired (s : State) (tid : Nat) (step : BitVec 32) : State :=
  forAllOf allHalves (fun h s => s.modHalf h fun y =>
    let i := fin2 step.toNat
    { y with retSets := y.retSets.set i (tabSet false (y.retSets.get i) tid true) }) s

/-- The retire record the steward keeps, the last 64 of each core (R186). -/
def State.keepRecord (s : State) (c : Fin 8) (r : RetireRec) : State :=
  s.modSeq c fun x => { x with retired := ((x.retired ++ [r]).drop (x.retired.length + 1 - 64)) }

/-- The held buffers of a task that will not run again are given up: releases posted, claims cancelled (R188). -/
def State.dropHolds (s : State) (c : Fin 8) (holds : List Hold) : State :=
  holds.foldl (fun s h =>
    if h.posted then s
    else if h.acq then (s.putRelease c h.slot h.buf 0).2
    else s.cancelClaim c h.slot h.buf) s

/-- Buffers kept from a task's stopped descriptors are given up the same way; a claim on another module's slot stays
held there, since no message takes it back. -/
def State.dropMoveHolds (s : State) (holds : List MoveHold) : State :=
  holds.foldl (fun s h =>
    let o := s.slotOwner (fin8 h.core) h.slot
    if h.module.isSome then s
    else if h.acq then (s.putRelease o.1 o.2 h.buf 0).2
    else s.cancelClaim o.1 o.2 h.buf) s

/-- A task whose work is done retires: its retire record, and its bit in the retired sets or its completion (R186, R415). -/
def State.recordRetired (s : State) (c : Fin 8) (t : Task) : State :=
  let s1 := s.keepRecord c ⟨t.queue, t.pos, t.entry.tid, t.epoch, t.entry.a1, t.entry.a2, t.entry.a3⟩
  let s2 := if t.queue = 0 then s1.markRetired t.entry.tid t.step
    else s1.pushCompletion c (completionWord t.entry.tid 0 0 t.entry.ctag t.clock t.epoch)
  s2.replayRetired t.queue t.entry.tid

/-- A rebuild task has nothing to rebuild (R264): of the recomputable slots whose REBUILD names it, none has the entry of its A1
DROPPED, nor does it hold a claim of one from before a retry. -/
def State.rebuildIdle (s : State) (c : Fin 8) (t : Task) : Bool :=
  let slots := match s.cfg with
    | some g => g.moraine.filter fun m => m.recomp && m.rebuild = t.entry.tid
    | none => []
  slots ≠ [] && slots.all fun m =>
    !(s.morEntries.any fun x => x.core = m.core && x.slot = m.slot && x.seq = t.entry.a1.toNat && x.st = .dropped)
      && !(t.holds.any fun h => !h.acq && s.slotOwner c h.slot = (fin8 m.core, m.slot))
      && !(t.moveHolds.any fun h => !h.acq && h.module.isNone && s.slotOwner (fin8 h.core) h.slot = (fin8 m.core, m.slot))

/-- A task that is retired at admission, without running (R264); what it held from before a retry is given up. -/
def State.retireUnrun (s : State) (c : Fin 8) (t : Task) : State :=
  ((((s.modSeq c fun x => { x with tasks := x.tasks.filter fun y => y.key ≠ t.key }).recordRetired c t).dropHolds c
    t.holds).dropMoveHolds t.moveHolds)

/-- A candidate whose conditions all hold is admitted (R179): it takes its marker, joins its epoch and starts. A task
refused at admission ends with the effects of a soft fault (R99, R193), and a rebuild task with nothing to rebuild retires at
once (R264). `counted` says it already counts in its epoch. DESIGN CHOICE (log entry 78, unsafe): the spec does not say when a
task that is not speculative reads SEQ_NS_CLIP (R175); it takes the register as it stands at its admission, as a speculative task
takes its epoch's factor. -/
def State.startTask (s : State) (c : Fin 8) (t : Task) (marker counted : Bool) (epoch : BitVec 16) : State :=
  let x := (s.core c).seq
  let key := x.keyCtr + 1
  let step := if marker && t.queue = 0 then x.q0Steps.headD x.wq0Step else
    if t.queue = 0 then x.wq0Step else (s.core c).upd.step
  let pl := if epoch = 0 then none else x.place epoch
  let clip := match pl with
    | some i => (x.epochs.get i).clip
    | none => x.nsClip
  let ord := match pl with
    | some i => (x.epochs.get i).admitted.length
    | none => 0
  let t1 := { t with key := key, epoch := epoch, clip := clip, step := step, base := x.sched, clock := 0, order := ord }
  let s1 := s.modSeq c fun x =>
    let x1 := { x with
      keyCtr := key, tasks := x.tasks ++ [t1], specWait := tabSet none x.specWait t.queue none
      q0Steps := if marker && t.queue = 0 then x.q0Steps.drop 1 else x.q0Steps
      wq0Step := if t.queue = 0 then step else x.wq0Step
      runWrapped := if marker && t.queue = 0 then false else x.runWrapped
      hostMark := if marker && t.queue ≠ 0 then x.hostMark &&& ~~~(1#4 <<< t.queue) else x.hostMark }
    match pl with
    | some i => if counted then x1 else
        x1.modEpoch i fun e => { e with counted := e.counted + 1, admitted := e.admitted ++ [(t.queue, t.pos, t.entry)] }
    | none => x1
  let s2 := (match t.part with
    | some p =>
      let ph := match s.cfg with | some g => g.taskPhaseOf t.entry.tid | none => 5
      s1.modPart c p fun q => { q with phase := ph, density := 0, ramp := false }
    | none => s1)
  let cmds := s2.cmdsOf t1
  if s.rebuildIdle c t1 then s1.retireUnrun c t1
  else if epoch ≠ 0 && cmds.any fun w => !s.specCmdOk c w then s2.failCmd c key 0x0403 t.entry.tid
  else if cmds.any fun w => s.rowBeyond c t1 w then s2.failCmd c key 0x0204 t.entry.tid
  else s2

/-- A candidate meets the conditions of admission, waits, or is starved. `fresh` marks a task taken from its queue for
the first time, which takes a marker under STEP_START; `rerun` one of R198's. A wait that has reached its limit keeps the head from
admission whatever else holds it back (R200). -/
def State.tryAdmit (s : State) (c : Fin 8) (t : Task) (fresh rerun counted : Bool) : Admit :=
  let x := (s.core c).seq
  let spec := hdrSpec t.hdr
  let marker := fresh && (hdrStepStart t.hdr || (t.queue = 0 && x.runWrapped && x.runPos = 0))
  let part := match t.part with
    | some p => s.partFree c p
    | none => true
  let update := (s.cmdsOf t).any fun w => cmdOp w = 0x06
  let late : Bool := !rerun && match tabGet none x.specWait t.queue with
    | some (w, l) => decide (w + l * 1000000 ≤ s.tick)
    | none => false
  let full (id : BitVec 16) : Bool := !(counted && decide (t.epoch = id)) && decide (x.specTasks ≤ x.counted)
  let lacks := spec && match x.bindEpoch t with
    | none => true
    | some id => full id
  if !part || (marker && !(x.hasMarker t.queue && s.markerClear c)) || (update && (s.core c).upd.step = 0) then .hold (lacks || (spec && late))
  else if !spec then .admitted (s.startTask c t marker counted 0)
  else if x.rerunsPending && !rerun then .hold (lacks || late)
  else
    match x.bindEpoch t with
    | none => .starved
    | some id =>
      if late || full id then .starved
      else .admitted (s.startTask c t marker (counted && decide (t.epoch = id)) id)

/-- The task an entry asks for. -/
def ImgCfg.candidate (g : ImgCfg) (c : Fin 8) (q pos : Nat) (e : WqEntry) : Option Task :=
  (g.prog c.val e.tid).map fun o =>
    { queue := q, pos := pos, entry := e, hdr := g.word o, first := o + 1
      parts := BitVec.ofNat 4 (hdrParts (g.word o)) }

/-- The index of a queue's head entry: its place in the run list or in the ring. -/
def Seq.headIndex (x : Seq) (q : Nat) : Nat :=
  if q = 0 then x.runPos
  else
    let w := x.wqs.get (Fin.ofNat 3 (q - 1))
    w.head.toNat % 2 ^ w.log2.toNat

/-- A refused entry: its completion and its report (R177). -/
def State.refuseEntry (s : State) (c : Fin 8) (q : Nat) (e : WqEntry) : State :=
  let ctag := if q = 0 then 0 else e.ctag
  let s1 := s.raise 0x0401 (unit := c.val) (detail := BitVec.ofNat 32 (q * 2 ^ 24 + e.tid))
  (s1.modSeq c fun x => { x with lastEnd := BitVec.ofNat 48 (e.tid % 2 ^ 24 + 4 * 2 ^ 24 + 0x0401 * 2 ^ 32) }).pushCompletion
    c (completionWord e.tid 4 0x0401 ctag 0 0)

/-- An entry the stack refuses to read: the stack's code is recorded with the queue and the entry's index, and the entry is
refused (R177). -/
def State.refuseUnread (s : State) (c : Fin 8) (q : Nat) (code : BitVec 16) : State :=
  let x := (s.core c).seq
  let detail := BitVec.ofNat 32 (q * 2 ^ 24 + x.headIndex q)
  let w := x.wqs.get (Fin.ofNat 3 (q - 1))
  let dom := codeDomain code
  let unit := if dom = 1 then stackOf (w.entryAddr w.head.toNat) else if dom = 4 then 0 else c.val
  let glb := (s.glb.logFault code dom unit false s.tick detail).1
  (({ s with glb := glb } : State).popHead c q).refuseEntry c q {}

/-- What a queue's next step comes to. -/
inductive QueueStep
  /-- Nothing happens. -/
  | idle
  /-- Its speculative head finds no epoch or no capacity, or has found none to the end of its wait (R200). -/
  | starved (t : Task)
  /-- Its speculative head lacks them too, while another condition holds it back. -/
  | lacking (t : Task)
  | moves (s : State)

/-- A speculative head's wait begins, with the limit as it stands (R200); one already running goes on. DESIGN CHOICE (log entry 80,
unsafe): the spec gives the wait to a head that finds no epoch or capacity and does not say when it begins while a busy partition,
a marker or the step number holds the head back too; it begins once nothing else does. -/
def State.starveHead (s : State) (c : Fin 8) (q : Nat) : Option State :=
  if (tabGet none (s.core c).seq.specWait q).isSome then none
  else
    let w := (s.tick, (s.core c).seq.specWaitLimit.toNat)
    some (s.modSeq c fun x => { x with specWait := tabSet none x.specWait q (some w) })

/-- One step of a queue's head (R177, R179, R198, R264, R416). -/
def State.stepHead (s : State) (c : Fin 8) (q : Nat) : QueueStep :=
  let x := (s.core c).seq
  match s.headEntry c q with
  | (.nothing, _) => .idle
  | (.unreadable code, s1) => .moves (s1.refuseUnread c q code)
  | (.words w, s1) =>
    let e := entryOf w
    let cand := s.cfg.bind fun g => g.candidate c q (if q = 0 then x.runPos else
      (x.wqs.get (Fin.ofNat 3 (q - 1))).head.toNat) e
    match cand with
    | none => .moves ((s1.popHead c q).refuseEntry c q e)
    | some t =>
      let spec := hdrSpec t.hdr
      let start := hdrStepStart t.hdr
      let skip := q = 0 && x.skipping && spec && !start
      if entryReserved w || (e.specEn && (!spec || (!skip && !x.admitsInto e.specId))) then
        .moves ((s1.popHead c q).refuseEntry c q e)
      else if skip then
        .moves ((s1.popHead c 0).completeTask c t 3 0)
      else
        let step := if start then x.q0Steps.headD x.wq0Step else x.wq0Step
        let passed := q = 0 && x.replaySteps.contains step && tabGet false ((s.half (coreHalf c)).retSets.get
          (fin2 step.toNat)) e.tid
        if passed && (!start || x.q0Steps ≠ []) then
          .moves ((s1.popHead c 0).modSeq c fun x => if start then
            { x with q0Steps := x.q0Steps.drop 1, wq0Step := step, runWrapped := false, skipping := false } else x)
        else
          let kept := if q = 0 then x.inherit.find? fun y => y.queue = 0 && y.entry = e else none
          let t1 := match kept with
            | some y => { t with holds := y.holds, moveHolds := y.moveHolds, epoch := y.epoch, retries := y.retries }
            | none => t
          let counted := match kept with
            | some y => y.epoch ≠ 0
            | none => false
          let drop (s : State) : State := (s.popHead c q).modSeq c fun x => { x with
            skipping := if start then false else x.skipping
            inherit := match kept with
              | some y => removeFirst (fun z => z = y) x.inherit
              | none => x.inherit }
          match s1.tryAdmit c t1 true false counted with
          | .admitted s2 => .moves (drop s2)
          | .hold l => if l then .lacking t1 else .idle
          | .starved => .starved t1

/-- No task of a host queue is admitted while the completion ring is full or the host link is down (R178, R428). -/
def State.hostHeld (s : State) (c : Fin 8) (q : Nat) : Bool :=
  let x := (s.core c).seq
  q ≠ 0 && (x.cqFull || x.cqHeld ≠ [] || s.host.stopped)

/-- One step of a queue that is not held: its retry first, by the program the active image holds for it, else its head (R188). -/
def State.stepOpen (s : State) (c : Fin 8) (q : Nat) : QueueStep :=
    let x := (s.core c).seq
    match x.retryQ.find? fun t => t.queue = q with
    | some t =>
      let out (s : State) : State := s.modSeq c fun x => { x with
        retryQ := removeFirst (fun y => y = t) x.retryQ, specWait := tabSet none x.specWait q none }
      match s.cfg.bind fun g => g.candidate c q t.pos t.entry with
      | none => .moves ((out s).refuseEntry c q t.entry)
      | some now =>
        let t1 := { t with hdr := now.hdr, first := now.first, parts := now.parts }
        match s.tryAdmit c t1 false false (t.epoch ≠ 0) with
        | .admitted s2 => .moves (out s2)
        | .hold l => if l then .lacking t1 else .idle
        | .starved => .starved t1
    | none => s.stepHead c q

/-- One step of a queue: none while it is halted or the completion ring holds it back, but its head's wait runs on (R178, R188,
R200). -/
def State.stepQueue (s : State) (c : Fin 8) (q : Nat) : QueueStep :=
  if (s.core c).seq.laneHalted q || s.hostHeld c q then
    match s.stepOpen c q with
    | .starved t => .lacking t
    | .lacking t => .lacking t
    | _ => .idle
  else s.stepOpen c q

/-- The head of a queue lacks an epoch or capacity: the task. -/
def State.lackingHead (s : State) (c : Fin 8) (q : Nat) : Option Task :=
  match s.stepQueue c q with
  | .starved t => some t
  | .lacking t => some t
  | _ => none

/-- The wait of a queue's head ends when it lacks neither an epoch nor capacity (R200). -/
def State.endWaits (s : State) (c : Fin 8) : State :=
  [0, 1, 2, 3].foldl (fun s q =>
    match s.lackingHead c q with
    | some _ => s
    | _ => s.modSeq c fun x => { x with specWait := tabSet none x.specWait q none }) s

/-- One step of the reruns of an epoch: the first left is re-admitted, once the old epoch's discard has completed
(R198). -/
def State.stepRerun (s : State) (c : Fin 8) : Option State :=
  let x := (s.core c).seq
  match allHalves.find? fun i => (x.epochs.get i).rerunLeft ≠ [] && (x.epochs.get i).rerunOf = 0 with
  | none => none
  | some i =>
    let ep := x.epochs.get i
    match ep.rerunLeft with
    | [] => none
    | (q, pos, e) :: rest =>
      let out (s : State) : State := s.modSeq c fun x => x.modEpoch i fun y => { y with rerunLeft := rest }
      if s.hostHeld c q then none
      else
      match s.cfg.bind fun g => g.candidate c q pos e with
      | none => some ((out s).refuseEntry c q e)
      | some t =>
        let kept := x.inherit.find? fun y => y.queue = q && y.entry = e
        let t1 := match kept with
          | some y => { t with epoch := ep.id, holds := y.holds, moveHolds := y.moveHolds }
          | none => { t with epoch := ep.id }
        match (out s).tryAdmit c t1 false true false with
        | .admitted s2 => some (s2.modSeq c fun x => { x with
            inherit := match kept with
              | some y => removeFirst (fun z => z = y) x.inherit
              | none => x.inherit })
        | _ => none

/-- The sequencer may admit tasks at all: its core runs, an image is active, and nothing holds admission back (R55, R360,
R362, R411). -/
def State.mayAdmit (s : State) (c : Fin 8) : Bool :=
  let a := (s.core c).arr
  s.coreRuns c && s.cfg.isSome && s.glb.mode = .service && s.pwr.state = 0 && !s.admissionStopped && !s.swapRunning
    && !a.rewriteHold && a.rewriteAt.isNone

/-- The first queue, WQ0 first, that takes a step (R177, R179); a starved head begins its wait (R200). -/
def State.stepQueues (s : State) (c : Fin 8) : Option State :=
  [0, 1, 2, 3].findSome? fun q =>
    match s.stepQueue c q with
    | .idle => none
    | .lacking _ => none
    | .starved _ => s.starveHead c q
    | .moves s1 => some s1

/-- TASK_ADMIT: the first thing that can be admitted is: a rerun, then WQ0, WQ1, WQ2 and WQ3; an entry that must be
refused, skipped or passed over is (R177, R179). -/
def execTaskAdmit (c : Fin 8) (s : State) : Outcome State Fault Refusal :=
  if !s.mayAdmit c then .next s
  else
    match s.stepRerun c with
    | some s1 => .next (s1.endWaits c)
    | none => .next (((s.stepQueues c).getD s).endWaits c)

/-- A task ended before it is admitted: it has no command, no descriptor and no partition's work to stop (R188, R200). -/
def State.endUnadmitted (s : State) (c : Fin 8) (t : Task) (code : BitVec 16) : State :=
  ((s.raise code (unit := c.val) (detail := BitVec.ofNat 32 t.entry.tid)).modSeq c fun q => { q with
    halted := q.halted ++ [{ t.restart with code := code }] }).completeTask c t 1 code

/-- SPEC_WAIT_LIMIT: a speculative task at the head of its queue has waited L ms for an epoch or capacity: it ends before
it is admitted (R200). -/
def execSpecWaitLimit (c : Fin 8) (q : Fin 4) (s : State) : Outcome State Fault Refusal :=
  match tabGet none (s.core c).seq.specWait q.val, s.lackingHead c q.val with
  | some (w, l), some t =>
    if !s.coreRuns c || decide (s.tick < w + l * 1000000) then .next s
    else
      let retry := (s.core c).seq.retryQ.find? fun y => y.queue = q.val
      let s1 := match retry with
        | some y => s.modSeq c fun x => { x with
            retryQ := removeFirst (fun z => z = y) x.retryQ, specWait := tabSet none x.specWait q.val none }
        | none => s.popHead c q.val
      .next (s1.endUnadmitted c t 0x0405)
  | _, _ => .next s

/-! ### Ends (R164, R186 to R188, R251) -/

/-- TASK_CYCLES_EXPIRE: the task clock reaches TASK_CYCLES (R164). -/
def execTaskCyclesExpire (c : Fin 8) (task : Nat) (s : State) : Outcome State Fault Refusal :=
  match s.findTask c task with
  | none => .next s
  | some t =>
    if s.coreRuns c && decide (hdrCycles t.hdr ≤ t.clock) then .next (s.failCmd c task 0x0402 t.entry.tid)
    else .next s

/-- TASK_RETIRE: a task whose END has issued and whose work has all completed retires: its retire record, its bit in the
retired sets or its completion, and the ceiling hits of a non-speculative one (R186, R251, R415). A task whose clock has reached
TASK_CYCLES ends on that instead (R164). -/
def execTaskRetire (c : Fin 8) (task : Nat) (s : State) : Outcome State Fault Refusal :=
  match s.findTask c task with
  | none => .next s
  | some t =>
    if !s.coreRuns c || !t.ended || !s.taskIdle c t then .next s
    else if hdrCycles t.hdr ≤ t.clock then .next (s.failCmd c task 0x0402 t.entry.tid)
    else
      let s1 := (s.modSeq c fun x => { x with tasks := x.tasks.filter fun y => y.key ≠ task }).beginFreewheel c t.part
      let s4 := s1.recordRetired c t
      if t.epoch = 0 && t.ceil ≠ 0 then
        .next ((s4.modUpd c fun u => { u with ceilHits := satAdd 32 u.ceilHits t.ceil }).raise 0x0602 (unit := c.val)
          (detail := BitVec.ofNat 32 t.ceil))
      else .next s4

/-- The halted task SEQ_RUN_CTRL.TARGET names: a partition's, or the oldest of the PART_MASK 0 lane. -/
def Seq.haltedAt (x : Seq) (target : Nat) : Option Task :=
  if target < 4 then x.halted.find? fun t => t.part = some (fin4 target)
  else if target = 4 then x.halted.find? fun t => t.part.isNone
  else none

/-- REPLAY: the halted task is re-admitted as a retry with its count of retries at 0 (R188). -/
def State.replayTask (s : State) (c : Fin 8) (target : Nat) : State :=
  match (s.core c).seq.haltedAt target with
  | none => s
  | some t => s.modSeq c fun x => { x with
      halted := removeFirst (fun y => y = t) x.halted, retryQ := { t with retries := 0, code := 0 } :: x.retryQ }

/-- The bytes of a slot's buffer become free values, in its mirror range too: SKIP leaves a cancelled buffer's contents
undefined (R188). -/
def State.freeBuffer (s : State) (c : Fin 8) (slot b : Nat) : State :=
  match s.slotEnt c slot with
  | none => s
  | some e =>
    let a := s.bufBase c slot b
    let free (i : Nat) : BitVec 8 := Config.freeBits 8 (s.freeCtr + i)
    let s1 : State := { s with freeCtr := s.freeCtr + e.size }
    (List.range e.size).foldl (fun t i =>
      if e.home then
        let t1 := t.setMemByte (a + i) (free i)
        match t1.mirrorAddr (a + i) with
        | some m => t1.setMemByte m (free i)
        | none => t1
      else t.modScr c fun x => { x with data := tabSet 0 x.data (a + i) (free i) }) s1

/-- What a skipped task holds is given up: releases posted, claims cancelled. A buffer that a cancellation leaves EMPTY has
undefined contents (R188). -/
def State.skipHolds (s : State) (c : Fin 8) (holds : List Hold) (moves : List MoveHold) : State :=
  let s1 := (s.dropHolds c holds).dropMoveHolds moves
  let own := (holds.filter fun h => !h.posted && !h.acq).map fun h => (c, h.slot, h.buf)
  let far := (moves.filter fun h => h.module.isNone && !h.acq).map fun h =>
    let o := s.slotOwner (fin8 h.core) h.slot
    (o.1, o.2, h.buf)
  ((own ++ far).filter fun x =>
    ((s.slotSt x.1 x.2.1).buf x.2.2).st ≠ .empty && ((s1.slotSt x.1 x.2.1).buf x.2.2).st = .empty).foldl
      (fun t x => t.freeBuffer x.1 x.2.1 x.2.2) s1

/-- SKIP: the halted task is given up (R188, R497). An epoch that holds it still counts it as faulted (R201). -/
def State.skipTask (s : State) (c : Fin 8) (target : Nat) : State :=
  match (s.core c).seq.haltedAt target with
  | none => s
  | some t =>
    let s1 := s.modSeq c fun x =>
      let x1 := { x with halted := removeFirst (fun y => y = t) x.halted }
      match (if t.epoch = 0 then none else x.place t.epoch) with
      | some i => x1.modEpoch i fun e => { e with faulted := true }
      | none => x1
    (s1.completeTask c t 3 0).skipHolds c t.holds t.moveHolds

/-- SEQ_REPLAY: GO with ACTION 0 (R188, R468). -/
def execSeqReplay (c : Fin 8) (val : BitVec 32) (s : State) : Outcome State Fault Refusal :=
  .next (s.bar0Write (coreOff c 0xB004) (.core c) false fun s =>
    if bit val 31 && !bit val 4 then s.replayTask c (fld val 2 0) else s)

/-- SEQ_SKIP: GO with ACTION 1 (R188, R468). -/
def execSeqSkip (c : Fin 8) (val : BitVec 32) (s : State) : Outcome State Fault Refusal :=
  .next (s.bar0Write (coreOff c 0xB004) (.core c) false fun s =>
    if bit val 31 && bit val 4 then s.skipTask c (fld val 2 0) else s)

end Sys2Proof.Machine
end

