-- ==== Sys2Proof/Machine/Epochs.lean ====
section
/-! DEFINITION. Speculation epochs of a core: tokens, settle and discard (R191 to R201, R251, R497). -/

namespace Sys2Proof.Machine

open Host

/-- Fields of a token (R196). -/
def tokId (t : BitVec 64) : BitVec 16 := t.truncate 16
def tokKind (t : BitVec 64) : Nat := fld t 17 16
def tokSource (t : BitVec 64) : Nat := fld t 19 18
def tokRerun (t : BitVec 64) : Bool := bit t 20
def tokClip (t : BitVec 64) : BitVec 32 := BitVec.ofNat 32 (fld t 63 32)

/-- A token a core sends or the master sends (R196). -/
def specToken (id : BitVec 16) (kind source : Nat) (rerun : Bool) (clip : BitVec 32) : BitVec 64 :=
  BitVec.ofNat 64 (id.toNat + kind * 2 ^ 16 + source * 2 ^ 18 + b2n rerun * 2 ^ 20 + clip.toNat * 2 ^ 32)

def State.dropToken (s : State) (c : Fin 8) : State :=
  s.modSeq c fun x => { x with tokDropped := satAdd 32 x.tokDropped 1 }

/-- A token of a source the core does not accept, or that names no epoch or a discarded one, is dropped (R196, R199). -/
def State.tokenRefused (s : State) (c : Fin 8) (tok : BitVec 64) : Bool :=
  tokId tok = 0 || decide (2 < tokSource tok) || !bit (s.core c).seq.tokenSrc (tokSource tok)
    || s.cas.discarded.contains (tokId tok)

/-- Acquisitions kept of tasks ended by a discard whose work will not be rerun are released (R188, R198). -/
def State.releaseKept (s : State) (c : Fin 8) : State :=
  let kept := (s.core c).seq.inherit.filter fun t => t.code = 0xFFFF
  (kept.foldl (fun s t => (s.dropHolds c t.holds).dropMoveHolds t.moveHolds) s).modSeq c fun x => { x with
    inherit := x.inherit.filter fun t => t.code ≠ 0xFFFF }

/-- An epoch opens in a free place (R191, R198): with RERUN after a discard its tasks are to be rerun, once that discard has
completed. -/
def State.openEpoch (s : State) (c : Fin 8) (i : Fin 2) (h : HeldOpen) : State :=
  let x := (s.core c).seq
  let rerun := tokRerun h.tok && h.old.isSome
  let ep : Epoch := {
    id := tokId h.tok, st := .opened, clip := tokClip h.tok, seq := x.epochSeq + 1, step := (s.core c).upd.step
    rerunLeft := if rerun then h.old.getD [] else []
    rerunOf := if rerun && (x.place h.oldId).isSome then h.oldId else 0 }
  s.modSeq c fun x => { x.modEpoch i fun _ => ep with epochSeq := x.epochSeq + 1 }

/-- What an OPEN token finds when it arrives (R198): the discard that followed the previous OPEN, if one did. Without RERUN the
step's remaining speculative entries are skipped, and what the discarded tasks hold is given up: at once when the discard has
completed, else when it does. -/
def State.meetOpen (s : State) (c : Fin 8) (tok : BitVec 64) : HeldOpen × State :=
  let x := (s.core c).seq
  let h : HeldOpen := { tok := tok, old := x.lastDisc, oldId := x.lastDiscId }
  let unwanted := x.lastDisc.isSome && !tokRerun tok
  let s1 := s.modSeq c fun x => { x with lastDisc := none, skipping := x.skipping || unwanted }
  (h, if !unwanted then s1
    else match x.place x.lastDiscId with
      | some i => s1.modSeq c fun x => x.modEpoch i fun e => { e with unwanted := true }
      | none => s1.releaseKept c)

/-- An OPEN token (R191, R196, R199): dropped when it names an epoch open or held; held when both places are taken. -/
def State.takeOpen (s : State) (c : Fin 8) (tok : BitVec 64) : State :=
  let x := (s.core c).seq
  if s.tokenRefused c tok || (x.place (tokId tok)).isSome || x.heldOpens.any fun h => tokId h.tok = tokId tok then s.dropToken c
  else
    let r := s.meetOpen c tok
    match allHalves.find? fun i => (x.epochs.get i).st = .free with
    | some i => r.2.openEpoch c i r.1
    | none => r.2.modSeq c fun x => { x with heldOpens := x.heldOpens ++ [r.1] }

/-- A task a discard ends (R187, R198): DISCARDED; what it held stays in the sequencer's record. -/
def State.discardTask (s : State) (c : Fin 8) (t : Task) : State :=
  (s.endDiscarded c t).modSeq c fun x => { x with inherit := x.inherit ++ [{ t.restart with code := 0xFFFF }] }

/-- A discard begins (R198, R199): every running or waiting task of the epoch ends, and its admitted tasks are kept for a
rerun. -/
def State.beginDiscard (s : State) (c : Fin 8) (i : Fin 2) : State :=
  let x := (s.core c).seq
  let ep := x.epochs.get i
  let s1 := s.modSeq c fun x => { x.modEpoch i fun e => { e with
      st := .discarding, tokenCycle := s.cycle c, rerunLeft := [], rerunOf := 0 } with
    lastDisc := some (ep.admitted ++ ep.rerunLeft), lastDiscId := ep.id
    retryQ := x.retryQ.filter fun t => t.epoch ≠ ep.id }
  let s2 := (x.tasks.filter fun t => t.epoch = ep.id).foldl (fun s t => s.discardTask c t) s1
  (x.retryQ.filter fun t => t.epoch = ep.id).foldl (fun s t =>
    (s.completeTask c t 2 0).modSeq c fun x => { x with inherit := x.inherit ++ [{ t with code := 0xFFFF }] }) s2

/-- The epoch holds a task ended on a fault and neither retried nor replayed (R201). -/
def Seq.faultedEpoch (x : Seq) (i : Fin 2) : Bool :=
  let e := x.epochs.get i
  e.faulted || x.halted.any fun t => t.epoch = e.id

/-- A SETTLE token (R196, R197, R201): refused, with the epoch discarded, when it holds an unresolved faulted task. -/
def State.takeSettle (s : State) (c : Fin 8) (tok : BitVec 64) : State :=
  let x := (s.core c).seq
  if s.tokenRefused c tok then s.dropToken c
  else
    match x.place (tokId tok) with
    | none => s.dropToken c
    | some i =>
      if (x.epochs.get i).st ≠ .opened then s.dropToken c
      else if x.faultedEpoch i then
        ((s.raise 0x0406 (unit := c.val) (detail := (tokId tok).zeroExtend 32)).report .settleRefused
          (natLe 2 (tokId tok).toNat ++ natLe 4 (s.core c).upd.step.toNat)).beginDiscard c i
      else s.modSeq c fun x => x.modEpoch i fun e => { e with st := .settling, tokenCycle := s.cycle c }

/-- A DISCARD token (R196, R198): it also overrides a settle that has not completed. -/
def State.takeDiscard (s : State) (c : Fin 8) (tok : BitVec 64) : State :=
  let x := (s.core c).seq
  if s.tokenRefused c tok then s.dropToken c
  else
    match x.place (tokId tok) with
    | none => s.dropToken c
    | some i => if (x.epochs.get i).st = .discarding then s.dropToken c else s.beginDiscard c i

/-- A token at a sequencer (R196), by its kind; kind 0 is reserved and dropped. A token wakes the module from M1 (R394). -/
def State.takeSpecToken (s : State) (c : Fin 8) (tok : BitVec 64) : State :=
  if !s.coreLive c then s
  else
    let s := s.wakeM1
    match tokKind tok with
    | 1 => s.takeOpen c tok
    | 2 => s.takeSettle c tok
    | 3 => s.takeDiscard c tok
    | _ => s.dropToken c

/-- The stewards pass a token to all eight sequencers (R196). -/
def State.spreadToken (s : State) (tok : BitVec 64) : State := forAllOf allCores (fun c s => s.takeSpecToken c tok) s

/-- SPEC_OPEN, SPEC_SETTLE and SPEC_DISCARD: the token of that kind reaches a sequencer; another kind is not that
event. -/
def execSpecOpen (c : Fin 8) (tok : BitVec 64) (s : State) : Outcome State Fault Refusal :=
  .next (if tokKind tok = 1 then s.takeSpecToken c tok else s)
def execSpecSettle (c : Fin 8) (tok : BitVec 64) (s : State) : Outcome State Fault Refusal :=
  .next (if tokKind tok = 2 then s.takeSpecToken c tok else s)
def execSpecDiscard (c : Fin 8) (tok : BitVec 64) (s : State) : Outcome State Fault Refusal :=
  .next (if tokKind tok = 3 then s.takeSpecToken c tok else s)

/-! ### Completion (R197, R198) -/

/-- A speculative run-list entry waits before WQ0's next STEP_START entry that would bind to the epoch, or a host queue
holds an entry that names it (R197). -/
def State.epochQueued (s : State) (c : Fin 8) (id : BitVec 16) : Bool :=
  let x := (s.core c).seq
  match s.cfg with
  | none => false
  | some g =>
    let newest := match x.newest true with
      | some i => (x.epochs.get i).id = id
      | none => false
    let hdr (e : WqEntry) : BitVec 128 := match g.prog c.val e.tid with | some o => g.word o | none => 0
    let ahead := ((s.runEntries c).drop x.runPos).map entryOf
    let inStep := if x.runWrapped then [] else ahead.takeWhile fun e => !hdrStepStart (hdr e)
    let run := inStep.any fun e => hdrSpec (hdr e) && (if e.specEn then e.specId = id else newest)
    let hosts := ([0, 1, 2] : List (Fin 3)).any fun q =>
      let w := x.wqs.get q
      (List.range (w.tail - w.head).toNat).any fun k =>
        let e := entryOf (BitVec.ofNat 256 (leNat (s.servedBytes (w.entryAddr (w.head.toNat + k)) 32)))
        e.specEn && e.specId = id
    run || hosts

/-- A task of the epoch runs or waits, or a descriptor it issued has not completed. -/
def State.epochRuns (s : State) (c : Fin 8) (id : BitVec 16) : Bool :=
  let k := s.core c
  (k.seq.tasks.any fun t => t.epoch = id) || (k.seq.retryQ.any fun t => t.epoch = id)
def State.epochWrites (s : State) (c : Fin 8) (id : BitVec 16) : Bool :=
  let m := (s.core c).mov
  (m.flying.any fun f => match f.2 with | some x => x.epoch = id | none => false)
    || m.groupDone.any fun g => g.fl.epoch = id && !g.stopped && descOwes g.fl.desc

/-- Every claim of the epoch on the core's objects has received its last fill token (R197); a buffer of a REPLACE object that claims
of no epoch began is none of the epoch's. -/
def State.epochFilled (s : State) (c : Fin 8) (id : BitVec 16) : Bool :=
  (s.slotsOfEpoch c id).all fun slot => allParts.all fun b =>
    let x := (s.slotSt c slot).bufs.get b
    x.st ≠ .filling || x.epoch ≠ id

/-- An epoch's place is freed, and a held OPEN takes it (R191, R203). DESIGN CHOICE (log entry 80, unsafe): SEQ_FLIP_CYCLES, for which
the table gives no width, saturates at 32 bits. -/
def State.closePlace (s : State) (c : Fin 8) (i : Fin 2) : State :=
  let ep := (s.core c).seq.epochs.get i
  let s1 := s.modSeq c fun x => { x.modEpoch i fun _ => {} with
    flipCycles := min (s.cycle c - ep.tokenCycle) (2 ^ 32 - 1) }
  let s2 := s1.modSeq c fun x => { x with epochs := x.epochs.map fun e =>
    if e.rerunOf = ep.id then { e with rerunOf := 0 } else e }
  match (s2.core c).seq.heldOpens with
  | [] => s2
  | h :: rest => (s2.modSeq c fun x => { x with heldOpens := rest }).openEpoch c i h

/-- SETTLE_COMPLETE: every object of the epoch changes at once, its ceiling hits are added, its capacity is freed, and the
settle is reported (R197, R200, R251). -/
def execSettleComplete (c : Fin 8) (id : BitVec 16) (s : State) : Outcome State Fault Refusal :=
  let x := (s.core c).seq
  match x.place id with
  | none => .next s
  | some i =>
    let ep := x.epochs.get i
    if !s.coreRuns c || ep.st ≠ .settling || s.epochRuns c id || ep.rerunLeft ≠ [] || ep.rerunOf ≠ 0
        || s.epochQueued c id || !s.epochFilled c id then .next s
    else
      let s1 := (s.slotsOfEpoch c id).foldl (fun s slot =>
        match s.slotEnt c slot with
        | some e => s.setSlot c slot (settleSlot e (s.slotSt c slot))
        | none => s) s
      let s2 := if ep.ceil = 0 then s1 else
        (s1.modUpd c fun u => { u with ceilHits := satAdd 32 u.ceilHits ep.ceil }).raise 0x0602 (unit := c.val)
          (detail := BitVec.ofNat 32 ep.ceil)
      let left := (allCores.filter fun k => k ≠ c && s.coreLive k && ((s.core k).seq.place id).isSome).length
      .next ((s2.closePlace c i).report .settled
        (natLe 2 id.toNat ++ natLe 4 ep.step.toNat ++ natLe 1 c.val ++ natLe 1 left))

/-- DISCARD_COMPLETE: every write the epoch's tasks had issued has completed: its buffers return to EMPTY, its claims are
cancelled with their waits, its capacity is freed (R198, R497); once no core of the module holds it, the stewards drop
what still carries its ID (R199). -/
def execDiscardComplete (c : Fin 8) (id : BitVec 16) (s : State) : Outcome State Fault Refusal :=
  let x := (s.core c).seq
  match x.place id with
  | none => .next s
  | some i =>
    let ep := x.epochs.get i
    if !s.coreRuns c || ep.st ≠ .discarding || s.epochRuns c id || s.epochWrites c id then .next s
    else
      let s1 := (s.slotsOfEpoch c id).foldl (fun s slot =>
        match s.slotEnt c slot with
        | some e => s.setSlot c slot (discardSlot e (s.isReplace c slot) (s.slotSt c slot))
        | none => s) s
      let k := (s1.core c).seq
      let ended := (k.inherit ++ k.halted).filter fun t => t.epoch = id
      let s2 := ended.foldl (fun s t => (s.dropHolds c (t.holds.filter fun h => !h.acq)).dropMoveHolds
        (t.moveHolds.filter fun h => !h.acq)) s1
      let shed (t : Task) : Task := if t.epoch = id then { t with
        holds := t.holds.filter fun h => h.acq, moveHolds := t.moveHolds.filter fun h => h.acq || h.module.isSome } else t
      let free (t : Task) : Task := if t.epoch = id then { shed t with epoch := 0 } else t
      let s3a := s2.modSeq c fun x => { x with inherit := x.inherit.map free, halted := x.halted.map shed }
      let s3 := if ep.unwanted then s3a.releaseKept c else s3a
      let s4 := (s3.modScr c fun x => { x with waits := x.waits.filter fun w => w.acq || w.epoch ≠ id }).closePlace c i
      let left := allCores.any fun k => s4.coreLive k && ((s4.core k).seq.place id).isSome
      .next (if left then s4 else s4.modCas fun x => { x with discarded := (id :: x.discarded).take 16 })

end Sys2Proof.Machine
end

