-- ==== Sys2Proof/Machine/VecUnit.lean ====
section
/-! DEFINITION. Rows of a slot's buffer wherever it is homed, and the vector unit's command VEC (R87 to R92, R116,
R167, R168, R174, R187). -/

namespace Sys2Proof.Machine

open Host

/-! ### Rows of a buffer -/

/-- The address of an offset within a granted buffer, and whether it lies in stack memory; none when the extent leaves
the scratchpad, or stack memory (R99, R116). -/
def State.bufExtent (s : State) (c : Fin 8) (slot buf off bytes : Nat) : Option (Bool × Nat) :=
  match s.slotEnt c slot with
  | none => none
  | some e =>
    let a := s.bufBase c slot buf + off
    if a + bytes ≤ (if e.home then 2 ^ 41 else 2 ^ 26) then some (e.home, a) else none

/-- Bytes of a buffer read by an engine of the core: the code the read is refused with, or the bytes. -/
def State.engineRead (s : State) (c : Fin 8) (home : Bool) (a n : Nat) : Except (BitVec 16) (List (BitVec 8)) × State :=
  if home then (s.carry (coreHalf c) a n true).stackRead a n
  else
    match s.scrFetch c a n with
    | (some bs, s1) => (.ok bs, s1)
    | (none, s1) => (.error 0x0201, s1)

/-- Bytes written to a buffer by an engine of the core. -/
def State.engineWrite (s : State) (c : Fin 8) (home : Bool) (a : Nat) (bs : List (BitVec 8)) :
    Option (BitVec 16) × State :=
  if home then (s.carry (coreHalf c) a bs.length false).stackWrite a bs
  else
    match s.scrMerge c a bs with
    | (true, s1) => (none, s1)
    | (false, s1) => (some 0x0201, s1)

/-- The rows that an extent covers in part: each is read before it is written whole (R99). -/
def partRows (a n : Nat) : List Nat :=
  if n = 0 then []
  else ((if a % 512 = 0 then [] else [a / 512]) ++ (if (a + n) % 512 = 0 then [] else [(a + n) / 512])).eraseDups

/-- Bytes that leave a buffer or land in it through the movement engine's ports 10 and 11 (R100). -/
def State.moverRead (s : State) (c : Fin 8) (home : Bool) (a n : Nat) : Except (BitVec 16) (List (BitVec 8)) × State :=
  (if home then s else s.giveRows c (a / 512) (rowsOf a n) 10 0).engineRead c home a n
def State.moverWrite (s : State) (c : Fin 8) (home : Bool) (a : Nat) (bs : List (BitVec 8)) : Option (BitVec 16) × State :=
  (if home then s
    else ((partRows a bs.length).map fun r => (r, 1)).foldl (fun s x => s.giveRows c x.1 x.2 11 0) s
      |>.giveRows c (a / 512) (rowsOf a bs.length) 11 0).engineWrite c home a bs

/-- The accesses of an engine's command to its operands in the scratchpad, each by place, bytes and port, for `takeAll`. -/
def operandRows (l : List ((Bool × Nat) × Nat × Nat)) : List (Nat × Nat × Nat) :=
  (l.filter fun x => !x.1.1).map fun x => (x.1.2 / 512, rowsOf x.1.2 x.2.1, x.2.2)

/-- The same of the operands it writes, with the rows of each that it covers in part read first. -/
def resultRows (l : List ((Bool × Nat) × Nat × Nat)) : List (Nat × Nat × Nat) :=
  (l.filter fun x => !x.1.1).flatMap fun x =>
    (partRows x.1.2 x.2.1).map (fun r => (r, 1, x.2.2)) ++ [(x.1.2 / 512, rowsOf x.1.2 x.2.1, x.2.2)]

/-- A read or write of an engine that fails ends its task: a scratchpad's by its own report, a refusal of the stack with
the code it gave (R107, R223). -/
def State.engineFail (s : State) (c : Fin 8) (key : Nat) (code : BitVec 16) : State :=
  if code = 0x0201 then s.failCmd c key code else s.refuseTask c key code

/-! ### VEC (R174) -/

/-- An operand format of VEC: 0 FP32, 1 BF16, 2 FP16. -/
def vecFmt (n : Nat) : Option FpFmt :=
  match n with
  | 0 => some fpFp32
  | 1 => some fpBf16
  | 2 => some fpFp16
  | _ => none

def FpFmt.bytes (f : FpFmt) : Nat := f.bits / 8

/-- The codes of a vector. -/
def vecCodes (f : FpFmt) (bs : List (BitVec 8)) : List Nat := (List.range 512).map fun j => leAt bs (j * f.bytes) f.bytes

/-- max of R174: NaN if either is NaN. The manual does not say which zero is the larger of +0 and −0: that sign is a free
value. -/
def vecMax (free : Bool) (a b : Val) : Val :=
  if a.isNan || b.isNan then .nan
  else if a.isZero && b.isZero then (if a.sign = b.sign then a else .num free 0 0)
  else if a.lt b then b else a

/-- The exact result of one element (R174). -/
def vecOp (vop : Nat) (free : Bool) (sc a b : Val) : Val :=
  match vop with
  | 0 => a.add b
  | 1 => a.mul b
  | 2 => (sc.mul a).add b
  | 3 => sc.mul a
  | 6 => vecMax free a b
  | _ => a

/-- The element's code in D's format: one rounding, under NONFINITE (R92, R174). -/
def vecOut (d : FpFmt) (v : Val) : Nat := (d.round true v).code

/-- A VEC command's operands, resolved: formats, addresses and homes of the buffers. -/
structure VecArgs where
  vop : Nat
  fa : FpFmt
  fb : FpFmt
  fd : FpFmt
  a : Bool × Nat
  b : Bool × Nat
  d : Bool × Nat
  sc : Val
  deriving DecidableEq, Repr

/-- One vector of an operation with an output vector per input vector. -/
def State.vecStep (s : State) (c : Fin 8) (x : VecArgs) (v : Nat) : Option (BitVec 16) × State :=
  let n (f : FpFmt) : Nat := 512 * f.bytes
  match s.engineRead c x.a.1 (x.a.2 + v * n x.fa) (n x.fa) with
  | (.error e, s1) => (some e, s1)
  | (.ok as, s1) =>
    match (if vecTwo x.vop then s1.engineRead c x.b.1 (x.b.2 + v * n x.fb) (n x.fb) else (.ok [], s1)) with
    | (.error e, s2) => (some e, s2)
    | (.ok bs, s2) =>
      let ca := vecCodes x.fa as
      let cb := vecCodes x.fb bs
      let out := (List.range 512).flatMap fun j =>
        natLe x.fd.bytes (vecOut x.fd (vecOp x.vop (Config.freeBool (s.freeCtr + j)) x.sc
          (x.fa.decode (ca.getD j 0)) (x.fb.decode (cb.getD j 0))))
      { s2 with freeCtr := s2.freeCtr + 512 }.engineWrite c x.d.1 (x.d.2 + v * n x.fd) out

/-- Vectors in ascending order; those written before a fault stay (R187). -/
def State.vecRun (s : State) (c : Fin 8) (x : VecArgs) (v : Nat) : Nat → Option (BitVec 16) × State
  | 0 => (none, s)
  | n + 1 =>
    match s.vecStep c x v with
    | (none, s1) => s1.vecRun c x (v + 1) n
    | r => r

/-- SUMSQ: lane j sums a[v][j]² in ascending v, rounded to FP32 after each addition. -/
def State.sumSq (s : State) (c : Fin 8) (x : VecArgs) (v : Nat) (acc : List Nat) : Nat → Except (BitVec 16) (List Nat) × State
  | 0 => (.ok acc, s)
  | n + 1 =>
    let len := 512 * x.fa.bytes
    match s.engineRead c x.a.1 (x.a.2 + v * len) len with
    | (.error e, s1) => (.error e, s1)
    | (.ok as, s1) =>
      let acc' := (acc.zip (vecCodes x.fa as)).map fun p =>
        let a := x.fa.decode p.2
        toF32 ((f32 p.1).add (a.mul a))
      s1.sumSq c x (v + 1) acc' n

/-- The whole of a VEC command's work. -/
def State.vecAll (s : State) (c : Fin 8) (x : VecArgs) (vecs : Nat) : Option (BitVec 16) × State :=
  if x.vop = 5 then
    match s.sumSq c x 0 (List.replicate 512 0) vecs with
    | (.error e, s1) => (some e, s1)
    | (.ok acc, s1) =>
      s1.engineWrite c x.d.1 x.d.2 (acc.flatMap fun a => natLe x.fd.bytes (vecOut x.fd (f32 a)))
  else s.vecRun c x 0 vecs

/-- Slots with a flag set on them, tokens posted one by one. -/
def State.postTokens (s : State) (c : Fin 8) (key : Nat) (fill : Bool) (epoch : BitVec 16) (engine : Nat) :
    List (Nat × Nat) → State
  | [] => s
  | (slot, buf) :: rest => (s.postToken c key slot buf fill epoch engine).postTokens c key fill epoch engine rest

/-- VEC: an operation over a run of 512-element vectors in FP32 with one rounding into D's format (R168, R174, R187). A first
source is read on port 7, a second on port 8, and the destination written on the one that is free first (log entry 33). -/
def execVec (c : Fin 8) (task : Nat) (s : State) : Outcome State Fault Refusal :=
  match s.cmdReady c task 0x15 with
  | none => .next s
  | some (t, i, w) =>
    match vecFmt (fld w 85 84), vecFmt (fld w 87 86), vecFmt (fld w 89 88) with
    | some fa, some fb, some fd =>
      let vop := fld w 37 32
      let vecs := fld w 83 68 + 1
      let srcs := if vecTwo vop then [fld w 47 38, fld w 57 48] else [fld w 47 38]
      let dst := fld w 67 58
      match s.commandBufs c task true (bit w 116) srcs [] with
      | (.waits, _, s1) => .next s1
      | (.refused e, _, s1) => .next (s1.failCmd c task e (fld w 47 38))
      | (.granted _, bufs, s1) =>
        match s1.commandBufs c task false (bit w 118) [dst] [] with
        | (.waits, _, s2) => .next s2
        | (.refused e, _, s2) => .next (s2.failCmd c task e dst)
        | (.granted _, dbufs, s2) =>
          let row := fld w 113 90 * 512
          let outs := if vop = 5 then 1 else vecs
          let ea := s2.bufExtent c (srcs.getD 0 0) (bufs.getD 0 0) row (vecs * 512 * fa.bytes)
          let eb := if vecTwo vop then s2.bufExtent c (srcs.getD 1 0) (bufs.getD 1 0) row (vecs * 512 * fb.bytes)
            else some (false, 0)
          let ed := s2.bufExtent c dst (dbufs.getD 0 0) row (outs * 512 * fd.bytes)
          match ea, eb, ed with
          | some a, some b, some d =>
            let s3 := ((s2.modTask c task fun t => t.issued 1 i).consumeHolds c task true srcs).consumeHolds c task
              false [dst]
            let use := operandRows [(a, vecs * 512 * fa.bytes, 7), (b, if vecTwo vop then vecs * 512 * fb.bytes else 0, 8),
              (d, outs * 512 * fd.bytes, if vecTwo vop then 7 else 8)]
            match s3.takeAll c task 0 use with
            | (false, s4) => .next s4
            | (true, s3) =>
            (match s3.vecAll c ⟨vop, fa, fb, fd, a, b, d, f32 (t.arg (fld w 115 114))⟩ vecs with
              | (some e, s4) => .next (s4.engineFail c task e)
              | (none, s4) =>
                let s5 := if bit w 117 then s4.postTokens c task false t.epoch 1 (srcs.zip bufs).eraseDups else s4
                .next (if bit w 119 then s5.postToken c task dst (dbufs.getD 0 0) true t.epoch else s5))
          | _, _, _ => .next (s2.failCmd c task 0x0204 (fld w 113 90))
    | _, _, _ => .next (s.failCmd c task 0x0601)

end Sys2Proof.Machine
end

