-- ==== Sys2Proof/Machine/Movement.lean ====
section
/-! DEFINITION. The movement engine: how descriptors are admitted, take their slots, move their data and complete with
their transfer groups, the stream prefetcher and the decoupled token queues (chapter 05). -/

namespace Sys2Proof.Machine

open Host

/-! ### MOVE (R169, R181) -/

/-- MOVE: the template, patched, joins the access queue; a scheduled command that finds the queue full ends its task,
a decoupled one waits. A source or destination base is kept exact, so that one past the address space is seen at
admission. -/
def execMove (c : Fin 8) (task : Nat) (s : State) : Outcome State Fault Refusal :=
  match s.cmdReady c task 0x04 with
  | none => .next s
  | some (t, i, w) =>
    if 64 ≤ (s.core c).mov.queue.length then
      (if s.taskDecoupled c t then .next s else .next (s.failCmd c task 0x0407 i))
    else
      match s.cfg.bind fun g => g.template c.val (fld w 43 32) with
      | none => .next (s.failCmd c task 0x0302 (fld w 43 32))
      | some tpl =>
        let a : AccCmd := {
          desc := patchDesc tpl w t.arg, task := task, srcVer := bit w 126
          srcBase := dSrcBase tpl + 32 * (fld w 74 44 + t.arg (fld w 123 122))
          dstBase := dDstBase tpl + 32 * (fld w 105 75 + t.arg (fld w 125 124)) }
        .next ((s.modTask c task fun t => t.issued 0 i).modMov c fun m => { m with queue := m.queue ++ [a] })

/-! ### Admission (R138, R144, R147, R148) -/

/-- The bits of a descriptor that no field names (R135). -/
def dReserved (d : BitVec 1024) : Bool :=
  [(19, 19), (35, 35), (127, 123), (191, 177), (255, 233), (383, 376), (575, 544), (767, 736), (1023, 1008)].any
    fun r => fld d r.1 r.2 ≠ 0

def dPannier (d : BitVec 1024) : Bool := dDstSpace d = 3 || dDstSpace d = 4

/-- Check 1: a reserved kind, space, pannier operation or bit (R138, R229). -/
def dReservedUse (d : BitVec 1024) : Bool :=
  !(dKind d = 1 || dKind d = 2) || decide (1 < dSrcSpace d) || decide (4 < dDstSpace d) || dReserved d
    || (dPannier d && (dPan d = 0 || dPan d = 0xF))

/-- Check 2: formats, planes and conversions (R68, R135, R139, R229). R68 refuses a descriptor that names code 0xF in any format
field, a FILL's unused source format among them. -/
def dFormatBad (d : BitVec 1024) : Bool :=
  match fmtOfCode (dDstFmt d), fmtOfCode (dSrcFmt d) with
  | some t, some f =>
    let src : Bool := if dCopy d then
        ((f = .lf48) != (t = .lf48)) || dSrcStored d = 3
          || (if f.isPlaned then decide (planesOfCode (dSrcStored d) < f.planes) else dSrcStored d ≠ 0)
      else t = .lf48 || dSrcStored d = 3
    let pan : Bool := dPannier d && (if dPan d = 0xE then !(t = .bf16 || t = .fp16 || t = .fp32)
      else panFormat (dPan d) ≠ some t)
    src || pan
  | _, _ => true

/-- A side in a block format whose blocks would not be whole (R138). -/
def dBlockBad (d : BitVec 1024) (dst : Bool) : Bool :=
  let strides := (List.range 4).map fun k => if dst then dDstStride d (k + 1) else dSrcStride d (k + 1)
  let ends := if dst then [dExt d (dPerm d 0), dPadLo d 0, dPadHi d 0] else [dExt d 0]
  (strides.any fun x => x % 32 ≠ 0) || ends.any fun x => x % 32 ≠ 0

/-- A pannier side that R138 refuses: pads or FILL, an LF48 operation, a base or a run not on its lanes. -/
def dPannierBad (d : BitVec 1024) (base : Nat) : Bool :=
  let lane := panLane (dPan d)
  let w := if dDstFmt d = 0xA then 2 else 4
  !dCopy d || !dNoPads d || dPan d = 0xD || dPan d = 0xE || base % lane ≠ 0 || dExt d (dPerm d 0) * w % lane ≠ 0
    || (List.range 4).any fun k => decide (1 < dExt d (dPerm d (k + 1))) && dDstStride d (k + 1) * w % lane ≠ 0

/-- The size of a local slot's buffer; none when the slot is unused or its core fenced. -/
def State.slotSize (s : State) (core slot : Nat) : Option Nat :=
  let o := s.slotOwner (fin8 core) slot
  if s.coreLive o.1 then (s.slotEnt o.1 o.2).map (·.size) else none

/-- One side of a descriptor as admission sees it: whether it lies in stack memory, its slot when that is local, and
the highest byte or offset it touches. -/
structure SideUse where
  dst : Bool
  stack : Bool
  slotEn : Bool
  size : Option Nat
  remote : Bool
  base : Nat
  top : Nat
  deriving DecidableEq, Repr

def State.sideUse (s : State) (a : AccCmd) (dst : Bool) : Option SideUse :=
  let d := a.desc
  let base := if dst then a.dstBase else a.srcBase
  let en := if dst then dDstSlotEn d else dSrcSlotEn d
  let far := dst && s.descRemote d
  (dSide d dst base).map fun x => {
    dst := dst, stack := if dst then dDstSpace d ≠ 0 else dSrcSpace d = 1, slotEn := en, remote := far, base := base
    size := if en && !far then (if dst then s.slotSize (dDstCore d) (dDstSlot d) else s.slotSize (dSrcCore d) (dSrcSlot d))
      else none
    top := x.top (if dst then dstShape d else srcShape d) }

/-- The sides a descriptor has: a FILL has no source (R135). -/
def State.sideUses (s : State) (a : AccCmd) : List SideUse :=
  (if dCopy a.desc then [false, true] else [true]).filterMap fun dst => s.sideUse a dst

/-- Check 3 (R138, R141). DESIGN CHOICE (log entry 78, unsafe): the spec does not say over which shape the limit of 2^40 elements is
taken; the model takes the destination's, pads included. -/
def State.dShapeBad (s : State) (a : AccCmd) : Bool :=
  let d := a.desc
  let blockBad (dst : Bool) (code : Nat) : Bool :=
    (match fmtOfCode code with | some f => f.isBlock | none => false) && dBlockBad d dst
  let wide (code : Nat) : Bool := code = 0xD || code = 0xE
  !((List.range 5).all fun k => (dPermList d).contains k)
    || ((List.range 5).any fun k => dExt d k = 0)
    || (dCopy d && blockBad false (dSrcFmt d)) || blockBad true (dDstFmt d)
    || (dPannier d && dPannierBad d a.dstBase)
    || (dCopy d && dPerm d 0 ≠ 0 && (wide (dSrcFmt d) || wide (dDstFmt d)))
    || (dCopy d && decide (shapeLow (srcShape d) < 0)) || decide (shapeLow (dstShape d) < 0)
    || decide (2 ^ 40 < product ((dstShape d).map (·.1)))
    || (s.sideUses a).any fun u => u.stack && (decide (2 ^ 41 ≤ u.top) ||
        (match u.size with | some n => decide (n ≤ u.top) | none => false))

/-- Check 4: a scratchpad side off its rows, or past its buffer or the scratchpad (R99, R138). -/
def State.dScratchBad (s : State) (a : AccCmd) : Bool :=
  (s.sideUses a).any fun u => !u.stack && (u.base % 512 ≠ 0 || decide (u.size.getD (2 ^ 26) ≤ u.top))

/-- Check 5: a local slot unused or of a fenced core (R124, R138). -/
def State.dSlotBad (s : State) (a : AccCmd) : Bool :=
  (s.sideUses a).any fun u => u.slotEn && !u.remote && u.size.isNone

/-- Check 7: how the sides of a copy overlap (R147, R148); none when the copy is refused. A slot-enabled side has its
buffer to itself and is not compared. -/
def State.dPath (s : State) (a : AccCmd) : Option MovePath :=
  let d := a.desc
  match dSide d false a.srcBase, dSide d true a.dstBase with
  | some x, some y =>
    let same := if dDstSpace d = 0 then dSrcSpace d = 0 else dSrcSpace d = 1 && !s.descRemote d
    let cross := (x.extents (srcShape d)).any fun e => (y.extents (dstShape d)).any fun f =>
      decide (e.1 ≤ f.2 ∧ f.1 ≤ e.2)
    if !dCopy d || dSrcSlotEn d || dDstSlotEn d || !same || !cross then some .plain
    else
      let strides := x.fmt = y.fmt && (List.range 5).all fun k => dSrcStride d k = dDstStride d k
      let w := x.fmt.bits / 8
      let whole := x.fmt = .mxfp8e4 || x.fmt = .mxfp8e5 || (!x.fmt.isBlock && (w = 1 || w = 2 || w = 4))
      if dPermList d = [0, 1, 2, 3, 4] && strides then some .plain
      else if strides && whole && x.base = y.base && dPermList d = [1, 0, 2, 3, 4] && dExt d 0 = dExt d 1
          && decide (dExt d 0 ≤ 64) && decide (dExt d 0 * w ≤ 64) then some .inPlace
      else
        let n := product ((List.range 5).map (dExt d))
        let bytes := x.arrays.foldl (fun t r => t + n / r.2.2 * r.2.1) 0
        if dStage d && decide (bytes ≤ 2 ^ 21) then some .staged else none
  | _, _ => some .plain

/-- The descriptor would join the open transfer group (R144). -/
def Mov.joins (m : Mov) (d : BitVec 1024) : Bool := m.groupId = some (BitVec.ofNat 12 (dGroup d))

/-- R138: the first check that fails, in the order given. -/
def State.admitCheck (s : State) (c : Fin 8) (a : AccCmd) : Option (BitVec 16) :=
  let d := a.desc
  if dReservedUse d then some 0x0302
  else if dFormatBad d then some 0x0601
  else if s.dShapeBad a then some 0x0302
  else if s.dScratchBad a then some 0x0204
  else if s.dSlotBad a then some 0x0312
  else if s.descRemote d && s.routePorts (dModule d) = [] then some 0x0304
  else if (s.dPath a).isNone then some 0x0301
  else if (s.core c).mov.joins d && decide (64 ≤ (s.core c).mov.groupCount) then some 0x0303
  else none

/-- The descriptor joins the open group, or ends it and opens its own; GROUP_END closes the group (R144). -/
def Mov.joinGroup (m : Mov) (d : BitVec 1024) : Mov :=
  let m1 : Mov := if m.joins d then { m with groupCount := m.groupCount + 1 }
    else { m with groupId := some (BitVec.ofNat 12 (dGroup d)), grp := m.grp + 1, groupCount := 1 }
  if dGroupEnd d then { m1 with groupId := none, groupCount := 0 } else m1

/-- The lowest place that neither a descriptor in flight nor a group's unacknowledged pads occupy (R134, R498). -/
def Mov.freePlace (m : Mov) : Option Nat :=
  (List.range 16).find? fun p => (tabGet none m.flying p).isNone && m.groupDone.all fun g => g.place ≠ some p

/-- A descriptor acquires its source slot, then claims its destination (R149). -/
def State.acquireSource (s : State) (c : Fin 8) (p : Nat) : State :=
  match s.place c p with
  | none => s
  | some f =>
    let d := f.desc
    let granted (s : State) (o : Fin 8) (slot b : Nat) : State :=
      (s.modPlace c p fun f => { f with srcBuf := some b, srcBase := f.srcBase + s.bufBase o slot b }).claimDest c p
    if !dCopy d || !dSrcSlotEn d then s.claimDest c p
    else
      let o := s.slotOwner (fin8 (dSrcCore d)) (dSrcSlot d)
      match s.takeHold c f.task fun h => h.acq && h.core = dSrcCore d && h.slot = dSrcSlot d with
      | (some h, s1) => granted s1 o.1 o.2 h.buf
      | (none, s1) =>
        if !s1.coreLive o.1 then s1.endDesc c p 0x0312 true
        else
          let w : SlotWait := {
            acq := true, slot := o.2, rq := .place c.val p false, epoch := f.epoch, neve := f.srcVer, task := f.task }
          match s1.ask o.1 w with
          | (.granted b, s2) => granted s2 o.1 o.2 b
          | (.waits, s2) => s2.addWait o.1 w
          | (.refused e, s2) => s2.endDesc c p e true

/-- DESCRIPTOR_ADMIT: the head of the access queue is admitted while fewer than 16 are in flight, or refused by the
first check it fails (R134, R138, R144, R149). DESIGN CHOICE (log entry 80, unsafe): a refused descriptor neither joins the open
group nor, by its GROUP_END or another GROUP, ends it. -/
def execDescriptorAdmit (c : Fin 8) (s : State) : Outcome State Fault Refusal :=
  let m := (s.core c).mov
  match m.queue, m.freePlace with
  | a :: rest, some p =>
    if !s.coreRuns c || s.tokenHeld c 0 then .next s
    else
      let s0 := s.modMov c fun m => { m with queue := rest }
      match s.admitCheck c a with
      | some code =>
        .next ((s0.modMov c fun m => { m with
          lastTag := BitVec.ofNat 16 (dTag a.desc), lastCode := code }).softFault c a.task code
            (BitVec.ofNat 32 (dTag a.desc)))
      | none =>
        let path := (s.dPath a).getD .plain
        let epoch := match s.findTask c a.task with
          | some t => t.epoch
          | none => 0
        .next ((s0.modMov c fun m =>
          let m1 := m.joinGroup a.desc
          let grp := if m.joins a.desc then m.grp else m.grp + 1
          let f : Flying := {
            desc := a.desc, task := a.task, place := p, order := m.order + 1, epoch := epoch, srcVer := a.srcVer
            srcBase := a.srcBase, dstBase := a.dstBase, path := path, grp := grp }
          { m1 with
            order := m.order + 1, flying := tabSet none m1.flying p (some f)
            inplace := if path = .inPlace then satAdd 32 m.inplace 1 else m.inplace
            staged := if path = .staged then satAdd 32 m.staged 1 else m.staged }).acquireSource c p)
  | _, _ => .next s

/-! ### Elements read (R139, R140) -/

/-- Units of a memory read for a transfer, with their bytes: scratchpad rows or stack sectors. -/
abbrev Fetched := Tab (List (BitVec 8))

def unitBytes (home : Bool) : Nat := if home then 32 else 512

/-- One unit is read, once. -/
def State.fetchUnit (s : State) (c : Fin 8) (home noAlloc : Bool) (got : Fetched) (u : Nat) :
    Except (BitVec 16) Fetched × State :=
  if tabGet [] got u ≠ [] then (.ok got, s)
  else if home then
    let s0 := (s.carry (coreHalf c) (u * 32) 32 true).modMov c fun m => { m with
      pfSectors := m.pfSectors.filter fun x => x ≠ u, pfSkip := m.pfSkip.filter fun x => x ≠ u }
    match s0.stackRead (u * 32) 32 noAlloc with
    | (.ok bs, s1) => (.ok (tabSet [] got u bs), s1)
    | (.error e, s1) => (.error e, s1)
  else
    match (s.giveRows c u 1 10 0).scrReadRow c u with
    | (true, s1) => (.ok (tabSet [] got u (s1.scrBytes c (u * 512) 512)), s1)
    | (false, s1) => (.error 0x0201, s1)

def State.fetchUnits (s : State) (c : Fin 8) (home noAlloc : Bool) (got : Fetched) :
    List Nat → Except (BitVec 16) Fetched × State
  | [] => (.ok got, s)
  | u :: us =>
    match s.fetchUnit c home noAlloc got u with
    | (.ok g, s1) => s1.fetchUnits c home noAlloc g us
    | r => r

/-- The units an element lies in, its scale's included. -/
def Side.units (x : Side) (home : Bool) (e : Nat) : List Nat :=
  let n := unitBytes home
  ((x.pieces e).flatMap fun q =>
    let a := q.1 / 8 / n
    (List.range ((q.1 + q.2 - 1) / 8 / n + 1 - a)).map fun i => a + i)
  ++ (match x.scaleByte e with | some a => [a / n] | none => [])

/-- The source index of the n-th data element, and its destination index (R136). -/
def dCoords (d : BitVec 1024) (n : Nat) : List Nat := coordsOf ((List.range 5).map (dExt d)) n
def dElemSrc (d : BitVec 1024) (n : Nat) : Nat := indexAt (srcShape d) (dCoords d n)
def dElemDst (d : BitVec 1024) (n : Nat) : Nat :=
  let i := dCoords d n
  indexAt (dstShape d) ((List.range 5).map fun k => i.getD (dPerm d k) 0 + dPadLo d k)
def dCount (d : BitVec 1024) : Nat := product ((List.range 5).map (dExt d))

/-- Every source element is read, in ascending order: the data, and the first element that could not be read with the
code. -/
def State.fetchFrom (s : State) (c : Fin 8) (d : BitVec 1024) (x : Side) (got : Fetched) (n : Nat) :
    Nat → Fetched × Option (Nat × BitVec 16) × State
  | 0 => (got, none, s)
  | k + 1 =>
    let home := dSrcSpace d = 1
    match s.fetchUnits c home (dNoAlloc d) got (x.units home (dElemSrc d n)) with
    | (.ok g, s1) => s1.fetchFrom c d x g (n + 1) k
    | (.error e, s1) => (got, some (n, e), s1)

/-- A byte of what was read. -/
def fetchedByte (home : Bool) (got : Fetched) (a : Nat) : Nat :=
  let n := unitBytes home
  ((tabGet [] got (a / n)).getD (a % n) 0).toNat

/-- An element's code, from its pieces. -/
def Side.code (x : Side) (home : Bool) (got : Fetched) (e : Nat) : Nat :=
  (x.pieces e).foldl (fun acc q =>
    let v := (List.range q.2).foldl (fun v i =>
      v + fetchedByte home got ((q.1 + i) / 8) / 2 ^ ((q.1 + i) % 8) % 2 * 2 ^ i) 0
    acc * 2 ^ q.2 + v) 0
def Side.scale (x : Side) (home : Bool) (got : Fetched) (e : Nat) : Nat :=
  match x.scaleByte e with
  | some a => fetchedByte home got a
  | none => 0

/-! ### Elements written (R136, R137, R139, R146) -/

/-- What a transfer writes: each byte touched, with its value and the mask of the bits written. -/
abbrev Patch := Tab (BitVec 8 × BitVec 8)

/-- `w` bits written from a bit address. -/
def putBits (t : Patch) (a w v : Nat) : Patch :=
  (List.range w).foldl (fun t i =>
    let m : BitVec 8 := 1#8 <<< ((a + i) % 8)
    tabMod (0, 0) t ((a + i) / 8) fun b =>
      (if v / 2 ^ i % 2 = 1 then b.1 ||| m else b.1 &&& ~~~m, b.2 ||| m)) t

/-- An element's code and, in a block format, its block's scale. -/
def Side.put (x : Side) (t : Patch) (e code scale : Nat) : Patch :=
  let t1 := ((x.pieces e).foldr (fun q (acc : Patch × Nat) => (putBits acc.1 q.1 q.2 acc.2, acc.2 / 2 ^ q.2))
    (t, code)).1
  match x.scaleByte e with
  | some a => putBits t1 (8 * a) 8 scale
  | none => t1

/-- The path of a copy (R139): the bits are copied unchanged, or every element is converted. -/
def dUnchanged (d : BitVec 1024) (x y : Side) : Bool :=
  x.fmt = y.fmt &&
    (if x.fmt.isPlaned then !dMidpoint d || planesOfCode (dSrcStored d) = x.fmt.planes
     else if x.fmt.isTensorScaled then dSrcTscale d = dDstTscale d else true)

/-- The value of a source element (R70 to R79, R139). -/
def dValue (d : BitVec 1024) (x : Side) (got : Fetched) (n : Nat) : Val :=
  let home := dSrcSpace d = 1
  let e := dElemSrc d n
  elemVal x.fmt x.fmt.planes (planesOfCode (dSrcStored d)) (dMidpoint d) (x.code home got e)
    (if x.fmt.isTensorScaled then dSrcTscale d else x.scale home got e)

/-- A value as an element of a destination that is not a block format (R88 to R91, R139). DESIGN CHOICE (log entry 80, unsafe):
PAD_VALUE has no code in LF48, and a pad of an LF48 to LF48 copy is 0 (R146). -/
def dEncode (d : BitVec 1024) (f : Fmt) (v : Val) : Nat :=
  match f.elem with
  | some ef =>
    let w := if f.isTensorScaled then v.scale (127 - (dDstTscale d : Int)) else v
    (ef.round (dOvf d) w).code
  | none => 0

/-- The number of the source element that lands at some destination coordinates inside the data. -/
def dFrom (d : BitVec 1024) (o : List Nat) : Nat :=
  numberOf ((List.range 5).map (dExt d)) ((List.range 5).map fun m =>
    o.getD ((dPermList d).idxOf m) 0)

/-- The writes of one block of a block-format destination: 32 consecutive destination elements along dimension 0. None
when one of them lies beyond the first `m` elements. -/
def dBlock (d : BitVec 1024) (x y : Side) (got : Fetched) (m : Nat) (t : Patch) (b : Nat) : Patch :=
  let exts := (List.range 5).map fun k => dExt d (dPerm d k)
  let o := coordsOf (exts.headD 0 / 32 :: exts.drop 1) b
  let cell (j : Nat) : List Nat := (32 * o.headD 0 + j) :: o.drop 1
  let ns := (List.range 32).map fun j => dFrom d (cell j)
  if ns.all fun n => decide (n < m) then
    let r := convBlock y.fmt (dOvf d) (ns.map (dValue d x got))
    ((List.range 32).zip r.2).foldl (fun t q =>
      y.put t (dElemDst d (dFrom d (cell q.1))) q.2.code r.1) t
  else t

/-- The data elements of a copy, the first `m` in ascending source order. DESIGN CHOICE (log entry 78, unsafe): where a copy that
changes no bit lays elements of several source blocks in one destination block, the spec does not say whose scale byte that
block keeps (R139); the element written last decides. -/
def dData (d : BitVec 1024) (x y : Side) (got : Fetched) (m : Nat) : Patch :=
  let home := dSrcSpace d = 1
  if dUnchanged d x y then
    (List.range m).foldl (fun t n =>
      let e := dElemSrc d n
      y.put t (dElemDst d n) (x.code home got e) (x.scale home got e)) []
  else if y.fmt.isBlock then (List.range (dCount d / 32)).foldl (dBlock d x y got m) []
  else (List.range m).foldl (fun t n => y.put t (dElemDst d n) (dEncode d y.fmt (dValue d x got n)) 0) []

/-! ### Memory written (R142, R149) -/

/-- The touched units of a patch, each whole. -/
def patchUnits (unit : Nat) (t : Patch) : List (Nat × List (BitVec 8 × BitVec 8)) :=
  ((t.map fun x => x.1 / unit).eraseDups).map fun u =>
    (u, (List.range unit).map fun i => tabGet (0, 0) t (u * unit + i))

def mergeByte (old : BitVec 8) (x : BitVec 8 × BitVec 8) : BitVec 8 := (old &&& ~~~x.2) ||| (x.1 &&& x.2)
def mergeBytes (old : List (BitVec 8)) (l : List (BitVec 8 × BitVec 8)) : List (BitVec 8) :=
  (old.zip l).map fun x => mergeByte x.1 x.2

/-- A scratchpad row: one written in part is read, merged and written whole. -/
def State.putRow (s : State) (c : Fin 8) (u : Nat) (l : List (BitVec 8 × BitVec 8)) : Option (BitVec 16) × State :=
  let s0 := s.giveRows c u 1 11 0
  let r := if l.all fun x => x.2 = 0xFF then (true, s0) else (s0.giveRows c u 1 11 0).scrReadRow c u
  if r.1 then (none, r.2.scrWrite c (u * 512) (mergeBytes (r.2.scrBytes c (u * 512) 512) l)) else (some 0x0201, r.2)

/-- A stack sector: written whole, or by a masked write; bytes shared by narrow elements are merged. -/
def State.putSector (s : State) (u : Nat) (l : List (BitVec 8 × BitVec 8)) : Option (BitVec 16) × State :=
  let shared := l.any fun x => x.2 ≠ 0 && x.2 ≠ 0xFF
  let mask := l.map fun x => decide (x.2 ≠ 0)
  match (if shared then s.stackRead (u * 32) 32 else (.ok (List.replicate 32 0), s)) with
  | (.error e, s1) => (some e, s1)
  | (.ok old, s1) => (s1.passSlot (u * 32)).serveWrites (sectorWrites (u * 32) (mergeBytes old l) mask)

/-- A pannier operation on the lanes of one sector (R229, R232). -/
def State.putLanes (s : State) (op : Nat) (ovf : Bool) : List (Nat × List (BitVec 8)) → Option (BitVec 16) × State
  | [] => (none, s)
  | (a, bs) :: rest =>
    match s.panApply op ovf a bs with
    | (none, s1) => s1.putLanes op ovf rest
    | r => r

/-- A remote write: its messages, and how many acknowledgements they will bring. A byte written in part leaves whole, its
other bits being free values: a message carries no mask. -/
def State.sendPatch (s : State) (c : Fin 8) (f : Flying) (place : Nat) (t : Patch) : Nat × State :=
  let d := f.desc
  let fr := Config.freeBits 8 s.freeCtr
  let vals := t.map fun x => mergeByte fr x.2
  let lo := (t.headD (0, 0, 0)).1
  let hi := (t.getLastD (0, 0, 0)).1
  let bytes := (List.range (hi + 1 - lo)).map fun i => (tabGet (0, 0) t (lo + i))
  let runs := if t = [] then [] else
    maskRuns lo (bytes.map (mergeByte fr)) (bytes.map fun x => decide (x.2 ≠ 0))
  let msgs := runs.flatMap fun r => cutMessages r.1 r.2
  let pan := dDstSpace d = 4
  (msgs.length, msgs.foldl (fun s r =>
    s.sendMsg (dModule d) (if pan then 0x02 else 0x01) (if dVc d then vcRed else vcBulk)
      (writeArgs r.1 f.epoch.toNat place c.val 0 (if pan then dPan d else 0) (pan && dOvf d) 0) r.2 (from_ := some (coreHalf c)))
    (if vals = [] then s else s.draw))

/-! ### Rates: the counters of misaligned runs and turned bytes (R141 to R143) -/

/-- The runs of a side that are not aligned (R142): the number of the run, its first byte, its bytes and the elements of one
unit of its array. -/
def Side.misaligned (x : Side) (l : List (Nat × Int)) (stack : Bool) : List (Nat × Nat × Nat × Nat) :=
  let n := unitBytes stack
  let exts := l.map (·.1)
  let outer := exts.drop 1
  x.arrays.flatMap fun a =>
    let len := (exts.headD 0 + a.2.2 - 1) / a.2.2 * a.2.1
    (List.range (product outer)).filterMap fun q =>
      let start := a.1 + indexAt l (0 :: coordsOf outer q) / a.2.2 * a.2.1
      if start % n ≠ 0 || (start + len) % n ≠ 0 then some (q, start, len, a.2.2) else none

/-- Bytes of a source's misaligned runs that its first `m` elements have read. -/
def Side.misread (x : Side) (l : List (Nat × Int)) (stack : Bool) (m : Nat) : Nat :=
  let e0 := (l.headD (0, 0)).1
  (x.misaligned l stack).foldl (fun t r =>
    let k := min e0 (m - r.1 * e0)
    let units := (e0 + r.2.2.2 - 1) / r.2.2.2
    t + (k + r.2.2.2 - 1) / r.2.2.2 * (r.2.2.1 / max 1 units)) 0

/-- Bytes written, those that lie in misaligned runs of the destination among them (R143, R160). -/
def State.countWritten (s : State) (c : Fin 8) (runs : List (Nat × Nat × Nat × Nat)) (bytes : List Nat) : State :=
  let bad := bytes.filter fun b => runs.any fun r => decide (r.2.1 ≤ b ∧ b < r.2.1 + r.2.2.1)
  s.modMov c fun m => { m with bytes := satAdd 64 m.bytes bytes.length, halfBytes := satAdd 64 m.halfBytes bad.length }

/-- Width of an element in a turn tile (R141). -/
def turnWidth (f : Fmt) : Nat := if f.isFloatPath then 2 else if f = .fp32 then 4 else 1

/-- The source elements read so far: bytes of misaligned runs, and bytes that passed a turn tile (R143). -/
def State.countRead (s : State) (c : Fin 8) (d : BitVec 1024) (x : Side) (m : Nat) : State :=
  let turn := if dPerm d 0 ≠ 0 then m * turnWidth x.fmt else 0
  s.modMov c fun k => { k with
    halfBytes := satAdd 64 k.halfBytes (x.misread (srcShape d) (dSrcSpace d = 1) m)
    turnBytes := satAdd 64 k.turnBytes turn }

/-- Units written one after another, up to the first refusal; what is written is counted. -/
def State.putUnits (s : State) (c : Fin 8) (d : BitVec 1024) (runs : List (Nat × Nat × Nat × Nat)) :
    List (Nat × List (BitVec 8 × BitVec 8)) → Option (BitVec 16) × State
  | [] => (none, s)
  | (u, l) :: rest =>
    let n := if dDstSpace d = 0 then 512 else 32
    let touched := (l.zipIdx.filter fun x => x.1.2 ≠ 0).map fun x => u * n + x.2
    let s0 := if dDstSpace d = 0 then s else s.carry (coreHalf c) (u * 32) touched.length false
    let r := if dDstSpace d = 0 then s0.putRow c u l
      else if dPannier d then
        s0.putLanes (dPan d) (dOvf d) (maskRuns (u * 32) (l.map (·.1)) (l.map fun x => decide (x.2 ≠ 0)))
      else s0.putSector u l
    match r with
    | (none, s1) => (s1.countWritten c runs touched).putUnits c d runs rest
    | r => r

/-- A patch written where a descriptor's destination lies: the refusal that stopped it, and the acknowledgements due. -/
def State.putPatch (s : State) (c : Fin 8) (f : Flying) (place : Nat) (t : Patch) : Option (BitVec 16) × Nat × State :=
  let d := f.desc
  let runs := match dSide d true f.dstBase with
    | some y => y.misaligned (dstShape d) (dDstSpace d ≠ 0)
    | none => []
  if s.descRemote d then
    let r := (s.countWritten c runs (t.map (·.1))).sendPatch c f place t
    (none, r.1, r.2)
  else
    let r := s.putUnits c d runs (patchUnits (if dDstSpace d = 0 then 512 else 32) t)
    (r.1, 0, r.2)

/-! ### Completion (R134, R144, R145, R150, R151) -/

/-- The memory a side lies in: the core's scratchpad, local stack memory, or another module's. -/
def State.dstMem (s : State) (d : BitVec 1024) : Nat :=
  if dDstSpace d = 0 then 0 else if s.descRemote d then 2 + dModule d else 1

/-- The intervals a descriptor touches whose addresses are known: memory, written or read, lowest and highest byte. -/
def State.spans (s : State) (f : Flying) : List (Nat × Bool × Nat × Nat) :=
  let d := f.desc
  let src := if dCopy d && (!dSrcSlotEn d || f.srcBuf.isSome) then
      match dSide d false f.srcBase with
      | some x => (x.extents (srcShape d)).map fun e => (dSrcSpace d, false, e.1, e.2)
      | none => []
    else []
  let dst := if !dDstSlotEn d || f.dstBuf.isSome then
      match dSide d true f.dstBase with
      | some x => (x.extents (dstShape d)).map fun e => (s.dstMem d, true, e.1, e.2)
      | none => []
    else []
  src ++ dst

/-- Two descriptors touch one byte, and one of them writes it. -/
def State.clashes (s : State) (f g : Flying) : Bool :=
  (s.spans f).any fun x => (s.spans g).any fun y =>
    x.1 = y.1 && (x.2.1 || y.2.1) && decide (x.2.2.1 ≤ y.2.2.2 ∧ y.2.2.1 ≤ x.2.2.2)

/-- Two descriptors of one group write one slot, where the later element stays (R145). -/
def State.sameSlot (s : State) (f g : Flying) : Bool :=
  f.grp = g.grp && dDstSlotEn f.desc && dDstSlotEn g.desc && s.dstMem f.desc = s.dstMem g.desc
    && dDstSlot f.desc = dDstSlot g.desc && dDstCore f.desc = dDstCore g.desc

/-- The descriptors in flight. -/
def Mov.flights (m : Mov) : List Flying := m.flying.filterMap (·.2)

/-- An earlier descriptor must move, or its group must write its pads, before this one (R134, R145, R148). -/
def State.behind (s : State) (c : Fin 8) (f : Flying) : Bool :=
  let m := (s.core c).mov
  let pads (g : Flying) : Bool := g.grp ≠ f.grp && descOwes g.desc && (!dCopy g.desc || !dNoPads g.desc)
  (m.flights.any fun g => decide (g.order < f.order) &&
    (if g.written then pads g && s.clashes f g
     else s.clashes f g || s.sameSlot f g || (f.path = .staged && g.path = .staged)))
  || m.groupDone.any fun r => decide (r.fl.order < f.order) && !r.padded && pads r.fl && s.clashes f r.fl

/-- Its slots are granted and its data is not yet written. -/
def Flying.ready (f : Flying) : Bool :=
  !f.written && (!dCopy f.desc || !dSrcSlotEn f.desc || f.srcBuf.isSome) && (!dDstSlotEn f.desc || f.dstBuf.isSome)

/-- A written descriptor whose acknowledgements are in leaves its place for its group's record (R144, R149). -/
def State.finishDesc (s : State) (c : Fin 8) (p : Nat) : State :=
  match s.place c p with
  | none => s
  | some f =>
    if f.written && f.acksDue = 0 then
      s.modMov c fun m => { m with flying := tabSet none m.flying p none, groupDone := m.groupDone ++ [{ fl := f }] }
    else s

/-- The release token of a descriptor's source buffer (R119, R144, R151). -/
def State.releaseSource (s : State) (c : Fin 8) (p : Nat) : State :=
  match s.place c p with
  | none => s
  | some f =>
    match f.srcBuf with
    | none => s
    | some b =>
      (s.modPlace c p fun f => { f with srcBuf := none }).takeToken (fin8 (dSrcCore f.desc)) (dSrcSlot f.desc) b false
        f.epoch (some (c, f.task))

/-- A fault while a descriptor moves (R150, R151): its source is released, and it stops. A scratchpad's code and a lost
route are raised by the engine; a stack's code was raised where the request was refused. -/
def State.stopMoving (s : State) (c : Fin 8) (p : Nat) (code : BitVec 16) : State :=
  (s.releaseSource c p).endDesc c p code (codeDomain code = 0)

/-- How many elements a stopped copy has written (R151): the manual leaves the writes already issued open, so a free
number of those before the failing one; none of a staged source, whole tiles of an in-place copy. -/
def writtenBefore (path : MovePath) (d : BitVec 1024) (free n : Nat) : Nat :=
  match path with
  | .plain => free % (n + 1)
  | .inPlace => let t := dExt d 0 * dExt d 1; free % (n / t + 1) * t
  | .staged => 0

/-- A destination module that has no route left, or is lost (R150, R327). -/
def State.moduleLost (s : State) (m : Nat) : Bool := s.cas.lostRoutes.contains m || s.cas.lost.contains m

/-- A descriptor moves its data (R139 to R151). DESIGN CHOICE (log entry 80, unsafe): the whole source is read before anything is
written, also in an in-place copy whose tiles overlap one another, for which R148 gives no order between tiles. -/
def State.moveData (s : State) (c : Fin 8) (f : Flying) : State :=
  let d := f.desc
  let p := f.place
  match dSide d false f.srcBase, dSide d true f.dstBase with
  | src, some y =>
    let x := src.getD y
    if !dCopy d then (s.modPlace c p fun f => { f with written := true }).finishDesc c p
    else
      match s.fetchFrom c d x [] 0 (dCount d) with
      | (got, none, s1) =>
        let s2 := (s1.countRead c d x (dCount d)).releaseSource c p
        (match s2.putPatch c f p (dData d x y got (dCount d)) with
          | (none, n, s3) => (s3.modPlace c p fun f => { f with written := true, acksDue := n }).finishDesc c p
          | (some code, _, s3) => s3.stopMoving c p code)
      | (got, some (n, code), s1) =>
        let m := writtenBefore f.path d (Config.freeNat s1.freeCtr) n
        (((s1.countRead c d x n).draw.putPatch c f p (dData d x y got m)).2.2).stopMoving c p code
  | _, none => s

/-- DESCRIPTOR_COMPLETE: the oldest descriptor that has its slots, and that no earlier one must precede, moves: its last
read returns, its source is released, and its data is written or on its way (R134, R144). -/
def execDescriptorComplete (c : Fin 8) (s : State) : Outcome State Fault Refusal :=
  if !s.coreRuns c || s.tokenHeld c 0 then .next s
  else
    let able := (s.core c).mov.flights.filter fun f => f.ready && !s.behind c f
    match able.find? fun f => able.all fun g => decide (f.order ≤ g.order) with
    | none => .next s
    | some f =>
      if s.descRemote f.desc && s.moduleLost (dModule f.desc) then .next (s.stopMoving c f.place 0x0305)
      else .next (s.moveData c f)

/-- The address of an element: the memory it lies in and its lowest bit (R145). -/
def Side.at_ (x : Side) (mem e : Nat) : Nat × Nat := (mem, ((x.pieces e).headD (0, 0)).1)

/-- Every element address a group's descriptors write with data. -/
def State.groupData (s : State) (l : List GroupRec) : List (Nat × Nat) :=
  l.flatMap fun r =>
    let d := r.fl.desc
    match dSide d true r.fl.dstBase with
    | some y => if dCopy d then (List.range (dCount d)).map fun n => y.at_ (s.dstMem d) (dElemDst d n) else []
    | none => []

/-- The pad and FILL elements of a descriptor that yield to no data of their group, with PAD_VALUE converted once
(R144 to R146). -/
def State.padPatch (s : State) (data : List (Nat × Nat)) (f : Flying) : Patch :=
  let d := f.desc
  match dSide d true f.dstBase with
  | none => []
  | some y =>
    let l := dstShape d
    let exts := l.map (·.1)
    let v := f32 (dPadValue d)
    let blk := convBlock y.fmt (dOvf d) (List.replicate 32 v)
    let code (e : Nat) : Nat := if y.fmt.isBlock then (blk.2.getD (e % 32) ⟨0, false, false⟩).code else dEncode d y.fmt v
    let isPad (j : List Nat) : Bool := !dCopy d || (List.range 5).any fun k =>
      decide (j.getD k 0 < dPadLo d k) || decide (dPadLo d k + dExt d (dPerm d k) ≤ j.getD k 0)
    if dCopy d && dNoPads d then []
    else
      (List.range (product exts)).foldl (fun t n =>
        let j := coordsOf exts n
        let e := indexAt l j
        if isPad j && !data.contains (y.at_ (s.dstMem d) e) then y.put t e (code e) blk.1 else t) []

def sameDesc (r : GroupRec) (f : Flying) : Bool := r.fl.order = f.order

def State.modRec (s : State) (c : Fin 8) (f : Flying) (g : GroupRec → GroupRec) : State :=
  s.modMov c fun m => { m with groupDone := m.groupDone.map fun r => if sameDesc r f then g r else r }

/-- The pads of one descriptor are written; a refused write stops it (R151). Messages wait for a place to be named by. -/
def State.padOne (s : State) (c : Fin 8) (data : List (Nat × Nat)) (r : GroupRec) : State :=
  let f := r.fl
  let t := s.padPatch data f
  if r.padded then s
  else if t = [] then s.modRec c f fun r => { r with padded := true }
  else
    match (if s.descRemote f.desc then (s.core c).mov.freePlace else some 0) with
    | none => s
    | some p =>
      match s.putPatch c f p t with
      | (none, n, s1) => s1.modRec c f fun r => { r with
          padded := true, place := if n = 0 then none else some p, fl := { r.fl with acksDue := n } }
      | (some code, _, s1) =>
        let s2 := s1.modRec c f fun r => { r with padded := true, stopped := true }
        let s3 := s2.modMov c fun m => { m with lastTag := BitVec.ofNat 16 (dTag f.desc), lastCode := code }
        if codeDomain code = 0 then s3.softFault c f.task code (BitVec.ofNat 32 (dTag f.desc)) else s3.refuseTask c f.task code

/-- A fill token of the access engine (R144, R158): through the fill token queue of a decoupled core, from its own
engine or a gang member's; to another module, a FILL message. -/
def State.sendFill (s : State) (c : Fin 8) (f : Flying) (buf : Nat) : State :=
  let d := f.desc
  if s.descRemote d then
    s.sendMsg (dModule d) 0x07 vcCtrl (slotArgs (dDstSlot d) (dDstCore d) f.epoch.toNat f.place c.val 0 buf 0) [] (from_ := some (coreHalf c))
  else
    let o := s.slotOwner (fin8 (dDstCore d)) (dDstSlot d)
    let gang := (s.core c).mov.mode && (o.1 = c || bit (s.core c).mov.gang o.1.val)
    if gang then
      s.queueToken o.1 { slot := o.2, buf := buf, fill := true, epoch := f.epoch, task := f.task, core := c.val, engine := 0 }
    else s.takeToken o.1 o.2 buf true f.epoch (some (c, f.task))

/-- The next group that has ended, all of whose descriptors are written (R144), by serial number: one that only waits for
acknowledgements, or for a place to name its pads' messages by, is passed over. -/
def Mov.endedGroup (m : Mov) : Option Nat :=
  (m.groupDone.map fun r => r.fl.grp).find? fun g =>
    (m.groupId = none || g ≠ m.grp) && (m.flights.all fun f => f.grp ≠ g)
      && ((m.groupDone.all fun r => r.fl.grp ≠ g || (r.padded && r.fl.acksDue = 0))
        || (m.freePlace.isSome && m.groupDone.any fun r => r.fl.grp = g && !r.padded))

/-- TRANSFER_GROUP_COMPLETE: an ended group's pads are written in issue order, after its data; with the last of them
written and acknowledged, its fill tokens are posted, unless a fault stopped the group (R144, R145, R151). -/
def execTransferGroupComplete (c : Fin 8) (s : State) : Outcome State Fault Refusal :=
  let m := (s.core c).mov
  match m.endedGroup with
  | none => .next s
  | some g =>
    if !s.coreRuns c || s.tokenHeld c 0 then .next s
    else
      let mine (s : State) : List GroupRec :=
        ((s.core c).mov.groupDone.filter fun r => r.fl.grp = g).mergeSort fun a b => decide (a.fl.order ≤ b.fl.order)
      let l := mine s
      let s1 := l.foldl (fun s r => s.padOne c (s.groupData l) r) s
      let l1 := mine s1
      if l1.any fun r => !r.padded || r.fl.acksDue ≠ 0 then .next s1
      else
        let bad := l1.any fun r => r.stopped
        let s2 := s1.modMov c fun m => { m with groupDone := m.groupDone.filter fun r => r.fl.grp ≠ g }
        .next (l1.foldl (fun s r =>
          match r.fl.dstBuf with
          | none => s
          | some b => if bad then s.keepClaim c r.fl else s.sendFill c r.fl b) s2)

/-- WRITE_ACK (R149, R150, R498): one acknowledgement of a message sent for the descriptor in a place; a nonzero status stops the
descriptor with that code, and what still comes for a stopped one only frees its place. -/
def State.ackWrite (s : State) (c : Fin 8) (p : Nat) (status : BitVec 16) : State :=
  match s.place c p with
  | some f =>
    if f.acksDue = 0 then s
    else if status ≠ 0 then
      (s.modPlace c p fun f => { f with acksDue := f.acksDue - 1 }).endDesc c p status (codeDomain status = 0)
    else (s.modPlace c p fun f => { f with acksDue := f.acksDue - 1 }).finishDesc c p
  | none =>
    match (s.core c).mov.groupDone.find? fun r => r.place = some p with
    | none => s
    | some r =>
      let n := r.fl.acksDue - 1
      let s1 := s.modRec c r.fl fun r => { r with
        fl := { r.fl with acksDue := n }, place := if n = 0 then none else r.place, stopped := r.stopped || status ≠ 0 }
      if status = 0 || r.stopped then s1
      else if codeDomain status = 0 then s1.softFault c r.fl.task status (BitVec.ofNat 32 (dTag r.fl.desc))
      else s1.refuseTask c r.fl.task status

/-! ### The stream prefetcher (R157) -/

/-- A descriptor's stack sectors may be fetched ahead: its source is in stack memory, at addresses known once its
slot's buffer is FULL. -/
def State.prefetchBase (s : State) (d : BitVec 1024) (base : Nat) (epoch : BitVec 16) (neve : Bool) : Option Nat :=
  if !dCopy d || dSrcSpace d ≠ 1 then none
  else if !dSrcSlotEn d then some base
  else
    let o := s.slotOwner (fin8 (dSrcCore d)) (dSrcSlot d)
    let reading : Bool := (s.morCfg o.1 o.2).isNone && match s.slotEnt o.1 o.2 with
      | some e => ((s.slotSt o.1 o.2).buf (acquireBuf e (s.slotSt o.1 o.2) neve)).st ≠ .full
      | none => true
    if reading then none
    else
      match s.tryAcquire o.1 o.2 epoch neve with
      | (.granted b, s1) => some (base + s1.bufBase o.1 o.2 b)
      | _ => none

/-- The descriptors ahead of the oldest in flight, in issue order, within MOV_PF_DEPTH: descriptor and source base. -/
def State.prefetchQueue (s : State) (c : Fin 8) : List (BitVec 1024 × Nat) :=
  let m := (s.core c).mov
  let waiting := (m.flights.filter fun f => !f.written).mergeSort fun a b => decide (a.order ≤ b.order)
  let fl := (waiting.drop 1).map fun f =>
    (f.desc, if f.srcBuf.isSome then (if dSrcSpace f.desc = 1 then some f.srcBase else none)
      else s.prefetchBase f.desc f.srcBase f.epoch f.srcVer)
  let qu := m.queue.map fun a =>
    let epoch := match s.findTask c a.task with
      | some t => t.epoch
      | none => 0
    (a.desc, s.prefetchBase a.desc a.srcBase epoch a.srcVer)
  ((fl ++ qu).take m.pfDepth.toNat).filterMap fun x => x.2.map fun b => (x.1, b)

/-- A sector a copy reads that no cache holds yet and whose prefetch was not dropped: the first in the order of its elements. -/
def State.nextPrefetch (s : State) (c : Fin 8) (x : BitVec 1024 × Nat) : Option Nat :=
  match dSide x.1 false x.2 with
  | none => none
  | some y => (List.range (dCount x.1)).findSome? fun n =>
      (y.units true (dElemSrc x.1 n)).find? fun u =>
        !(s.half (addrHalf (u * 32))).tcHas (u * 32) && !(s.core c).mov.pfSkip.contains u

/-- PREFETCH_FETCH: in prefetch mode the next source sector within the depth and the budget is fetched into the tier
cache that holds it, its read through a slot of its stack; one that would fault is dropped silently (R157, R212). DESIGN CHOICE (log
entry 80, unsafe): R135 and R153 say that a NO_ALLOC descriptor's misses allocate nothing and R157 that a prefetch fetches into the
tier cache, with no word on a prefetch for such a descriptor; the prefetched sector allocates. -/
def execPrefetchFetch (c : Fin 8) (s : State) : Outcome State Fault Refusal :=
  let m := (s.core c).mov
  let held := m.pfSectors.filter fun u => (s.half (addrHalf (u * 32))).tcHas (u * 32)
  if !s.coreRuns c || m.mode || decide (m.pfBudget.toNat * 2 ^ 18 < (held.length + 1) * 32) then .next s
  else
    let drop (u : Nat) : State := s.modMov c fun m => { m with pfSkip := m.pfSkip ++ [u] }
    match (s.prefetchQueue c).findSome? (s.nextPrefetch c) with
    | none => .next (s.modMov c fun m => { m with pfSkip := [] })
    | some u =>
      if decide (2 ^ 41 ≤ u * 32) || inStore (u * 32) then .next (drop u)
      else
        let s0 := if (s.half (addrHalf (u * 32))).tcHas (u * 32) then s else s.passSlot (u * 32)
        match s0.readSector (u * 32) [] [] false true with
        | (.ok _, s1) =>
          .next ((s1.carry (coreHalf c) (u * 32) 32 true).modMov c fun m => { m with pfSectors := held ++ [u] })
        | (.error _, _) => .next (drop u)

/-! ### Decoupled token queues (R158) -/

/-- Tokens leave a queue in order and are applied (R120, R158). -/
def State.applyTokens (s : State) (c : Fin 8) : List Tok → State
  | [] => s
  | t :: ts => (s.takeToken c t.slot t.buf t.fill t.epoch (some (fin8 t.core, t.task))).applyTokens c ts

/-- TOKEN_QUEUE_DRAIN: up to four tokens leave each of a decoupled core's queues (R158), fills before releases (R120). -/
def execTokenQueueDrain (c : Fin 8) (s : State) : Outcome State Fault Refusal :=
  if !s.coreRuns c then .next s
  else
    let m := (s.core c).mov
    let s1 := s.modMov c fun m => { m with fillQ := m.fillQ.drop 4, relQ := m.relQ.drop 4 }.enterTokens
    .next ((s1.applyTokens c (m.fillQ.take 4)).applyTokens c (m.relQ.take 4))

end Sys2Proof.Machine
end

