-- ==== Sys2Proof/Machine/MoraineCmds.lean ====
section
/-! DEFINITION. The moraine manager at work: placing a waiting claim, dropping, lending and returning entries, and the
lender's side of a loan (R262 to R267). -/

namespace Sys2Proof.Machine

open Host

/-! ### The claim the manager works on (R263) -/

/-- A waiting claim on a moraine slot: its core, its index among the core's waits, the wait and its table entry. -/
structure MorWait where
  core : Fin 8
  index : Nat
  wait : SlotWait
  cfg : MorCfg
  deriving DecidableEq, Repr

/-- The waiting claims on a core's moraine slots. -/
def State.morWaits (s : State) (c : Fin 8) : List MorWait :=
  (s.core c).scr.waits.zipIdx.filterMap fun x =>
    if x.1.acq then none else (s.morCfg c x.1.slot).map fun m => ⟨c, x.2, x.1, m⟩

/-- The claim that has waited longest, over all the cores. -/
def State.morOldestWait (s : State) : Option MorWait :=
  (allCores.flatMap s.morWaits).foldl (fun best w =>
    match best with
    | none => some w
    | some b => some (if w.wait.start < b.wait.start then w else b)) none

/-- What a waiting claim rebuilds, when it is a rebuild task's (R264). -/
def State.waitRebuilds (s : State) (w : MorWait) : Option Nat :=
  s.rebuildSeq (w.wait.rq.taskCore w.core) w.wait.task w.core w.cfg.slot

/-- The DROPPED entry that a rebuild task's claim places, and no other (R264). -/
def State.rebuildTarget (s : State) (w : MorWait) : Option MorEntry :=
  (s.waitRebuilds w).bind fun q => s.morEntries.find? fun e =>
    e.core = w.core.val && e.slot = w.cfg.slot && e.st = .dropped && e.seq = q

/-- A claim granted by the manager leaves the waits and reaches its requester. -/
def State.grantMorWait (s : State) (w : MorWait) (seq : Nat) : State :=
  (s.dropWait w.core w.index).deliverGrant w.core w.cfg.slot seq false w.wait.epoch w.wait.rq

/-- The claim placed where a span of its size is free (R262), if one is: the next entry of the step, or the entry that a
rebuild task rebuilds. -/
def State.placeWait (s : State) (w : MorWait) : Option State :=
  let size := match s.slotEnt w.core w.cfg.slot with
    | some e => e.size
    | none => 0
  match s.rebuildTarget w with
  | some e =>
    (s.morSpan e.size).map fun a =>
      let s1 := (s.setMorEntry { e with st := .filling, addr := a, claims := 1, fills := 0, acqs := 0, rels := 0 }).noteMorHigh
      (s1.modMor fun h => { h with morRebuilds := satAdd 32 h.morRebuilds 1 }).grantMorWait w e.seq
  | none =>
    (s.morSpan size).map fun a =>
      let seq := tabGet 0 (s.half s.morHalf).morClaims (morKey w.core w.cfg.slot)
      (s.placeEntry w.core w.cfg size a).grantMorWait w seq

/-- A claim the manager can place at all: an entry of the step is still to be claimed, or a rebuild's entry is DROPPED. -/
def State.placeable (s : State) (w : MorWait) : Bool :=
  if (s.waitRebuilds w).isSome then (s.rebuildTarget w).isSome
  else decide (tabGet 0 (s.half s.morHalf).morClaims (morKey w.core w.cfg.slot) < w.cfg.entries)

/-! ### Dropping and lending (R263) -/

/-- The entry of lowest claim order among some. -/
def oldestEntry (l : List MorEntry) : Option MorEntry :=
  l.foldl (fun best e =>
    match best with
    | none => some e
    | some b => some (if e.order < b.order then e else b)) none

/-- An entry that is PRESENT, not acquired and not being copied. -/
def MorEntry.idle (e : MorEntry) : Bool := e.st = .present && e.acqs = 0 && e.lend = .none && !e.lost

/-- The oldest entry that may be dropped. -/
def State.droppable (s : State) : Option MorEntry :=
  oldestEntry (s.morEntries.filter fun e => e.idle && e.recomp && !s.rebuilding e)

/-- Step 1: entries are dropped, oldest first, until the claim is placed; the state in which no more can be dropped
when it is not. -/
def State.dropAndPlace (s : State) (w : MorWait) : Nat → State × Bool
  | 0 => (s, false)
  | n + 1 =>
    match s.placeWait w with
    | some s1 => (s1, true)
    | none =>
      match s.droppable with
      | none => (s, false)
      | some e =>
        ((s.setMorEntry { e with st := .dropped, claims := 0, fills := 0 }).modMor fun h => { h with
          morDrops := satAdd 32 h.morDrops 1 }).dropAndPlace w n

/-- MiB lent, or on their way to the lender. -/
def State.lentMib (s : State) : Nat :=
  (s.morEntries.filter fun e => !e.lost && (e.st = .lent || e.st = .returning || e.lend = .asked || e.lend = .copying)).foldl
    (fun n e => n + mibOf e.size) 0

/-- The oldest entry that may be lent within the lender limit. -/
def State.lendable (s : State) (p : PoolCfg) : Option MorEntry :=
  if p.lender = 0xFFFF then none
  else oldestEntry (s.morEntries.filter fun e =>
    e.idle && !e.recomp && decide (s.lentMib + mibOf e.size ≤ p.lendMib))

/-- ARGS of a loan message (R266, R498): LOAN, the asking manager's half and tag, and what the kind adds. -/
def loanArgs (h : Nat) (endMib lo : Nat) (tag : Nat := 0) : BitVec 144 :=
  BitVec.ofNat 144 (tag % 16 * 2 ^ 29 + h % 8 * 2 ^ 33 + 2 * 2 ^ 36 + endMib % 2 ^ 34 * 2 ^ 41 + 2 ^ 75 + lo * 2 ^ 80)

/-- The manager's tags, which R498 leaves to the agent (DESIGN CHOICE, log entry 68): 0 on a loan's CLAIM, 1 on a span's RELEASE, 2 on the
messages of a copy to the lender, 3 to 15 on those of a return. A REFUSE under tag 1 says that the span is gone: the manual gives a lender's
ending no message of its own (R266), and this is the model's. -/
def loanTagSpan : Nat := 1
def loanTagCopy : Nat := 2

/-- Step 2: a span is asked of the lender for the oldest entry that may be lent, on behalf of a claim. -/
def State.askLoan (s : State) (p : PoolCfg) (w : MorWait) (e : MorEntry) : State :=
  (s.setMorEntry { e with lend := .asked, lender := p.lender, asker := some (w.core.val, w.wait) }).sendMsg p.lender 0x04 vcCtrl
    (loanArgs s.morHalf.val (mibOf e.size) 0) []

/-- Step 3 (R263, R267): MORAINE_EXHAUSTED ends the claiming task, stops every sequencer's admission and is reported. -/
def State.exhaustMoraine (s : State) (w : MorWait) : State :=
  let code : BitVec 16 := 0x0610
  let s1 := (s.dropWait w.core w.index).raise code (detail := BitVec.ofNat 32 (morKey w.core w.cfg.slot))
  let s2 := match w.wait.rq with
    | .place core p _ => s1.endDesc (fin8 core) p code false
    | .remote module unit core desc =>
      s1.sendMsg module 0x06 vcCtrl (slotArgs w.cfg.slot w.core.val w.wait.epoch.toNat desc core unit 0 code.toNat) []
    | _ => s1.refuseTask w.core w.wait.task code
  (s2.modImg fun i => { i with moraineStop := true }).report .moraine

/-- The manager's work on one waiting claim (R262, R263): it is placed, or entries are dropped for it, or a loan is
asked, or the moraine is exhausted. One entry is lent at a time; while it is, the claim waits. -/
def State.workMoraine (s : State) (w : MorWait) : State :=
  let r := s.dropAndPlace w (s.morEntries.length + 1)
  if r.2 then r.1
  else if r.1.morEntries.any fun e => e.lend = .asked || e.lend = .copying then r.1
  else
    match r.1.cfg.bind fun g => g.pool with
    | none => r.1.exhaustMoraine w
    | some p =>
      match (if w.wait.noLend then none else r.1.lendable p) with
      | some e => r.1.askLoan p w e
      | none => r.1.exhaustMoraine w

/-- MORAINE_PLACE: the moraine manager takes the claim that has waited longest (R262, R263). -/
def execMorainePlace (s : State) : Outcome State Fault Refusal :=
  match s.morOldestWait with
  | none => .next s
  | some w => if s.placeable w then .next (s.workMoraine w) else .next s

/-! ### The borrower's side of a loan (R263, R265, R266) -/

/-- The lender's GRANT: the entry is copied to the span as WRITE messages on the bulk channel. -/
def State.copyToLender (s : State) (base : Nat) : State :=
  match s.morEntries.find? fun e => e.lend = .asked with
  | none => s
  | some e =>
    match s.stackRead e.addr e.size with
    | (.error _, s1) => s1.setMorEntry { e with lend := .none, lost := true }
    | (.ok bs, s1) =>
      let ms := cutMessages base bs
      (ms.foldl (fun s m => s.sendMsg e.lender 0x01 vcBulk (writeArgs m.1 0 loanTagCopy s.morHalf.val 2 0 false 0) m.2 (from_ := some (addrHalf e.addr))) s1).setMorEntry
        { e with lend := .copying, far := base, acksDue := ms.length }

/-- The lender has left the cascade, or has ended the loan (R265, R266): every LENT or RETURNING entry is lost, and a copy on its
way ends. -/
def State.loseLender (s : State) (m : Nat) : State :=
  match s.cfg.bind fun g => g.pool with
  | none => s
  | some p =>
    if p.lender ≠ m then s
    else
      let f (e : MorEntry) : MorEntry :=
        if e.st = .lent || e.st = .returning then { e with lost := true, lend := .none }
        else { e with lend := .none, acksDue := 0, asker := none }
      (s.raise 0x0611 (detail := BitVec.ofNat 32 m)).modMor fun h => { h with morEntries := h.morEntries.map f }

/-- Lending ends for the claim that asked for an entry's loan, if it still waits (R266). -/
def State.endLending (s : State) (e : MorEntry) : State :=
  match e.asker with
  | none => s
  | some (c, w) => s.modScr (fin8 c) fun x => { x with
      waits := x.waits.map fun y => if y = w then { y with noLend := true } else y }

/-- The lender's REFUSE (R266). -/
def State.loanRefused (s : State) : State :=
  match s.morEntries.find? fun e => e.lend = .asked with
  | none => s
  | some e => (s.setMorEntry { e with lend := .none, asker := none }).endLending e

/-- An acknowledgement of a copy's message. One with a nonzero status ends the copy as a REFUSE would: once every acknowledgement has
come, the entry stays where it is. -/
def State.morAck (s : State) (status : BitVec 16) : State :=
  match s.morEntries.find? fun e => e.lend = .copying && e.acksDue ≠ 0 with
  | none => s
  | some e =>
    let e1 := { e with acksDue := e.acksDue - 1 }
    if status = 0 then s.setMorEntry e1 else (s.setMorEntry { e1 with asker := none }).endLending e

/-- MORAINE_LEND_COMPLETE: the copy is complete, the entry is LENT and its span is free (R263). A copy that was turned away leaves the entry
as it was. -/
def execMoraineLendComplete (s : State) : Outcome State Fault Refusal :=
  match s.morEntries.find? fun e => e.lend = .copying && e.acksDue = 0 with
  | none => .next s
  | some e =>
    if e.asker.isNone then .next (s.setMorEntry { e with lend := .none })
    else
      .next ((s.setMorEntry { e with st := .lent, lend := .none, asker := none }).modMor fun h => { h with
        morLends := satAdd 32 h.morLends 1 })

/-- An entry's place in its slot's read order (R261). -/
def State.readPlace (s : State) (e : MorEntry) : Nat :=
  match s.morCfg (fin8 e.core) e.slot with
  | some m => if m.newest then m.entries - 1 - e.seq else e.seq
  | none => e.seq

/-- The LENT entry that is read next. -/
def State.nextReturn (s : State) : Option MorEntry :=
  (s.morEntries.filter fun e => e.st = .lent && !e.lost).foldl (fun best e =>
    match best with
    | none => some e
    | some b => some (if s.readPlace e < s.readPlace b || (s.readPlace e = s.readPlace b && e.order < b.order) then e else b))
    none

/-- MORAINE_RETURN: the LENT entry that is read next starts its return, a span for it being free (R265, R266). The
RELEASE names the lender's span; the borrower's address follows as 8 data bytes, the manual giving it no place. -/
def execMoraineReturn (s : State) : Outcome State Fault Refusal :=
  match s.nextReturn with
  | none => .next s
  | some e =>
    match s.morSpan e.size with
    | none => .next s
    | some a =>
      let s1 := (s.setMorEntry { e with st := .returning, lend := .returning, addr := a, acksDue := e.size }).noteMorHigh
      .next (s1.sendMsg e.lender 0x08 vcCtrl (loanArgs s.morHalf.val 0 e.far loanTagSpan) (natLe 8 a))

/-- Bytes of a return that arrive: the last of them makes the entry PRESENT again. -/
def State.returnedBytes (s : State) (src a n : Nat) : State :=
  match s.morEntries.find? fun e =>
      e.st = .returning && e.lender = src && decide (e.addr ≤ a ∧ a < e.addr + e.size) with
  | none => s
  | some e =>
    if e.acksDue ≤ n then s.setMorEntry { e with st := .present, lend := .none, acksDue := 0 }
    else s.setMorEntry { e with acksDue := e.acksDue - n }

/-! ### The lender's side of a loan (R266) -/

/-- The loan ranges of the active image that belong to a borrower. -/
def State.loanRange (s : State) (borrower : Nat) : Option LoanCfg :=
  s.cfg.bind fun g => g.loans.find? fun l => l.borrower = borrower

/-- A borrower's CLAIM: its span is placed in the lowest free part of its range, or it is refused (R266). The manual
gives a loan's REFUSE no CODE: it is free. -/
def State.loanClaim (s : State) (borrower mib core desc : Nat) : State :=
  let args (lo : Nat) : BitVec 144 := loanArgs core 0 lo + BitVec.ofNat 144 (desc % 16 * 2 ^ 29)
  let refuse : State :=
    s.draw.sendMsg borrower 0x06 vcCtrl (args (Config.freeBits 16 s.freeCtr).toNat) []
  match s.loanRange borrower with
  | none => refuse
  | some l =>
    let h := addrHalf l.base
    let used := ((s.half h).loans.filter fun x => x.borrower = borrower).map fun x => (x.base, x.mib)
    match lowestSpan [(l.base, l.mib)] used mib with
    | none => refuse
    | some a =>
      (s.modHalf h fun y => { y with loans := y.loans ++ [{ borrower := borrower, base := a, mib := mib }] }).sendMsg
        borrower 0x05 vcCtrl (args a) []

/-- LOAN_CLAIM: a borrower's loan CLAIM at the lender's manager (R266). -/
def execLoanClaim (borrower : Nat) (mib : Nat) (core : Fin 2) (desc : Fin 16) (s : State) :
    Outcome State Fault Refusal := .next (s.loanClaim borrower mib core.val desc.val)

/-- The lender tells a borrower that its spans are gone (R266): SLOT_INVALID under the span tag. -/
def State.refuseSpan (s : State) (borrower : Nat) : State :=
  s.sendMsg borrower 0x06 vcCtrl (loanArgs 0 0 0x0312 loanTagSpan) []

/-- The next return that no tag has been free for begins: its span's contents go as WRITE messages into the borrower's span, under the lowest
tag free in the half (R266, R498). A span that cannot be read is not returned. -/
def State.startReturn (s : State) (h : Fin 2) : State :=
  let all := (s.half h).loans
  let tag := (List.range 16).find? fun t => 3 ≤ t && all.all fun x => x.tag ≠ some t
  match all.find? (fun x => x.returning && x.tag.isNone), tag with
  | some l, some t =>
    let put (s : State) (y : LoanSpan) : State :=
      s.modHalf h fun z => { z with loans := replaceFirst (fun x => x = l) (fun _ => y) z.loans }
    (match s.stackRead l.base (l.mib * 2 ^ 20) with
    | (.error _, s1) => put s1 { l with returning := false }
    | (.ok bs, s1) =>
      let ms := cutMessages l.dest bs
      put (ms.foldl (fun s m => s.sendMsg l.borrower 0x01 vcBulk (writeArgs m.1 0 t h.val 2 0 false 0) m.2 (from_ := some (addrHalf l.base))) s1)
        { l with acksDue := ms.length, tag := some t })
  | _, _ => s

/-- A borrower's RELEASE: the span is to go back into the borrower's span (R266); a span that has been freed meanwhile is refused. -/
def State.loanRelease (s : State) (borrower base dest : Nat) : State :=
  let h := addrHalf base
  match (s.half h).loans.find? fun x => x.borrower = borrower && x.base = base with
  | none => s.refuseSpan borrower
  | some l =>
    if l.returning then s
    else
      (s.modHalf h fun y => { y with
        loans := replaceFirst (fun x => x = l) (fun x => { x with returning := true, dest := dest }) y.loans }).startReturn h

/-- An acknowledgement of a return's message; after the last the lender frees its span (R266), and its tag serves the next return. -/
def State.loanAck (s : State) (h : Fin 2) (tag : Nat) : State :=
  match (s.half h).loans.find? fun x => x.tag = some tag with
  | none => s
  | some l =>
    if l.acksDue ≤ 1 then (s.modHalf h fun y => { y with loans := removeFirst (fun x => x = l) y.loans }).startReturn h
    else s.modHalf h fun y => { y with loans := replaceFirst (fun x => x = l) (fun x => { x with acksDue := x.acksDue - 1 }) y.loans }

/-- Every span of a borrower is freed (R266). -/
def State.endLoans (s : State) (borrower : Nat) : State :=
  forAllOf allHalves (fun h s => s.modHalf h fun y => { y with loans := y.loans.filter fun x => x.borrower ≠ borrower }) s

/-- The step's counts of claims and acquisitions begin anew at a marker. -/
def State.newMoraineStep (s : State) : State := s.modMor fun h => { h with morClaims := [], morAcqs := [] }

end Sys2Proof.Machine
end

