-- ==== Sys2Proof/Machine/Lead.lean ====
section
/-! DEFINITION. The lead: how each step's scale records follow from the census of the step before, and how the
sequencers copy them (R240 to R243). -/

namespace Sys2Proof.Machine

open Host

/-- The tensor scale and bound the lead sets from a step's AMAX_EXP; `none` leaves the field as it is (R242). -/
def leadScales (f : Fmt) (a : Int) (h : Nat) : Option Nat × Option Nat :=
  let at_ (k : Int) : Nat := clampTo 0 254 (a + k + h).toNat
  match f with
  | .e4m3 => (some (at_ 119), some (at_ 119))
  | .e5m2 => (some (at_ 112), some (at_ 112))
  | .mxfp8e4 => (none, some (at_ 119))
  | .mxfp8e5 => (none, some (at_ 112))
  | .pb8 => (none, some (at_ 128))
  | _ => (none, none)

/-- A scale record as the lead leaves it: TSCALE and BOUND as above, CENTRE and STEP set (R240, R242). -/
def leadRecord (r : BitVec 128) (f : Option Fmt) (a : Int) (h step : Nat) : BitVec 128 :=
  let x := match f with
    | some f => leadScales f a h
    | none => (none, none)
  let r1 := match x.1 with
    | some v => putFld r 7 0 v
    | none => r
  let r2 := match x.2 with
    | some v => putFld r1 15 8 v
    | none => r1
  putFld (putFld r2 63 32 (wrap 32 a)) 95 64 step

/-- The lead of one tensor for step t (R242): true when its record was set. -/
def State.leadTensor (s : State) (g : ImgCfg) (t : TensorCfg) (step : Nat) : Bool × State :=
  if !bit t.lead 0 then (false, s)
  else
    match s.stackRead (censusAddr g.censusBase (step + 1) t.id) 12 with
    | (.error _, s1) => (false, s1)
    | (.ok c, s1) =>
      let amax := leAt c 8 4
      if amax = 0x80000000 || (leAt c 4 4 + 1) % 2 ^ 32 ≠ step then (false, s1)
      else
        match s1.stackRead (g.scaleBase + 16 * t.id) 16 with
        | (.error _, s2) => (false, s2)
        | (.ok r, s2) =>
          let v := leadRecord (BitVec.ofNat 128 (leNat r)) (policyOf t.policy).fmt (signed 32 amax)
            (leadHeadroom t.lead) step
          (true, (s2.stackWrite (g.scaleBase + 16 * t.id) (natLe 16 v.toNat)).2)

/-- The lead of every tensor, in the image's order; the number of records set. -/
def State.leadTensors (s : State) (g : ImgCfg) (step : Nat) : Nat × State :=
  g.tensors.foldl (fun r t =>
    let x := r.2.leadTensor g t step
    (r.1 + b2n x.1, x.2)) (0, s)

/-- One census record initialised: TENSOR, STEP and AMAX_EXP, every count and AMAX 0 (R238, R243). -/
def State.initCensusRecord (s : State) (base step bank t : Nat) : State :=
  let a := base + bank * (3 * 2 ^ 20) + 768 * t
  let s1 := (s.stackWrite a (natLe 4 t ++ natLe 4 step ++ natLe 4 0x80000000 ++ natLe 68 0)).2
  (s1.stackWrite (a + 0x60) (natLe 608 0)).2

/-- A bank of the census region initialised for a step (R243). -/
def State.initCensus (s : State) (base step bank : Nat) : State :=
  (List.range 4096).foldl (fun s t => s.initCensusRecord base step bank t) s

/-- The scale region at the initial records an image supplies (R240). -/
def State.initScales (s : State) (g : ImgCfg) : State :=
  g.tensors.foldl (fun s t => (s.stackWrite (g.scaleBase + 16 * t.id) (natLe 16 t.scale.toNat)).2) s

/-- The scale region as a sequencer copies it: 4,096 records of 16 bytes (R241). -/
def State.copyScales (s : State) (c : Fin 8) (base : Nat) : State :=
  (List.range 4096).foldl (fun s t =>
    match s.stackRead (base + 16 * t) 16 with
    | (.ok bs, s1) => s1.modUpd c fun u => { u with scaleTable := tabSet 0 u.scaleTable t (BitVec.ofNat 128 (leNat bs)) }
    | (.error _, s1) => s1) s

/-- Every live sequencer copies the scale region of the active image (R241). -/
def State.copyTables (s : State) (g : ImgCfg) : State :=
  forAllOf allCores (fun c s =>
    if s.coreLive c then (s.copyScales c g.scaleBase).modUpd c fun u => { u with scaleStep := u.step } else s) s

/-- The lead runs for a step: under a training image, in a steward that is up, once for each step number (R243). -/
def State.leads (s : State) (g : ImgCfg) (step : Nat) : Bool :=
  !g.eval && s.stewardUp s.leadHalf && (match (s.half s.leadHalf).lastLed with
    | some t => decide (t < step)
    | none => true)

/-- The steward's work at the marker of a step (R243): the lead unless HOLD stops it, and the initialisation of bank t mod 2;
the sequencers are signalled when it has finished (LEAD_COMPLETE). At a marker with no lead they copy at once (R241). -/
def State.runLead (s : State) (step : Nat) : State :=
  match s.cfg with
  | none => s
  | some g =>
    let h := s.leadHalf
    if !s.leads g step then s.copyTables g
    else
      let r := if (s.half h).leadHold then (none, s) else
        let x := s.leadTensors g step
        (some x.1, x.2)
      (r.2.initCensus g.censusBase step (step % 2)).modHalf h fun y => { y with
        lastLed := some step, leadDone := some step, leadTick := s.tick
        leadStep := if r.1.isSome then BitVec.ofNat 32 step else y.leadStep
        leadTensors := r.1.getD y.leadTensors }

/-- A STEP swap that met its marker is still to switch: the image active after the marker is not settled (R243, R360). -/
def State.swapOnMarker (s : State) : Bool := s.img.swap.mode = 0 && s.img.swap.marker.isSome

/-- At a marker: the lead runs, or, where an armed STEP swap decides which image is active after the marker, waits for it
(R243). The tables are copied either way (R241). -/
def State.leadAtMarker (s : State) (step : Nat) : State :=
  if s.swapOnMarker then
    (match s.cfg with
      | some g => s.copyTables g
      | none => s).modImg fun i => { i with leadDue := some step }
  else s.runLead step

/-- The lead that waited for a STEP swap runs, under the image that is active now (R243). -/
def State.runDueLead (s : State) : State :=
  match s.img.leadDue with
  | some step => (s.modImg fun i => { i with leadDue := none }).runLead step
  | none => s

/-- LEAD_COMPLETE: the lead has finished; each sequencer copies the scale region, and STEP_START admission no longer
waits (R241, R243). A lead that waited for a STEP swap which was then disarmed or aborted runs first. -/
def execLeadComplete (s0 : State) : Outcome State Fault Refusal :=
  let s := if s0.swapOnMarker then s0 else s0.runDueLead
  let h := s.leadHalf
  match (s.half h).leadDone, s.cfg with
  | some _, some g =>
    .next ((s.copyTables g).modHalf h fun y => { y with leadDone := none, leadUs := (s.tick - y.leadTick) / 1000 })
  | _, _ => .next s

end Sys2Proof.Machine
end

