-- ==== Sys2Proof/Machine/Cascade.lean ====
section
/-! DEFINITION. The cascade as a module sees it: places of modules, membership, what is accepted of a message, and how
decisions and orders are sent (R273, R299, R318, R319, R322, R328, R329). -/

namespace Sys2Proof.Machine

open Host

/-! ### Places (R322, R299) -/

/-- A module's place: its stage, channel and member rank. -/
structure Spot where
  stage : Nat
  channel : Nat
  rank : Nat
  deriving DecidableEq, Repr

def State.topo (s : State) : TopoCfg :=
  match s.cfg with
  | some g => g.topo
  | none => {}

/-- A module's place: in the epoch in force, or, before any epoch is received, from its ID (R299, R322). -/
def State.spotOf (s : State) (m : Nat) : Option Spot :=
  match s.cas.members with
  | [] =>
    let t := s.topo
    if t.members * t.channels * t.stages ≤ m then none
    else some ⟨m / t.members / t.channels, m / t.members % t.channels, m % t.members⟩
  | l => (l.find? fun x => x.2.2.2 = m).map fun x => ⟨x.1, x.2.1, x.2.2.1⟩

/-- The module at a place. -/
def State.moduleAt (s : State) (x : Spot) : Option Nat :=
  match s.cas.members with
  | [] =>
    let t := s.topo
    if x.stage < t.stages ∧ x.channel < t.channels ∧ x.rank < t.members then
      some ((x.stage * t.channels + x.channel) * t.members + x.rank)
    else none
  | l => (l.find? fun y => y.1 = x.stage && y.2.1 = x.channel && y.2.2.1 = x.rank).map fun y => y.2.2.2

def State.isLost (s : State) (m : Nat) : Bool := s.cas.lost.contains m

/-- Every module of the epoch, LOST ones too. -/
def State.epochModules (s : State) : List Nat :=
  match s.cas.members with
  | [] => List.range (s.topo.members * s.topo.channels * s.topo.stages)
  | l => l.map fun x => x.2.2.2

/-- Every module of the epoch that is not declared LOST. -/
def State.liveModules (s : State) : List Nat := s.epochModules.filter fun m => !s.isLost m

def State.selfSpot (s : State) : Spot := (s.spotOf s.selfId).getD ⟨0, 0, 0⟩
def State.isMaster (s : State) : Bool := s.cas.role = .master
/-- The first deputy holds every report the master receives (R329). -/
def State.holdsReports (s : State) : Bool :=
  s.isMaster || (s.cas.role = .deputy && s.cas.deputyValid && s.cas.deputy.toNat = s.selfId)

/-- The module's time can be trusted (R332): it is the reference, or locked, or holds over. DESIGN CHOICE (log entry 75): a module whose time
cannot be trusted finds no unit late and closes no share by its deadline. -/
def State.timeTrusted (s : State) : Bool := s.isMaster || s.cas.locked || s.cas.holdover

/-! ### What is accepted of a message (R318, R319, R328) -/

/-- The channel of a kind (R318): 0 reduction, 1 bulk, 2 control, 3 timebase; a WRITE or PANNIER may use two. 0x18 is
the model's own repair copy (R303). -/
def kindVcs (k : Nat) : List Nat :=
  if k = 0x01 ∨ k = 0x02 then [vcBulk, vcRed]
  else if k = 0x0A ∨ k = 0x0B then [vcRed]
  else if k = 0x16 ∨ k = 0x18 then [vcBulk]
  else if k = 0x14 ∨ k = 0x15 then [vcTime]
  else if 0x03 ≤ k ∧ k ≤ 0x13 then [vcCtrl]
  else []

def State.dropMsg (s : State) (port : Nat) : State :=
  s.modPort (fin18 port) fun x => { x with dropped := satAdd 32 x.dropped 1 }

/-- Messages of one source, destination and channel that the rules send on different paths (R319): 1 a PACKAGE or TAKEOVER, which goes down
the cascade tree (R330, R335), 2 a HEARTBEAT, which goes on two paths (R330), 3 a RECORD, which goes from neighbour to neighbour (R326), 0 any
other, which goes by its route (R324). DESIGN CHOICE (log entry 75): R319 gives all of them one path; the order of MSG_ID is kept among those
that do share one, so that none is dropped because another kind has overtaken it. -/
def pathClass (kind : Nat) : Nat := if kind = 0x0D ∨ kind = 0x11 then 1 else if kind = 0x10 then 2 else if kind = 0x0B then 3 else 0

/-- A MSG_ID is accepted when it is newer, in serial-number order, than the last accepted of its source, channel and path;
otherwise the message is dropped and counted (R319). -/
def State.acceptId (s : State) (port src id vc : Nat) (path : Nat := 0) : Bool × State :=
  let key := path * 32768 + src * 4 + vc
  let d := (2 ^ 32 - tabGet 0 s.cas.msgRx key % 2 ^ 32 + id) % 2 ^ 32
  if 1 ≤ d ∧ d < 2 ^ 31 then (true, s.modCas fun c => { c with msgRx := tabSet 0 c.msgRx key id })
  else (false, s.dropMsg port)

/-- A master message with a term older than the newest accepted is dropped and counted (R328). -/
def State.acceptTerm (s : State) (term : BitVec 16) : Bool × State :=
  if term < s.cas.term then (false, s.modCas fun c => { c with staleTerm := satAdd 32 c.staleTerm 1 })
  else (true, s.modCas fun c => { c with term := term })

/-- A control message, from the master when `master` is set: accepted and acted on, or dropped. -/
def State.accepting (s : State) (h : MsgHead) (master : Bool) (f : State → State) (path : Nat := 0) : State :=
  match s.acceptId h.port h.src h.id vcCtrl path with
  | (false, s1) => s1
  | (true, s1) =>
    if master then
      match s1.acceptTerm h.term with
      | (false, s2) => s2
      | (true, s2) => f s2
    else f s1

/-! ### Orders and decisions (R318, R329) -/

/-- Orders of the REDUCE_CTRL kind. The manual gives the kind's content and no layout: the model puts the order's name,
the bucket and the share in ARGS, and lists as 4-byte words. -/
inductive Ctrl
  | shareFinal | shareFailed | withdraw | resend | exclusion | rerun | repair
  deriving DecidableEq, Repr

def Ctrl.code : Ctrl → Nat
  | .shareFinal => 1 | .shareFailed => 2 | .withdraw => 3 | .resend => 4 | .exclusion => 5 | .rerun => 6 | .repair => 7

/-- ARGS of an order: its name, the share and the bucket, and, for a list too long for one message (R317), the place of the piece and the
number of pieces. -/
def ctrlArgs (c : Ctrl) (bucket share : Nat) (part : Nat := 0) (parts : Nat := 1) : BitVec 144 :=
  BitVec.ofNat 144 (c.code + share % 256 * 2 ^ 8 + bucket % 2 ^ 32 * 2 ^ 16 + part * 2 ^ 48 + parts * 2 ^ 64)

/-- The messages of an order, as many as its list needs. -/
def ctrlMsgs (dst : Nat) (c : Ctrl) (bucket share : Nat) (data : List (BitVec 8)) : List Msg :=
  (cutData data).map fun x => { dst := dst, kind := 0x0C, vc := vcCtrl, args := ctrlArgs c bucket share x.1 x.2.1, data := x.2.2 }

def words4 (l : List Nat) : List (BitVec 8) := l.flatMap (natLe 4)

def State.sendCtrl (s : State) (dst : Nat) (c : Ctrl) (bucket share : Nat) (data : List Nat := []) (term : Nat := 0) : State :=
  (ctrlMsgs dst c bucket share (words4 data)).foldl (fun (s : State) m => s.sendMsg m.dst m.kind m.vc m.args m.data term) s

/-- A message the master sends carries its term (R328); a PACKAGE goes down the cascade tree (R335). -/
def State.sendAsMaster (s : State) (m : Msg) : State :=
  if m.kind = 0x0D then s.sendTree m.dst m.kind m.args m.data s.cas.term.toNat
  else s.sendMsg m.dst m.kind m.vc m.args m.data s.cas.term.toNat

def State.modMst (s : State) (f : MasterSt → MasterSt) : State := s.modCas fun c => { c with mst := f c.mst }

/-- The run stops: RUN_STOPPED with the module and the cause goes to the hosts (R303, R330). -/
def State.stopNow (s : State) (module : Nat) (cause : BitVec 16) : State :=
  (s.modMst fun m => { m with stopped := true, held := true }).runEvent 3 s.cas.markerStep.toNat module cause

/-- A decision takes effect: its messages go out, the run stops. -/
def State.carryOut (s : State) (d : Decision) : State :=
  let s1 := d.msgs.foldl State.sendAsMaster s
  match d.stop with
  | some x => s1.stopNow x.1 x.2
  | none => s1

/-- The contents of some messages, each once, with the modules it goes to: a decision for every module has one content. -/
def contents : List Msg → List (Msg × List Nat)
  | [] => []
  | m :: rest =>
    let l := contents rest
    let same (x : Msg × List Nat) : Bool := x.1.kind = m.kind && x.1.vc = m.vc && x.1.args = m.args && x.1.data = m.data
    if l.any same then replaceFirst same (fun x => (x.1, m.dst :: x.2)) l else (m, [m.dst]) :: l

/-- The LOG messages of a decision (R329): every message it consists of, and a run stop's module and cause. The layout is the model's own:
the place of the piece in ARGS[23:8] and the number of pieces in [39:24], so that each fits a message (R317). -/
def Decision.log (d : Decision) : List (BitVec 144 × List (BitVec 8)) :=
  let body := (contents d.msgs).flatMap (fun x => natLe 1 x.1.kind ++ natLe 1 x.1.vc ++ natLe 18 x.1.args.toNat ++ natLe 2 x.2.length
      ++ x.2.flatMap (natLe 2) ++ natLe 2 x.1.data.length ++ x.1.data)
    ++ (match d.stop with
      | some x => natLe 1 0 ++ natLe 4 x.1 ++ natLe 2 x.2.toNat
      | none => [])
  (cutData body).map fun x => (BitVec.ofNat 144 (x.1 * 2 ^ 8 + x.2.1 * 2 ^ 24), x.2.2)

/-- A decision is logged with the first deputy, when there is one, and carried out once the deputy has acknowledged (R329). -/
def State.decideBy (s : State) (d : Decision) : State :=
  if s.cas.deputyValid && s.cas.deputy.toNat ≠ s.selfId then
    d.log.foldl (fun (s : State) x => s.sendMsg s.cas.deputy.toNat 0x12 vcCtrl x.1 x.2 s.cas.term.toNat)
      (s.modMst fun m => { m with pendingDec := m.pendingDec ++ [d] })
  else s.carryOut d

def State.decideTo (s : State) (ms : List Msg) : State := if ms = [] then s else s.decideBy { msgs := ms }

/-- The first deputy's acknowledgement releases the oldest decision. -/
def State.releaseDecision (s : State) : State :=
  match s.cas.mst.pendingDec with
  | [] => s
  | d :: rest => (s.modMst fun m => { m with pendingDec := rest }).carryOut d

/-- A decision sent to every module of the epoch. -/
def State.decideAll (s : State) (kind : Nat) (args : BitVec 144) (data : List (BitVec 8)) : State :=
  s.decideTo (s.liveModules.map fun d => { dst := d, kind := kind, vc := vcCtrl, args := args, data := data })

/-- What a MEMBER message says (R318); the model's own code in the low bits of ARGS. -/
inductive Member
  | epoch | lost | shift
  deriving DecidableEq, Repr

def Member.code : Member → Nat
  | .epoch => 1 | .lost => 2 | .shift => 3

def memberArgs (m : Member) (v : Nat) : BitVec 144 := BitVec.ofNat 144 (m.code + v % 2 ^ 64 * 2 ^ 8)

/-- The deputies in order; the first is the first deputy (R328, R330). -/
def State.setDeputies (s : State) (l : List Nat) : State :=
  s.modCas fun c => { c with
    deputies := l, deputy := BitVec.ofNat 13 (l.headD 0), deputyValid := l ≠ []
    deputyRank := if c.role = .deputy then l.idxOf s.selfId else 0 }

/-- Decisions that waited for a lost deputy are made again with the next one, or at once with none. -/
def State.redecide (s : State) : State :=
  let l := s.cas.mst.pendingDec
  l.foldl State.decideBy (s.modMst fun m => { m with pendingDec := [] })

/-- The master declares a module LOST at once to every module (R299). The first deputy, which could acknowledge nothing any more, is out of
the list first, so that the next one, or none, holds the decision (R329, R330). -/
def State.declareLost (s : State) (m : Nat) : State :=
  if s.isLost m then s
  else
    let first := s.isMaster && s.cas.deputyValid && s.cas.deputy.toNat = m
    let s1 := if first then (s.setDeputies (s.cas.deputies.filter (· ≠ m))).redecide else s
    s1.decideAll 0x0E (memberArgs .lost m) []

/-- A speculation token to every module (R196, R259). -/
def State.sendToken (s : State) (tok : BitVec 64) : State :=
  s.decideAll 0x09 (tok.zeroExtend 144) []

/-- The master stops the run: it places no further marker, and once the first deputy has acknowledged the decision RUN_STOPPED goes
to the hosts (R303, R329, R330). -/
def State.stopRun (s : State) (module : Nat) (cause : BitVec 16) : State :=
  if s.isMaster then (s.modMst fun m => { m with held := true }).decideBy { stop := some (module, cause) }
  else s.stopNow module cause

end Sys2Proof.Machine
end

