-- ==== Sys2Proof/Machine/Buckets.lean ====
section
/-! DEFINITION. Buckets and shares: a bucket's entry, the accumulation regions and their blocks, the gate word, the anchor
table, and how a share opens and ends (R273, R274, R279, R281, R294). -/

namespace Sys2Proof.Machine

open Host

/-! ### A bucket's entry (R274) -/

structure Bucket where
  id : Nat
  elements : Nat
  members : Nat
  channels : Nat
  cfmt : Nat
  rfmt : Nat
  nfPolicy : Nat
  satPoison : Bool
  divide : Nat
  norm : Bool
  ovf : Bool
  exchange : Bool
  g0 : Int
  gradTensor : Nat
  srcSlot : Nat
  srcCore : Nat
  resultSlot : Nat
  resultCores : BitVec 8
  deadlineOfs : Nat
  localBase : Nat
  treeBase : Nat
  anchorBase : Nat
  deriving DecidableEq, Repr

def bucketOf (e : BitVec 512) : Bucket where
  id := fld e 31 0
  elements := fld e 63 32
  members := fld e 79 64
  channels := fld e 95 80
  cfmt := fld e 99 96
  rfmt := fld e 103 100
  nfPolicy := fld e 105 104
  satPoison := bit e 106
  divide := fld e 108 107
  norm := bit e 109
  ovf := bit e 110
  exchange := bit e 111
  g0 := signed 10 (fld e 137 128)
  gradTensor := fld e 149 138
  srcSlot := fld e 169 160
  srcCore := fld e 172 170
  resultSlot := fld e 182 173
  resultCores := BitVec.ofNat 8 (fld e 190 183)
  deadlineOfs := fld e 239 192
  localBase := fld e 296 256
  treeBase := fld e 360 320
  anchorBase := fld e 424 384

def State.bucket (s : State) (id : Nat) : Option Bucket :=
  s.cfg.bind fun g => (g.buckets.map bucketOf).find? fun b => b.id = id

/-- Blocks of a share. -/
def Bucket.blocks (b : Bucket) : Nat := b.elements / (512 * b.members)
/-- Elements of a share. -/
def Bucket.shareElems (b : Bucket) : Nat := 512 * b.blocks
/-- k = ceil(log2 N_max) (R273). -/
def Bucket.k (b : Bucket) : Nat :=
  let n := b.members * b.channels
  if n ≤ 1 then 0 else (n - 1).log2 + 1
def Bucket.pages (b : Bucket) : Nat := (b.blocks + 19) / 20
def Bucket.half (b : Bucket) : Fin 2 := addrHalf b.localBase

/-- The format of a contribution or a result: 0xA BF16, 0xB FP16, 0xC FP32. -/
def redFmt (c : Nat) : Fmt := if c = 0xA then .bf16 else if c = 0xB then .fp16 else .fp32
def redFp (c : Nat) : FpFmt := if c = 0xA then fpBf16 else if c = 0xB then fpFp16 else fpFp32
def redBytes (c : Nat) : Nat := if c = 0xC then 4 else 2

/-- The result cores in ascending index. -/
def Bucket.cores (b : Bucket) : List (Fin 8) := allCores.filter fun c => bit b.resultCores c.val

/-! ### Blocks of LOCAL and TREE (R281) -/

def blockData (base blk g : Nat) : Nat := base + 65536 * (blk / 20) + 3168 * (blk % 20) + 96 * g
def blockResidue (base blk : Nat) : Nat := base + 65536 * (blk / 20) + 63360 + 2 * (blk % 20)
def gateWord (base blk : Nat) : Nat := base + 65536 * (blk / 20) + 63424 + 36 * (blk % 20)

/-- A block's gate word: the members admitted, M (none when no finite nonzero element was admitted), and the flags. -/
structure Gate where
  bitmap : BitVec 256
  m : Option Int
  ranOver : Bool
  exclSeen : Bool
  deriving DecidableEq, Repr

def mWord (m : Option Int) : Nat :=
  match m with
  | some x => wrap 16 x
  | none => 0x8000
def mOf (w : Nat) : Option Int := if w = 0x8000 then none else some (signed 16 w)

/-- The steward's own accesses to a share's regions: the bytes at the copy that serves them. Each command checks the extents it reads
before it uses them (`State.checkExtent`). -/
def State.regionBytes (s : State) (a n : Nat) : List (BitVec 8) := s.servedBytes a n

def State.gate (s : State) (b : Bucket) (blk : Nat) : Gate :=
  let w := s.regionBytes (gateWord b.localBase blk) 36
  let fl := leAt w 34 2
  { bitmap := BitVec.ofNat 256 (leAt w 0 32), m := mOf (leAt w 32 2), ranOver := fl % 2 = 1, exclSeen := fl / 2 % 2 = 1 }

/-- A block's gate word is written: the code of the refusal, if its stack refuses it. -/
def State.putGate (s : State) (b : Bucket) (blk : Nat) (g : Gate) : Option (BitVec 16) × State :=
  s.stackWrite (gateWord b.localBase blk)
    (natLe 32 g.bitmap.toNat ++ natLe 2 (mWord g.m) ++ natLe 2 (b2n g.ranOver + 2 * b2n g.exclSeen))

def State.setGate (s : State) (b : Bucket) (blk : Nat) (g : Gate) : State := (s.putGate b blk g).2

/-- The 528 lanes of a block. -/
def State.lanesOf (s : State) (base blk : Nat) : List Int :=
  (List.range 33).flatMap fun g =>
    let w := s.regionBytes (blockData base blk g) 96
    (List.range 16).map fun i => signed 48 (leAt w (6 * i) 6)

/-- The residue word of a block; 0xFFFF reads as 0 (R231, R284). -/
def State.residueOf (s : State) (base blk : Nat) : Nat :=
  let r := leNat (s.regionBytes (blockResidue base blk) 2)
  if r = 0xFFFF then 0 else r

/-- The rime of some lanes (R284). -/
def rimeOf (l : List Int) : Nat := l.foldl (fun r x => (r + rimeOfLane x) % 65535) 0

def State.blockOk (s : State) (base blk : Nat) : Bool := s.residueOf base blk = rimeOf (s.lanesOf base blk)

/-- What a block's data, tally group and residue word take up in LOCAL or TREE. -/
def blockExtents (base blk : Nat) : List (Nat × Nat) := [(blockData base blk 0, 3168), (blockResidue base blk, 2)]

/-- The gate words of a bucket can be read (R209). -/
def State.checkGates (s : State) (b : Bucket) : Option (BitVec 16) × State :=
  s.checkExtents ((List.range b.blocks).map fun k => (gateWord b.localBase k, 36))

/-- Blocks of a region that its owner cannot read. DESIGN CHOICE (log entry 73): such a block does not pass its comparison (R285). -/
def State.unreadBlocks (s : State) (base : Nat) (blks : List Nat) : List Nat × State :=
  blks.foldl (fun (x : List Nat × State) k =>
    match x.2.checkExtents (blockExtents base k) with
    | (some _, s1) => (x.1 ++ [k], s1)
    | (none, s1) => (x.1, s1)) ([], s)

/-- COUNT and NF of a block's tally group. -/
def State.tally (s : State) (base blk : Nat) : Int × Int :=
  let w := s.regionBytes (blockData base blk 32) 12
  (signed 48 (leAt w 0 6), signed 48 (leAt w 6 6))

/-- COUNT of a block, once its tally group is read (R209); none where it cannot be. -/
def State.readCount (s : State) (base blk : Nat) : Option Int × State :=
  match s.checkExtent (blockData base blk 32) 12 with
  | (some _, s1) => (none, s1)
  | (none, s1) => (some (s1.tally base blk).1, s1)

/-! ### Shares -/

def State.share (s : State) (bucket : Nat) : Option Share := s.red.shares.find? fun x => x.bucket.toNat = bucket
def State.modShare (s : State) (bucket : Nat) (f : Share → Share) : State :=
  s.modRed fun r => { r with shares := r.shares.map fun x => if x.bucket.toNat = bucket then f x else x }

/-- The members of a bucket's channel that its epoch lists (R276, R299). -/
def State.rankModule (s : State) (channel member : Nat) : Option Nat :=
  s.moduleAt ⟨s.selfSpot.stage, channel, member⟩
def State.expectedMembers (s : State) (b : Bucket) (channel : Nat) : List Nat :=
  (List.range b.members).filter fun r => (s.rankModule channel r).isSome
/-- Those not declared LOST. -/
def State.awaitedMembers (s : State) (b : Bucket) : List Nat :=
  let ch := s.selfSpot.channel
  (s.expectedMembers b ch).filter fun r => match s.rankModule ch r with
    | some m => !s.isLost m
    | none => false
/-- N_exp of R295: the ranks expected in every channel. -/
def State.expectedCount (s : State) (b : Bucket) : Nat :=
  ((List.range b.channels).map fun c => (s.expectedMembers b c).length).foldl (· + ·) 0

/-- RED_LAST_BLOCK takes the place of the last fault (R306). -/
def State.noteBlock (s : State) (bucket share blk : Nat) (code : BitVec 16) : State :=
  s.modRed fun r => { r with lastBlock := BitVec.ofNat 96 (bucket + share % 256 * 2 ^ 32 + blk % 2 ^ 24 * 2 ^ 40 + code.toNat * 2 ^ 64) }

/-- The smallest COUNT of a share's blocks, LOCAL and TREE together, each tally read as any read is (R209); nothing is counted before its
regions are zeroed (R281, R306). DESIGN CHOICE (log entry 73): a block whose tally cannot be read is left out. -/
def State.leastCount (s : State) (b : Bucket) (x : Share) : Nat × State :=
  if x.st = .opening then (0, s)
  else (List.range b.blocks).foldl (fun (m : Nat × State) k =>
    let l := m.2.readCount b.localBase k
    let t := l.2.readCount b.treeBase k
    (match l.1, t.1 with
      | some p, some q => min m.1 (p + q).toNat
      | _, _ => m.1, t.2)) (2 ^ 17 - 1, s)
def State.smallestCount (s : State) (b : Bucket) (x : Share) : Nat := (s.leastCount b x).1

/-- RED_BUCKET_STATE of a share (R470). -/
def ShareSt.code : ShareSt → Nat
  | .opening => 0 | .collecting => 1 | .exchanging => 2 | .rerunning => 3 | .finishing => 4 | .final => 5 | .failed => 6

def Share.word (x : Share) (state least : Nat) : BitVec 256 :=
  BitVec.ofNat 256 (x.bucket.toNat + x.share % 256 * 2 ^ 32 + state * 2 ^ 40 + x.round % 2 * 2 ^ 43 + x.closed % 2 ^ 24 * 2 ^ 48
    + least % 2 ^ 17 * 2 ^ 96 + x.closeTick % 2 ^ 64 * 2 ^ 128)

/-- A share's word as it stands. -/
def State.shareWord (s : State) (x : Share) (state : Nat) : BitVec 256 :=
  x.word state (match s.bucket x.bucket.toNat with
    | some b => s.smallestCount b x
    | none => 0)

/-- RED_BUCKET_STATE of a place (R294, R306, R470): the share open there as it stands, else the values its last share left. -/
def State.sharePlace (s : State) (i : Nat) : BitVec 256 :=
  match s.red.shares.find? fun x => x.place = i with
  | some x => s.shareWord x x.st.code
  | none => tabGet (7#256 <<< 40) s.red.places i

/-- The words the places keep when a step ends: each share's own, its place free (R470). -/
def State.keptWords (s : State) : Tab (BitVec 256) :=
  s.red.shares.foldl (fun t x => tabSet 0 t x.place (s.shareWord x 7)) s.red.places

/-- The deadline tick of a bucket: marker tick and DEADLINE_OFS, and every shift that came before it had passed (R286,
R289). -/
def Red.deadline (r : Red) (b : Bucket) : Nat :=
  r.shifts.foldl (fun d x => if x.1 < d then d + x.2 else d) (r.markerTick + b.deadlineOfs)

def Red.shift (r : Red) : Nat := r.shifts.foldl (fun a x => a + x.2) 0

/-- The lowest place no share holds. -/
def Red.freePlace (r : Red) : Nat :=
  ((List.range 2048).find? fun i => r.shares.all fun x => x.place ≠ i).getD 0

/-- A first unit or record, or the module's own contribution, brings a share to OPENING (R294); with 2,048 shares open it
waits. -/
def State.startShare (s : State) (b : Bucket) : State :=
  if 2048 ≤ s.red.shares.length || (s.share b.id).isSome || s.red.finished.any (fun f => f.1 = b.id) then s
  else
    s.modRed fun r => { r with shares := r.shares ++ [{
      place := r.freePlace, bucket := BitVec.ofNat 32 b.id, share := s.selfSpot.rank, step := r.step, openTick := s.tick }] }

/-- The regions of two buckets share a page. -/
def regionsMeet (a b : Bucket) : Bool :=
  let r (x : Bucket) : List (Nat × Nat) := [(x.localBase, x.pages * 65536), (x.treeBase, x.pages * 65536)]
  (r a).any fun x => (r b).any fun y => decide (x.1 < y.1 + y.2 ∧ y.1 < x.1 + x.2)

/-- An anchor clamped to its field (R279, R298). -/
def clampAnchor (x : Int) : Int := max (-512) (min x 511)

/-- The anchor of a block for the current step (R279). -/
def State.pickAnchor (s : State) (b : Bucket) (fresh : Bool) (blk : Nat) : Int :=
  let w := leNat (s.regionBytes (b.anchorBase + 16 + 4 * blk) 4)
  if fresh && bitsOf w 26 26 = 1 then clampAnchor (signed 16 (bitsOf w 25 10) + b.k + 2)
  else
    match tabGet none s.red.fallback b.gradTensor with
    | some f => clampAnchor (f + b.k + 2)
    | none => b.g0

/-- LOCAL and TREE of a share zeroed, page by page, with every gate word empty. -/
def State.zeroShare (s : State) (b : Bucket) : State :=
  let page (s : State) (a : Nat) : State := (s.stackWrite a (List.replicate 65536 0)).2
  let s1 := (List.range b.pages).foldl (fun s p => page (page s (b.localBase + 65536 * p)) (b.treeBase + 65536 * p)) s
  (List.range b.blocks).foldl (fun s k => s.setGate b k ⟨0, none, false, false⟩) s1

/-- SHARE_OPEN: the regions being free, they are zeroed, the anchors are selected and the share is COLLECTING. A refused read of the
anchor table gives no data (R209, R223, R226), so the anchors come from FALLBACK or G0 (DESIGN CHOICE, log entry 73). -/
def execShareOpen (bucket : BitVec 32) (s : State) : Outcome State Fault Refusal :=
  match s.bucket bucket.toNat, s.share bucket.toNat with
  | some b, some x =>
    let busy := s.red.shares.any fun y => y.bucket ≠ bucket && y.st ≠ .opening &&
      (match s.bucket y.bucket.toNat with
        | some c => regionsMeet b c
        | none => false)
    if x.st ≠ .opening || busy || !s.stewardUp b.half then .next s
    else
      let c := s.checkExtent b.anchorBase (16 + 4 * b.blocks)
      let hdr := leNat (c.2.regionBytes b.anchorBase 4)
      let fresh := c.1 = none && (hdr + 1) % 2 ^ 32 = x.step.toNat && !s.red.anchorReset.contains (b.id, x.share)
      let anchors : Tab Int := (List.range b.blocks).foldl (fun t k => tabSet 0 t k (c.2.pickAnchor b fresh k)) []
      .next ((c.2.zeroShare b).modShare b.id fun x => { x with st := .collecting, anchors := anchors })
  | _, _ => .next s

/-! ### The end of a share (R294, R301) -/

/-- The contributors of a share: the members of its channel in the epoch. -/
def State.contributors (s : State) (b : Bucket) : List Nat :=
  (s.expectedMembers b s.selfSpot.channel).filterMap fun r => s.rankModule s.selfSpot.channel r

/-- The shares this module owns in the step: one of each bucket of its image whose members reach its rank. -/
def State.ownedBuckets (s : State) : List Nat :=
  match s.cfg with
  | none => []
  | some g => (g.buckets.map bucketOf).filterMap fun b => if s.selfSpot.rank < b.members then some b.id else none

/-- AMAX_EXP of the tensors that name a bucket's fallback, from the step's census bank (R300, R301); a record that cannot be read
gives none. -/
def State.stepAmax (s : State) : List (Nat × Int) × State :=
  match s.cfg with
  | none => ([], s)
  | some g =>
    ((g.buckets.map bucketOf).map (·.gradTensor)).eraseDups.foldl (fun (x : List (Nat × Int) × State) t =>
      let a := censusAddr g.censusBase s.red.step.toNat t + 8
      match x.2.checkExtent a 4 with
      | (some _, s1) => (x.1, s1)
      | (none, s1) =>
        let w := leNat (s1.regionBytes a 4)
        (if w = 0x80000000 then x.1 else x.1 ++ [(t, signed 32 w)], s1)) ([], s)

/-- The done report, sent once every share the module owns is FINAL or FAILED (R301). -/
def State.tryDone (s : State) : State :=
  let training : Bool := match s.cfg with
    | some g => !g.eval
    | none => false
  if !training || s.red.doneSent || !(s.ownedBuckets.all fun b => s.red.finished.any fun f => f.1 = b) then s
  else
    let lanes := s.red.normLanes.toList
    let amax := s.stepAmax
    let data := natLe 4 s.red.step.toNat ++ natLe 2 s.selfSpot.rank ++ natLe 2 s.selfSpot.channel
      ++ natLe 2 (b2n s.red.poisoned + 2 * b2n s.red.failedFlag + 4 * b2n s.red.normOver)
      ++ lanes.flatMap (fun l => natLe 6 (wrap 48 l)) ++ natLe 2 (rimeOf lanes)
      ++ amax.1.flatMap (fun x => natLe 2 x.1 ++ natLe 4 (wrap 32 x.2))
      ++ (s.red.finished.filter (·.2)).flatMap fun f => natLe 4 f.1 ++ natLe 2 s.selfSpot.rank
    (amax.2.modRed fun r => { r with doneSent := true }).report .done data

/-- The bridge adders give up the records they hold of a bucket's share: it has ended, or its sums are begun again (R294, R298, R326). -/
def State.dropHeld (s : State) (bucket : Nat) : State :=
  forAllOf allPorts (fun p s =>
    if (s.port p).bridge.any fun r => r.bucket.toNat = bucket then
      s.modPort p fun x => { x with bridge := x.bridge.filter fun r => r.bucket.toNat ≠ bucket }
    else s) s

/-- A share leaves with its outcome: its place keeps its values, its regions are free, and every contributor is told. -/
def State.endShare (s : State) (b : Bucket) (failed : Bool) : State :=
  match s.share b.id with
  | none => s
  | some x =>
    let least := s.leastCount b x
    let s1 := (least.2.dropHeld b.id).modRed fun r => { r with
      shares := r.shares.filter fun y => y.bucket.toNat ≠ b.id
      places := tabSet 0 r.places x.place (x.word 7 least.1)
      finished := r.finished ++ [(b.id, failed)]
      orders := r.orders.filter fun o => o.1 ≠ b.id
      failedFlag := r.failedFlag || failed }
    let s2 := (s.contributors b).foldl (fun s m =>
      s.sendCtrl m (if failed then .shareFailed else .shareFinal) b.id x.share) s1
    s2.tryDone

/-- A share ends FAILED with a code that has been raised where it arose. -/
def State.dropShare (s : State) (b : Bucket) (code : BitVec 16) (blk : Nat := 0) : State :=
  let sh := match s.share b.id with
    | some x => x.share
    | none => 0
  (s.noteBlock b.id sh blk code).endShare b true

/-- A share ends FAILED under a code of the reduction itself. -/
def State.failShare (s : State) (b : Bucket) (code : BitVec 16) (blk : Nat := 0) : State :=
  (s.raise code (detail := BitVec.ofNat 32 b.id)).dropShare b code blk

/-- A LOCAL or TREE page of a bucket lies on a stack. -/
def Bucket.onStack (b : Bucket) (k : Fin 32) : Bool :=
  (List.range b.pages).any fun p => stackOf (b.localBase + 65536 * p) = k.val || stackOf (b.treeBase + 65536 * p) = k.val

/-- Shares whose regions had pages on a fenced stack end FAILED (R421). -/
def State.failSharesOn (s : State) (k : Fin 32) : State :=
  s.red.shares.foldl (fun s x =>
    match s.bucket x.bucket.toNat with
    | some b => if b.onStack k then s.endShare b true else s
    | none => s) s

end Sys2Proof.Machine
end

