-- ==== Sys2Proof/Machine/Eth.lean ====
section
/-! DEFINITION. The Ethernet ports: frames, address answers, and RoCEv2 reliable-connected queue pairs with their work
queues, completion rings and memory regions in stack memory (R339 to R344, R434). -/

namespace Sys2Proof.Machine

open Host

/-! ### Frames (R340) -/

/-- A frame leaves a port whose link is up, and its bytes are counted (R348). -/
def State.ethSend (s : State) (e : Fin 2) (kind : Nat) (fields : List Nat) (payload : List (BitVec 8)) (bytes : Nat) : State :=
  if !(s.eth e).link then s
  else (s.modEth e fun x => { x with txBytes := satAdd 64 x.txBytes bytes }).emit (.frame e.val kind fields payload)

/-- Kinds of frames the port sends, in `Out.frame`. -/
def frameRoce : Nat := 1
def frameArp : Nat := 2
def framePtp : Nat := 3
def framePfc : Nat := 4

/-- A RoCE frame leaves, or waits while its priority is paused: every packet of the pair, a retransmission, a response and an
acknowledgement among them (R340). -/
def State.roceSend (s : State) (e : Fin 2) (prio : Nat) (fields : List Nat) (payload : List (BitVec 8)) (bytes : Nat) : State :=
  if bit (s.eth e).paused prio then
    s.modEth e fun x => { x with txHeld := x.txHeld ++ [{ prio := prio, fields := fields, payload := payload, bytes := bytes }] }
  else s.ethSend e frameRoce fields payload bytes

/-- The frames that waited for priorities now free leave, in order. -/
def State.releaseFrames (s : State) (e : Fin 2) : State :=
  let stays (f : HeldFrame) : Bool := bit (s.eth e).paused f.prio
  ((s.eth e).txHeld.filter fun f => !stays f).foldl (fun s f => s.ethSend e frameRoce f.fields f.payload f.bytes)
    (s.modEth e fun x => { x with txHeld := x.txHeld.filter stays })

/-- A priority flow control frame for one priority (R340): its enable bit and its pause time in quanta, 0 to go on. -/
def State.sendPfc (s : State) (e : Fin 2) (prio quanta : Nat) : State :=
  (s.modEth e fun x => { x with
    pausing := if quanta = 0 then x.pausing &&& ~~~(1#8 <<< prio) else x.pausing ||| (1#8 <<< prio) }).ethSend e framePfc [2 ^ prio, quanta] [] 64

def State.ethUp (s : State) (e : Fin 2) : Bool := s.stewardUp e && (s.eth e).link && !bit s.glb.fencedEths e.val

/-- Kinds the port accepts: RoCEv2, PTP, ARP and neighbour discovery, and priority flow control. -/
def FrameKind.accepted : FrameKind → Bool
  | .other => false
  | _ => true

/-! ### The pair's context and work requests (R344) -/

/-- Bytes `[o, o + n)` of a pair's context entry. -/
def QpRun.ctxAt (x : QpRun) (o n : Nat) : Nat := fld x.ctx (8 * (o + n) - 1) (8 * o)
def QpRun.pmtu (x : QpRun) : Nat := 1024 * 2 ^ min (x.ctxAt 1 1) 2
def QpRun.retryCount (x : QpRun) : Nat := x.ctxAt 2 1 % 8
def QpRun.rnrCount (x : QpRun) : Nat := x.ctxAt 2 1 / 16 % 8
def QpRun.timeoutNs (x : QpRun) : Nat := 4096 * 2 ^ (x.ctxAt 3 1 % 32)
def QpRun.ipv6 (x : QpRun) : Bool := x.ctxAt 4 1 % 2 = 1
def QpRun.vlan (x : QpRun) : Bool := x.ctxAt 4 1 / 2 % 2 = 1
def QpRun.prio (x : QpRun) : Nat := x.ctxAt 5 1 % 8
def QpRun.sqBase (x : QpRun) : Nat := x.ctxAt 0x30 8 % 2 ^ 41
def QpRun.rqBase (x : QpRun) : Nat := x.ctxAt 0x38 8 % 2 ^ 41
def QpRun.cqBase (x : QpRun) : Nat := x.ctxAt 0x40 8 % 2 ^ 41
def QpRun.sqLog2 (x : QpRun) : Nat := x.ctxAt 0x48 1
def QpRun.rqLog2 (x : QpRun) : Nat := x.ctxAt 0x49 1
def QpRun.cqLog2 (x : QpRun) : Nat := x.ctxAt 0x4A 1

def State.qp (s : State) (e : Fin 2) (q : Nat) : QpRun := tabGet {} (s.eth e).qps q
def State.modQp (s : State) (e : Fin 2) (q : Nat) (f : QpRun → QpRun) : State :=
  s.modEth e fun x => { x with qps := tabMod {} x.qps q f }

def QpSt.code : QpSt → Nat
  | .reset => 0 | .init => 1 | .rtr => 2 | .rts => 3 | .error => 4

/-- The pair's state changes; the port writes STATE in its context entry (R344). -/
def State.qpState (s : State) (e : Fin 2) (q : Nat) (st : QpSt) : State :=
  let s1 := s.modQp e q fun x => { x with st := st }
  (s1.stackWrite ((s.eth e).qpBase.toNat + 128 * q) (natLe 1 st.code)).2

def sqOp (w : BitVec 512) : Nat := fld w 7 0
def sqSignaled (w : BitVec 512) : Bool := bit w 8
def sqFence (w : BitVec 512) : Bool := bit w 9
def sqSlotEn (w : BitVec 512) : Bool := bit w 10
def sqSlot (w : BitVec 512) : Nat := fld w 25 16
def sqCore (w : BitVec 512) : Nat := fld w 28 26
def sqImm (w : BitVec 512) : Nat := fld w 63 32
def sqLocal (w : BitVec 512) : Nat := fld w 104 64
def sqLen (w : BitVec 512) : Nat := fld w 159 128
def sqLocalKey (w : BitVec 512) : Nat := fld w 191 160
def sqRemote (w : BitVec 512) : Nat := fld w 255 192
def sqRemoteKey (w : BitVec 512) : Nat := fld w 287 256
def sqWrId (w : BitVec 512) : Nat := fld w 383 320

def rqLocal (w : BitVec 256) : Nat := fld w 40 0
def rqLen (w : BitVec 256) : Nat := fld w 95 64
def rqKey (w : BitVec 256) : Nat := fld w 127 96
def rqSlot (w : BitVec 256) : Nat := fld w 137 128
def rqCore (w : BitVec 256) : Nat := fld w 140 138
def rqSlotEn (w : BitVec 256) : Bool := bit w 141
def rqWrId (w : BitVec 256) : Nat := fld w 255 192

/-- A work request, a context entry or a region entry as the port reads it. The manual does not say what the port takes when
stack memory refuses the read: a free value. -/
def State.readWqe (s : State) (a n : Nat) : Nat × State :=
  match s.stackRead a n with
  | (.ok bs, s1) => (leNat bs, s1)
  | (.error _, s1) => ((Config.freeBits (8 * n) s1.freeCtr).toNat, s1.draw)

def State.sendWqe (s : State) (x : QpRun) (idx : Nat) : BitVec 512 × State :=
  let r := s.readWqe (x.sqBase + 64 * (idx % 2 ^ x.sqLog2)) 64
  (BitVec.ofNat 512 r.1, r.2)
def State.recvWqe (s : State) (x : QpRun) (idx : Nat) : BitVec 256 × State :=
  let r := s.readWqe (x.rqBase + 32 * (idx % 2 ^ x.rqLog2)) 32
  (BitVec.ofNat 256 r.1, r.2)

/-! ### Memory regions (R341, R344) -/

/-- A memory-region entry: flags, size in bytes, virtual base, physical base. -/
structure MemRegion where
  flags : Nat
  bytes : Nat
  va : Nat
  phys : Nat
  deriving DecidableEq, Repr

/-- The entry a key selects, when it is valid and its tag matches. -/
def State.memRegion (s : State) (e : Fin 2) (key : Nat) : Option MemRegion × State :=
  let r := s.readWqe ((s.eth e).mrBase.toNat + 32 * (key % 65536)) 32
  let w := r.1
  if w % 2 = 1 ∧ bitsOf w 31 16 = bitsOf key 31 16 then
    (some { flags := bitsOf w 7 0, bytes := 65536 * bitsOf w 63 32, va := bitsOf w 127 64, phys := bitsOf w 168 128 }, r.2)
  else (none, r.2)

/-- A remote access of `n` bytes at `v` under a flag bit: the physical address it reaches. -/
def State.remoteAccess (s : State) (e : Fin 2) (key v n flag : Nat) : Option Nat × State :=
  match s.memRegion e key with
  | (some m, s1) =>
    (if m.va ≤ v ∧ v + n ≤ m.va + m.bytes ∧ bitsOf m.flags flag flag = 1 then some (m.phys + (v - m.va)) else none, s1)
  | (none, s1) => (none, s1)

/-- A work request's local range lies in the region of its key; a destination also needs LOCAL_WRITE. The address is a
physical one, so the region is compared by its physical base. -/
def State.localAccess (s : State) (e : Fin 2) (key a n : Nat) (write : Bool) : Bool × State :=
  match s.memRegion e key with
  | (some m, s1) => (decide (m.phys ≤ a ∧ a + n ≤ m.phys + m.bytes) && (!write || bitsOf m.flags 1 1 = 1), s1)
  | (none, s1) => (false, s1)

/-! ### Completions (R343, R344) -/

/-- A completion entry without its OWNER bit. -/
def cqEntry (wrId q : Nat) (recv : Bool) (op status bytes imm : Nat) (immValid : Bool) : BitVec 256 :=
  BitVec.ofNat 256 (wrId % 2 ^ 64 + (q + b2n recv * 2 ^ 16 + op % 16 * 2 ^ 20 + status * 2 ^ 24) * 2 ^ 64
    + bytes % 2 ^ 32 * 2 ^ 96 + imm % 2 ^ 32 * 2 ^ 128 + b2n immValid * 2 ^ 160)

/-- The ring holds 2^CQ_LOG2 - 1 unconsumed entries: the pair makes no progress until room appears (R344). -/
def QpRun.cqFull (x : QpRun) : Bool := decide (2 ^ x.cqLog2 - 1 ≤ (x.cqTail - x.cqHead).toNat)

/-- An entry goes into the ring with the OWNER bit of its pass. -/
def State.writeCqe (s : State) (e : Fin 2) (q : Nat) (w : BitVec 256) : State :=
  let x := s.qp e q
  let t := x.cqTail.toNat
  let owner := 1 - t / 2 ^ x.cqLog2 % 2
  let s1 := (s.stackWrite (x.cqBase + 32 * (t % 2 ^ x.cqLog2)) (natLe 32 (w.toNat + owner * 2 ^ 248))).2
  s1.modQp e q fun x => { x with cqTail := x.cqTail + 1 }

/-- A completion is written, or waits for room. -/
def State.pushCqe (s : State) (e : Fin 2) (q : Nat) (w : BitVec 256) : State :=
  let x := s.qp e q
  if x.cqFull || x.blocked ≠ [] then s.modQp e q fun x => { x with blocked := x.blocked ++ [w] } else s.writeCqe e q w

/-- Waiting completions are written while there is room. -/
def State.drainCqes (s : State) (e : Fin 2) (q : Nat) : Nat → State
  | 0 => s
  | n + 1 =>
    let x := s.qp e q
    match x.blocked with
    | [] => s
    | w :: rest =>
      if x.cqFull then s
      else ((s.modQp e q fun x => { x with blocked := rest }).writeCqe e q w).drainCqes e q n

/-- The fill token of R343: for the earliest buffer of the slot with an outstanding claim, or, with none, the one at the
write pointer. -/
def State.slotToken (s : State) (core slot : Nat) : State :=
  let o := s.slotOwner (fin8 core) slot
  let st := s.slotSt o.1 o.2
  let depth := match s.slotEnt o.1 o.2 with
    | some x => x.depth
    | none => 1
  let buf := (((List.range depth).map fun i => (st.rp + i) % depth).find? fun b =>
    (st.buf b).st = .filling && decide ((st.buf b).fills < (st.buf b).claims)).getD st.wp
  s.takeToken (fin8 core) slot buf true 0 none

/-! ### The error state (R341, R344) -/

/-- Every outstanding request completes FLUSHED. -/
def State.flushQp (s : State) (e : Fin 2) (q : Nat) : State :=
  let x := s.qp e q
  let sends := (List.range (x.sqTail - x.sqHead).toNat).foldl (fun s i =>
    let r := s.sendWqe x (x.sqHead.toNat + i)
    r.2.pushCqe e q (cqEntry (sqWrId r.1) q false (sqOp r.1) 7 0 0 false)) s
  let recvs := (List.range (x.rqTail - x.rqHead).toNat).foldl (fun s i =>
    let r := s.recvWqe x (x.rqHead.toNat + i)
    r.2.pushCqe e q (cqEntry (rqWrId r.1) q true 0 7 0 0 false)) sends
  recvs.modQp e q fun x => { x with sqHead := x.sqTail, rqHead := x.rqTail, unacked := [], reads := 0, rxOpen := false, rxWqe := none }

/-- The pair enters the error state by the host's order. -/
def State.toError (s : State) (e : Fin 2) (q : Nat) : State := (s.flushQp e q).qpState e q .error

/-- The pair enters the error state on a fault: ETH_QP_ERROR (R341). -/
def State.qpError (s : State) (e : Fin 2) (q : Nat) : State :=
  (s.toError e q).raise 0x0811 (detail := BitVec.ofNat 32 q) (site := e.val)

/-! ### Sending (R341 to R344) -/

/-- ECN codepoint ECT(0), which the port's RoCE packets carry (R342). -/
def ecnEct0 : Nat := 2

/-- A packet's header fields as they leave: destination pair, opcode, PSN, acknowledge request, RETH, immediate, AETH,
the addressing of the pair's context, the source addresses, of the IPv6 entry that SRC_IP_IDX names or the IPv4 one, and ECT(0) (R342, R344). -/
def State.sendPkt (s : State) (e : Fin 2) (q op psn : Nat) (ackReq : Bool) (va rkey len imm syn ext : Nat)
    (payload : List (BitVec 8)) : State :=
  let x := s.qp e q
  let hdr := 14 + (if x.vlan then 4 else 0) + (if x.ipv6 then 40 else 20) + 8 + 12
  let y := s.eth e
  let srcIp := if x.ipv6 then (tabGet 0 y.ipv6 (x.ctxAt 0x4B 1 % 16)).toNat else y.ipv4.toNat
  s.roceSend e x.prio [x.ctxAt 8 4 % 2 ^ 24, op, psn, b2n ackReq, va, rkey, len, imm, syn, x.ctxAt 0x18 6, x.ctxAt 0x20 16,
      x.ctxAt 0x16 2, x.ctxAt 6 1 % 64, x.ctxAt 7 1, x.prio, x.ctxAt 0x14 2 % 4096, y.macLive.toNat, srcIp, ecnEct0] payload
    (hdr + ext + (payload.length + 3) / 4 * 4 + 8)

/-- Packets a transfer of `n` bytes takes. -/
def QpRun.packets (x : QpRun) (n : Nat) : Nat := max 1 ((n + x.pmtu - 1) / x.pmtu)

/-- Opcode of packet `i` of `n` of a SEND or RDMA WRITE, with or without immediate data. -/
def pktOp (op n i : Nat) : Nat :=
  let base := if op < 2 then 0 else 6
  let imm := op % 2
  if n = 1 then base + 4 + imm else if i = 0 then base else if i + 1 < n then base + 1 else base + 2 + imm

/-- The packets of a request from the `k`-th on: data packets, or one READ request for what is still to come. False when stack memory
refuses the data: nothing further of the request is sent. -/
def State.sendRequest (s : State) (e : Fin 2) (q : Nat) (r : SqEnt) (k : Nat) : Bool × State :=
  let x := s.qp e q
  let w := r.wqe
  let op := sqOp w
  let psn (i : Nat) : Nat := (r.first.toNat + i) % 2 ^ 24
  let n := x.packets (sqLen w)
  let s1 :=
    if op = 4 then
      (true, s.sendPkt e q 0x0C (psn k) true (sqRemote w + k * x.pmtu) (sqRemoteKey w) (sqLen w - k * x.pmtu) 0 0 16 [])
    else
      ((List.range n).drop k).foldl (fun (a : Bool × State) i =>
        if !a.1 then a else
        match (a.2.carry e (sqLocal w + i * x.pmtu) (min x.pmtu (sqLen w - i * x.pmtu)) true).stackRead (sqLocal w + i * x.pmtu)
            (min x.pmtu (sqLen w - i * x.pmtu)) with
        | (.ok bs, s1) =>
          let imm := op % 2 = 1 && i + 1 = n
          let reth := 2 ≤ op && i = 0
          (true, s1.sendPkt e q (pktOp op n i) (psn i) (i + 1 = n) (if reth then sqRemote w else 0) (if reth then sqRemoteKey w else 0)
            (if reth then sqLen w else 0) (if imm then sqImm w else 0) 0 ((if reth then 16 else 0) + if imm then 4 else 0) bs)
        | (.error _, s1) => (false, s1)) (true, s)
  (s1.1, s1.2.modQp e q fun x => { x with sentTick := s.tick })

/-- The oldest request on its way completes (R344): a completion when it is signalled or failed, its fill token when it
named a slot. -/
def State.finishSend (s : State) (e : Fin 2) (q : Nat) (status : Nat) : State :=
  match (s.qp e q).unacked with
  | [] => s
  | r :: rest =>
    let w := r.wqe
    let s1 := s.modQp e q fun x => { x with
      unacked := rest, sqHead := x.sqHead + 1, retries := 0, rnr := 0
      reads := if sqOp w = 4 then x.reads - 1 else x.reads, sentTick := s.tick }
    let s2 := if status ≠ 0 || sqSignaled w then
        s1.pushCqe e q (cqEntry (sqWrId w) q false (sqOp w) status (if status = 0 then sqLen w else 0) 0 false) else s1
    if status = 0 && sqSlotEn w then s2.slotToken (sqCore w) (sqSlot w) else s2

/-- A request fails: its completion says why and the pair is in error. -/
def State.failSend (s : State) (e : Fin 2) (q : Nat) (status : Nat) : State := (s.finishSend e q status).qpError e q

/-- Request `i` of those on their way fails at this end: those before it complete FLUSHED, in their order. -/
def State.failAt (s : State) (e : Fin 2) (q : Nat) (i status : Nat) : State :=
  ((List.range i).foldl (fun (s : State) _ => s.finishSend e q 7) s).failSend e q status

/-- The next posted request is sent; none when nothing may be. -/
def State.pumpOne (s : State) (e : Fin 2) (q : Nat) : Option State :=
  let x := s.qp e q
  let idx := x.sqHead.toNat + x.unacked.length
  if x.st ≠ .rts || x.cqFull || x.blocked ≠ [] || decide ((x.sqTail - x.sqHead).toNat ≤ x.unacked.length) || bit (s.eth e).paused x.prio then none
  else
    let r := s.sendWqe x idx
    let w := r.1
    if (sqFence w && x.reads ≠ 0) || (sqOp w = 4 && decide (64 ≤ x.reads)) then none
    else if 4 < sqOp w then some (r.2.qpError e q)
    else
      let ent : SqEnt := { first := x.sqPsn, last := x.sqPsn + BitVec.ofNat 24 (x.packets (sqLen w) - 1), wqe := w }
      let s1 := r.2.modQp e q fun y => { y with
        unacked := y.unacked ++ [ent], sqPsn := ent.last + 1, reads := if sqOp w = 4 then y.reads + 1 else y.reads }
      let l := s1.localAccess e (sqLocalKey w) (sqLocal w) (sqLen w) (sqOp w = 4)
      if 2 ^ 31 < sqLen w then some (l.2.failAt e q x.unacked.length 1)
      else if !l.1 then some (l.2.failAt e q x.unacked.length 2)
      else
        -- DESIGN CHOICE (log entry 69, unsafe): data that stack memory refuses to read ends the request as its local protection does.
        let t := l.2.sendRequest e q ent 0
        some (if t.1 then t.2 else t.2.failAt e q x.unacked.length 2)

def State.pump (s : State) (e : Fin 2) (q : Nat) : Nat → State
  | 0 => s
  | n + 1 =>
    match s.pumpOne e q with
    | some s1 => s1.pump e q n
    | none => s

def State.pumpQp (s : State) (e : Fin 2) (q : Nat) : State :=
  let x := s.qp e q
  s.pump e q ((x.sqTail - x.sqHead).toNat + 1)

/-- Go-back-N: everything not acknowledged is sent again (R341). -/
def State.goBack (s : State) (e : Fin 2) (q : Nat) : State :=
  let x := s.qp e q
  ((List.range x.unacked.length).foldl (fun (a : Bool × State) i =>
    match a.1, x.unacked[i]? with
    | true, some r =>
      let t := a.2.sendRequest e q r (if i = 0 then (x.ackPsn - r.first).toNat else 0)
      (t.1, if t.1 then t.2 else t.2.failAt e q i 2)
    | _, _ => a) (true, s)).2

/-- A retry while the count allows it; after it the oldest request fails (R341). -/
def State.retryQp (s : State) (e : Fin 2) (q : Nat) : State :=
  let x := s.qp e q
  if x.retries < x.retryCount then (s.modQp e q fun x => { x with retries := x.retries + 1 }).goBack e q
  else s.failSend e q 5

/-! ### Doorbells (R344, R434) -/

/-- Offset of a doorbell of a pair's BAR4 page. -/
def qpOff (e : Fin 2) (q : Fin 4096) (r : Nat) : BitVec 27 := BitVec.ofNat 27 (0x01000000 + 0x01000000 * e.val + 0x1000 * q.val + r)

/-- SQ_TAIL: posted send requests; a tail too far ahead is an error of the pair. -/
def execSqTail (e : Fin 2) (q : Fin 4096) (val : BitVec 64) (s : State) : Outcome State Fault Refusal :=
  .next (s.bar4Write (qpOff e q 0) (.half e) fun s =>
    let x := s.qp e q.val
    let tail : BitVec 16 := val.truncate 16
    if 2 ^ x.sqLog2 < (tail - x.sqHead).toNat then s.qpError e q.val
    else (s.modQp e q.val fun x => { x with sqTail := tail }).pumpQp e q.val)

/-- RQ_TAIL: posted receive requests. -/
def execRqTail (e : Fin 2) (q : Fin 4096) (val : BitVec 64) (s : State) : Outcome State Fault Refusal :=
  .next (s.bar4Write (qpOff e q 8) (.half e) fun s =>
    let x := s.qp e q.val
    let tail : BitVec 16 := val.truncate 16
    if 2 ^ x.rqLog2 < (tail - x.rqHead).toNat then s.qpError e q.val
    else s.modQp e q.val fun x => { x with rqTail := tail })

/-- Room for a pair's completions lets the peer go on. -/
def State.freePeer (s : State) (e : Fin 2) (q : Nat) : State :=
  let p := (s.qp e q).prio
  if bit (s.eth e).pausing p && !(s.qp e q).cqFull then s.sendPfc e p 0 else s

/-- CQ_HEAD: consumed completions make room, and the pair goes on. -/
def execCqHead (e : Fin 2) (q : Fin 4096) (val : BitVec 64) (s : State) : Outcome State Fault Refusal :=
  .next (s.bar4Write (qpOff e q 16) (.half e) fun s =>
    let s1 := s.modQp e q.val fun x => { x with cqHead := val.truncate 16 }
    ((s1.drainCqes e q.val (s1.qp e q.val).blocked.length).freePeer e q.val).pumpQp e q.val)

/-- MODIFY: the pair moves to a new state, its context entry read at the write; any other code is ignored (R344, R463). -/
def execModify (e : Fin 2) (q : Fin 4096) (val : BitVec 64) (s : State) : Outcome State Fault Refusal :=
  .next (s.bar4Write (qpOff e q 24) (.half e) fun s =>
    let r := s.readWqe ((s.eth e).qpBase.toNat + 128 * q.val) 128
    let ctx := BitVec.ofNat 1024 r.1
    let read (f : QpRun → QpRun) (st : QpSt) : State :=
      (r.2.modQp e q.val fun x => f { x with ctx := ctx }).qpState e q.val st
    match fld val 2 0, (s.qp e q.val).st with
    | 0, _ => (r.2.modQp e q.val fun _ => { ctx := ctx }).qpState e q.val .reset
    | 1, .reset => read id .init
    | 2, .init => read (fun x => { x with rqPsn := BitVec.ofNat 24 (x.ctxAt 0x10 4) }) .rtr
    | 3, .rtr => (read (fun x => { x with sqPsn := BitVec.ofNat 24 (x.ctxAt 0x0C 4), ackPsn := BitVec.ofNat 24 (x.ctxAt 0x0C 4) })
        .rts).pumpQp e q.val
    | 4, _ => (r.2.modQp e q.val fun x => { x with ctx := ctx }).toError e q.val
    | _, _ => s)

/-! ### Receiving (R341, R342) -/

/-- An acknowledgement packet with a syndrome: 0 acknowledges, 0x20 says no receive request, 0x60 to 0x63 refuse. -/
def State.answer (s : State) (e : Fin 2) (q : Nat) (psn : BitVec 24) (syn : Nat) : State :=
  s.sendPkt e q 0x11 psn.toNat false 0 0 0 0 syn 4 []

def nakSequence : Nat := 0x60
def nakInvalid : Nat := 0x61
def nakAccess : Nat := 0x62
def nakRnr : Nat := 0x20

/-- Whether PSN `a` is not before `b`, in serial order. -/
def psnGe (a b : BitVec 24) : Bool := decide ((a - b).toNat < 2 ^ 23)

/-- The request being received ends: the receive request it used completes, with its fill token. -/
def State.finishRecv (s : State) (e : Fin 2) (q op status bytes imm : Nat) (immValid : Bool) : State :=
  match (s.qp e q).rxWqe with
  | none => s
  | some w =>
    let s1 := (s.modQp e q fun x => { x with rxWqe := none, rqHead := x.rqHead + 1 }).pushCqe e q
      (cqEntry (rqWrId w) q true op status bytes imm immValid)
    if status = 0 && rqSlotEn w then s1.slotToken (rqCore w) (rqSlot w) else s1

/-- A refused page is NAKed and counted (R341). -/
def State.nakPage (s : State) (e : Fin 2) (q : Nat) (psn : BitVec 24) : State :=
  (s.modEth e fun x => { x with nakBad := x.nakBad + 1 }).answer e q psn nakAccess

/-- The packet is accepted: the next PSN is expected, and an acknowledgement goes back when asked for. -/
def State.accepted (s : State) (e : Fin 2) (q : Nat) (p : RocePkt) (n : Nat) : State :=
  let s1 := s.modQp e q fun x => { x with rqPsn := x.rqPsn + BitVec.ofNat 24 n }
  if p.ackReq then s1.answer e q p.psn 0 else s1

/-- A receive request is taken for a SEND or for immediate data; none when none is posted. -/
def State.takeRecv (s : State) (e : Fin 2) (q : Nat) : Bool × State :=
  let x := s.qp e q
  if x.rxWqe.isSome then (true, s)
  else if x.rqHead = x.rqTail then (false, s)
  else
    let r := s.recvWqe x x.rqHead.toNat
    (true, r.2.modQp e q fun x => { x with rxWqe := some r.1 })

/-- A SEND packet: first, middle, last or only. -/
def State.recvSend (s : State) (e : Fin 2) (q : Nat) (p : RocePkt) : State :=
  let op := p.op.toNat
  let first := op = 0 ∨ 4 ≤ op
  let last := 2 ≤ op
  let imm := op = 3 ∨ op = 5
  match s.takeRecv e q with
  | (false, s1) => s1.answer e q p.psn nakRnr
  | (true, s1) =>
    match (s1.qp e q).rxWqe with
    | none => s1
    | some w =>
      let done := if first then 0 else (s1.qp e q).rxBytes
      let total := done + p.payload.length
      let l := s1.localAccess e (rqKey w) (rqLocal w) total true
      if rqLen w < total then ((l.2.answer e q p.psn nakInvalid).finishRecv e q 0 1 0 0 false).qpError e q
      else if !l.1 then ((l.2.answer e q p.psn 0x63).finishRecv e q 0 2 0 0 false).qpError e q
      else
        match (l.2.carry e (rqLocal w + done) p.payload.length false).stackWrite (rqLocal w + done) p.payload with
        | (some _, s2) => s2.nakPage e q p.psn
        | (none, s2) =>
          let s3 := s2.modQp e q fun x => { x with rxBytes := total, rxOpen := !last }
          let s4 := if last then s3.finishRecv e q (b2n imm) 0 total (if imm then p.imm.toNat else 0) imm else s3
          s4.accepted e q p 1

/-- An RDMA WRITE packet. -/
def State.recvWrite (s : State) (e : Fin 2) (q : Nat) (p : RocePkt) : State :=
  let op := p.op.toNat - 6
  let first := op = 0 ∨ 4 ≤ op
  let last := 2 ≤ op
  let imm := op = 3 ∨ op = 5
  let a : Option Nat × State :=
    if first then s.remoteAccess e p.rkey.toNat p.va.toNat p.len 2 else (some (s.qp e q).rxAddr, s)
  match a with
  | (none, s1) => s1.answer e q p.psn nakAccess
  | (some base, s1) =>
    let left := if first then p.len else (s1.qp e q).rxLeft
    if left < p.payload.length || (last && left ≠ p.payload.length) then (s1.answer e q p.psn nakInvalid).qpError e q
    else
      let t : Bool × State := if imm then s1.takeRecv e q else (true, s1)
      if !t.1 then t.2.answer e q p.psn nakRnr
      else
        match (t.2.carry e base p.payload.length false).stackWrite base p.payload with
        | (some _, s2) => s2.nakPage e q p.psn
        | (none, s2) =>
          let n := p.payload.length
          let total := (if first then 0 else (s1.qp e q).rxBytes) + n
          let s3 := s2.modQp e q fun x => { x with rxAddr := base + n, rxLeft := left - n, rxBytes := total, rxOpen := !last }
          let s4 := if imm then s3.finishRecv e q 3 0 total p.imm.toNat true else s3
          s4.accepted e q p 1

/-- An RDMA READ request: the data goes back in response packets. -/
def State.recvRead (s : State) (e : Fin 2) (q : Nat) (p : RocePkt) : State :=
  match s.remoteAccess e p.rkey.toNat p.va.toNat p.len 3 with
  | (none, s1) => s1.answer e q p.psn nakAccess
  | (some a, s1) =>
    match (s1.carry e a p.len true).stackRead a p.len with
    | (.error _, s2) => s2.nakPage e q p.psn
    | (.ok bs, s2) =>
      let x := s2.qp e q
      let n := x.packets p.len
      let s3 := (List.range n).foldl (fun s i =>
        let op := if n = 1 then 0x10 else if i = 0 then 0x0D else if i + 1 < n then 0x0E else 0x0F
        s.sendPkt e q op ((p.psn.toNat + i) % 2 ^ 24) false 0 0 0 0 0 (if op = 0x0E then 0 else 4)
          ((bs.drop (i * x.pmtu)).take x.pmtu)) s2
      s3.modQp e q fun x => { x with rqPsn := if p.psn = x.rqPsn then x.rqPsn + BitVec.ofNat 24 n else x.rqPsn }

/-- A request packet of the subset, in its place: a first packet begins a message, a middle or last one goes on with it. -/
def QpRun.inOrder (x : QpRun) (op : Nat) : Bool :=
  let middle := op = 1 || op = 2 || op = 3 || op = 7 || op = 8 || op = 9
  middle = x.rxOpen

/-- A request packet at the responder (R341). A PSN ahead is NAKed; one behind is acknowledged again, a READ answered
again. -/
def State.recvRequest (s : State) (e : Fin 2) (q : Nat) (p : RocePkt) : State :=
  let x := s.qp e q
  let op := p.op.toNat
  if p.psn ≠ x.rqPsn then
    if psnGe p.psn x.rqPsn then s.answer e q x.rqPsn nakSequence
    else if op = 0x0C then s.recvRead e q p
    else s.answer e q (x.rqPsn - 1) 0
  else if !x.inOrder op then (s.answer e q p.psn nakInvalid).qpError e q
  else if op = 0x0C then s.recvRead e q p
  else if op < 6 then s.recvSend e q p
  else s.recvWrite e q p

/-- Requests whole before a PSN are acknowledged; a READ ends them, since only its data answers it. -/
def State.ackUpTo (s : State) (e : Fin 2) (q : Nat) (psn : BitVec 24) : Nat → State
  | 0 => s
  | n + 1 =>
    match (s.qp e q).unacked with
    | [] => s
    | r :: _ =>
      if psnGe psn r.last && sqOp r.wqe ≠ 4 then (s.finishSend e q 0).ackUpTo e q psn n else s

/-- The oldest PSN not answered moves on. -/
def State.ackTo_ (s : State) (e : Fin 2) (q : Nat) (next : BitVec 24) : State :=
  s.modQp e q fun x => { x with ackPsn := if psnGe next x.ackPsn then next else x.ackPsn, sentTick := s.tick }

/-- An acknowledgement at the requester (R341). -/
def State.recvAck (s : State) (e : Fin 2) (q : Nat) (p : RocePkt) : State :=
  let x := s.qp e q
  let syn := p.syndrome.toNat
  if x.unacked = [] || !psnGe p.psn x.ackPsn || psnGe p.psn x.sqPsn then s
  else if syn / 32 % 4 = 0 then
    (((s.ackUpTo e q p.psn x.unacked.length).ackTo_ e q (p.psn + 1))).pumpQp e q
  else
    let s1 := (s.ackUpTo e q (p.psn - 1) x.unacked.length).ackTo_ e q p.psn
    if syn / 32 % 4 = 1 then
      if (s1.qp e q).rnr < x.rnrCount then (s1.modQp e q fun x => { x with rnr := x.rnr + 1 }).goBack e q
      else s1.failSend e q 6
    else if syn % 32 = 0 then s1.retryQp e q
    else s1.failSend e q (if syn % 32 = 2 then 3 else 4)

/-- A READ's response packet at the requester. -/
def State.recvResponse (s : State) (e : Fin 2) (q : Nat) (p : RocePkt) : State :=
  let x := s.qp e q
  let s1 := s.ackUpTo e q (p.psn - 1) x.unacked.length
  match (s1.qp e q).unacked with
  | [] => s1
  | r :: _ =>
    let y := s1.qp e q
    let k := (p.psn - r.first).toNat
    let want := if psnGe y.ackPsn r.first then y.ackPsn else r.first
    if sqOp r.wqe ≠ 4 || !psnGe p.psn r.first || !psnGe r.last p.psn then s1
    else if p.psn ≠ want then (if psnGe p.psn want then s1.retryQp e q else s1)
    else
      let at_ := sqLocal r.wqe + k * y.pmtu
      let bs := p.payload.take (sqLen r.wqe - k * y.pmtu)
      match (s1.carry e at_ bs.length false).stackWrite at_ bs with
      | (some _, s2) => s2.failSend e q 2
      | (none, s2) =>
        let s3 := s2.ackTo_ e q (p.psn + 1)
        if p.psn = r.last then (s3.finishSend e q 0).pumpQp e q else s3

/-- A congestion notification packet halves the pair's rate, to 1 Gb/s at least (R342). -/
def State.recvCnp (s : State) (e : Fin 2) (q : Nat) : State :=
  (s.modQp e q fun x => { x with rateMbps := max (x.rateMbps / 2) 1000, lastCnpRx := some s.tick }).modEth e fun x =>
    { x with cnpRecv := satAdd 16 x.cnpRecv 1 }

/-- A packet marked CE is answered with a congestion notification, at most one per pair every 50 µs (R342). -/
def State.noteCe (s : State) (e : Fin 2) (q : Nat) (ce : Bool) : State :=
  let x := s.qp e q
  let due : Bool := match x.lastCnpTx with
    | some t => decide (t + 50000 ≤ s.tick)
    | none => true
  if !ce || !due then s
  else
    (((s.modQp e q fun x => { x with lastCnpTx := some s.tick }).modEth e fun x => { x with cnpSent := satAdd 16 x.cnpSent 1 })).sendPkt
      e q 0x81 0 false 0 0 0 0 0 16 []

/-- A packet that finds its pair without room for completions pauses the peer on the pair's priority, where flow control is enabled (R340). The
manual does not say when the port generates flow control: DESIGN CHOICE (log entry 77). -/
def State.holdPeer (s : State) (e : Fin 2) (q : Nat) : State :=
  let p := (s.qp e q).prio
  if bit (s.eth e).pfc p && !bit (s.eth e).pausing p then s.sendPfc e p 0xFFFF else s

/-- The pair's acknowledgement timeout has ended with nothing acknowledged: it retries (R9, R341). While completions wait for room the pair
makes no progress, and its timeout ends nothing (R344). -/
def State.expireAck (s : State) (e : Fin 2) (q : Nat) : State :=
  let x := s.qp e q
  if x.st ≠ .rts || x.unacked = [] || x.cqFull || x.blocked ≠ [] || decide (s.tick < x.sentTick + x.timeoutNs) then s
  else s.retryQp e q

/-- ROCE_PACKET: a packet for a pair. A wrong ICRC drops it; IP options, or an opcode outside the subset, break it and
put the pair in error, as a payload above the path MTU does, each request being answered by a NAK (R7); while completions wait for room the pair makes no progress (R341, R342, R344). An answer that comes once the pair's timeout has ended comes after
its retry (R9). -/
def execRocePacket (e : Fin 2) (q : Fin 4096) (p : RocePkt) (s : State) : Outcome State Fault Refusal :=
  let x := s.qp e q.val
  if !s.ethUp e || !p.icrcOk || (x.st ≠ .rtr && x.st ≠ .rts) then .next s
  else
    let op := p.op.toNat
    if op = 0x81 then .next (s.recvCnp e q.val)
    else
      let s1 := s.noteCe e q.val p.ce
      if p.options || !(op ≤ 0x11) || decide (x.pmtu < p.payload.length) then
        .next ((if 0x0D ≤ op ∧ op ≤ 0x11 then s1 else s1.answer e q.val p.psn nakInvalid).qpError e q.val)
      else if x.cqFull || x.blocked ≠ [] then .next (s1.holdPeer e q.val)
      else if op ≤ 0x0C then .next (s1.recvRequest e q.val p)
      else
        let s2 := s1.expireAck e q.val
        if (s2.qp e q.val).st ≠ .rts then .next s2
        else if op = 0x11 then .next (s2.recvAck e q.val p)
        else .next (s2.recvResponse e q.val p)

/-- ROCE_ACK_TIMEOUT: nothing has been acknowledged for the pair's timeout (R341). -/
def execRoceAckTimeout (e : Fin 2) (q : Fin 4096) (s : State) : Outcome State Fault Refusal :=
  if !s.stewardUp e then .next s else .next (s.expireAck e q.val)

/-- ROCE_RATE_INCREASE: after every 55 µs without a notification the rate rises by 8 Gb/s, up to the line rate (R342). -/
def execRoceRateIncrease (e : Fin 2) (q : Fin 4096) (s : State) : Outcome State Fault Refusal :=
  let x := s.qp e q.val
  match x.lastCnpRx with
  | none => .next s
  | some t =>
    if s.tick < t + 55000 || !s.stewardUp e then .next s
    else
      let r := min (x.rateMbps + 8000) 800000
      .next (s.modQp e q.val fun x => { x with rateMbps := r, lastCnpRx := if r = 800000 then none else some s.tick })

/-! ### Frames and addresses (R339, R340, R343, R348) -/

/-- Frames and pairs of a priority that is no longer paused go on. -/
def State.resumeQps (s : State) (e : Fin 2) : State :=
  (s.eth e).qps.foldl (fun s x => s.pumpQp e x.1) (s.releaseFrames e)

/-- A flow control frame (R340): for each priority it enables, a pause of so many quanta of 512 bit times at 800 Gb/s, or its end. -/
def Eth.takePause (x : Eth) (tick : Nat) (enable : BitVec 8) (times : List (BitVec 16)) : Eth :=
  (List.range 8).foldl (fun (x : Eth) p =>
    let t := (times.getD p 0).toNat
    if !bit (enable &&& x.pfc) p then x
    else if t = 0 then { x with paused := x.paused &&& ~~~(1#8 <<< p) }
    else { x with paused := x.paused ||| (1#8 <<< p), pauseEnd := tabSet 0 x.pauseEnd p (tick + (t * 64 + 99) / 100) }) x

/-- Pauses whose time has passed end, and the pairs go on (R340). -/
def State.endPauses (s : State) (e : Fin 2) : State :=
  let ended := (List.range 8).filter fun p => bit (s.eth e).paused p && decide (tabGet 0 (s.eth e).pauseEnd p ≤ s.tick)
  if ended = [] then s
  else (s.modEth e fun x => { x with paused := ended.foldl (fun m p => m &&& ~~~(1#8 <<< p)) x.paused }).resumeQps e

/-- ETH_FRAME: a frame at the port is accepted, its content being a command of its own, or dropped and counted (R340). A
priority flow control frame pauses priorities on which flow control is enabled. -/
def execEthFrame (e : Fin 2) (kind : FrameKind) (len tags : Nat) (fcsOk : Bool) (symErr : Nat)
    (s : State) : Outcome State Fault Refusal :=
  if !s.ethUp e then .next s
  else
    let s1 := s.modEth e fun x => { x with
      rxBytes := satAdd 64 x.rxBytes len
      fecErr := satAdd 32 x.fecErr symErr }
    if !fcsOk || decide (len < 64) || decide (9216 < len) || decide (1 < tags) || !kind.accepted then
      .next (s1.modEth e fun x => { x with rxDropped := satAdd 32 x.rxDropped 1 })
    else
      match kind with
      | .pfc m l => .next ((s1.modEth e fun x => x.takePause s.tick m l).resumeQps e)
      | .roce => .next s1
      | .ptp => .next s1
      | .arp => .next s1
      | .neighbour => .next s1
      | .other => .next s1

/-- The port has the address: its IPv4 address, or any nonzero entry of its IPv6 table (R340, R471). -/
def Eth.hasAddress (x : Eth) (v6 : Bool) (a : BitVec 128) : Bool :=
  if v6 then a ≠ 0 && x.ipv6.any fun y => y.2 = a
  else x.ipv4 ≠ 0 && a = x.ipv4.zeroExtend 128

/-- ARP_REQUEST: Oztas answers ARP and neighbour discovery for the port's addresses with its MAC address. -/
def execArpRequest (e : Fin 2) (v6 : Bool) (target : BitVec 128) (s : State) : Outcome State Fault Refusal :=
  let x := s.eth e
  if !s.ethUp e || !s.oz.up || !x.hasAddress v6 target then .next s
  else .next (s.ethSend e frameArp [b2n v6, target.toNat, x.macLive.toNat] [] (if v6 then 90 else 64))

/-- ETH_LINK_DOWN: reported; the queue pairs go on retrying until their counts end (R343). -/
def execEthLinkDown (e : Fin 2) (s : State) : Outcome State Fault Refusal :=
  if !(s.eth e).link then .next s
  else .next ((s.modEth e fun x => { x with link := false, paused := 0, pauseEnd := [], pausing := 0, txHeld := [] }).raise 0x0810 (site := e.val))

/-- ETH_LINK_UP: the link comes up on one of the three physical layers, and a written MAC address takes effect (R339,
R348). -/
def execEthLinkUp (e : Fin 2) (phy : Fin 3) (s : State) : Outcome State Fault Refusal :=
  if (s.eth e).link || !s.stewardUp e || bit s.glb.fencedEths e.val || s.deepSleep then .next s
  else .next (s.modEth e fun x => { x with link := true, phy := BitVec.ofNat 2 phy.val, macLive := x.mac })

end Sys2Proof.Machine
end

