-- ==== Sys2Proof/Machine/Gate.lean ====
section
/-! DEFINITION. The gate of a share: how units are admitted, withdrawn or discarded, how a share closes, and its rerun
(R276 to R278, R282, R285 to R290, R296 to R298). -/

namespace Sys2Proof.Machine

open Host

/-! ### Partial records and their packing (R291, R292) -/

/-- bits(x) of R292: the least width whose two's complement holds x. -/
def laneBits (x : Int) : Nat := if x < 0 then (-x - 1).toNat.log2 + (if x = -1 then 1 else 2) else if x = 0 then 1 else x.toNat.log2 + 2

/-- A pack group: a width byte, then the low bits of each lane, least significant first (R292). -/
def packGroup (l : List Int) : List (BitVec 8) :=
  if l.all fun x => x = 0 then [0]
  else
    let w := l.foldl (fun m x => max m (laneBits x)) 1
    BitVec.ofNat 8 w :: natLe (l.length * w / 8) (packBits w (l.map (wrap w)))

/-- Groups of a list of lanes, 32 at a time. -/
def groups32 : Nat → List Int → List (List Int)
  | 0, _ => []
  | n + 1, l => l.take 32 :: groups32 n (l.drop 32)

/-- A block's lanes packed, or raw in the page layout when packing would be larger (R291). -/
def packLanes (l : List Int) : Bool × List (BitVec 8) :=
  let p := (groups32 16 l).flatMap packGroup ++ packGroup (l.drop 512)
  if 3168 < p.length then (true, l.flatMap fun x => natLe 6 (wrap 48 x)) else (false, p)

/-- A record's bytes (R291). -/
def recordBytes (r : Rec) : List (BitVec 8) :=
  let p := packLanes r.lanes
  natLe 4 r.bucket.toNat ++ natLe 4 r.step.toNat ++ natLe 4 (r.block % 2 ^ 24 + r.round % 256 * 2 ^ 24) ++ natLe 2 r.rime.toNat
    ++ natLe 2 (wrap 10 r.anchor + b2n p.1 * 2 ^ 10) ++ natLe 2 (mWord r.m) ++ natLe 2 r.chans ++ natLe 4 0 ++ p.2

/-- Lanes of one pack group of n lanes, and the bytes after it; none when it is malformed (R292). -/
def unpackGroup (n : Nat) (bs : List (BitVec 8)) : Option (List Int × List (BitVec 8)) :=
  match bs with
  | [] => none
  | w :: rest =>
    let w := w.toNat
    if w = 0 then some (List.replicate n 0, rest)
    else if 48 < w || rest.length < n * w / 8 then none
    else some ((List.range n).map fun j => signed w (unpackAt w rest j), rest.drop (n * w / 8))

/-- Sixteen data groups, then the tally group. -/
def unpackGroups : Nat → List (BitVec 8) → Option (List Int × List (BitVec 8))
  | 0, bs => unpackGroup 16 bs
  | n + 1, bs =>
    match unpackGroup 32 bs with
    | none => none
    | some (l, rest) =>
      match unpackGroups n rest with
      | none => none
      | some (m, rest') => some (l ++ m, rest')

/-- A record taken from the front of some bytes; none when it is malformed (R291, R292). -/
def parseRecord (bs : List (BitVec 8)) : Option (Rec × List (BitVec 8)) :=
  if bs.length < 24 then none
  else
    let body := bs.drop 24
    let a := leAt bs 14 2
    let lanes := if a / 2 ^ 10 % 2 = 1 then
        (if body.length < 3168 then none
         else some ((List.range 528).map fun i => signed 48 (leAt body (6 * i) 6), body.drop 3168))
      else unpackGroups 16 body
    lanes.map fun x => ({
      bucket := BitVec.ofNat 32 (leAt bs 0 4), step := BitVec.ofNat 32 (leAt bs 4 4)
      block := leAt bs 8 3, round := leAt bs 11 1, rime := BitVec.ofNat 16 (leAt bs 12 2)
      anchor := signed 10 (a % 2 ^ 10), m := mOf (leAt bs 16 2), chans := leAt bs 18 2, lanes := x.1 }, x.2)

/-- Two records of one block combined (R293). -/
def combineRecords (a b : Rec) : Rec :=
  { a with
    lanes := (a.lanes.zip b.lanes).map fun x => signed 48 (wrap 48 (x.1 + x.2))
    rime := BitVec.ofNat 16 (rimeAdd a.rime.toNat b.rime.toNat)
    m := match a.m, b.m with
      | some x, some y => some (max x y)
      | some x, none => some x
      | none, y => y
    chans := a.chans + b.chans }

/-! ### The exchange (R290, R293, R326) -/

/-- The partial a share sends for a block: LOCAL as it stood at the close. -/
def State.localRecord (s : State) (b : Bucket) (x : Share) (blk : Nat) : Rec :=
  { bucket := x.bucket, step := x.step, block := blk, round := x.round
    rime := BitVec.ofNat 16 (s.residueOf b.localBase blk), anchor := tabGet 0 x.anchors blk
    m := (s.gate b blk).m, chans := 1, lanes := s.lanesOf b.localBase blk }

/-- Ports whose tree edge joins channels: this owner's neighbours in the channel tree. -/
def State.treePorts (s : State) : List (Fin 18) :=
  s.treeLinks.filter fun p => match s.portCfg p with
    | some e => prfRole e = 4
    | none => false

/-- The neighbours whose records this owner's bridge adders combine: the ports whose COMBINE bit is set (R321, R326). -/
def State.combinePorts (s : State) : List (Fin 18) :=
  s.treePorts.filter fun p => match s.portCfg p with
    | some e => prfCombine e
    | none => false

/-- Records of the bucket travel the channel tree through bridge adders (R326). -/
def State.viaTree (s : State) (b : Bucket) : Bool := b.exchange && s.topo.tree

/-- The record a port's bridge adder holds for a block. -/
def Port.heldRecord (x : Port) (r : Rec) : Option Rec :=
  x.bridge.find? fun y => y.bucket = r.bucket && y.step = r.step && y.round = r.round && y.block = r.block

/-- This owner's LOCAL of a block has entered its bridge adder. -/
def State.localSent (s : State) (r : Rec) : Option Rec :=
  match s.bucket r.bucket.toNat, s.share r.bucket.toNat with
  | some b, some x =>
    if x.st = .exchanging && x.step = r.step && x.round = r.round && !(s.gate b r.block).ranOver then
      some (s.localRecord b x r.block)
    else none
  | _, _ => none

/-- What goes to a neighbour: LOCAL and the records of every other neighbour whose port combines, once all are there (R326). -/
def State.treeOut (s : State) (r : Rec) (dest : Fin 18) : Option Rec :=
  (s.combinePorts.filter fun q => q ≠ dest).foldl (fun acc q =>
    match acc, (s.port q).heldRecord r with
    | some a, some y => some (combineRecords a y)
    | _, _ => none) (s.localSent r)

def State.sendRecord (s : State) (m : Nat) (r : Rec) : State := s.sendMsg m 0x0B vcRed (BitVec.ofNat 144 r.bucket.toNat) (recordBytes r)
  (from_ := (s.bucket r.bucket.toNat).map (·.half))

/-- The neighbours whose last part has just come are sent their records, each on its tree edge, and a held record that every neighbour has
been sent leaves its adder, which counts it when it has been combined (R346). `from_` is the port the part came on, none for LOCAL. -/
def State.treeForward (s : State) (r : Rec) (from_ : Option (Fin 18)) : State :=
  let s1 := (s.treePorts.filter fun p => some p ≠ from_).foldl (fun s p =>
    match s.treeOut r p, s.portCfg p with
    | some y, some e => s.sendOn p (prfPeer e) 0x0B vcRed (BitVec.ofNat 144 r.bucket.toNat) (recordBytes y)
        (from_ := match from_ with
          | some q => some (portHalf q)
          | none => (s.bucket r.bucket.toNat).map (·.half))
    | _, _ => s) s
  let done := s1.combinePorts.filter fun q => (s1.treePorts.filter fun p => p ≠ q).all fun p => (s1.treeOut r p).isSome
  done.foldl (fun s q => s.modPort q fun x => { x with
    combined := satAdd 23 x.combined (b2n ((x.heldRecord r).isSome && s1.treePorts.any fun p => p ≠ q))
    bridge := x.bridge.filter fun y => !(y.bucket = r.bucket && y.step = r.step && y.round = r.round && y.block = r.block) }) s1

/-- The owners of the share in the other channels. -/
def State.peerOwners (s : State) (b : Bucket) : List Nat :=
  (List.range b.channels).filterMap fun c =>
    if c = s.selfSpot.channel then none else s.rankModule c s.selfSpot.rank

/-- A block's partial goes to the peers: through the channel tree, or to each directly. -/
def State.sendPartial (s : State) (b : Bucket) (x : Share) (blk : Nat) : State :=
  let r := s.localRecord b x blk
  if s.viaTree b then s.treeForward r none
  else (s.peerOwners b).foldl (fun s m => s.sendRecord m r) s

/-- Every block has the records of all the other channels (R290). -/
def Share.complete (x : Share) (b : Bucket) : Bool :=
  (List.range b.blocks).all fun k => tabGet 0 x.chans k = b.channels - 1

/-- A complete share that waits for no order is FINISHING. -/
def State.tryComplete (s : State) (b : Bucket) : State :=
  match s.share b.id with
  | none => s
  | some x =>
    if x.st = .exchanging && !x.awaitRerun && x.complete b then s.modShare b.id fun x => { x with st := .finishing } else s

/-! ### The close (R285, R288, R290, R298) -/

/-- Every rank awaited is admitted to every block (R288). -/
def State.allAdmitted (s : State) (b : Bucket) : Bool :=
  let rs := s.awaitedMembers b
  (List.range b.blocks).all fun k =>
    let g := s.gate b k
    rs.all fun r => bit g.bitmap r || (match s.share b.id with
      | some x => x.excluded.contains r
      | none => false)

/-- Contributions missing at the close: expected ranks of the channel that no bitmap holds. -/
def State.missingCount (s : State) (b : Bucket) (x : Share) : Nat :=
  let rs := (s.expectedMembers b s.selfSpot.channel).filter fun r => !x.excluded.contains r
  ((List.range b.blocks).map fun k =>
    let g := s.gate b k
    (rs.filter fun r => !bit g.bitmap r).length).foldl (· + ·) 0

/-- A share asks the master for its rerun: the blocks over range with their M; none of them when only a residue failed. A
share that still collects goes on collecting until the order. -/
def State.askRerun (s : State) (b : Bucket) (blocks : List (Nat × Option Int)) : State :=
  let sh := match s.share b.id with
    | some x => x.share
    | none => 0
  (s.modShare b.id fun x => { x with
    awaitRerun := true, st := if x.st = .collecting then .collecting else .exchanging }).report .over
    (natLe 4 b.id ++ natLe 4 sh ++ blocks.flatMap fun k => natLe 4 k.1 ++ natLe 2 (mWord k.2))

/-- Residue mismatches found by the owner, at send or finish (R285): each block is counted and reported; in round 0 the share is
rerun with its anchors unchanged, in round 1 it ends FAILED and the stacks of the blocks' LOCAL pages are fenced. -/
def State.rimeFailed (s : State) (b : Bucket) (x : Share) (blks : List Nat) : State :=
  let at_ (blk : Nat) : Fin 32 := fin32 (stackOf (blockData b.localBase blk 0))
  let count (s : State) : State := s.modRed fun r => { r with rimeFail := satAdd 32 r.rimeFail 1 }
  if x.round = 0 then
    (blks.foldl (fun (s : State) blk => ((count s).raise 0x0701 (unit := (at_ blk).val) (detail := BitVec.ofNat 32 b.id)).noteBlock
      b.id x.share blk 0x0701) s).askRerun b []
  else
    let s1 := (blks.foldl (fun (s : State) blk => (count s).noteBlock b.id x.share blk 0x0702) s).endShare b true
    blks.foldl (fun (s : State) blk =>
      (s.fenceStack (at_ blk) 0x0702 (BitVec.ofNat 32 b.id)).failSharesOn (at_ blk)) s1

/-- Blocks of a share with OVER set (R278). -/
def State.overBlocks (s : State) (b : Bucket) : List Nat := (List.range b.blocks).filter fun k => (s.gate b k).ranOver

/-- Blocks over range are reported with their M (R298). -/
def State.reportOver (s : State) (b : Bucket) (x : Share) (blks : List Nat) : State :=
  ((s.raise 0x0705 (detail := BitVec.ofNat 32 b.id)).noteBlock b.id x.share (blks.headD 0) 0x0705).askRerun b
    (blks.map fun k => (k, (s.gate b k).m))

/-- The module of a contributor rank. -/
def State.contributorOf (s : State) (b : Bucket) (rank : Nat) : Option Nat := s.rankModule s.selfSpot.channel (rank % b.members)

/-- Every block has the partial of another channel's owner: its own record, or, by the channel tree, the record of the neighbour on whose
side it lies, which combines it (R293, R326). -/
def State.hasPartial (s : State) (b : Bucket) (x : Share) (m : Nat) : Bool :=
  let from_ : Option Nat := if s.viaTree b then (s.treePortTo m).bind fun p => (s.portCfg p).map prfPeer else some m
  match from_ with
  | some q => (List.range b.blocks).all fun k => x.gotFrom.contains (k, q)
  | none => false

/-- A share needs something that only the lost module can send: its partial, a withdrawal or resent units (R299). -/
def State.needsLost (s : State) (b : Bucket) (x : Share) (m : Nat) : Bool :=
  let partials : Bool := (s.peerOwners b).contains m && !x.complete b && x.st ≠ .finishing && !s.hasPartial b x m
  let units (l : List (Nat × Nat)) : Bool := l.any fun e => s.contributorOf b e.2 = some m
  partials || units x.withdrawing || units x.expected

/-- A share that has come to need what only a module already LOST could send ends FAILED at once (R299). -/
def State.failIfLost (s : State) (b : Bucket) : State :=
  match s.share b.id with
  | none => s
  | some x =>
    let waits : Bool := x.st = .exchanging || x.st = .rerunning || x.withdrawing ≠ []
    if waits && s.cas.lost.any fun m => s.needsLost b x m then s.failShare b 0x0706 else s

/-- The close of a collection or of a rerun (R285, R288, R290, R298): missing contributions are counted at the share's first close, blocks over
range reported and withheld, LOCAL checked and sent. A share whose rerun has been ordered already sends nothing, since its sums are
about to be zeroed; one whose gate words cannot be read ends FAILED (DESIGN CHOICE, log entry 73). -/
def State.closeShare (s : State) (b : Bucket) : State :=
  match s.share b.id with
  | none => s
  | some x =>
    match s.checkGates b with
    | (some c, s1) => s1.dropShare b c
    | (none, s1) =>
      let s2 := s1.modRed fun r => { r with missing := satAdd 64 r.missing (if x.closed = 0 then s1.missingCount b x else 0) }
      let s3 := s2.modShare b.id fun x => { x with
        st := .exchanging, closeTick := s.tick, closed := b.blocks, waitTick := s.tick, waitLimit := s.red.partialLimit.toNat }
      let ranOver := s3.overBlocks b
      if ranOver ≠ [] && (b.satPoison || x.round ≠ 0) then s3.failShare b 0x0705 (ranOver.headD 0)
      else
        let s4 := if ranOver = [] then s3 else s3.reportOver b x ranOver
        if x.round = 0 && s.red.orders.any (fun o => o.1 = b.id) then s4.modShare b.id fun x => { x with awaitRerun := true }
        else
          let whole := (List.range b.blocks).filter fun k => !ranOver.contains k
          let unread := s4.unreadBlocks b.localBase whole
          let s5 := unread.2
          match whole.filter fun k => unread.1.contains k || !s5.blockOk b.localBase k with
          | [] =>
            (match s5.share b.id with
              | none => s5
              | some y => ((whole.foldl (fun s k => s.sendPartial b y k) s5).tryComplete b).failIfLost b)
          | bad => s5.rimeFailed b x bad

/-- The channel's non-finite ranks go to the master, once (R297). -/
def State.reportNonfinite (s : State) (b : Bucket) (x : Share) : State :=
  if x.nfReported then s
  else
    (s.modShare b.id fun x => { x with nfReported := true }).report .nonfinite
      (natLe 4 b.id ++ natLe 2 s.selfSpot.channel ++ natLe 2 x.share ++ x.nfRanks.flatMap (natLe 2))

/-- A unit of the bucket that came in its window still waits at a port or inside the module (R286). -/
def State.unitsInTime (s : State) (b : Bucket) : Bool :=
  let mine (m : Msg) : Bool := m.kind = 0x0A && m.dst = s.selfId && decide (m.arrive < s.red.deadline b) && leAt m.data 0 4 = b.id
  s.cas.ownMsgs.any mine || allPorts.any fun p => (s.port p).inMsgs.any mine

/-- A collecting share closes when all it awaits is admitted, or when its deadline has passed and what came before it has been
taken; under EXCLUDE only with the exclusion set, every withdrawal admitted (R286, R288, R297). Its gate words are read as any sector is
(R209). -/
def State.tryClose (s : State) (b : Bucket) : State :=
  match s.share b.id with
  | none => s
  | some x =>
    if x.st ≠ .collecting then s
    else
      match s.checkGates b with
      | (some c, s1) => s1.dropShare b c
      | (none, s1) =>
        if !((x.deadlinePassed && !s1.unitsInTime b) || s1.allAdmitted b) then s1
        else if b.nfPolicy ≠ 1 then s1.closeShare b
        else if !x.exclSet then s1.reportNonfinite b x
        else if x.withdrawing ≠ [] then s1
        else s1.closeShare b

/-- Shares whose deadline has passed close once nothing that came in time waits (R286, R288). -/
def State.closeDue (s : State) : State :=
  s.red.shares.foldl (fun (s : State) x =>
    match s.bucket x.bucket.toNat with
    | some b => if x.st = .collecting && x.deadlinePassed then s.tryClose b else s
    | none => s) s

/-- The share waits for others' records, withdrawals or resent units. -/
def Share.waitingOnOthers (x : Share) (b : Bucket) : Bool :=
  (x.st = .exchanging && !x.complete b) || (x.st = .rerunning && x.expected ≠ [])
    || ((x.st = .collecting || x.st = .rerunning) && x.withdrawing ≠ [])

/-- Its wait has lasted RED_PARTIAL_LIMIT (R9, R290, R297, R298). -/
def State.waitExpired (s : State) (b : Bucket) (x : Share) : Bool :=
  x.waitingOnOthers b && decide (x.waitTick + x.waitLimit * 1000 ≤ s.tick)

/-! ### Units (R276 to R278, R282, R286, R287, R296) -/

structure UnitHdr where
  bucket : Nat
  step : Nat
  block : Nat
  round : Nat
  rank : Nat
  withdraw : Bool
  deriving DecidableEq, Repr

def unitHdr (w : BitVec 128) : UnitHdr where
  bucket := fld w 31 0
  step := fld w 63 32
  block := fld w 87 64
  round := fld w 95 88
  rank := fld w 111 96
  withdraw := bit w 112

def unitHdrWord (u : UnitHdr) : Nat :=
  u.bucket + u.step * 2 ^ 32 + u.block % 2 ^ 24 * 2 ^ 64 + u.round % 256 * 2 ^ 88 + u.rank % 2 ^ 16 * 2 ^ 96 + b2n u.withdraw * 2 ^ 112

/-- What the gate finds in a unit's elements: the largest binade of the finite nonzero ones and the non-finite count. -/
def unitCensus (f : FpFmt) (codes : List Nat) : Option Int × Nat :=
  codes.foldl (fun a c =>
    let v := f.decode c
    ((match v.exponent, a.1 with
      | some e, some m => some (max e m)
      | some e, none => some e
      | none, m => m), a.2 + b2n (!v.isFinite))) (none, 0)

/-- One group's elements added to a block: their residue is computed apart from the adder (R282). The result tells a
refusal, and whether a lane saturated. -/
def State.addGroup (s : State) (b : Bucket) (blk g : Nat) (anchor : Int) (codes : List Nat) :
    Option (BitVec 16) × Bool × State :=
  let f := redFmt b.cfmt
  let res := rimeOf (codes.filterMap fun c => toLf48 (elemVal f 8 8 false c 127) anchor)
  match s.panGroup true f anchor (blockData b.localBase blk g) codes res (blockResidue b.localBase blk) with
  | (e, notes, s1) => (e, notes.any fun n => !n.nonfinite, s1)

/-- The 32 data groups of a unit, stopping at a refusal. -/
def State.addUnit (s : State) (b : Bucket) (blk : Nat) (anchor : Int) (codes : List Nat) (g : Nat) (sat : Bool) :
    Nat → Option (BitVec 16) × Bool × State
  | 0 => (none, sat, s)
  | n + 1 =>
    match s.addGroup b blk g anchor ((codes.drop (16 * g)).take 16) with
    | (some e, _, s1) => (some e, sat, s1)
    | (none, x, s1) => s1.addUnit b blk anchor codes (g + 1) (sat || x) n

/-- The tally group: COUNT and NF change (R282, R297). The result tells a refusal, and whether a lane saturated (R278). -/
def State.addTally (s : State) (base blk : Nat) (count nf : Int) : Option (BitVec 16) × Bool × State :=
  let lanes := [count, nf] ++ List.replicate 14 0
  match s.panGroup false .lf48 0 (blockData base blk 32) (lanes.map (wrap 48)) (rimeOf lanes) (blockResidue base blk) with
  | (e, notes, s1) => (e, notes ≠ [], s1)

/-- The sign of an element flipped, for a withdrawal (R297). -/
def flipSign (f : FpFmt) (c : Nat) : Nat := if c < 2 ^ (f.bits - 1) then c + 2 ^ (f.bits - 1) else c - 2 ^ (f.bits - 1)

/-- A share is told of a non-finite element (R296): counted, and raised once per share. -/
def State.noteNonfinite (s : State) (b : Bucket) (x : Share) (member blk nf : Nat) : State :=
  if nf = 0 then s
  else
    let s1 := s.modRed fun r => { r with nonfinite := satAdd 64 r.nonfinite nf }
    let s2 := if x.nfSeen then s1 else
      (s1.raise 0x0704 (detail := BitVec.ofNat 32 b.id)).noteBlock b.id x.share blk 0x0704
    s2.modShare b.id fun x => { x with
      nfSeen := true, nfRanks := if x.nfRanks.contains member then x.nfRanks else x.nfRanks ++ [member] }

/-- A unit admitted to a block, or withdrawn from it. -/
def State.admitUnit (s : State) (b : Bucket) (x : Share) (u : UnitHdr) (codes : List Nat) : State :=
  let f := redFp b.cfmt
  let member := u.rank % b.members
  let anchor := tabGet 0 x.anchors u.block
  let c := unitCensus f codes
  let sent := if u.withdraw then codes.map (flipSign f) else codes
  let sign : Int := if u.withdraw then -1 else 1
  match s.addUnit b u.block anchor sent 0 false 32 with
  | (some e, _, s1) => s1.dropShare b e u.block
  | (none, sat, s1) =>
    match s1.addTally b.localBase u.block sign (sign * c.2) with
    | (some e, _, s2) => s2.dropShare b e u.block
    | (none, satTally, s2) =>
      let sat := sat || satTally
      let g := s2.gate b u.block
      let tooBig : Bool := match c.1 with
        | some t => decide (anchor - b.k < t)
        | none => false
      let one : BitVec 256 := 1#256 <<< member
      let g1 : Gate := if u.withdraw then { g with bitmap := g.bitmap &&& ~~~one, ranOver := g.ranOver || sat, exclSeen := true }
        else { g with
          bitmap := g.bitmap ||| one, ranOver := g.ranOver || sat || tooBig
          m := match g.m, c.1 with
            | some p, some q => some (max p q)
            | some p, none => some p
            | none, q => q }
      match s2.putGate b u.block g1 with
      | (some e, s3) => s3.dropShare b e u.block
      | (none, s3) =>
        let s4 := if u.withdraw then s3 else s3.noteNonfinite b x member u.block c.2
        s4.modShare b.id fun x => { x with
          withdrawing := x.withdrawing.filter fun w => w ≠ (u.block, u.rank)
          expected := x.expected.filter fun w => w ≠ (u.block, u.rank) }

def State.staleUnit (s : State) : State := s.modRed fun r => { r with stale := satAdd 64 r.stale 1 }

/-- A late unit: counted, and raised once per share (R287). -/
def State.lateUnit (s : State) (b : Bucket) (blk : Nat) : State :=
  let sh := match s.share b.id with
    | some x => x.share
    | none => s.selfSpot.rank
  let s1 := s.modRed fun r => { r with late := satAdd 64 r.late 1 }
  if s.red.lateShares.contains b.id then s1
  else
    ((s1.raise 0x0703 (detail := BitVec.ofNat 32 b.id)).noteBlock b.id sh blk 0x0703).modRed fun r =>
      { r with lateShares := r.lateShares ++ [b.id] }

/-- A rerun whose expected units have all been admitted closes again (R298); under EXCLUDE only with the exclusion set, which an order
that came before the first close leaves to ask for (R297). -/
def State.tryRerunClose (s : State) (b : Bucket) : State :=
  match s.share b.id with
  | some x =>
    if x.st ≠ .rerunning || x.expected ≠ [] || x.withdrawing ≠ [] then s
    else if b.nfPolicy = 1 && !x.exclSet then s.reportNonfinite b x
    else s.closeShare b
  | none => s

/-- The gate's choice for a unit of a share that is open, its gate word read (R287, R297, R298). -/
def State.chooseUnit (s : State) (b : Bucket) (x : Share) (u : UnitHdr) (codes : List Nat) (arrival : Nat) : State :=
  let g := s.gate b u.block
  let member := u.rank % b.members
  let held := bit g.bitmap member
  if x.st ≠ .exchanging && s.waitExpired b x then s.failShare b 0x0706
  else if u.withdraw then
    (if held && x.withdrawing.contains (u.block, u.rank) then
      (if x.st = .collecting then (s.admitUnit b x u codes).tryClose b
       else if x.st = .rerunning then (s.admitUnit b x u codes).tryRerunClose b
       else s.staleUnit)
    else s.staleUnit)
  else if u.round = 0 && s.timeTrusted && decide (s.red.deadline b ≤ arrival) then s.lateUnit b u.block
  else if x.excluded.contains member || u.round ≠ x.round then s.staleUnit
  else if held then s.staleUnit
  else if x.st = .collecting then (s.admitUnit b x u codes).tryClose b
  else if x.st = .rerunning && x.expected.contains (u.block, u.rank) then (s.admitUnit b x u codes).tryRerunClose b
  else s.staleUnit

/-- A unit of an open share meets its block's gate word; a gate word that cannot be read ends the share FAILED (R209; DESIGN CHOICE, log
entry 73). -/
def State.gateUnit (s : State) (b : Bucket) (x : Share) (u : UnitHdr) (codes : List Nat) (arrival : Nat) : State :=
  match s.checkExtent (gateWord b.localBase u.block) 36 with
  | (some c, s1) => s1.dropShare b c u.block
  | (none, s1) => s1.chooseUnit b x u codes arrival

/-- A unit names a bucket of the image and a rank of the epoch, in the module's own channel (R276). -/
def State.unitExpected (s : State) (b : Bucket) (u : UnitHdr) : Bool :=
  u.rank / b.members = s.selfSpot.channel && decide (u.block < b.blocks)
    && (s.rankModule s.selfSpot.channel (u.rank % b.members)).isSome

/-- A unit at the gate: true when it waits there, its share opening, or no place being free for one (R294). -/
def State.takeUnit (s : State) (port : Nat) (hdr : BitVec 128) (data : List (BitVec 8)) (arrival : Nat) : Bool × State :=
  let u := unitHdr hdr
  let invalid : State := (s.raise 0x070A (unit := port) (detail := BitVec.ofNat 32 u.bucket)).noteBlock u.bucket
    s.selfSpot.rank u.block 0x070A
  match s.bucket u.bucket with
  | none => (false, invalid)
  | some b =>
    if !s.unitExpected b u || data.length ≠ 512 * redBytes b.cfmt then (false, invalid)
    else if !s.stewardUp b.half || s.swapRunning then (true, s)
    else if u.step ≠ s.red.step.toNat then (false, s.staleUnit)
    else if s.red.finished.any fun f => f.1 = b.id then
      (false, if !u.withdraw && u.round = 0 && s.timeTrusted && decide (s.red.deadline b ≤ min arrival s.tick) then s.lateUnit b u.block
        else s.staleUnit)
    else
      match s.share b.id with
      | none => (true, s.startShare b)
      | some x =>
        if x.st = .opening then (true, s)
        else
          let w := redBytes b.cfmt
          let codes := (List.range 512).map fun i => leAt data (w * i) w
          (false, (s.passBytes (portHalf (fin18 port)) b.half (16 + data.length)).gateUnit b x u codes (min arrival s.tick))

/-- UNIT: a reduction unit reaches the gate with its arrival tick. One that must wait for its share to open stays where it
is and is presented again with the same tick. -/
def execUnit (port : Fin 18) (hdr : BitVec 128) (data : List (BitVec 8)) (arrival : Nat) (s : State) :
    Outcome State Fault Refusal := .next (s.takeUnit port.val hdr data arrival).2

/-- SHARE_DEADLINE: the deadline tick closes the share's collection (R286, R288), where the module's time can be trusted (R332). -/
def execShareDeadline (bucket : BitVec 32) (s : State) : Outcome State Fault Refusal :=
  match s.bucket bucket.toNat, s.share bucket.toNat with
  | some b, some x =>
    if x.st ≠ .collecting || !s.timeTrusted || s.tick < s.red.deadline b then .next s
    else .next ((s.modShare b.id fun x => { x with deadlinePassed := true }).tryClose b)
  | _, _ => .next s

/-! ### Records (R285, R290 to R293, R326) -/

/-- An invalid record is dropped, raised for its port, and reruns or fails its share (R285, R290, R292). `hit` is false
for a record that only duplicates. -/
def State.badRecord (s : State) (port bucket blk : Nat) : State :=
  let sh := match s.share bucket with
    | some x => x.share
    | none => s.selfSpot.rank
  (s.raise 0x0707 (unit := port) (detail := BitVec.ofNat 32 bucket)).noteBlock bucket sh blk 0x0707

/-- A record added into TREE, group by group with its residues (R231, R290). The result tells a refusal, and whether a lane
saturated (R278). -/
def State.addRecord (s : State) (b : Bucket) (r : Rec) (sat : Bool) : Nat → Option (BitVec 16) × Bool × State
  | 0 => (none, sat, s)
  | n + 1 =>
    let g := 32 - n
    let lanes := (r.lanes.drop (16 * g)).take 16
    match s.panGroup false .lf48 0 (blockData b.treeBase r.block g) (lanes.map (wrap 48)) (rimeOf lanes)
        (blockResidue b.treeBase r.block) with
    | (some e, _, s1) => (some e, sat, s1)
    | (none, notes, s1) => s1.addRecord b r (sat || notes ≠ []) n

/-- A block's OVER flag is set, its gate word read first (R209, R278). -/
def State.markOver (s : State) (b : Bucket) (blk : Nat) : State :=
  match s.checkExtent (gateWord b.localBase blk) 36 with
  | (some c, s1) => s1.dropShare b c blk
  | (none, s1) =>
    match s1.putGate b blk { s1.gate b blk with ranOver := true } with
    | (some c, s2) => s2.dropShare b c blk
    | (none, s2) => s2

/-- A checked record joins TREE, its census and its channels are counted, and it goes on in the channel tree. -/
def State.joinRecord (s : State) (b : Bucket) (port : Fin 18) (src : Nat) (r : Rec) : State :=
  match (s.passBytes (portHalf port) b.half (recordBytes r).length).addRecord b r false 33 with
  | (some e, _, s1) => s1.dropShare b e r.block
  | (none, sat, s0) =>
    let s1 := if sat then s0.markOver b r.block else s0
    let s2 := s1.modShare b.id fun x => { x with
      chans := tabMod 0 x.chans r.block (· + r.chans), gotFrom := x.gotFrom ++ [(r.block, src)]
      recvM := match r.m with
        | none => x.recvM
        | some m => tabSet (-1000) x.recvM r.block (max m (tabGet (-1000) x.recvM r.block)) }
    let s3 := if s.viaTree b then
        (if s2.combinePorts.contains port then s2.modPort port fun y => { y with bridge := y.bridge ++ [r] } else s2).treeForward r (some port)
      else s2
    s3.tryComplete b

/-- A record of the share's own step and round, checked as it is unpacked (R285, R290). -/
def State.checkRecord (s : State) (b : Bucket) (x : Share) (port : Fin 18) (src : Nat) (r : Rec) : State :=
  if rimeOf r.lanes ≠ r.rime.toNat then
    let s1 := (s.modRed fun y => { y with rimeFail := satAdd 32 y.rimeFail 1 }).badRecord port.val b.id r.block
    if x.round = 0 then s1.askRerun b [] else s1.endShare b true
  else if b.channels - 1 < tabGet 0 x.chans r.block + r.chans || r.chans = 0 || r.anchor ≠ tabGet 0 x.anchors r.block
      || b.blocks ≤ r.block then
    s.badRecord port.val b.id r.block
  else s.joinRecord b port src r

/-- A record at a port: true when it waits there: its share is opening or in an earlier round, or the bridge adder is
full. One of an earlier round is dropped, its sums having been zeroed. -/
def State.takeRecord (s : State) (port : Fin 18) (src : Nat) (r : Rec) : Bool × State :=
  let id := r.bucket.toNat
  match s.bucket id with
  | none => (false, s.badRecord port.val id r.block)
  | some b =>
    if !s.stewardUp b.half || s.swapRunning then (true, s)
    else if r.step ≠ s.red.step || s.red.finished.any (fun f => f.1 = id) then (false, s.badRecord port.val id r.block)
    else
      match s.share id with
      | none => (true, s.startShare b)
      | some x =>
        if x.st = .opening || x.round < r.round || (s.viaTree b && s.combinePorts.contains port && decide (256 ≤ (s.port port).bridge.length)) then (true, s)
        else if r.round < x.round then (false, s)
        else if s.waitExpired b x then (false, s.failShare b 0x0706)
        else (false, s.checkRecord b x port src r)

/-- RECORD: a partial record arrives (R290 to R293, R326). -/
def execRecord (port : Fin 18) (src : BitVec 13) (data : List (BitVec 8)) (s : State) : Outcome State Fault Refusal :=
  match parseRecord data with
  | some (r, []) => .next (s.takeRecord port src.toNat r).2
  | _ =>
    let id := leAt data 0 4
    .next (s.badRecord port.val id (leAt data 8 3))

/-! ### Limits, exclusion and rerun (R290, R297, R298) -/

/-- PARTIAL_LIMIT_EXPIRE: RED_PARTIAL_LIMIT has passed since the share's wait began (R290, R297, R298). -/
def execPartialLimitExpire (bucket : BitVec 32) (s : State) : Outcome State Fault Refusal :=
  match s.bucket bucket.toNat, s.share bucket.toNat with
  | some b, some x =>
    if s.waitExpired b x then .next (s.failShare b 0x0706) else .next s
  | _, _ => .next s

/-- Blocks whose bitmap holds a member. -/
def State.blocksWith (s : State) (b : Bucket) (member : Nat) : List Nat :=
  (List.range b.blocks).filter fun k => bit (s.gate b k).bitmap member

/-- A contributor is asked to send units again. -/
def State.askUnits (s : State) (b : Bucket) (share : Nat) (c : Ctrl) (member : Nat) (blocks : List Nat) : State :=
  match s.rankModule s.selfSpot.channel member with
  | some m => if blocks = [] then s else s.sendCtrl m c b.id share blocks
  | none => s

/-- EXCLUSION_SET: the master's set arrives; every excluded rank is asked to withdraw its units, and a rerun already ordered expects none of
it (R287, R297). -/
def execExclusionSet (h : MsgHead) (bucket : BitVec 32) (ranks : List Nat) (s : State) : Outcome State Fault Refusal :=
  .next (s.accepting h true fun s =>
    match s.bucket bucket.toNat, s.share bucket.toNat with
    | some b, some x =>
      if (x.st ≠ .collecting && x.st ≠ .rerunning) || b.nfPolicy ≠ 1 || x.exclSet then s
      else
        match s.checkGates b with
        | (some c, s0) => s0.dropShare b c
        | (none, s0) =>
          let ms := ranks.map (· % b.members)
          let rank (m : Nat) : Nat := s.selfSpot.channel * b.members + m
          let due := ms.flatMap fun m => (s0.blocksWith b m).map fun k => (k, rank m)
          let s1 := s0.modShare b.id fun x => { x with
            exclSet := true, excluded := ms, withdrawing := due, waitTick := s.tick, waitLimit := s.red.partialLimit.toNat
            expected := x.expected.filter fun e => !(ms.map rank).contains e.2 }
          (((ms.foldl (fun s' m => s'.askUnits b x.share .withdraw m (s0.blocksWith b m)) s1).failIfLost b).tryClose b).tryRerunClose b
    | _, _ => s)

/-- Round 1 of a share begins (R298): LOCAL and TREE are zeroed, the bitmaps become the set expected in it, with what an earlier
order still expects, and its ranks that are not excluded are asked to send again (R287); the blocks over range take the anchors the master names. -/
def State.applyRerun (s : State) (b : Bucket) (x : Share) (anchors : List (Nat × Int)) : State :=
  match s.checkGates b with
  | (some c, s0) => s0.dropShare b c
  | (none, s) =>
  let ch := s.selfSpot.channel
  let rank (m : Nat) : Nat := ch * b.members + m
  let held := ((List.range b.members).filter fun m => !x.excluded.contains m).map fun m =>
    (m, (List.range b.blocks).filter fun k => bit (s.gate b k).bitmap m || x.expected.contains (k, rank m))
  let s1 := (s.zeroShare b).dropHeld b.id
  let s2 := s1.modShare b.id fun x => { x with
    st := .rerunning, round := 1, awaitRerun := false, chans := [], gotFrom := [], recvM := [], withdrawing := []
    anchors := anchors.foldl (fun t a => tabSet 0 t a.1 (clampAnchor a.2)) x.anchors
    expected := held.flatMap fun m => m.2.map fun k => (k, rank m.1)
    waitTick := s.tick, waitLimit := s.red.partialLimit.toNat }
  let s3 := s2.modRed fun r => { r with
    reruns := satAdd 32 r.reruns (b2n (x.round = 0)), orders := r.orders.filter fun o => o.1 ≠ b.id }
  ((held.foldl (fun s m => s.askUnits b x.share .resend m.1 m.2) s3).failIfLost b).tryRerunClose b

/-- RERUN_ORDER: round 1 of the share begins (R298); an order that changes an anchor of a round 1 already begun begins it again.
DESIGN CHOICE (log entry 62): the order for a share that has not opened yet is kept, and takes effect once its collection has closed. -/
def execRerunOrder (h : MsgHead) (bucket : BitVec 32) (anchors : List (Nat × Int)) (s : State) :
    Outcome State Fault Refusal :=
  .next (s.accepting h true fun s =>
    let keep : State := s.modRed fun r => { r with
      orders := (r.orders.filter fun o => o.1 ≠ bucket.toNat) ++ [(bucket.toNat, anchors)] }
    match s.bucket bucket.toNat, s.share bucket.toNat with
    | some b, some x =>
      if x.st = .opening then keep
      else if x.round = 0 || anchors.any (fun a => tabGet 0 x.anchors a.1 ≠ clampAnchor a.2) then s.applyRerun b x anchors
      else s
    | some b, none => if s.red.finished.any fun f => f.1 = b.id then s else keep
    | none, _ => s)

/-- Orders kept for shares whose collection has closed since take effect. -/
def State.takeOrders (s : State) : State :=
  s.red.orders.foldl (fun (s : State) o =>
    match s.bucket o.1, s.share o.1 with
    | some b, some x => if x.st = .exchanging && x.round = 0 then s.applyRerun b x o.2 else s
    | _, _ => s) s

/-! ### What the pannier adders report (R230) -/

/-- The block of a bucket that a lane address lies in, in LOCAL or in TREE. -/
def Bucket.blockAt (b : Bucket) (a : Nat) : Option Nat :=
  [b.localBase, b.treeBase].findSome? fun base =>
    let o := a - base
    let k := 20 * (o / 65536) + o % 65536 / 3168
    if base ≤ a ∧ o < 65536 * b.pages ∧ o % 65536 < 63360 ∧ k < b.blocks then some k else none

/-- One report of an adder: a saturation sets the block's OVER (R278); a non-finite element is counted, and raised once per share
(R296). -/
def State.takeNote (s : State) (n : Nat × Bool) : State :=
  match s.red.shares.findSome? fun x => (s.bucket x.bucket.toNat).bind fun b => (b.blockAt n.1).map fun k => (x, b, k) with
  | none => s
  | some (x, b, k) =>
    if n.2 then
      let s1 := s.modRed fun r => { r with nonfinite := satAdd 64 r.nonfinite 1 }
      let s2 := if x.nfSeen then s1 else (s1.raise 0x0704 (detail := BitVec.ofNat 32 b.id)).noteBlock b.id x.share k 0x0704
      s2.modShare b.id fun x => { x with nfSeen := true }
    else s.markOver b k

/-- The gates take what the adders have reported since the last tick. -/
def State.takeNotes (s : State) : State :=
  s.red.notes.foldl (fun (s : State) n => s.takeNote n) (s.modRed fun r => { r with notes := [] })

end Sys2Proof.Machine
end

