-- ==== Sys2Proof/Machine/Finish.lean ====
section
/-! DEFINITION. The two ends of a reduction in one module: the sender of a bucket's units, and the finisher of a share;
and the fingerprint engine (R275, R280, R295 to R298, R301, R304). -/

namespace Sys2Proof.Machine

open Host

/-! ### The sender (R275, R297, R298) -/

/-- The bucket's place in its core: the source slot, or where a core fence has moved it. -/
def State.srcSlot (s : State) (b : Bucket) : Fin 8 × Nat := s.slotOwner (fin8 b.srcCore) b.srcSlot

/-- One unit of a contribution: its header and its 512 elements as they lie in the buffer. -/
def State.unitBytes (s : State) (b : Bucket) (buf share : Nat) (round : Nat) (withdraw : Bool) (blk : Nat) :
    Except (BitVec 16) (List (BitVec 8)) × State :=
  let o := s.srcSlot b
  match s.slotEnt o.1 o.2 with
  | none => (.error 0x0312, s)
  | some e =>
    let w := redBytes b.cfmt
    let a := s.bufBase o.1 o.2 buf + (share * b.blocks + blk) * 512 * w
    match s.moverRead o.1 e.home a (512 * w) with
    | (.error c, s1) => (.error c, s1)
    | (.ok bs, s1) =>
      let u : UnitHdr := {
        bucket := b.id, step := s.red.step.toNat, block := blk, round := round
        rank := s.selfSpot.channel * b.members + s.selfSpot.rank, withdraw := withdraw }
      (.ok (natLe 16 (unitHdrWord u) ++ bs), s1)

/-- Units gathered for one message, in block order; a block that cannot be read is left out. -/
def State.gatherUnits (s : State) (b : Bucket) (buf share round : Nat) (withdraw : Bool) : List Nat → List (BitVec 8) × State
  | [] => ([], s)
  | k :: ks =>
    match s.unitBytes b buf share round withdraw k with
    | (.error _, s1) => s1.gatherUnits b buf share round withdraw ks
    | (.ok bs, s1) =>
      let r := s1.gatherUnits b buf share round withdraw ks
      (bs ++ r.1, r.2)

/-- Units a message holds (R317, R318): at most 15, and at most 16,384 bytes. -/
def unitsPerMessage (b : Bucket) : Nat := min 15 (16384 / (16 + 512 * redBytes b.cfmt))

/-- The blocks in runs of a message each. -/
def runsOf (n : Nat) : Nat → List Nat → List (List Nat)
  | 0, _ => []
  | m + 1, l => if l = [] then [] else l.take n :: runsOf n m (l.drop n)

/-- A share's units sent to its owner in the module's own channel, in ascending block order. -/
def State.sendUnits (s : State) (b : Bucket) (buf share round : Nat) (withdraw : Bool) (blocks : List Nat) : State :=
  match s.rankModule s.selfSpot.channel share with
  | none => s
  | some m =>
    (runsOf (unitsPerMessage b) blocks.length blocks).foldl (fun s run =>
      let r := s.gatherUnits b buf share round withdraw run
      if r.1 = [] then r.2 else r.2.sendMsg m 0x0A vcRed (BitVec.ofNat 144 b.id) r.1 (from_ := some b.half)) s

/-- BUCKET_BEGIN: the contribution buffer is FULL; the sender acquires it and sends it share by share, the next rank's
first and the module's own last (R275). Where the module owns a share, its own contribution opens it (R294). -/
def execBucketBegin (bucket : BitVec 32) (s : State) : Outcome State Fault Refusal :=
  match s.bucket bucket.toNat with
  | none => .next s
  | some b =>
    let o := s.srcSlot b
    if s.red.senders.any (fun x => x.bucket = bucket) || !s.stewardUp b.half || !s.coreRuns o.1 then .next s
    else
      match s.ask o.1 { acq := true, slot := o.2, rq := .sender b.id } with
      | (.granted buf, s1) =>
        let own := s.selfSpot.rank
        let s2 := s1.modRed fun r => { r with senders := r.senders ++ [{ bucket := bucket, buf := buf }] }
        let s3 := if own < b.members then s2.startShare b else s2
        .next ((List.range b.members).foldl (fun s i =>
          s.sendUnits b buf ((own + 1 + i) % b.members) 0 false (List.range b.blocks)) s3)
      | (.waits, _) => .next s
      | (.refused e, s1) => .next (s1.raise e (unit := o.1.val) (detail := BitVec.ofNat 32 b.id))

/-- The sender posts its release token and keeps the buffer no longer (R275). -/
def State.endSender (s : State) (b : Bucket) (x : Sender) : State :=
  let o := s.srcSlot b
  (s.modRed fun r => { r with senders := r.senders.filter fun y => y.bucket ≠ x.bucket }).takeToken o.1 o.2 x.buf false 0 none

/-- Every sender still holding a buffer posts its token: the next step's package has come (R275). -/
def State.endSenders (s : State) : State :=
  s.red.senders.foldl (fun s x =>
    match s.bucket x.bucket.toNat with
    | some b => s.endSender b x
    | none => s.modRed fun r => { r with senders := r.senders.filter fun y => y.bucket ≠ x.bucket }) s

/-- A share's end reaches the sender; after the last share's the token is posted (R275). -/
def State.shareEnded (s : State) (bucket : BitVec 32) (share : Nat) (failed : Bool) : State :=
  match s.bucket bucket.toNat, s.red.senders.find? fun x => x.bucket = bucket with
  | some b, some x =>
    let x1 := { x with done := if x.done.contains share then x.done else x.done ++ [share], failed := x.failed || failed }
    let s1 := s.modRed fun r => { r with senders := r.senders.map fun y => if y.bucket = bucket then x1 else y }
    if (List.range b.members).all fun k => x1.done.contains k then s1.endSender b x1 else s1
  | _, _ => s

/-- SHARE_FINAL and SHARE_FAILED at a contributor (R275, R294). -/
def execShareFinal (h : MsgHead) (bucket : BitVec 32) (share : Fin 256) (s : State) : Outcome State Fault Refusal :=
  .next (s.accepting h false fun s => s.shareEnded bucket share.val false)
def execShareFailed (h : MsgHead) (bucket : BitVec 32) (share : Fin 256) (s : State) : Outcome State Fault Refusal :=
  .next (s.accepting h false fun s => s.shareEnded bucket share.val true)

/-- Units of a share sent again, while the sender keeps its buffer. -/
def State.sendAgain (s : State) (bucket : BitVec 32) (share round : Nat) (withdraw : Bool) (blocks : List Nat) : State :=
  match s.bucket bucket.toNat, s.red.senders.find? fun x => x.bucket = bucket with
  | some b, some x => s.sendUnits b x.buf share round withdraw (blocks.filter (· < b.blocks))
  | _, _ => s

/-- WITHDRAW_ORDER: units are sent again with WITHDRAW set (R297). -/
def execWithdrawOrder (h : MsgHead) (bucket : BitVec 32) (share : Fin 256) (blocks : List Nat) (s : State) :
    Outcome State Fault Refusal :=
  .next (s.accepting h false fun s => s.sendAgain bucket share.val 0 true blocks)

/-- RESEND_ORDER: units are sent again with ROUND 1 (R298). -/
def execResendOrder (h : MsgHead) (bucket : BitVec 32) (share : Fin 256) (blocks : List Nat) (s : State) :
    Outcome State Fault Refusal :=
  .next (s.accepting h false fun s => s.sendAgain bucket share.val 1 false blocks)

/-! ### The finisher (R280, R285, R295, R296, R301) -/

/-- finish_element (R295): one rounding of the exact quotient. -/
def finishElement (b : Bucket) (ls : Int) (g : Int) (n nexp : Nat) : Nat :=
  let v := Val.ofInt ls (g - 46)
  let q := if b.divide = 1 then v
    else if b.divide = 0 then v.div (Val.ofInt n 0)
    else (v.mul (Val.ofInt nexp 0)).div (Val.ofInt n 0)
  ((redFp b.rfmt).round b.ovf q).code

/-- A block as the finisher finds it: the sums of its lanes, COUNT, NF and whether its residues agree. -/
structure BlockSum where
  lanes : List Int
  count : Int
  nf : Int
  ok : Bool
  deriving DecidableEq, Repr

def State.blockSum (s : State) (b : Bucket) (blk : Nat) : BlockSum :=
  let l := s.lanesOf b.localBase blk
  let t := s.lanesOf b.treeBase blk
  let sum := (l.zip t).map fun x => x.1 + x.2
  let tally := sum.drop 512
  { lanes := sum.take 512, count := tally.getD 0 0, nf := tally.getD 1 0
    ok := decide (rimeAdd (s.residueOf b.localBase blk) (s.residueOf b.treeBase blk) = rimeOf sum) }

/-- The results of a block: under POISON every element of a block with a non-finite one is NaN (R296). -/
def blockResults (b : Bucket) (x : BlockSum) (g : Int) (nexp : Nat) : List Nat :=
  if b.nfPolicy = 0 && x.nf ≠ 0 then List.replicate 512 (redFp b.rfmt).nanCode
  else x.lanes.map fun l => finishElement b l g x.count.toNat nexp

/-- A result's square joins the norm partial (R301): a sum past the lane, or a result with no finite square, sets
NORM_OVER. -/
def Red.addNorm (r : Red) (f : FpFmt) (i code : Nat) : Red :=
  let v := f.decode code
  match toLf48 (v.mul v) r.normH with
  | none => { r with normOver := true }
  | some q =>
    let k : Fin 16 := Fin.ofNat 16 i
    let y := lf48Add (r.normLanes.get k) q
    { r with normLanes := r.normLanes.set k y.1, normOver := r.normOver || y.2 }

/-- A buffer of RESULT_SLOT claimed on every result core (R295): none while one must wait; a refusal with its code and core. -/
def State.claimResults (s : State) (b : Bucket) : List (Fin 8) → Except (Option (BitVec 16 × Fin 8)) (List (Fin 8 × Nat × Nat)) × State
  | [] => (.ok [], s)
  | c :: cs =>
    let o := s.slotOwner c b.resultSlot
    match (if s.coreLive o.1 then s.ask o.1 { acq := false, slot := o.2, rq := .finisher b.id } else (.refused 0x0312, s)) with
    | (.waits, s1) => (.error none, s1)
    | (.refused e, s1) => (.error (some (e, o.1)), s1)
    | (.granted buf, s1) =>
      match s1.claimResults b cs with
      | (.error e, s2) => (.error e, s2)
      | (.ok l, s2) => (.ok ((o.1, o.2, buf) :: l), s2)

/-- The parts written, each into its core's buffer, then their fill tokens posted; a refusal is raised for the unit that gave it (R461). -/
def State.writeResults (s : State) (bytes part : Nat) (codes : List Nat) : List (Fin 8 × Nat × Nat) → Option (BitVec 16) × State
  | [] => (none, s)
  | (c, slot, buf) :: rest =>
    let home := match s.slotEnt c slot with
      | some e => e.home
      | none => false
    match s.moverWrite c home (s.bufBase c slot buf) ((codes.take part).flatMap (natLe bytes)) with
    | (some e, s1) => (some e, if home then s1 else s1.raise e (unit := c.val) (detail := BitVec.ofNat 32 slot))
    | (none, s1) =>
      match s1.writeResults bytes part (codes.drop part) rest with
      | (some e, s2) => (some e, s2)
      | (none, s2) => (none, s2.takeToken c slot buf true 0 none)

/-- The anchor table as the finisher leaves it (R279, R280): each block's G and census, then the step. -/
def State.writeAnchors (s : State) (b : Bucket) (x : Share) : State :=
  let s1 := (List.range b.blocks).foldl (fun s k =>
    let r := tabGet (-1000) x.recvM k
    let m := match (s.gate b k).m with
      | some y => some (max y r)
      | none => if r = -1000 then none else some r
    let w := wrap 10 (tabGet 0 x.anchors k) + mWord m * 2 ^ 10 + 2 ^ 26
    (s.stackWrite (b.anchorBase + 16 + 4 * k) (natLe 4 w)).2) s
  (s1.stackWrite b.anchorBase (natLe 4 x.step.toNat)).2

/-- The finisher's work on a share whose results can be placed. -/
def State.finishShare (s : State) (b : Bucket) (x : Share) (sums : List BlockSum) (places : List (Fin 8 × Nat × Nat)) : State :=
  let nexp := s.expectedCount b
  let codes := (sums.zipIdx).flatMap fun y => blockResults b y.1 (tabGet 0 x.anchors y.2) nexp
  let poisoned := b.nfPolicy = 0 && sums.any fun y => y.nf ≠ 0
  let part := b.shareElems / (max 1 b.cores.length)
  match s.writeResults (redBytes b.rfmt) part codes places with
  | (some e, s1) => s1.dropShare b e
  | (none, s1) =>
    let s2 := s1.modRed fun r =>
      let r1 := if b.norm then codes.zipIdx.foldl (fun r y => r.addNorm (redFp b.rfmt) y.2 y.1) r else r
      { r1 with poisoned := r1.poisoned || poisoned }
    let s3 := (s2.writeAnchors b x).modShare b.id fun y => { y with
      st := .final, poisoned := poisoned }
    s3.endShare b false

/-- SHARE_FINISH: a complete share is checked, its results are written and counted in the norm, and it is FINAL; or its
check fails and it is rerun or FAILED (R285, R295). A block that an adder's saturation in TREE has put over range since the
close is not compared, and is rerun or failed like one at the close (R278, R298). -/
def execShareFinish (bucket : BitVec 32) (s : State) : Outcome State Fault Refusal :=
  match s.bucket bucket.toNat, s.share bucket.toNat with
  | some b, some x =>
    if x.st ≠ .finishing || !s.stewardUp b.half then .next s
    else
      match s.checkGates b with
      | (some c, s1) => .next (s1.dropShare b c)
      | (none, s1) =>
      let unread := s1.unreadBlocks b.localBase (List.range b.blocks)
      let unread2 := unread.2.unreadBlocks b.treeBase (List.range b.blocks)
      let s0 := unread2.2
      let sums := (List.range b.blocks).map (s0.blockSum b)
      let ranOver := s0.overBlocks b
      let bad (y : BlockSum × Nat) : Bool := !y.1.ok || unread.1.contains y.2 || unread2.1.contains y.2
      match (sums.zipIdx.filter fun y => bad y && !ranOver.contains y.2).map (·.2), ranOver with
      | [], o :: os =>
        .next (if b.satPoison || x.round ≠ 0 then s0.failShare b 0x0705 o else s0.reportOver b x (o :: os))
      | k :: ks, _ => .next (s0.rimeFailed b x (k :: ks))
      | [], [] =>
        match sums.zipIdx.find? fun y => decide (y.1.count ≤ 0) with
        | some y => .next (s0.failShare b 0x0708 y.2)
        | none =>
          match s0.claimResults b b.cores with
          | (.ok l, s1) => .next (s1.finishShare b x sums l)
          | (.error none, _) => .next s0
          | (.error (some e), _) => .next ((s0.raise e.1 (unit := e.2.val) (detail := BitVec.ofNat 32 b.id)).dropShare b e.1)
  | _, _ => .next s

/-! ### Fingerprints (R304) -/

/-- The fingerprint of a page's bytes. -/
def fingerprint (bs : List (BitVec 8)) : Nat :=
  let r := (List.range 32768).foldl (fun (x : Nat × Nat) i =>
    let a := (x.1 + leAt bs (2 * i) 2) % 2 ^ 32
    (a, (x.2 + a) % 2 ^ 32)) (0, 0)
  r.1 + r.2 * 2 ^ 32

/-- FP_START: GO starts a run over whole pages of the steward's half, unless one is running (R304, R463). -/
def execFpStart (h : Fin 2) (s : State) : Outcome State Fault Refusal :=
  .next (s.bar0Write (BitVec.ofNat 27 (0x03000118 + 0x40 * h.val)) (.half h) false fun s =>
    let x := s.half h
    let ok : Bool := x.fpSrc.toNat % 65536 = 0 && x.fpLen.toNat % 65536 = 0 && addrHalf x.fpSrc.toNat = h
      && (x.fpLen.toNat = 0 || addrHalf (x.fpSrc.toNat + x.fpLen.toNat - 1) = h)
    if x.fpBusy || !ok then s
    else s.modHalf h fun y => { y with fpBusy := true, fpRefused := false, fpPage := 0 })

/-- The run's pages in order; a page that is refused ends it. -/
def State.fingerprints (s : State) (h : Fin 2) (src dst p : Nat) : Nat → State
  | 0 => s
  | n + 1 =>
    let refuse (s : State) : State := s.modHalf h fun y => { y with fpRefused := true, fpPage := BitVec.ofNat 24 p }
    match s.stackRead (src + 65536 * p) 65536 with
    | (.error _, s1) => refuse s1
    | (.ok bs, s1) =>
      match s1.stackWrite (dst + 8 * p) (natLe 8 (fingerprint bs)) with
      | (some _, s2) => refuse s2
      | (none, s2) => s2.fingerprints h src dst (p + 1) n

/-- FP_COMPLETE: the run has written its last page's word, or ended on a refused page (R304). -/
def execFpComplete (h : Fin 2) (s : State) : Outcome State Fault Refusal :=
  let x := s.half h
  if !x.fpBusy || !s.stewardUp h then .next s
  else
    .next ((s.fingerprints h x.fpSrc.toNat x.fpDst.toNat 0 (x.fpLen.toNat / 65536)).modHalf h fun y => { y with fpBusy := false })

end Sys2Proof.Machine
end

