-- ==== Sys2Proof/Machine/Master.lean ====
section
/-! DEFINITION. The cascade master's decisions: what it does with the reports of every module, the norm decision, and the
markers it places (R259, R297, R298, R301 to R303, R329, R335, R336). -/

namespace Sys2Proof.Machine

open Host

/-- A report reaches the master and the first deputy, which both keep it; only the master acts on it (R329). -/
def State.reporting (s : State) (h : MsgHead) (keep act : State → State) : State :=
  if !s.holdsReports then s
  else
    s.accepting h false fun s =>
      let s1 := keep s
      if s1.isMaster then act s1 else s1

def State.epochTick (s : State) : Nat := s.red.markerTick

/-! ### Exclusion and rerun (R297, R298) -/

/-- Owners of a bucket's shares in one channel of a stage, as (share, module). -/
def State.ownersIn (s : State) (stage channel members : Nat) : List (Nat × Nat) :=
  (List.range members).filterMap fun r => (s.moduleAt ⟨stage, channel, r⟩).map fun m => (r, m)

def State.bucketMembers (s : State) (bucket : Nat) : Nat :=
  match s.bucket bucket with
  | some b => b.members
  | none => s.topo.members

/-- NONFINITE_RANK_REPORT: with the report of every share of the bucket in a channel, the union goes to that channel's
owners as the exclusion set (R297). A LOST owner's report is not awaited. -/
def execNonfiniteRankReport (h : MsgHead) (bucket : BitVec 32) (channel share : Nat) (ranks : List Nat) (s : State) :
    Outcome State Fault Refusal :=
  .next (s.reporting h
    (fun s => s.modMst fun m => { m with nfReps := m.nfReps.filter (fun x => !(x.bucket = bucket.toNat && x.channel = channel && x.share = share))
      ++ [{ bucket := bucket.toNat, channel := channel, share := share, ranks := ranks }] })
    fun s =>
      let stage := match s.spotOf h.src with
        | some x => x.stage
        | none => s.selfSpot.stage
      let owners := s.ownersIn stage channel (s.bucketMembers bucket.toNat)
      let reps := s.cas.mst.nfReps.filter fun x => x.bucket = bucket.toNat && x.channel = channel
      if owners.all fun o => s.isLost o.2 || reps.any fun x => x.share = o.1 then
        let union := (reps.flatMap (·.ranks)).eraseDups
        (s.decideTo (owners.flatMap fun o => ctrlMsgs o.2 .exclusion bucket.toNat o.1 (words4 union))).modMst
          fun m => { m with nfReps := m.nfReps.filter fun x => !(x.bucket = bucket.toNat && x.channel = channel) }
      else s)

/-- The largest M reported for each block of a share. -/
def blockMax (l : List (Nat × Nat × Nat × Int)) : List (Nat × Int) :=
  (l.map fun x => x.2.2.1).eraseDups.map fun k =>
    (k, (l.filter fun x => x.2.2.1 = k).foldl (fun m x => max m x.2.2.2) (-(2 ^ 15)))

/-- SATURATION_REPORT: the master orders round 1 of the share in every channel, with an anchor for each block reported
over range (R298); a report without blocks asks for a rerun with the anchors unchanged (R285). DESIGN CHOICE (log entries 48 and 62): the manual does
not say when the master has heard every owner; here the order goes at the first report and again, with the larger M, at each
later one, and an owner that is in round 1 begins it again with the anchors of the last. -/
def execSaturationReport (h : MsgHead) (bucket : BitVec 32) (share : Fin 256) (blocks : List (Nat × Option Int)) (s : State) :
    Outcome State Fault Refusal :=
  let mine := blocks.map fun x => (bucket.toNat, share.val, x.1, x.2.getD (-(2 ^ 15)))
  .next (s.reporting h
    (fun s => s.modMst fun m => { m with overReps := m.overReps ++ mine })
    fun s =>
      let reps := s.cas.mst.overReps.filter fun x => x.1 = bucket.toNat && x.2.1 = share.val
      let k := match s.bucket bucket.toNat with
        | some b => b.k
        | none =>
          let n := s.topo.members * s.topo.channels
          if n ≤ 1 then 0 else (n - 1).log2 + 1
      let anchors := (blockMax reps).map fun x => (x.1, clampAnchor (x.2 + k + 2))
      let stage := match s.spotOf h.src with
        | some x => x.stage
        | none => s.selfSpot.stage
      let owners := (List.range s.topo.channels).filterMap fun c => s.moduleAt ⟨stage, c, share.val⟩
      s.decideTo (owners.flatMap fun o => ctrlMsgs o .rerun bucket.toNat share.val
        (anchors.flatMap fun a => natLe 4 a.1 ++ natLe 2 (wrap 16 a.2))))

/-! ### Done reports and the decision (R259, R301, R302) -/

/-- The next spec ID: ascending from 1, and after 65,535 again 1 (R199). -/
def nextSpecId (id : BitVec 16) : BitVec 16 := if id = 0xFFFF then 1 else id + 1

/-- The tokens of the master (R196): OPEN takes the next spec ID. -/
def State.openNext (s : State) (rerun : Bool) (clip : BitVec 32) : State :=
  let id := nextSpecId s.cas.mst.epochId
  (s.sendToken (specToken id 1 0 rerun clip)).modMst fun m => { m with epochId := id }
def State.settleEpoch (s : State) : State := s.sendToken (specToken s.cas.mst.epochId 2 0 false 0)
def State.discardEpoch (s : State) : State := s.sendToken (specToken s.cas.mst.epochId 3 0 false 0)

/-- Replicas whose lanes differ: one stage and rank, two channels (R302). -/
def lanesDiffer (l : List DoneRep) : Bool :=
  l.any fun a => l.any fun b => a.stage = b.stage && a.rank = b.rank && a.lanes != b.lanes

/-- The reports whose lanes enter the sum: the lowest channel of each stage and rank. -/
def lowestChannels (l : List DoneRep) : List DoneRep :=
  l.filter fun a => l.all fun b => !(a.stage = b.stage && a.rank = b.rank) || decide (a.channel ≤ b.channel)

/-- The norm sum S (R302): the exact sum of the lanes, rounded once to FP32. -/
def normSum (l : List DoneRep) (h : Int) : Nat :=
  toF32 (Val.ofInt ((lowestChannels l).foldl (fun a d => d.lanes.foldl (· + ·) a) 0) (h - 46))

/-- decide() of R259 on a step's reports; `missing` when one did not come in time. -/
def State.decideStep (s : State) (missing : Bool) : State :=
  let m := s.cas.mst
  let differ := lanesDiffer m.dones
  let ranOver := m.dones.any (·.normOver)
  let poisoned := missing || differ || ranOver || m.dones.any (fun d => d.poisoned || d.failed)
  let S := normSum m.dones m.h
  let s1 := (if differ then s.raise 0x0709 else s).modMst fun m => { m with
    decided := true, lastS := BitVec.ofNat 32 S, skipNorm := ranOver, settled := [], rerun := false }
  let clip := match s.cfg with
    | some g => g.clipNorm.toNat
    | none => 0
  if poisoned || !(f32 S).isFinite then
    ((s1.discardEpoch.openNext false 0x3F800000).modMst fun m => { m with skipped := true }).runEvent 2 m.step.toNat s.selfId 0
  else if (f32 clip).isZero || !((f32 (f32Mul clip clip)).lt (f32 S)) then s1.settleEpoch
  else
    let c := (f32 clip).div (rn32 (f32 S).sqrt)
    let c1 := BitVec.ofNat 32 (toF32 c)
    let c2 : BitVec 32 := if (f32 0x3F800000).lt (f32 c1.toNat) then 0x3F800000 else c1
    ((s1.discardEpoch.openNext true c2).settleEpoch).modMst fun m => { m with rerun := true }

/-- Every module of the epoch not declared LOST has reported. -/
def State.allDone (s : State) : Bool := s.liveModules.all fun m => s.cas.mst.dones.any fun d => d.module = m

/-- The step's last deadline, over the buckets of the master's image, each with the shifts that came before it had passed (R286, R289,
R302). -/
def State.lastDeadline (s : State) : Nat :=
  match s.cfg with
  | none => s.red.markerTick
  | some g => (g.buckets.map fun b => s.red.deadline (bucketOf b)).foldl max s.red.markerTick

/-- The marker last placed has been taken here: the deadlines are those of its step. -/
def State.stepBegun (s : State) : Bool := s.red.step = s.cas.mst.step && s.red.markerTick = s.cas.mst.tick

/-- The step is undecided and a report is missing 100 ms after its last deadline (R9, R302). -/
def State.doneExpired (s : State) : Bool :=
  let m := s.cas.mst
  s.isMaster && m.placed && !m.decided && !m.evalHold && !m.stopped && !s.allDone && s.stepBegun && decide (s.lastDeadline + 100000000 ≤ s.tick)

/-- DONE_REPORT: a module's report for the step (R302). One that comes 100 ms after the last deadline, or later, comes too late: the step
is decided without it (R9). -/
def execDoneReport (h : MsgHead) (step : BitVec 32) (flags : BitVec 3) (lanes : List Int) (rime : BitVec 16)
    (amax : List (Nat × Int)) (failures : List (Nat × Nat)) (s : State) : Outcome State Fault Refusal :=
  .next (s.reporting h
    (fun s =>
      if step ≠ s.cas.mst.step || (s.stepBegun && decide (s.lastDeadline + 100000000 ≤ s.tick)) || s.cas.mst.dones.any (fun d => d.module = h.src) then s
      else
        let x := (s.spotOf h.src).getD ⟨0, 0, 0⟩
        s.modMst fun m => { m with dones := m.dones ++ [{
          module := h.src, rank := x.rank, channel := x.channel, stage := x.stage, poisoned := bit flags 0, failed := bit flags 1
          normOver := bit flags 2, lanes := lanes, rime := rime, amax := amax, failures := failures }] })
    fun s => if step = s.cas.mst.step && s.doneExpired then s.decideStep true else s)

/-- NORM_DECISION: with every done report in, the master decides the step (R259, R302). -/
def execNormDecision (s : State) : Outcome State Fault Refusal :=
  let m := s.cas.mst
  if !s.isMaster || !m.placed || m.decided || m.evalHold || m.stopped || !s.allDone then .next s else .next (s.decideStep false)

/-- DONE_REPORT_TIMEOUT: a report missing 100 ms after the last deadline poisons the step (R302). -/
def execDoneReportTimeout (s : State) : Outcome State Fault Refusal :=
  .next (if s.doneExpired then s.decideStep true else s)

/-! ### Settles, repairs and stops (R289, R303, R336) -/

def State.allSettled (s : State) : Bool := s.liveModules.all fun m => s.cas.mst.settled.contains m

/-- A module counts as settled; the last one makes the step settled. -/
def State.noteSettled (s : State) (module : Nat) : State :=
  if s.cas.mst.settled.contains module then s
  else
    let s1 := s.modMst fun m => { m with settled := m.settled ++ [module] }
    if s1.isMaster && s1.allSettled then s1.runEvent 1 s.cas.mst.step.toNat module 0 else s1

/-- SETTLE_REPORT: a core's settle; the module is settled when none of its cores still holds the epoch (R197, R336). -/
def execSettleReport (h : MsgHead) (step : BitVec 32) (coresLeft : Nat) (s : State) : Outcome State Fault Refusal :=
  .next (s.reporting h (fun s =>
    if step = s.cas.mst.step && coresLeft = 0 then s.noteSettled h.src else s) id)

/-- The modules a repair copies from (R303): the owner of the same rank in the lowest other channel for the shard regions, and
another member of the stage for the working copy (true): the lowest rank of the module's own channel, or where it is alone there
(MEMBERS is 1) of the lowest other channel (log entry 80). -/
def State.repairSources (s : State) (m : Nat) : List (Nat × Bool) :=
  match s.spotOf m with
  | none => []
  | some x =>
    let others := (List.range s.topo.channels).filter fun c => c ≠ x.channel
    let owner := others.findSome? fun c => s.moduleAt ⟨x.stage, c, x.rank⟩
    let peers := (x.channel :: others).flatMap fun c => (List.range s.topo.members).filterMap fun r =>
      if c = x.channel && r = x.rank then none else s.moduleAt ⟨x.stage, c, r⟩
    owner.toList.map (·, false) ++ peers.head?.toList.map (·, true)

/-- No bucket, of the image or the topology, has another channel to repair from (R303). -/
def State.noReplica (s : State) : Bool :=
  decide (s.topo.channels ≤ 1) || (match s.cfg with
    | some g => g.buckets.any fun e => decide ((bucketOf e).channels ≤ 1)
    | none => false)

/-- SETTLE_REFUSAL_REPORT: the next marker is held and the module is to be repaired from replicas: the sources are told which
module to copy to; a bucket with one channel has none, and the run stops (R303). The manual names no message for the order;
the model sends a REDUCE_CTRL of its own. -/
def execSettleRefusalReport (h : MsgHead) (step : BitVec 32) (s : State) : Outcome State Fault Refusal :=
  .next (s.reporting h (fun s =>
      if step = s.cas.mst.step then s.modMst fun m => { m with
        held := true, repair := if m.repair.contains h.src then m.repair else m.repair ++ [h.src] } else s)
    fun s =>
      if step ≠ s.cas.mst.step then s
      else if s.noReplica then (s.raise 0x070B (detail := BitVec.ofNat 32 h.src)).stopRun h.src 0x070B
      else s.decideTo ((s.repairSources h.src).flatMap fun o => ctrlMsgs o.1 .repair h.src (b2n o.2) []))

/-- The buffers a repair copies: of a versioned slot its firn buffer, which is the shard state; of a REPLACE slot every buffer, which is the
working copy. DESIGN CHOICE (log entry 62): the manual does not say which slots the two are. -/
def State.repairBufs (s : State) (working : Bool) : List (Fin 8 × Nat × Nat) :=
  match s.cfg with
  | none => []
  | some g => g.slots.flatMap fun x =>
    let c := fin8 x.core
    match s.slotEnt c x.slot with
    | none => []
    | some e =>
      if working then (if s.isReplace c x.slot then (List.range e.depth).map fun b => (c, x.slot, b) else [])
      else if e.versioned then [(c, x.slot, (s.slotSt c x.slot).firn)] else []

/-- The fingerprints of some bytes, one for each page of 64 KiB; the last page's missing bytes count as zeros. -/
def pagePrints (bs : List (BitVec 8)) : List (BitVec 64) :=
  (List.range ((bs.length + 65535) / 65536)).map fun i => BitVec.ofNat 64 (fingerprint ((bs.drop (65536 * i)).take 65536))

/-- The fingerprints of the regions of one of the two kinds as they stand in this module, in the order in which a repair copies
them (R303, R304). A buffer that cannot be read gives none. -/
def State.regionPrints (s : State) (working : Bool) : List (BitVec 64) × State :=
  (s.repairBufs working).foldl (fun (acc : List (BitVec 64) × State) x =>
    match acc.2.slotEnt x.1 x.2.1 with
    | none => acc
    | some e =>
      match acc.2.moverRead x.1 e.home (e.bufBase x.2.2) e.size with
      | (.error _, s1) => (acc.1, s1)
      | (.ok bs, s1) => (acc.1 ++ pagePrints bs, s1)) ([], s)

/-- The repaired module's list: its own engine's, where this module is the one repaired; elsewhere what arrived of it. -/
def State.repairedPrints (s : State) (m : Nat) (arrived : List (BitVec 64)) : List (BitVec 64) × State :=
  if m = s.selfId then
    let f := s.regionPrints false
    let w := f.2.regionPrints true
    (f.1 ++ w.1, w.2)
  else (arrived, s)

/-- The sources' list, that of the shard regions and then that of the working copy: of what this module was a source for, its
own engine's; the rest as it arrived. -/
def State.sourcePrints (s : State) (m : Nat) (arrived : List (BitVec 64)) : List (BitVec 64) × State :=
  let gives (working : Bool) : Bool := (s.repairSources m).contains (s.selfId, working)
  if !gives false && !gives true then (arrived, s)
  else
    let f := s.regionPrints false
    let w := f.2.regionPrints true
    let n := if gives true then arrived.length - w.1.length else f.1.length
    ((if gives false then f.1 else arrived.take n) ++ (if gives true then w.1 else arrived.drop n), w.2)

/-- REPAIR_COMPARE: the fingerprints of the copied regions, of the repaired module and of its sources, meet (R303): a module that
takes part computes its own, and the operands are the lists that arrived of the others. The repaired module
reports its settle on a match; on a mismatch the master stops the run. -/
def execRepairCompare (module : BitVec 13) (mine theirs : List (BitVec 64)) (s : State) : Outcome State Fault Refusal :=
  let m := module.toNat
  let a := s.repairedPrints m mine
  let b := a.2.sourcePrints m theirs
  let same := a.1 = b.1
  let s0 := b.2
  let s1 := if m = s.selfId then
      (if same then s0.report .settled (natLe 2 0 ++ natLe 4 s.red.step.toNat ++ natLe 1 0 ++ natLe 1 0)
       else (s0.raise 0x070B (detail := BitVec.ofNat 32 m)).report .repaired)
    else s0
  if !s.isMaster || !s.cas.mst.repair.contains m then .next s1
  else if same then .next ((s1.modMst fun x =>
    let left := x.repair.filter fun y => y ≠ m
    { x with held := x.held && left ≠ [], repair := left }).noteSettled m)
  else
    let s2 := if m = s.selfId then s1 else s1.raise 0x070B (detail := BitVec.ofNat 32 m)
    .next (s2.stopRun m 0x070B)

/-- FENCE_REPORT: every deadline of the step that has not passed moves by 1 ms (R289); a module fenced whole is declared LOST at
once (R299, R422). -/
def execFenceReport (h : MsgHead) (s : State) : Outcome State Fault Refusal :=
  .next (s.reporting h id fun s =>
    let s1 := s.decideAll 0x0E (memberArgs .shift 1000000) []
    if h.whole then s1.declareLost h.src else s1)

/-- MORAINE_REPORT: the step's epoch is discarded, the marker held and the run stopped (R303). -/
def execMoraineReport (h : MsgHead) (s : State) : Outcome State Fault Refusal :=
  .next (s.reporting h id fun s => (s.discardEpoch.modMst fun m => { m with decided := true }).stopRun h.src 0x0610)

/-- TIME_UNLOCKED_REPORT: the master declares a module that has lost its time, or has no variant, LOST (R299, R332, R366). -/
def execTimeUnlockedReport (h : MsgHead) (s : State) : Outcome State Fault Refusal :=
  .next (s.reporting h id fun s => s.declareLost h.src)

/-! ### Markers (R300, R301, R335, R336) -/

/-- The norm anchor of the next step (R301). -/
def nextNormAnchor (m : MasterSt) : Int :=
  if m.skipped && m.skipNorm then clampAnchor (m.h + 16)
  else
    match (f32 m.lastS.toNat).exponent with
    | some e => clampAnchor (e + 8)
    | none => 0

/-- FALLBACK of R300: the largest AMAX_EXP over all reports, for each tensor that any of them saw. -/
def fallbackOf (l : List DoneRep) : List (Nat × Int) :=
  let all := l.flatMap (·.amax)
  (all.map (·.1)).eraseDups.map fun t => (t, (all.filter fun x => x.1 = t).foldl (fun m x => max m x.2) (-(2 ^ 31)))

/-- The package's fields as the model lays them out in its one PACKAGE message. -/
def packageData (step epoch tick : Nat) (rep : Bool) (h : Int) (shift : Nat) (fb : List (Nat × Int)) (reset : List (Nat × Nat)) :
    List (BitVec 8) :=
  natLe 4 step ++ natLe 4 epoch ++ natLe 8 tick ++ natLe 1 (b2n rep) ++ natLe 2 (wrap 16 h) ++ natLe 8 shift ++ natLe 2 fb.length
    ++ fb.flatMap (fun x => natLe 2 x.1 ++ natLe 4 (wrap 32 x.2)) ++ reset.flatMap fun x => natLe 4 x.1 ++ natLe 2 x.2

/-- Entries of each list that one PACKAGE message carries: its data stays within 16,384 bytes (R317). -/
def packageShare : Nat := 1024

/-- The PACKAGE messages of a package (R317, R335): ARGS, with the part in [15:0] and the number of parts in [31:16], the model's own
layout, and the data. -/
def packageParts (step epoch tick : Nat) (rep : Bool) (h : Int) (shift : Nat) (fb : List (Nat × Int))
    (reset : List (Nat × Nat)) : List (BitVec 144 × List (BitVec 8)) :=
  let n := max 1 ((max fb.length reset.length + packageShare - 1) / packageShare)
  (List.range n).map fun i =>
    (BitVec.ofNat 144 (i + n * 2 ^ 16), packageData step epoch tick rep h shift ((fb.drop (packageShare * i)).take packageShare)
      ((reset.drop (packageShare * i)).take packageShare))

/-- What the master places next: a STEP marker with its step number, a REPEAT marker, or nothing (R336). -/
inductive NextMarker
  | step (t : BitVec 32)
  | repeat_ (eval : Bool)
  | none
  deriving DecidableEq, Repr

def State.nextMarkerKind (s : State) : NextMarker :=
  let m := s.cas.mst
  if !s.isMaster then .none
  else if m.stopped then (if !m.resume then .none else if m.placed then .repeat_ false else .step s.cas.stepSet)
  else if m.evalHold then (if m.resume then .step (m.step + 1) else .none)
  else if m.held then .none
  else if !m.placed then .step s.cas.stepSet
  else if m.skipped then .step (m.step + 1)
  else if m.decided && s.allSettled then (if m.repeatReq then .repeat_ true else .step (m.step + 1))
  else .none

/-- The number of the epoch that the next marker belongs to (R299). -/
def State.epochNumber (s : State) : Nat :=
  match s.cas.nextEpoch with
  | some e => e.1
  | none => s.cas.epoch.toNat

/-- The MEMBER messages of an epoch: 8 bytes a module, its stage, channel, rank and ID, in as many pieces as they need; the layout is the
model's own. -/
def epochMsgs (n : Nat) (list : List (Nat × Spot)) (dst : Nat) : List Msg :=
  (cutData (list.flatMap fun x => natLe 2 x.2.stage ++ natLe 2 x.2.channel ++ natLe 2 x.2.rank ++ natLe 2 x.1)).map fun y => {
    dst := dst, kind := 0x0E, vc := vcCtrl, data := y.2.2
    args := memberArgs .epoch n + BitVec.ofNat 144 (y.1 * 2 ^ 80 + y.2.1 * 2 ^ 96) }

/-- The epoch a STEP marker begins, and the master's message of it (R299). DESIGN CHOICE (log entry 76): a new one begins when a module has
been declared LOST in the last; it lists the others. The manual gives no message by which a module asks to join, so that none is added. -/
def State.renewEpoch (s : State) : Nat × State :=
  if s.cas.lost = [] then (s.epochNumber, s)
  else
    let n := (s.epochNumber + 1) % 2 ^ 32
    let list := s.liveModules.filterMap fun m => (s.spotOf m).map fun x => (m, x)
    (n, s.decideTo (s.liveModules.flatMap (epochMsgs n list)))

/-- The package goes down the tree to every module, in as many messages as its lists need, at least MARKER_LEAD ticks before the marker (R335). -/
def State.sendPackage (s : State) (step : BitVec 32) (tick : Nat) (rep : Bool) (epoch : Nat) : State :=
  let m := s.cas.mst
  let h := if rep then m.h else nextNormAnchor m
  let fb := if rep then m.fb else fallbackOf m.dones
  let reset := if rep then m.reset else m.dones.flatMap (·.failures)
  ((packageParts step.toNat epoch tick rep h (if rep then s.red.shift else 0) fb reset).foldl (fun (s : State) d => s.decideAll 0x0D d.1 d.2) s).modMst fun m => { m with
    h := h, step := step, tick := tick, placed := true, fb := fb, reset := reset, nfReps := [], overReps := [] }

/-- MARKER_PLACE: the master places the next marker (R336), opening the new step's epoch with the guess 1.0 (R196) unless
a skip has opened it already. -/
def execMarkerPlace (tick : BitVec 64) (s : State) : Outcome State Fault Refusal :=
  if tick.toNat < s.tick + s.topo.markerLead then .next s
  else
    match s.nextMarkerKind with
    | .none => .next s
    | .step t =>
      let m := s.cas.mst
      let e := s.renewEpoch
      let s1 := e.2.sendPackage t tick.toNat false e.1
      let s2 := if m.placed && m.skipped then s1 else s1.openNext false 0x3F800000
      .next (s2.modMst fun x => { x with
        dones := [], settled := [], decided := false, skipped := false, skipNorm := false, rerun := false
        evalHold := false, resume := false, stopped := false, held := false })
    | .repeat_ eval =>
      let m := s.cas.mst
      let s1 := s.sendPackage m.step tick.toNat true s.epochNumber
      let s2 := if eval then s1 else s1.openNext false 0x3F800000
      .next (s2.modMst fun x => { x with
        stopped := false, held := false, resume := false, evalHold := eval, repeatReq := false, repair := []
        dones := if eval then x.dones else [], settled := if eval then x.settled else []
        decided := eval, skipped := x.skipped && eval })

/-- The block's place for CAS_MARKER_REQ (R347). -/
def casOff (r : Nat) : BitVec 27 := BitVec.ofNat 27 (0x04120000 + r)

/-- MARKER_REQ_REPEAT: on the master, a REPEAT request not already pending (R336, R367). -/
def execMarkerReqRepeat (s : State) : Outcome State Fault Refusal :=
  .next (s.bar0Write (casOff 0x38) .cascade false fun s =>
    if s.isMaster && !s.cas.mst.repeatReq then s.modMst fun m => { m with repeatReq := true } else s)

/-- MARKER_REQ_RESUME: on the master, while it holds a marker for one (R303, R336). -/
def execMarkerReqResume (s : State) : Outcome State Fault Refusal :=
  .next (s.bar0Write (casOff 0x38) .cascade false fun s =>
    if s.isMaster && (s.cas.mst.stopped || s.cas.mst.evalHold) then s.modMst fun m => { m with resume := true } else s)

end Sys2Proof.Machine
end

