-- ==== Sys2Proof/Machine/Frames.lean ====
section
/-! DEFINITION. The frames of a Prifa direction: the frame word, the places of the five flits, and the codewords a flit lies in
(R308), and the code, RS(544,514). A command that brings a flit brings what the decoder found in the two codewords of its frame. -/

namespace Sys2Proof.Machine

/-- Information bits of a frame, of the two codewords it is made of, and of its parts. -/
def frameBits : Nat := 10280
def codewordBits : Nat := 5140
def frameWordBits : Nat := 40
def flitBits : Nat := 2048

/-- The 40-bit frame word: the frame sequence in [15:0], zeros above. -/
def frameWord (seq : BitVec 16) : BitVec 40 := seq.zeroExtend 40

/-- The information bytes of a frame, 1,285 of them: the frame word, then five flits of 256 bytes. -/
def frameBytes (seq : BitVec 16) (flits : List (List (BitVec 8))) : List (BitVec 8) :=
  natLe 5 (frameWord seq).toNat ++ flits.flatten

/-- The first bit of the flit at a place of the frame. -/
def flitStart (place : Nat) : Nat := frameWordBits + flitBits * place

/-- Codeword 0 or 1 of the frame holds a bit of the flit at a place: the flit at place 2 lies in both. -/
def flitInCodeword (place word : Nat) : Bool :=
  decide (flitStart place < codewordBits * (word + 1) ∧ codewordBits * word < flitStart place + flitBits)

/-- A flit is lost when any of its bits lies in a codeword that the decoder cannot correct. -/
def flitLost (bad : Nat → Bool) (place : Nat) : Bool := [0, 1].any fun w => bad w && flitInCodeword place w

/-- The 10-bit symbols of some bytes, least significant bits first. -/
def symbolsOf (bs : List (BitVec 8)) : List Nat := (List.range (8 * bs.length / 10)).map fun i => leNat bs / 2 ^ (10 * i) % 1024

/-! ### RS(544,514), as IEEE 802.3 defines it

PRESUMED (log entry 80): the manual names the standard and gives neither the field's polynomial, x^10 + x^3 + 1, nor the generator,
the product of x + α^j for j from 0 to 29, with the first symbol sent the one of the highest power. -/

/-- A symbol of GF(2^10) times α. -/
def symDouble (a : Nat) : Nat := if 512 ≤ a then (2 * a) ^^^ 0x409 else 2 * a

/-- The product of two symbols, over the multiplier's bits from the lowest. -/
def symMulBits : Nat → Nat → Nat → Nat
  | 0, _, _ => 0
  | n + 1, a, b => (if b % 2 = 1 then a else 0) ^^^ symMulBits n (symDouble a) (b / 2)

def symMul (a b : Nat) : Nat := symMulBits 10 a b

/-- α^j. -/
def symPow : Nat → Nat
  | 0 => 1
  | j + 1 => symDouble (symPow j)

/-- A polynomial, lowest power first, times x + r. -/
def symTimesRoot (p : List Nat) (r : Nat) : List Nat :=
  (0 :: p).zipWith (· ^^^ ·) (p.map (symMul r) ++ [0])

/-- The generator below its leading 1, highest power first. -/
def rsTaps : List Nat := (((List.range 30).foldl (fun p j => symTimesRoot p (symPow j)) [1]).take 30).reverse

/-- The division's remainder takes in the next information symbol. -/
def rsStep (rem : List Nat) (m : Nat) : List Nat :=
  let f := m ^^^ rem.headD 0
  (rem.tail ++ [0]).zipWith (fun r t => r ^^^ symMul f t) rsTaps

/-- The 30 parity symbols of a codeword. -/
def rsParity (symbols : List Nat) : List Nat := symbols.foldl rsStep (List.replicate 30 0)

/-- A codeword: its 514 information symbols and their parity. -/
def codeword (symbols : List Nat) : List Nat := symbols ++ rsParity symbols

/-- What each of the 8 lanes carries of a frame: the symbols of its two codewords, dealt out round-robin. -/
def frameLanes (seq : BitVec 16) (flits : List (List (BitVec 8))) : List (List Nat) :=
  let l := symbolsOf (frameBytes seq flits)
  let all := codeword (l.take 514) ++ codeword (l.drop 514)
  (List.range 8).map fun k => (List.range (all.length / 8)).map fun i => all.getD (8 * i + k) 0

/-- A flit goes on the wire, in the next place of its frame; the fifth completes the frame. -/
def State.wire (s : State) (p : Fin 18) (hdr : BitVec 64) (payload : List (BitVec 8)) : State :=
  let x := s.port p
  let l := x.txFrame ++ [natLe 8 hdr.toNat ++ payload ++ List.replicate (248 - payload.length) 0]
  let s1 := s.emit (.flit p.val hdr payload)
  if l.length < 5 then s1.modPort p fun x => { x with txFrame := l }
  else (s1.emit (.lanes p.val (frameLanes x.frameSeq l))).modPort p fun x => { x with txFrame := [], frameSeq := x.frameSeq + 1 }

/-! ### What is received -/

/-- A flit any of whose bits lies in a codeword that the decoder cannot correct is lost. -/
def FlitAt.lost (a : FlitAt) : Bool := flitLost (fun w => if w = 0 then a.first.isNone else a.second.isNone) a.place.val

/-- The codewords of a received frame are counted once (R308, R346): symbols corrected, and codewords not corrected. -/
def State.takeFrame (s : State) (p : Fin 18) (frame : BitVec 16) (a : FlitAt) : State :=
  if (s.port p).rxFrame = some frame then s
  else s.modPort p fun x => { x with
    rxFrame := some frame
    fecCorr := satAdd 64 x.fecCorr (a.first.getD 0 + a.second.getD 0)
    fecUncorr := satAdd 64 x.fecUncorr (b2n a.first.isNone + b2n a.second.isNone) }

end Sys2Proof.Machine
end

