-- ==== Sys2Proof/Machine/Link.lean ====
section
/-! DEFINITION. The Prifa link of a port: its training, its flits with their sealing, credits and retry, and its retrains
(R308 to R317). -/

namespace Sys2Proof.Machine

open Host

/-! ### ARGS (R498): a field's bit in ARGS is its bit in the header less 112 -/

def aSlot (a : BitVec 144) : Nat := fld a 9 0
def aSlotCore (a : BitVec 144) : Fin 8 := fin8 (fld a 12 10)
def aSpec (a : BitVec 144) : BitVec 16 := BitVec.ofNat 16 (fld a 28 13)
def aDesc (a : BitVec 144) : Nat := fld a 32 29
def aCore (a : BitVec 144) : Nat := fld a 35 33
def aUnit (a : BitVec 144) : Nat := fld a 38 36
def aBuf (a : BitVec 144) : Nat := fld a 40 39
def aEnd (a : BitVec 144) : Nat := fld a 74 41
def aLoan (a : BitVec 144) : Bool := bit a 75
def aBase (a : BitVec 144) : Nat := fld a 120 80
def aCode (a : BitVec 144) : BitVec 16 := BitVec.ofNat 16 (fld a 95 80)

def wAddr (a : BitVec 144) : Nat := fld a 40 0
def wSpec (a : BitVec 144) : BitVec 16 := BitVec.ofNat 16 (fld a 56 41)
def wDesc (a : BitVec 144) : Nat := fld a 60 57
def wCore (a : BitVec 144) : Nat := fld a 63 61
def wUnit (a : BitVec 144) : Nat := fld a 66 64
def wPan (a : BitVec 144) : Nat := fld a 70 67
def wOvf (a : BitVec 144) : Bool := bit a 71
def wHop (a : BitVec 144) : Nat := fld a 79 72

/-- ARGS of a WRITE_ACK. -/
def ackArgs (id desc core unit status : Nat) : BitVec 144 :=
  BitVec.ofNat 144 (id % 2 ^ 32 + desc % 16 * 2 ^ 32 + core % 8 * 2 ^ 36 + unit % 8 * 2 ^ 39 + status % 2 ^ 16 * 2 ^ 42)
def kDesc (a : BitVec 144) : Nat := fld a 35 32
def kCore (a : BitVec 144) : Nat := fld a 38 36
def kUnit (a : BitVec 144) : Nat := fld a 41 39
def kStatus (a : BitVec 144) : BitVec 16 := BitVec.ofNat 16 (fld a 57 42)

/-- A WRITE, PANNIER or RING message is acknowledged with a status (R498). -/
def State.ackTo (s : State) (m : Msg) (status : BitVec 16) : State :=
  s.sendMsg m.src 0x03 vcCtrl (ackArgs m.id (wDesc m.args) (wCore m.args) (wUnit m.args) status.toNat) []

/-- A WRITE, PANNIER or RING message that cannot reach its destination is dropped, and its descriptor ends with MOVE_REMOTE_LOST (R320,
R327). DEDUCED: the sender learns it as it learns any refusal, from a WRITE_ACK with that status (R498, log entry 69). -/
def State.dropLost (s : State) (m : Msg) : State :=
  if m.kind = 0x01 ∨ m.kind = 0x02 ∨ m.kind = 0x16 then s.ackTo m 0x0305 else s

/-! ### Flit headers (R309) -/

def flVc (h : BitVec 64) : Fin 4 := fin4 (fld h 1 0)
def flType (h : BitVec 64) : Nat := fld h 3 2
def flHead (h : BitVec 64) : Bool := bit h 4
def flTail (h : BitVec 64) : Bool := bit h 5
def flSeq (h : BitVec 64) : Nat := fld h 17 6
def flAck (h : BitVec 64) : Nat := fld h 29 18
def flCvc (h : BitVec 64) : Fin 4 := fin4 (fld h 31 30)
def flCredit (h : BitVec 64) : Nat := fld h 43 32
def flFill (h : BitVec 64) : Nat := fld h 51 44

/-- How far sequence number b lies after a, modulo 4,096. -/
def seqDist (a b : Nat) : Nat := (b + 4096 - a % 4096) % 4096

/-- Buffer flits of a channel, its initial credit (R313): reduction, bulk, control, timebase. -/
def vcBuffer (v : Nat) : Nat := if v = 0 ∨ v = 1 then 1536 else if v = 2 then 512 else 32

/-- The 32-byte message header (R317). -/
def msgHeader (m : Msg) : List (BitVec 8) :=
  natLe 32 (m.dst % 2 ^ 13 + m.src % 2 ^ 13 * 2 ^ 13 + m.kind % 64 * 2 ^ 26 + m.data.length * 2 ^ 32 + m.ttl % 256 * 2 ^ 47
    + m.id * 2 ^ 64 + m.term % 2 ^ 16 * 2 ^ 96 + m.args.toNat * 2 ^ 112)

/-- A message from its bytes; its LENGTH gives the data. -/
def parseMsg (vc : Nat) (bs : List (BitVec 8)) : Msg :=
  let h := leAt bs 0 32
  { dst := bitsOf h 12 0, src := bitsOf h 25 13, kind := bitsOf h 31 26, vc := vc, ttl := bitsOf h 54 47
    id := bitsOf h 95 64, term := bitsOf h 111 96, args := BitVec.ofNat 144 (bitsOf h 255 112)
    data := (bs.drop 32).take (bitsOf h 46 32) }

/-- Flits of a message (R317). -/
def msgFlits (m : Msg) : Nat := (32 + m.data.length + 247) / 248

/-- Bytes under a keystream, from a place in their group (R310). -/
def sealBytes (key : BitVec 256) (iv : BitVec 96) (ofs : Nat) (bs : List (BitVec 8)) : List (BitVec 8) :=
  bs.zipIdx.map fun x => x.1 ^^^ Config.keystream key iv (ofs + x.2)

/-- The IV of a group: the salt, then the group counter (R310). -/
def groupIv (salt : BitVec 32) (ctr : Nat) : BitVec 96 := salt.zeroExtend 96 ||| (BitVec.ofNat 96 ctr <<< 32)

def hdrBytes (h : BitVec 64) : List (BitVec 8) := natLe 8 h.toNat

/-! ### The transmitter (R310, R313 to R315) -/

/-- What a header tells the peer: the last flit received good, and the flits freed on a channel that owes a report. -/
def Port.owedVc (x : Port) : Nat := if bit x.owes 0 then 0 else if bit x.owes 1 then 1 else if bit x.owes 2 then 2 else if bit x.owes 3 then 3 else 0

def Port.header (x : Port) (vc type seq : Nat) (head tail : Bool) (fill : Nat) : BitVec 64 :=
  let c := x.owedVc
  BitVec.ofNat 64 (vc + type * 2 ^ 2 + b2n head * 2 ^ 4 + b2n tail * 2 ^ 5 + seq % 4096 * 2 ^ 6 + x.rxGood % 4096 * 2 ^ 18
    + c * 2 ^ 30 + x.freed.get (fin4 c) % 4096 * 2 ^ 32 + fill % 256 * 2 ^ 44)

/-- The report a header carried is owed no longer, and the credit it gives is the peer's. -/
def Port.told (x : Port) : Port :=
  let v := fin4 x.owedVc
  { x with owes := x.owes &&& ~~~(1#4 <<< x.owedVc), toldFreed := x.toldFreed.set v (x.freed.get v) }

/-- A flit of a channel arrives beyond the credit given (R313): the flits held, and those freed but not yet reported, already
fill the channel's buffer. -/
def Port.overCredit (x : Port) (v : Fin 4) : Bool :=
  decide (vcBuffer v.val ≤ x.rxUsed.get v + seqDist (x.toldFreed.get v) (x.freed.get v))

/-- A flit leaves; a sequenced one is kept for replay. -/
def State.sendFlit (s : State) (p : Fin 18) (f : TxFlit) (keep : Bool) : State :=
  (s.modPort p fun x =>
    let x1 := x.told
    if keep then { x1 with replay := x1.replay ++ [f], txSeq := (x1.txSeq + 1) % 4096 } else x1).wire p f.hdr f.payload

/-- The weights of a port's reduction and bulk channels; 1:1 without a LINK entry (R314, R321). -/
def State.vcWeights (s : State) (p : Fin 18) : Nat × Nat :=
  match s.portCfg p with
  | some e => (max 1 (fld e 30 27), max 1 (fld e 34 31))
  | none => (1, 1)

/-- The channel has a flit it may send: credit for one inside a message, for the whole need of one that begins. -/
def Port.vcReady (x : Port) (v : Fin 4) : Bool :=
  match x.txQ.get v with
  | [] => false
  | m :: _ => decide ((if m.flits = 0 then m.need else 1) ≤ x.credit.get v)

/-- The channel of the next flit (R314): timebase, control, then reduction and bulk by weighted round robin in
messages. -/
def State.nextVc (s : State) (p : Fin 18) : Option (Fin 4) :=
  let x := s.port p
  let w := s.vcWeights p
  let first : Fin 4 := if x.wrr % (w.1 + w.2) < w.1 then 0 else 1
  let second : Fin 4 := if first = 0 then 1 else 0
  [3, 2, first, second].find? fun v => x.vcReady v

/-- One DATA flit of a channel's first message, sealed under the open group. -/
def State.sendData (s : State) (p : Fin 18) (v : Fin 4) : State :=
  let x := s.port p
  let w := s.vcWeights p
  match x.txQ.get v, x.txKey with
  | m :: rest, some key =>
    let bytes := msgHeader m.msg ++ m.msg.data
    let piece := (bytes.drop (248 * m.flits)).take 248
    let tail := decide (bytes.length ≤ 248 * (m.flits + 1))
    let hdr := x.header v.val 0 x.txSeq (m.flits = 0) tail piece.length
    let plain := piece ++ List.replicate (248 - piece.length) 0
    let f : TxFlit := {
      hdr := hdr, plain := plain
      payload := sealBytes key (groupIv x.txSalt x.txGroupCtr) (248 * x.txGroup.length) plain }
    let s1 := s.modPort p fun x => { x with
      txQ := x.txQ.set v (if tail then rest else { m with flits := m.flits + 1 } :: rest)
      sent := if tail then x.sent ++ [{ m with flits := m.flits + 1, lastSeq := x.txSeq }] else x.sent
      credit := x.credit.set v (x.credit.get v - 1), txGroup := x.txGroup ++ [f], txFlits := satAdd 64 x.txFlits 1
      wrr := if tail && v.val < 2 then (x.wrr + 1) % (w.1 + w.2) else x.wrr }
    s1.sendFlit p f true
  | _, _ => s

/-- A SEAL's payload for a group (R310). -/
def sealPayload (key : BitVec 256) (salt : BitVec 32) (ctr : Nat) (group : List TxFlit) : List (BitVec 8) :=
  let tag := Config.gcmTag key (groupIv salt ctr) (group.flatMap fun f => hdrBytes f.hdr) (group.flatMap (·.payload))
  natLe 16 tag.toNat ++ natLe 8 ctr ++ List.replicate 224 0

/-- The SEAL that closes the open group. -/
def State.sendSeal (s : State) (p : Fin 18) : State :=
  let x := s.port p
  match x.txKey with
  | none => s
  | some key =>
    let f : TxFlit := {
      hdr := x.header 0 1 x.txSeq false false 0, payload := sealPayload key x.txSalt x.txGroupCtr x.txGroup }
    (s.modPort p fun x => { x with txGroup := [], txGroupCtr := x.txGroupCtr + 1 }).sendFlit p f true

/-- One flit time of a port that is up: a SEAL after 64 DATA flits, a DATA flit while one may go and the replay buffer
has room, a SEAL once none is ready, else an IDLE flit (R308 to R310, R313 to R315). -/
def State.pumpFlit (s : State) (p : Fin 18) : State :=
  let x := s.port p
  let idle : State := s.sendFlit p { hdr := x.header 0 3 0 false false 0 } false
  if x.st ≠ .up then s
  else if 2048 ≤ x.replay.length then idle
  else if 64 ≤ x.txGroup.length then s.sendSeal p
  else
    match s.nextVc p with
    | some v => s.sendData p v
    | none => if x.txGroup ≠ [] then s.sendSeal p else idle

/-! ### Acknowledgement, credit and retry (R309, R313, R315, R316) -/

/-- The ACK and CREDIT of any flit received. A CREDIT older than the last one, as a resent flit carries it, gives nothing. -/
def State.takeHeader (s : State) (p : Fin 18) (h : BitVec 64) : State :=
  s.modPort p fun x =>
    let n := match x.replay with
      | [] => 0
      | f :: _ => seqDist (flSeq f.hdr) (flAck h) + 1
    let gone := if n ≤ x.replay.length then n else 0
    let left := x.replay.drop gone
    let acked := (x.replay.take gone).map fun f => flSeq f.hdr
    let v := flCvc h
    let d := seqDist (x.lastCredit.get v) (flCredit h)
    let newer := decide (d < 2048)
    { x with
      replay := left, sent := x.sent.filter fun m => !acked.contains m.lastSeq
      credit := if newer then x.credit.set v (min (vcBuffer v.val) (x.credit.get v + d)) else x.credit
      lastCredit := if newer then x.lastCredit.set v (flCredit h) else x.lastCredit }

/-- The open receive group is dropped: its flits leave the buffers, and the port waits for the flit after the last one
received good. -/
def Port.dropGroup (x : Port) : Port :=
  { x with
    rxGroup := [], rxSeq := (x.rxGood + 1) % 4096, waitRetry := true
    rxUsed := x.rxGroup.foldl (fun u f => u.set (flVc f.hdr) (u.get (flVc f.hdr) - 1)) x.rxUsed }

/-- A retrain begins (R316): the replay buffer, the sequence numbers and the credits stay; new keys are derived. -/
def State.startRetrain (s : State) (p : Fin 18) : State :=
  s.modPort p fun x => { x.dropGroup with
    st := .training, retraining := true, retrainTick := s.tick, retrains := satAdd 32 x.retrains 1
    txKey := none, rxKey := none, txSalt := 0, rxSalt := 0, waitRetry := false, lanes := 0, retryTicks := [] }

/-- RETRY is sent with the last good flit; more than 16 within 1 ms raise PRIFA_RETRY_EXCESS and retrain (R315, R316). -/
def State.askRetry (s : State) (p : Fin 18) : State :=
  let s1 := s.modPort p fun x => { x.dropGroup with
    retryTicks := s.tick :: x.retryTicks.filter fun t => decide (s.tick < t + 1000000) }
  let s2 := s1.sendFlit p { hdr := (s1.port p).header 0 2 0 false false 0 } false
  if 16 < (s2.port p).retryTicks.length then (s2.raise 0x0802 (unit := p.val)).startRetrain p else s2

/-- What a sequenced flit is to the receiver: the one expected, one to ask again for, or one to discard. -/
inductive SeqAns
  | take | ask | discard
  deriving DecidableEq, Repr

def Port.seqAns (x : Port) (h : BitVec 64) : SeqAns :=
  let d := seqDist x.rxSeq (flSeq h)
  if d = 0 then .take
  else if x.waitRetry then .discard
  else if d < 2048 then .ask
  else .discard

/-- A flit in a codeword the decoder could not correct is lost, and asked for again, whether or not a resend is already awaited:
a resent flit may be the one lost (R308, R315). -/
def State.lostFlit (s : State) (p : Fin 18) : State := s.askRetry p

/-- A received flit of a type at a port that is up: its frame is counted; when it is lost it is asked for again, else it acts (R308). -/
def State.receiving (s : State) (p : Fin 18) (frame : BitVec 16) (a : FlitAt) (hdr : BitVec 64) (type : Nat) (act : State → State) : State :=
  if (s.port p).st ≠ .up || (!a.lost && flType hdr ≠ type) then s
  else if a.lost then (s.takeFrame p frame a).lostFlit p
  else act ((s.takeFrame p frame a).takeHeader p hdr)

/-- RETRY: every flit after ACK is sent again, in order, as it stands (R315). -/
def execRetry (p : Fin 18) (x : HeadFlit) (s : State) : Outcome State Fault Refusal :=
  .next (s.receiving p x.frame x.at_ x.hdr 2 fun s =>
    let s1 := s.modPort p fun x => { x with retries := satAdd 32 x.retries 1 }
    (s1.port p).replay.foldl (fun s f => s.wire p f.hdr f.payload) s1)

/-- IDLE: only ACK and CREDIT (R309). -/
def execIdle (p : Fin 18) (x : HeadFlit) (s : State) : Outcome State Fault Refusal :=
  .next (s.receiving p x.frame x.at_ x.hdr 3 id)

/-- DATA_FLIT: sequence, credit and the open group (R308, R309, R313, R315). -/
def execDataFlit (p : Fin 18) (hdr : BitVec 64) (payload : List (BitVec 8)) (frame : BitVec 16) (a : FlitAt) (s : State) :
    Outcome State Fault Refusal :=
  .next (s.receiving p frame a hdr 0 fun s =>
    let x := s.port p
    match x.seqAns hdr with
    | .discard => s
    | .ask => s.askRetry p
    | .take =>
      let v := flVc hdr
      if x.overCredit v then s.fencePort p 0x0804
      else
        s.modPort p fun x => { x with
          waitRetry := false, rxSeq := (x.rxSeq + 1) % 4096, rxUsed := x.rxUsed.set v (x.rxUsed.get v + 1)
          rxGroup := x.rxGroup ++ [{ hdr := hdr, payload := payload.take 248 }] })

/-- Flits of a channel up to a TAIL, as a message with the flits it takes up; none while it is incomplete (R317). -/
def takeMessage (v : Nat) (l : List RxFlit) : Option (Msg × List RxFlit) :=
  let n := (l.takeWhile fun f => !flTail f.hdr).length
  if n < l.length then
    let fs := l.take (n + 1)
    let m := parseMsg v (fs.flatMap fun f => if flTail f.hdr then f.payload.take (flFill f.hdr) else f.payload)
    some ({ m with held := n + 1 }, l.drop (n + 1))
  else none

/-- A verified flit joins its channel's buffer; with a TAIL its message is delivered, with its arrival tick (R286). -/
def Port.deliverFlit (x : Port) (tick : Nat) (f : RxFlit) : Port :=
  let v := flVc f.hdr
  let l := x.rxBuf.get v ++ [f]
  let x1 := { x with rxFlits := satAdd 64 x.rxFlits 1 }
  match takeMessage v.val l with
  | some (m, rest) => { x1 with rxBuf := x1.rxBuf.set v rest, inMsgs := x1.inMsgs ++ [{ m with arrive := tick }] }
  | none => { x1 with rxBuf := x1.rxBuf.set v l }

/-- A group's payloads opened with the receive key. -/
def Port.openGroup (x : Port) (key : BitVec 256) (ctr : Nat) : List RxFlit :=
  x.rxGroup.zipIdx.map fun y => { y.1 with payload := sealBytes key (groupIv x.rxSalt ctr) (248 * y.2) y.1.payload }

/-- SEAL: the group's tag is verified and its payloads delivered, or the group is asked for again; a second failure
fences the port (R310, R312, R315). The first group taken after a retrain has the counter that its SEAL names: groups that had been
received before the retrain are sent again under the new keys, and are discarded (R316). -/
def execSealFlit (p : Fin 18) (hdr : BitVec 64) (payload : List (BitVec 8)) (frame : BitVec 16) (a : FlitAt) (s : State) :
    Outcome State Fault Refusal :=
  .next (s.receiving p frame a hdr 1 fun s =>
    let x := s.port p
    match x.seqAns hdr, x.rxKey with
    | .discard, _ => s
    | .ask, _ => s.askRetry p
    | .take, none => s
    | .take, some key =>
      let ctr := if x.rxOld then max x.rxGroupCtr (leAt payload 16 8) else x.rxGroupCtr
      let tag := Config.gcmTag key (groupIv x.rxSalt ctr) (x.rxGroup.flatMap fun f => hdrBytes f.hdr) (x.rxGroup.flatMap (·.payload))
      if leAt payload 0 16 = tag.toNat && leAt payload 16 8 = ctr then
        s.modPort p fun x =>
          let y := (x.openGroup key ctr).foldl (fun y f => y.deliverFlit s.tick f) x
          { y with
            rxGroup := [], rxGood := flSeq hdr, rxSeq := (flSeq hdr + 1) % 4096, rxGroupCtr := ctr + 1
            waitRetry := false, tagFail := false, rxOld := false, owes := y.owes ||| 1 }
      else if x.tagFail then s.fencePort p 0x0803
      else (s.modPort p fun x => { x with tagFail := true }).askRetry p)

/-! ### Training (R311, R313, R316) -/

/-- Every unacknowledged flit sealed again under the new keys, in groups closed by the SEAL flits among them. -/
def resealFlits (key : BitVec 256) (salt : BitVec 32) : Nat → List TxFlit → List TxFlit → List TxFlit × List TxFlit × Nat
  | ctr, group, [] => ([], group, ctr)
  | ctr, group, f :: rest =>
    if flType f.hdr = 1 then
      let g : TxFlit := { f with payload := sealPayload key salt ctr group }
      let r := resealFlits key salt (ctr + 1) [] rest
      (g :: r.1, r.2.1, r.2.2)
    else
      let g : TxFlit := { f with payload := sealBytes key (groupIv salt ctr) (248 * group.length) f.plain }
      let r := resealFlits key salt ctr (group ++ [g]) rest
      (g :: r.1, r.2.1, r.2.2)

/-- A fresh link's counters and credits (R309, R310, R313). -/
def Port.fresh (x : Port) : Port :=
  { x with
    txSeq := 0, rxSeq := 0, rxGood := 4095, replay := [], sent := [], txGroup := [], rxGroup := []
    rxBuf := Vector.replicate 4 [], rxUsed := Vector.replicate 4 0, freed := Vector.replicate 4 0
    toldFreed := Vector.replicate 4 0, frameSeq := 0, txFrame := [], rxFrame := none, rxOld := false
    lastCredit := Vector.replicate 4 0, credit := Vector.ofFn fun v => vcBuffer v.val
    waitRetry := false, tagFail := false, retryTicks := [] }

/-- The port comes up with its keys; after a retrain every unacknowledged flit is sent again (R316). -/
def State.linkUp (s : State) (p : Fin 18) (tx rx : BitVec 256 × BitVec 32) : State :=
  let retrain := (s.port p).retraining
  let s1 := s.modPort p fun x =>
    let y := if retrain then x else x.fresh
    { y with
      st := .up, retraining := false, txKey := some tx.1, txSalt := tx.2, rxKey := some rx.1, rxSalt := rx.2
      txGroupCtr := 0, rxGroupCtr := 0, tagFail := false, rxOld := retrain }
  if retrain then
    let r := resealFlits tx.1 tx.2 0 [] (s1.port p).replay
    r.1.foldl (fun s f => s.wire p f.hdr f.payload)
      (s1.modPort p fun x => { x with replay := r.1, txGroup := r.2.1, txGroupCtr := r.2.2 })
  else s1

/-- A retrain that has not finished within 50 µs (R9, R316). -/
def State.retrainExpired (s : State) (p : Fin 18) : Bool :=
  let x := s.port p
  x.retraining && x.st = .training && decide (x.retrainTick + 50000 ≤ s.tick)

/-- It raises PRIFA_LINK_DOWN and the port is fenced (R316). -/
def State.retrainFails (s : State) (p : Fin 18) : State :=
  (s.fencePort p 0x0801).modPort p fun x => { x with retraining := false }

/-- RETRAIN_TIMEOUT: a retrain not finished within 50 µs (R316). -/
def execRetrainTimeout (p : Fin 18) (s : State) : Outcome State Fault Refusal :=
  .next (if s.retrainExpired p then s.retrainFails p else s)

/-- LINK_TRAIN: nonces are exchanged, keys derived and the sealed test group closes training (R311); a peer other than
the LINK entry's keeps the port down (R316). The module's nonce comes from its DRBG and is a free value. A retrain whose training fails goes
on until its 50 µs have passed. A link on which no lane trains, its lanes crossed, ends with PRIFA_LINK_DOWN (R477): DESIGN CHOICE (log
entry 80, unsafe), that is a training with no lane, at whose end a port that was not up before is fenced. -/
def execLinkTrain (p : Fin 18) (peer : BitVec 13) (peerPort : BitVec 5) (nonce : BitVec 256) (lanes : BitVec 8)
    (testOk : Bool) (s : State) : Outcome State Fault Refusal :=
  let x := s.port p
  match s.portCfg p with
  | none => .next s
  | some e =>
    if x.st = .up || x.st = .fenced || !x.calibrated || prfRole e = 0 || !s.stewardUp (portHalf p) then .next s
    else if s.retrainExpired p then .next (s.retrainFails p)
    else if lanes = 0 then .next (if x.retraining then s else s.retrainFails p)
    else
      let seen := s.modPort p fun x => { x with peerModule := peer, peerPort := peerPort, lanes := lanes }
      let down (s : State) : State := s.modPort p fun x => { x with
        st := if x.retraining then .training else .down, txKey := none, rxKey := none }
      if prfPeer e ≠ peer.toNat || prfPeerPort e ≠ peerPort.toNat then .next (down (seen.raise 0x0805 (unit := p.val)))
      else
        match s.flash.cascadeKey with
        | none => .next (down (seen.raise 0x0803 (unit := p.val)))
        | some k =>
          let mine := Config.freeBits 256 s.freeCtr
          let s1 := seen.draw.modPort p fun x => { x with keyEpoch := satAdd 32 x.keyEpoch 1 }
          if !testOk then .next (down (s1.raise 0x0803 (unit := p.val)))
          else
            let ends := (s.selfId, p.val, peer.toNat, peerPort.toNat)
            let back := (peer.toNat, peerPort.toNat, s.selfId, p.val)
            .next (s1.linkUp p (Config.linkKey k ends true mine nonce) (Config.linkKey k back true nonce mine))

/-- PRIFA_RETRAIN: the port lost lane lock, which raises PRIFA_RETRY_EXCESS as too many retries do, or the host wrote PRF_RETRAIN
(R316, R346, R463); a write for a fenced port is dropped (R13, R420). -/
def execPrifaRetrain (p : Fin 18) (host : Bool) (s : State) : Outcome State Fault Refusal :=
  let go (s : State) : State :=
    if host && s.portFenced p then s.ownershipError (BitVec.ofNat 27 (0x04000048 + 0x10000 * p.val)) false
    else if (s.port p).st = .up then (if host then s else s.raise 0x0802 (unit := p.val)).startRetrain p else s
  if host then .next (s.bar0Write (BitVec.ofNat 27 (0x04000048 + 0x10000 * p.val)) (.half (portHalf p)) false go)
  else .next (go s)

/-! ### A lost port (R316, R327) -/

/-- Messages that held or unacknowledged on a lost port go ahead of every other on their new ports, in their order; a forwarded one left
without a route is dropped. -/
def State.resendAhead (s : State) (l : List TxMsg) : State :=
  l.reverse.foldl (fun s y =>
    let m := y.msg
    match s.outPort m with
    | none => if m.src = s.selfId then s else s.dropLost m
    | some q => s.modPort q fun x =>
      let v := fin4 m.vc
      -- A message already begun on that port is sent contiguously before it.
      let l := x.txQ.get v
      let begun := l.takeWhile fun z => z.flits ≠ 0
      { x with txQ := x.txQ.set v (begun ++ { msg := m, need := s.needOn q y.from_ m.vc, from_ := y.from_ } :: l.drop begun.length) }) s

/-- Destinations of the route table left with no route, not yet reported. -/
def State.newlyLost (s : State) : List Nat :=
  match s.cfg with
  | none => []
  | some g =>
    ((g.routes.filter fun r => r.module = s.selfId && r.primary ≠ 0).flatMap fun r =>
      (List.range r.count).map (r.first + ·)).filter fun m =>
        m ≠ s.selfId && !s.cas.lostRoutes.contains m && s.routePorts m = []

/-- A destination without a route is reported, and every descriptor bound for it ends with MOVE_REMOTE_LOST, those whose pads
or acknowledgements are still outstanding among them; no acknowledgement is waited for any more (R150, R327). -/
def State.endRemote (s : State) (m : Nat) : State :=
  forAllOf allCores (fun c s =>
    let s1 := (List.range 16).foldl (fun s p =>
      match s.place c p with
      | some f => if s.descRemote f.desc && dModule f.desc = m then s.endDesc c p 0x0305 true else s
      | none => s) s
    let isFor (r : GroupRec) : Bool := s1.descRemote r.fl.desc && decide (dModule r.fl.desc = m)
    let owing := (s1.core c).mov.groupDone.filter fun r => isFor r && !r.stopped && (!r.padded || decide (r.fl.acksDue ≠ 0))
    let stop (r : GroupRec) : GroupRec := if isFor r && (!r.padded || decide (r.fl.acksDue ≠ 0)) then
      { r with padded := true, stopped := true, place := none, fl := { r.fl with acksDue := 0 } } else r
    let s2 := s1.modMov c fun k => { k with groupDone := k.groupDone.map stop }
    owing.foldl (fun (s : State) r =>
      (s.modMov c fun k => { k with lastTag := BitVec.ofNat 16 (dTag r.fl.desc), lastCode := 0x0305 }).softFault c r.fl.task
        0x0305 (BitVec.ofNat 32 (dTag r.fl.desc))) s2) s

def State.reportLostRoutes (s : State) : State :=
  s.newlyLost.foldl (fun s m =>
    (((s.modCas fun c => { c with lostRoutes := c.lostRoutes ++ [m] }).raise 0x0806 (detail := BitVec.ofNat 32 m)).report
      .routeLost (natLe 2 m)).endRemote m) s

/-- The tree edge to the parent is lost: the child attaches by its alternate tree edge and holds over (R327, R332). -/
def State.reattach (s : State) (p : Fin 18) : State :=
  if s.cas.parent ≠ p.val then s
  else
    let alt := allPorts.find? fun q => !s.portLost q && (match s.portCfg q with
      | some e => prfTree e = 2
      | none => false)
    s.modCas fun c => { c with
      parent := match alt with
        | some q => q.val
        | none => 31
      holdover := true, locked := false, holdTick := s.tick }

/-- What a lost port held goes elsewhere, and the routes change (R327). -/
def State.reroute (s : State) (p : Fin 18) : State :=
  let x := s.port p
  let held := x.sent ++ ([3, 2, 0, 1] : List (Fin 4)).flatMap fun v => x.txQ.get v
  let s1 := s.modPort p fun x => { x with sent := [], replay := [], txGroup := [], txQ := Vector.replicate 4 [] }
  (s1.reportLostRoutes.resendAhead held).reattach p

/-- PORT_FENCE: a fenced port leaves the routes, and its held and unacknowledged messages go by others (R327). -/
def execPortFence (p : Fin 18) (s : State) : Outcome State Fault Refusal :=
  if s.portLost p then .next (s.reroute p) else .next s

end Sys2Proof.Machine
end

