-- ==== Sys2Proof/Machine/Messages.lean ====
section
/-! DEFINITION. Messages at their destination and in passing: remote writes and pannier operations, slot claims and
tokens, acknowledgements, reduction units and records, speculation tokens, and the ring relay (R149, R150, R266, R318 to
R320, R325, R338, R498). -/

namespace Sys2Proof.Machine

open Host

/-! ### Writes and acknowledgements (R149, R199, R229, R498) -/

/-- The core that owns the slot a stack address belongs to. -/
def State.slotCoreAt (s : State) (a : Nat) : Option (Fin 8) :=
  s.cfg.bind fun g => (g.slots.find? fun x =>
    let e := slotEntOf x.entry
    Sys2Proof.Machine.slotUsed x.entry && e.home && decide (e.base ≤ a ∧ a < e.base + e.depth * e.size)).map fun x => fin8 x.core

/-- A write of a discarded epoch is dropped and counted at the core whose slot it addresses (R199). -/
def State.dropStaleWrite (s : State) (a : Nat) : State :=
  match s.slotCoreAt a with
  | some c => s.countSpecDropped c
  | none => s

/-- A ring slot's buffer at an address takes the hop count of the data that lands in it (R338). -/
def State.noteHop (s : State) (a hop : Nat) : State :=
  match s.cfg.bind fun g => g.slots.find? fun x =>
      let e := slotEntOf x.entry
      Sys2Proof.Machine.slotUsed x.entry && e.home && decide (e.base ≤ a ∧ a < e.base + e.depth * e.size) with
  | none => s
  | some x =>
    let e := slotEntOf x.entry
    let c := fin8 x.core
    let b := fin4 ((a - e.base) / (max 1 e.size))
    let st := s.slotSt c x.slot
    s.setSlot c x.slot { st with bufs := st.bufs.set b { st.bufs.get b with hop := hop } }

/-- A WRITE, PANNIER or RING message applied and acknowledged with its status. One of a discarded epoch changes nothing
and is acknowledged, so that its sender's discard can complete. -/
def State.remoteWrite (s : State) (port : Fin 18) (m : Msg) : State :=
  let a := wAddr m.args
  if s.specStale (wSpec m.args) then (s.dropStaleWrite a).ackTo m 0
  else
    let s0 := s.carry (portHalf port) a m.data.length false
    let r := if m.kind = 0x02 then s0.panApply (wPan m.args) (wOvf m.args) a m.data else s0.stackWrite a m.data
    match r with
    | (some e, s1) => s1.ackTo m e
    | (none, s1) =>
      let s2 := if wUnit m.args = 2 then s1.returnedBytes m.src a m.data.length else s1
      let s3 := if m.kind = 0x16 then s2.noteHop a (wHop m.args) else s2
      s3.ackTo m 0

/-! ### The ring relay (R337, R338) -/

/-- This module's entry of a ring. -/
def State.ringCfg (s : State) (ring : Nat) : Option RingCfg :=
  s.cfg.bind fun g => g.rings.find? fun r => r.ring = ring && r.module = s.selfId

def State.ringHalf (_s : State) (r : RingCfg) : Fin 2 := portHalf (fin18 r.outPort)

/-- The relay that an answer names with its half and tag (R498), and its ring. -/
def State.relayOf (s : State) (half tag : Nat) : Option (Relay × RingCfg) :=
  match s.cas.relays.find? fun x => x.tag = tag with
  | none => none
  | some x => (s.ringCfg x.ring).bind fun r => if (s.ringHalf r).val = half then some (x, r) else none

def State.modRelay (s : State) (tag : Nat) (f : Relay → Relay) : State :=
  s.modCas fun c => { c with relays := c.relays.map fun x => if x.tag = tag then f x else x }

/-- The relay's release of its own buffer. -/
def State.relayRelease (s : State) (r : RingCfg) (buf : Nat) : State :=
  let o := s.slotOwner (fin8 r.core) r.slot
  s.takeToken o.1 o.2 buf false 0 none

/-- The buffer the relay would acquire holds a fill it has taken already: each fill is relayed once. -/
def State.relayTaken (s : State) (c : Fin 8) (slot : Nat) : Bool :=
  match s.slotEnt c slot with
  | some e => ((s.slotSt c slot).buf (acquireBuf e (s.slotSt c slot) false)).relayed
  | none => false

def State.markRelayed (s : State) (c : Fin 8) (slot b : Nat) : State :=
  let st := s.slotSt c slot
  s.setSlot c slot (st.setBuf b { st.buf b with relayed := true })

/-- The lowest tag that no relay in flight has; R498 leaves the tags to the relay. -/
def Cas.relayTag (c : Cas) : Option Nat := (List.range 16).find? fun t => c.relays.all fun x => x.tag ≠ t

/-- RING_RELAY: a FULL ring-slot buffer is acquired; below HOPS the successor's buffer is claimed, at HOPS it is released
at once (R338). -/
def execRingRelay (ring : Nat) (s : State) : Outcome State Fault Refusal :=
  match s.ringCfg ring, s.cas.relayTag with
  | some r, some tag =>
    let o := s.slotOwner (fin8 r.core) r.slot
    if !s.coreRuns o.1 || !s.stewardUp (s.ringHalf r) || s.cas.relays.any (fun x => x.ring = ring) || s.relayTaken o.1 o.2 then .next s
    else
      match s.ask o.1 { acq := true, slot := o.2, rq := .relay ring } with
      | (.granted b, s0) =>
        let s1 := s0.markRelayed o.1 o.2 b
        let hop := ((s.slotSt o.1 o.2).bufs.get (fin4 b)).hop
        if r.hops ≤ hop then .next (s1.relayRelease r b)
        else
          let size := match s1.slotEnt o.1 o.2 with
            | some e => e.size
            | none => 0
          let s2 := s1.modCas fun c => { c with relays := c.relays ++ [{ ring := ring, buf := b, hop := hop, tag := tag }] }
          .next (s2.sendMsg r.successor 0x04 vcCtrl (slotArgs r.slot r.core 0 tag (s.ringHalf r).val 1 0 0
            + BitVec.ofNat 144 (size % 2 ^ 34 * 2 ^ 41)) [])
      | _ => .next s
  | _, _ => .next s

/-- A relay that could not send gives its buffer back. A code of its core is raised; a refusal of another unit has been raised
there (R407). -/
def State.relayEnd (s : State) (tag : Nat) (r : RingCfg) (buf : Nat) (code : BitVec 16) : State :=
  let s1 := s.modCas fun c => { c with relays := c.relays.filter fun y => y.tag ≠ tag }
  (if codeDomain code = 0 then s1.raise code (unit := r.core) (detail := BitVec.ofNat 32 r.slot) else s1).relayRelease r buf

/-- The successor's grant: the buffer's data goes as RING messages with the next hop count. -/
def State.relayGrant (s : State) (half tag buf base : Nat) : State :=
  match s.relayOf half tag with
  | none => s
  | some (x, r) =>
    let o := s.slotOwner (fin8 r.core) r.slot
    match x.dstBuf, s.slotEnt o.1 o.2 with
    | none, some e =>
      (match s.moverRead o.1 e.home (s.bufBase o.1 o.2 x.buf) e.size with
      | (.error c, s1) => s1.relayEnd tag r x.buf c
      | (.ok bs, s1) =>
        let ms := cutMessages base bs
        (ms.foldl (fun s m => s.sendMsg r.successor 0x16 vcBulk
          (writeArgs m.1 0 tag (s.ringHalf r).val 1 0 false (x.hop + 1)) m.2 (from_ := some (coreHalf (fin8 r.core)))) s1).modRelay tag fun y => { y with
            dstBuf := some buf, acksDue := ms.length })
    | _, _ => s

/-- After the last acknowledgement the remote fill token and the relay's own release are posted. A refused write posts no fill token (R150),
and its code is raised. -/
def State.relayAck (s : State) (half tag : Nat) (status : BitVec 16) : State :=
  match s.relayOf half tag with
  | none => s
  | some (x, r) =>
    let code := if status ≠ 0 && x.code.isNone then some status else x.code
    if x.acksDue = 0 then s
    else if 1 < x.acksDue then s.modRelay tag fun y => { y with acksDue := y.acksDue - 1, code := code }
    else
      match code with
      | some e => s.relayEnd tag r x.buf e
      | none =>
        ((s.modCas fun c => { c with relays := c.relays.filter fun y => y.tag ≠ tag }).sendMsg r.successor 0x07 vcCtrl
          (slotArgs r.slot r.core 0 tag (s.ringHalf r).val 1 (x.dstBuf.getD 0) 0) []).relayRelease r x.buf

/-- The successor refuses: the relay gives its buffer back unsent, and the refusal's code is raised. -/
def State.relayRefused (s : State) (half tag : Nat) (code : BitVec 16) : State :=
  match s.relayOf half tag with
  | none => s
  | some (x, r) => if x.dstBuf.isNone then s.relayEnd tag r x.buf code else s

/-! ### Claims, answers and tokens (R122, R150, R266, R498) -/

/-- An answer to the agent that asked: a movement engine's descriptor, the ring relay or the moraine manager, found by the three
fields of its request (R498). -/
def State.takeAck (s : State) (a : BitVec 144) : State :=
  match kUnit a with
  | 0 => s.ackWrite (fin8 (kCore a)) (kDesc a) (kStatus a)
  | 1 => s.relayAck (kCore a) (kDesc a) (kStatus a)
  | 2 =>
    if kDesc a = loanTagCopy then (if kCore a = s.morHalf.val then s.morAck (kStatus a) else s)
    else s.loanAck (fin2 (kCore a)) (kDesc a)
  | _ => s

def State.takeClaim (s : State) (m : Msg) : State :=
  let a := m.args
  let rq : Requester := .remote m.src (aUnit a) (aCore a) (aDesc a)
  if aLoan a then s.loanClaim m.src (aEnd a) (aCore a) (aDesc a)
  else
    let o := s.slotOwner (aSlotCore a) (aSlot a)
    let s0 := s.wakeM1
    if s.specStale (aSpec a) then s0.countSpecDropped o.1
    else if s.swapRunning then s0.modImg fun i => { i with held := i.held ++ [.claim m] }
    else
      let tooLong : Bool := match s.slotEnt o.1 o.2 with
        | some e => decide (e.size < aEnd a)
        | none => false
      if !s.coreLive o.1 || tooLong then s0.refuseRequest o.1 (aSlot a) (aSpec a) rq 0 0x0312
      else
        let w : SlotWait := { acq := false, slot := o.2, rq := rq, epoch := aSpec a }
        s0.placeRequest o.1 w

def State.takeGrant (s : State) (m : Msg) : State :=
  let a := m.args
  if aLoan a then (if aUnit a = 2 && aCore a = s.morHalf.val && aDesc a = 0 then s.copyToLender (aBase a) else s)
  else
    match aUnit a with
    | 0 =>
      -- A descriptor that still waits for its claim of another module.
      (match s.place (fin8 (aCore a)) (aDesc a) with
        | some f =>
          if s.descRemote f.desc && f.dstBuf.isNone && dDstSlotEn f.desc then
            s.setDst (fin8 (aCore a)) (aDesc a) (aBuf a) (aBase a)
          else s
        | none => s)
    | 1 => s.relayGrant (aCore a) (aDesc a) (aBuf a) (aBase a)
    | _ => s

def State.takeRefuse (s : State) (m : Msg) : State :=
  let a := m.args
  if aLoan a then
    (if aUnit a ≠ 2 || aCore a ≠ s.morHalf.val then s
     else if aDesc a = loanTagSpan then s.loseLender m.src else s.loanRefused)
  else
    match aUnit a with
    | 0 =>
      (match s.place (fin8 (aCore a)) (aDesc a) with
        | some f =>
          if s.descRemote f.desc && f.dstBuf.isNone then
            s.endDesc (fin8 (aCore a)) (aDesc a) (aCode a) true
          else s
        | none => s)
    | 1 => s.relayRefused (aCore a) (aDesc a) (aCode a)
    | _ => s

/-- One thing the stewards held, delivered to the core that now owns its slot (R410, R414). -/
def State.deliverItem (s : State) : HeldItem → State
  | .token c slot buf fill epoch poster => s.takeToken c slot buf fill epoch poster
  | .request c w =>
    let o := s.slotOwner c w.slot
    if s.coreLive o.1 then s.placeRequest o.1 { w with slot := o.2 }
    else s.refuseRequest o.1 w.slot w.epoch w.rq w.task 0x0312
  | .claim m => s.takeClaim m

/-- What the stewards held is delivered in the order it came (R410); what must still wait is held again. -/
def State.deliverHeld (s : State) : State :=
  s.img.held.foldl State.deliverItem (s.modImg fun i => { i with held := [] })

/-- A FILL or RELEASE at its slot's owner, or a loan's RELEASE at the lender (R119, R266). -/
def State.takeSlotToken (s : State) (m : Msg) : State :=
  let a := m.args
  if aLoan a then s.loanRelease m.src (aBase a) (leNat m.data)
  else s.takeToken (aSlotCore a) (aSlot a) (aBuf a) (m.kind = 0x07) (aSpec a) none

/-! ### Delivery (R286, R290, R318, R319) -/

/-- The units of a message at the gate, in order, with the arrival tick of its last byte; what is left when one must wait. -/
def State.takeUnits (s : State) (port arrival : Nat) : Nat → List (BitVec 8) → List (BitVec 8) × State
  | 0, bs => (bs, s)
  | n + 1, bs =>
    if bs = [] then ([], s)
    else
      let hdr := BitVec.ofNat 128 (leAt bs 0 16)
      let len := match s.bucket (unitHdr hdr).bucket with
        | some b => 512 * redBytes b.cfmt
        | none => bs.length
      match s.takeUnit port hdr ((bs.drop 16).take len) arrival with
      | (true, s1) => (bs, s1)
      | (false, s1) => s1.takeUnits port arrival n (bs.drop (16 + len))

/-- The records of a message in order; what is left when one must wait. -/
def State.takeRecords (s : State) (port : Fin 18) (src : Nat) : Nat → List (BitVec 8) → List (BitVec 8) × State
  | 0, bs => (bs, s)
  | n + 1, bs =>
    if bs = [] then ([], s)
    else
      match parseRecord bs with
      | none => ([], s.badRecord port.val (leAt bs 0 4) (leAt bs 8 3))
      | some (r, rest) =>
        match s.takeRecord port src r with
        | (true, s1) => (bs, s1)
        | (false, s1) => s1.takeRecords port src n rest

/-! ### Repairs (R303) -/

/-- ARGS of a repair copy, the model's own: the slot, its core, the buffer, and the place in it. -/
def copyArgs (core slot buf ofs : Nat) : BitVec 144 :=
  BitVec.ofNat 144 (slot % 1024 + core % 8 * 2 ^ 10 + buf % 4 * 2 ^ 13 + ofs % 2 ^ 48 * 2 ^ 16)

/-- The repair order at a source: its copies of the regions go to the module on the bulk channel. A buffer that cannot be read is left out,
and the fingerprints show it. -/
def State.sendRepair (s : State) (dst : Nat) (working : Bool) : State :=
  (s.repairBufs working).foldl (fun s x =>
    match s.slotEnt x.1 x.2.1 with
    | none => s
    | some e =>
      match s.moverRead x.1 e.home (e.bufBase x.2.2) e.size with
      | (.error _, s1) => s1
      | (.ok bs, s1) => (cutMessages 0 bs).foldl (fun (s : State) p =>
          s.sendMsg dst 0x18 vcBulk (copyArgs x.1.val x.2.1 x.2.2 p.1) p.2 (from_ := some (coreHalf x.1))) s1) s

/-- A repair copy at the repaired module: into its own firn buffer, or the same buffer of a REPLACE slot. -/
def State.takeCopy (s : State) (m : Msg) : State :=
  let c := fin8 (fld m.args 12 10)
  let slot := fld m.args 9 0
  let ofs := fld m.args 63 16
  match s.slotEnt c slot with
  | none => s
  | some e =>
    let b := if e.versioned then (s.slotSt c slot).firn else fld m.args 14 13
    if e.depth ≤ b || decide (e.size < ofs + m.data.length) then s
    else
      match s.moverWrite c e.home (e.bufBase b + ofs) m.data with
      | (some code, s1) =>
        if codeDomain code = 0 then s1.raise code (unit := c.val) (detail := BitVec.ofNat 32 slot) else s1
      | (none, s1) => s1

/-- The effect of a message of a kind whose content R498, R196, R276 and R291 lay out, or of the model's own repair order and copy (R303). A message of another kind goes to
its agent: what it does is its own command. The first part is what must still wait at the port. -/
def State.takeEffect (s : State) (port : Fin 18) (m : Msg) : Option Msg × State :=
  let k := m.kind
  if k = 0x01 ∨ k = 0x02 ∨ k = 0x16 then (none, s.remoteWrite port m)
  else if k = 0x03 then (none, s.takeAck m.args)
  else if k = 0x04 then (none, s.takeClaim m)
  else if k = 0x05 then (none, s.takeGrant m)
  else if k = 0x06 then (none, s.takeRefuse m)
  else if k = 0x07 ∨ k = 0x08 then (none, s.takeSlotToken m)
  else if k = 0x09 then
    (match s.acceptTerm (BitVec.ofNat 16 m.term) with
      | (true, s1) => (none, s1.spreadToken (m.args.truncate 64))
      | (false, s1) => (none, s1))
  else if k = 0x0A then
    (match s.takeUnits port.val m.arrive 15 m.data with
      | ([], s1) => (none, s1)
      | (left, s1) => (some { m with data := left }, s1))
  else if k = 0x0B then
    (match s.takeRecords port m.src 16384 m.data with
      | ([], s1) => (none, s1)
      | (left, s1) => (some { m with data := left }, s1))
  else if k = 0x0C then
    (match s.acceptTerm (BitVec.ofNat 16 m.term) with
      | (true, s1) => (none, s1.sendRepair (fld m.args 47 16) (fld m.args 15 8 = 1))
      | (false, s1) => (none, s1))
  else if k = 0x18 then (none, s.takeCopy m)
  else (none, s)

/-- A message for this module: on a wrong channel, or not newer than the last accepted, it is dropped and counted;
otherwise it acts. One that waits is not yet accepted (R318, R319). -/
def State.deliver (s : State) (port : Fin 18) (m : Msg) : Option Msg × State :=
  if !(kindVcs m.kind).contains m.vc then (none, s.dropMsg port.val)
  else if !carriesEffect m.kind m.args then (none, s)
  else
    match s.acceptId port.val m.src m.id m.vc (pathClass m.kind) with
    | (false, s1) => (none, s1)
    | (true, s1) =>
      match s1.takeEffect port m with
      | (none, s2) => (none, s2)
      | (some left, s2) =>
        let key := pathClass m.kind * 32768 + m.src * 4 + m.vc
        (some left, s2.modCas fun c => { c with msgRx := tabSet 0 c.msgRx key (tabGet 0 s.cas.msgRx key) })

/-- Messages the module has sent itself act in order; one that must wait keeps its place, and holds those of its channel behind it (R319).
DESIGN CHOICE (log entry 80, unsafe): such a message has no arrival port, and the bridge is charged for it as for one that came by port 0,
on the west half (R21). -/
def State.deliverInOrder (s : State) (waiting : List Msg) : List Msg → List Msg × State
  | [] => (waiting, s)
  | m :: rest =>
    if waiting.any fun x => x.vc = m.vc then s.deliverInOrder (waiting ++ [m]) rest
    else
      match s.deliver 0 m with
      | (none, s1) => s1.deliverInOrder waiting rest
      | (some left, s1) => s1.deliverInOrder (waiting ++ [left]) rest

def State.deliverOwn (s : State) : State :=
  let r := (s.modCas fun c => { c with ownMsgs := [] }).deliverInOrder [] s.cas.ownMsgs
  (r.2.modCas fun c => { c with ownMsgs := r.1 ++ c.ownMsgs }).closeDue

/-- A message of one kind handed to the module for itself. -/
def State.deliverKind (s : State) (port : Fin 18) (m : Msg) (k : Nat) : State :=
  if m.kind = k && m.dst = s.selfId && (s.stewardUp 0 || s.stewardUp 1) then (s.deliver port m).2 else s

/-- WRITE, PANNIER, WRITE_ACK, CLAIM, GRANT, REFUSE, FILL, RELEASE, RING and SPEC_TOKEN: a message of that kind reaches
the module it is for (R149, R150, R196, R229, R338, R498). -/
def execWrite (port : Fin 18) (m : Msg) (s : State) : Outcome State Fault Refusal := .next (s.deliverKind port m 0x01)
def execPannier (port : Fin 18) (m : Msg) (s : State) : Outcome State Fault Refusal := .next (s.deliverKind port m 0x02)
def execWriteAck (port : Fin 18) (m : Msg) (s : State) : Outcome State Fault Refusal := .next (s.deliverKind port m 0x03)
def execClaim (port : Fin 18) (m : Msg) (s : State) : Outcome State Fault Refusal := .next (s.deliverKind port m 0x04)
def execGrant (port : Fin 18) (m : Msg) (s : State) : Outcome State Fault Refusal := .next (s.deliverKind port m 0x05)
def execRefuse (port : Fin 18) (m : Msg) (s : State) : Outcome State Fault Refusal := .next (s.deliverKind port m 0x06)
def execFill (port : Fin 18) (m : Msg) (s : State) : Outcome State Fault Refusal := .next (s.deliverKind port m 0x07)
def execRelease (port : Fin 18) (m : Msg) (s : State) : Outcome State Fault Refusal := .next (s.deliverKind port m 0x08)
def execSpecToken (port : Fin 18) (m : Msg) (s : State) : Outcome State Fault Refusal := .next (s.deliverKind port m 0x09)
def execRing (port : Fin 18) (m : Msg) (s : State) : Outcome State Fault Refusal := .next (s.deliverKind port m 0x16)

/-- The buffer space of a message that has left its port is free, and the peer is to be told: every flit it came in, also of one whose
first units or records had gone before. -/
def State.freeMsg (s : State) (p : Fin 18) (v : Fin 4) (m : Msg) : State :=
  s.modPort p fun x => { x with
    rxUsed := x.rxUsed.set v (x.rxUsed.get v - m.held), freed := x.freed.set v ((x.freed.get v + m.held) % 4096)
    owes := x.owes ||| (1#4 <<< v.val) }

/-- MESSAGE_FORWARD: a channel's oldest message at a port goes on by its route, one hop of TTL less, or acts here
(R318 to R320, R325). -/
def execMessageForward (p : Fin 18) (vc : Fin 4) (s : State) : Outcome State Fault Refusal :=
  match (s.port p).inMsgs.find? fun m => m.vc = vc.val with
  | none => .next s
  | some m =>
    if !s.stewardUp (portHalf p) then .next s
    else
      let out (s : State) : State :=
        (s.modPort p fun x => { x with inMsgs := removeFirst (fun y => y = m) x.inMsgs }).freeMsg p vc m
      if m.dst = s.selfId then
        match s.deliver p m with
        | (none, s1) => .next (out s1).closeDue
        | (some left, s1) => .next (s1.modPort p fun x => { x with inMsgs := replaceFirst (fun y => y = m) (fun _ => left) x.inMsgs })
      else if !(kindVcs m.kind).contains m.vc then .next ((out s).dropMsg p.val)
      else if m.ttl ≤ 1 then .next (((out s).raise 0x080C (detail := BitVec.ofNat 32 m.dst)).dropLost m)
      else
        match s.outPort m with
        | none => .next ((out s).dropLost m)
        | some q => .next (((out s).passBridge (portHalf p) (portHalf q) m).enqueue q { m with ttl := m.ttl - 1, held := 0 } (some p))

end Sys2Proof.Machine
end

