-- ==== Sys2Proof/Machine/CascadeOps.lean ====
section
/-! DEFINITION. What a module does on the cascade's own messages and timers: step packages and markers, membership, LOST
declarations, the deputy and its takeover, cascade barriers, the timebase and PTP (R183, R185, R289, R299, R328 to
R336). -/

namespace Sys2Proof.Machine

open Host

/-- The steward that runs the cascade agent is up (R328). -/
def State.agentUp (s : State) : Bool := s.ownerUp .cascade

/-! ### Step packages (R275, R300, R335) -/

/-- The package a part belongs to: the one in hand when the marker tick is the same, a new one when it is later. -/
def Cas.pkgFor (c : Cas) (term : BitVec 16) (parts : Nat) (p : PkgPart) : Option Pkg :=
  let fresh : Pkg := { step := p.step, epoch := p.epoch, tick := p.tick, repeat_ := p.again, h := p.h, shift := p.shift
                       term := term.toNat, nparts := parts }
  match c.pkg with
  | none => some fresh
  | some x =>
    if x.tick = p.tick then (if x.complete then none else some x)
    else if x.tick < p.tick then some fresh
    else none

def Pkg.addPart (x : Pkg) (part : Nat) (p : PkgPart) : Pkg :=
  if x.parts.contains part || decide (x.nparts ≤ part) then x
  else { x with
    parts := x.parts ++ [part]
    fallback := p.fallback.foldl (fun t f => tabSet none t f.1 f.2) x.fallback
    anchorReset := x.anchorReset ++ p.anchorReset
    complete := decide (x.parts.length + 1 = x.nparts) }

/-- PACKAGE: a part of a step package. A package that completes at or after its marker tick (R9) raises CAS_PACKAGE_LATE; the next
step's package ends the senders' wait for resends (R275, R335). -/
def execPackage (h : MsgHead) (part parts : Nat) (p : PkgPart) (s : State) : Outcome State Fault Refusal :=
  .next (s.accepting h true (path := 1) fun s =>
    match s.cas.pkgFor h.term parts p with
    | none => s
    | some x =>
      let y := x.addPart part p
      let s1 := s.modCas fun c => { c with pkg := some y }
      if !y.complete then s1
      else
        let s2 := forAllOf allCores (fun c s => s.modSeq c fun q => { q with nextMarker := y.tick }) s1
        let s3 := if y.tick ≤ s.tick then s2.raise 0x080A (detail := y.step) else s2
        if s.red.step < y.step then s3.endSenders else s3)

/-! ### Markers (R55, R185, R255, R299 to R301, R335, R336, R415) -/

/-- The module has been locked for 1 ms, or is the reference itself (R333). -/
def State.longLocked (s : State) : Bool := s.isMaster || (s.cas.locked && decide (s.cas.lockTick + 1000000 ≤ s.tick))

/-- A membership epoch received for the package's epoch number comes into force; a module listed in it has joined, once it has been locked
for 1 ms (R299, R333). -/
def State.enterEpoch (s : State) (epoch : BitVec 32) : State :=
  match s.cas.nextEpoch with
  | some (n, l) =>
    if n = epoch.toNat then
      s.modCas fun c => { c with
        epoch := epoch, members := l, nextEpoch := none, lost := []
        joined := c.joined || (s.longLocked && l.any fun x => x.2.2.2 = s.selfId) }
    else s.modCas fun c => { c with epoch := epoch }
  | none => s.modCas fun c => { c with epoch := epoch }

/-- The reduction machinery begins the step of a package (R279, R286, R289, R300, R301). -/
def Red.beginStep (r : Red) (p : Pkg) (words : Tab (BitVec 256)) : Red :=
  { r with
    step := p.step, epoch := p.epoch, markerTick := p.tick
    shifts := if p.shift = 0 then [] else [(0, p.shift)]
    normH := p.h, fallback := p.fallback, anchorReset := p.anchorReset
    finished := [], lateShares := [], doneSent := false, poisoned := false, failedFlag := false, normOver := false
    normLanes := Vector.replicate 16 0
    places := words
    shares := [], orders := [], notes := [] }

/-- One sequencer at a marker: SEQ_STEP, the epochs that hold the marker back, and the queues' markers (R185, R416). -/
def Seq.atMarker (q : Seq) (step : BitVec 32) : Seq :=
  { q with
    stepCount := satAdd 64 q.stepCount 1
    q0Steps := q.q0Steps ++ [step]
    hostMark := 0xE#4
    markTails := q.wqs.map fun w => w.tail
    prevEpochs := ((q.epochs.toList.filter fun e => e.st ≠ .free && decide (e.counted ≠ 0)).map fun e => e.id)
    replaySteps := q.replaySteps.filter fun t => t ≠ step
    nextMarker := 0 }

/-- A core at a marker: its sequencer, UPD_STEP, the hold for a spoke-map rewrite, and the tasks waiting for it. -/
def State.coreMarker (s : State) (step : BitVec 32) (c : Fin 8) : State :=
  if !s.coreLive c then s
  else
    let s1 := s.modCore c fun k => { k with
      seq := k.seq.atMarker step
      upd := { k.upd with step := step }
      arr := { k.arr with rewriteHold := k.arr.rewriteHold || k.arr.respare ≠ [] } }
    ((s1.core c).seq.tasks.filter fun t => t.st = .waitMarker).foldl (fun s t => s.resumeTask c t.key) s1

/-- A STEP swap armed on this module begins to drain at the marker; its limit counts from the marker's own tick (R360, R361). -/
def State.swapMarker (s : State) (tick : Nat) : State :=
  if s.img.swap.phase = .armed && s.img.swap.mode = 0 then
    s.modImg fun i => { i with
      stopAdmit := true, swap := { i.swap with phase := .draining, tick := tick, marker := some tick } }
  else s

/-- STEP_MARKER: the timebase reads at or above the marker tick of a complete package (R185, R335). -/
def execStepMarker (s : State) : Outcome State Fault Refusal :=
  match s.cas.pkg with
  | none => .next s
  | some p =>
    if !s.agentUp || !p.complete || p.taken || decide (s.tick < p.tick) then .next s
    else
      let again := s.cas.markerSeen && s.cas.markerStep = p.step
      let s1 := (s.enterEpoch p.epoch).modCas fun c => { c with
        pkg := some { p with taken := true }, markerStep := p.step, markerSeen := true }
      let s2 := forAllOf allPorts (fun q s => if (s.port q).bridge = [] then s else s.modPort q fun x => { x with bridge := [] })
        (s1.modRed fun r => r.beginStep p s1.keptWords)
      let s3 := forAllOf allHalves (fun h s => s.modHalf h fun y => { y with
        retSets := y.retSets.set (fin2 (p.step.toNat % 2)) [] }) s2
      let s4 := ((forAllOf allCores (fun c s => s.coreMarker p.step c) s3).swapMarker p.tick).leadAtMarker p.step.toNat
      .next ((if again then s4 else s4.newMoraineStep).tryDone)

/-! ### Membership (R265, R266, R288, R289, R299, R330) -/

/-- MEMBERSHIP_EPOCH: an epoch for later steps (R299). -/
def execMembershipEpoch (h : MsgHead) (epoch : Nat) (list : List (Nat × Nat × Nat × Nat)) (s : State) :
    Outcome State Fault Refusal :=
  .next (s.accepting h true fun s =>
    if epoch ≤ s.cas.epoch.toNat && s.cas.members ≠ [] then s
    else s.modCas fun c => { c with nextEpoch := some (epoch, list) })

/-- No deputy is left (R330): the module reports it, admits no STEP_START task and reports RUN_STOPPED. -/
def State.checkDeputies (s : State) : State :=
  if s.cas.deputies ≠ [] || s.cas.stopStepStart || s.topo.deputies = [] then s
  else
    let s1 := (s.raise 0x0809).modCas fun c => { c with stopStepStart := true }
    (s1.modMst fun m => { m with stopped := true, held := true }).runEvent 3 s.cas.markerStep.toNat s.cas.master.toNat 0x0809

/-- Shares that wait on the lost module close, or end FAILED (R299). -/
def State.sharesLose (s : State) (m : Nat) : State :=
  s.red.shares.foldl (fun s x =>
    match s.bucket x.bucket.toNat with
    | none => s
    | some b => if s.needsLost b x m then s.failShare b 0x0706 else s.tryClose b) s

/-- Arrivals of a module at a cascade barrier. -/
def Cas.arrivals (c : Cas) (id m : Nat) : Nat := (c.barMods.filter fun x => x.1 = id && x.2 = m).length

def removeN {α : Type} (p : α → Bool) : Nat → List α → List α
  | 0, l => l
  | n + 1, l => removeN p n (removeFirst p l)

/-- The master releases a cascade barrier when every module of the epoch not declared LOST has made its arrivals (R183,
R299). -/
def State.tryCascadeBarrier (s : State) (id : Nat) : State :=
  let n := s.barrierCount id
  if !s.isMaster || n = 0 || !(s.liveModules.all fun m => decide (n ≤ s.cas.arrivals id m)) then s
  else
    let s1 := s.modCas fun c => { c with
      barMods := s.epochModules.foldl (fun l m => removeN (fun x => x.1 = id && x.2 = m) n l) c.barMods }
    s1.liveModules.foldl (fun s m =>
      s.sendMsg m 0x13 vcCtrl (BitVec.ofNat 144 (id + 256)) [] s.cas.term.toNat) s1

/-- LOST_DECLARATION: the module counts as missing everywhere at once (R265, R299, R330). -/
def execLostDeclaration (h : MsgHead) (module : Nat) (s : State) : Outcome State Fault Refusal :=
  .next (s.accepting h true fun s =>
    if s.isLost module then s
    else
      let s1 := (s.modCas fun c => { c with lost := c.lost ++ [module] }).sharesLose module
      let s2 := ((s1.loseLender module).endLoans module).endRemote module
      let s3 := (s2.cas.barMods.map (·.1)).eraseDups.foldl State.tryCascadeBarrier s2
      let first := s.cas.deputyValid && s.cas.deputy.toNat = module
      let s4 := if s.cas.deputies.contains module then s3.setDeputies (s3.cas.deputies.filter (· ≠ module)) else s3
      let s5 := if first && s.isMaster then s4.redecide else s4
      (s5.runEvent 4 s.cas.markerStep.toNat module 0).checkDeputies)

/-- DEADLINE_SHIFT: added to every deadline of the step not yet passed (R289). -/
def execDeadlineShift (h : MsgHead) (ticks : Nat) (s : State) : Outcome State Fault Refusal :=
  .next (s.accepting h true fun s => s.modRed fun r => { r with shifts := r.shifts ++ [(s.tick, ticks)] })

/-! ### The deputy (R329, R330) -/

/-- The first deputy is another module that is still in the list. -/
def State.hasDeputy (s : State) : Bool := s.cas.deputyValid && s.cas.deputy.toNat ≠ s.selfId

/-- The master's two heartbeats to a deputy: ARGS bit 0, the model's own, marks the one on the tree path; the other goes through the
ALTERNATE masks (R330). -/
def State.sendHeartbeat (s : State) (d : Nat) : State :=
  let s1 := s.sendTree d 0x10 1 [] s.cas.term.toNat
  match s.alternatePort d with
  | some p => s1.sendOn p d 0x10 vcCtrl 0 [] s.cas.term.toNat
  | none => s1

/-- HEARTBEAT_INTERVAL (R330). DESIGN CHOICE (log entry 75): the heartbeats go to every deputy in the list, since a later deputy, that is to
find its predecessor lost too, has no other sign that the master lives. -/
def execHeartbeatInterval (s : State) : Outcome State Fault Refusal :=
  if !s.isMaster || !s.agentUp then .next s
  else if !s.hasDeputy then .next s.checkDeputies
  else .next ((s.cas.deputies.filter (· ≠ s.selfId)).foldl State.sendHeartbeat s)

/-- What a message of a logged decision tells the deputy of the master's own counts: the last spec ID opened (R199), or the marker that a
package announces, as MARKER_PLACE leaves it (R336). -/
def MasterSt.learnMsg (m : MasterSt) (d : Msg) : MasterSt :=
  if d.kind = 0x09 && fld d.args 17 16 = 1 then { m with epochId := d.args.truncate 16 }
  else if d.kind = 0x0D && fld d.args 15 0 = 0 then
    let m1 := { m with
      step := BitVec.ofNat 32 (leAt d.data 0 4), tick := leAt d.data 8 8, placed := true, h := (BitVec.ofNat 16 (leAt d.data 17 2)).toInt, held := false, stopped := false, resume := false }
    if leAt d.data 16 1 = 0 then
      { m1 with dones := [], settled := [], decided := false, skipped := false, skipNorm := false, rerun := false, evalHold := false }
    else if m.stopped then { m1 with dones := [], settled := [], decided := false, skipped := false, repair := [] }
    else { m1 with evalHold := true, repeatReq := false, decided := true }
  else m

/-- A logged decision: its messages, each content once for its many destinations, and a run stop. -/
def MasterSt.learn (m : MasterSt) (d : Decision) : MasterSt :=
  let m1 := ((contents d.msgs).map (·.1)).foldl MasterSt.learnMsg m
  if d.stop.isSome then { m1 with stopped := true, held := true } else m1

/-- LOG: the first deputy keeps a decision and acknowledges it; at the master, its acknowledgement lets the decision go
(R329). Bit 8 of ARGS marks the acknowledgement in the model's layout. A LOG without a decision is a piece of one that is not complete yet. -/
def execLog (h : MsgHead) (ack : Bool) (d : Option Decision) (s : State) : Outcome State Fault Refusal :=
  .next (s.accepting h (!ack) fun s =>
    if ack then (if s.isMaster then s.releaseDecision else s)
    else if s.cas.role ≠ .deputy then s
    else
      match d with
      | none => s
      | some d =>
        (s.modCas fun c => { c with logged := c.logged ++ [d], mst := c.mst.learn d }).sendMsg h.src 0x12 vcCtrl
          (BitVec.ofNat 144 256) [] s.cas.term.toNat)

/-- The deputy becomes master: TAKEOVER crosses the tree, its last logged decision and the package in hand go out again, and the old master
is declared LOST (R330). The marker last placed is the one its log holds, reached or not (R329). -/
def State.takeOver (s : State) : State :=
  let old := s.cas.master.toNat
  let rest := (s.cas.deputies.dropWhile (· ≠ s.selfId)).drop 1
  let s1 := (s.modCas fun c => { c with
    term := c.term + 1, role := .master, master := BitVec.ofNat 13 s.selfId, parent := 31, locked := true, holdover := false
    rateppm := 0
    mst := if c.mst.placed then c.mst
      else { c.mst with step := c.markerStep, tick := s.red.markerTick, placed := c.markerSeen, h := s.red.normH } }).setDeputies rest
  let s2 := (s1.raise 0x0808 (detail := BitVec.ofNat 32 s1.cas.term.toNat)).runEvent 5 s.cas.markerStep.toNat s.selfId 0
  let others := s2.liveModules.filter fun m => m ≠ s.selfId && m ≠ old
  let s3 := others.foldl (fun (s : State) m => s.sendTree m 0x11 0 [] s.cas.term.toNat) s2
  let s4 := match s3.cas.logged.getLast? with
    | some d => s3.carryOut { d with msgs := d.msgs.filter fun m => m.dst ≠ old }
    | none => s3
  let s5 := match s4.cas.pkg with
    | some p =>
      let parts := packageParts p.step.toNat p.epoch.toNat p.tick p.repeat_ p.h
        (if p.taken then s4.red.shift else p.shift)
        (p.fallback.filterMap fun (f : Nat × Option Int) => f.2.map fun x => (f.1, x)) p.anchorReset
      others.foldl (fun (s : State) m => parts.foldl (fun (s : State) (d : BitVec 144 × List (BitVec 8)) => s.sendTree m 0x0D d.1 d.2 s.cas.term.toNat) s) s4
    | none => s4
  (s5.declareLost old).checkDeputies

/-- No heartbeat on either path for 100 µs; a later deputy waits 200 µs more for each before it (R9, R330). -/
def State.takeoverDue (s : State) : Bool :=
  s.cas.role = .deputy && s.agentUp && decide (s.cas.lastHeartbeat + 100000 + 200000 * s.cas.deputyRank ≤ s.tick)

/-- HEARTBEAT: the first deputy notes that the master lives; one that comes after its window has ended comes too late (R9, R330). -/
def execHeartbeat (h : MsgHead) (s : State) : Outcome State Fault Refusal :=
  .next (s.accepting h true (path := 2) fun s =>
    if s.takeoverDue then s.takeOver else s.modCas fun c => { c with lastHeartbeat := s.tick })

/-- HEARTBEAT_TIMEOUT: a deputy whose window has ended takes over (R330). -/
def execHeartbeatTimeout (s : State) : Outcome State Fault Refusal :=
  .next (if s.takeoverDue then s.takeOver else s)

/-- TAKEOVER: the tree is rooted at the sender; the port it came from is the parent's, and an old master is a member
(R328, R330). -/
def execTakeover (h : MsgHead) (s : State) : Outcome State Fault Refusal :=
  .next (s.accepting h true (path := 1) fun s =>
    let rest := (s.cas.deputies.dropWhile (· ≠ h.src)).drop 1
    let role : CasRole := if rest.contains s.selfId then .deputy else .member
    let s1 := (s.modCas fun c => { c with
      role := role, master := BitVec.ofNat 13 h.src, parent := h.port, lastHeartbeat := s.tick }).setDeputies rest
    (s1.runEvent 5 s.cas.markerStep.toNat h.src 0).checkDeputies)

/-! ### Cascade barriers (R183) -/

/-- CASCADE_BARRIER: an arrival at the master, or the master's release at a module. -/
def execCascadeBarrier (h : MsgHead) (id : Fin 256) (release : Bool) (s : State) : Outcome State Fault Refusal :=
  .next (s.accepting h release fun s =>
    if release then s.releaseBarrier (allCores.filter fun c => s.coreLive c) 3 id.val
    else if !s.isMaster then s
    else
      (s.modCas fun c => { c with barMods := c.barMods ++ [(id.val, h.src)] }).tryCascadeBarrier id.val)

/-! ### The timebase (R331 to R333) -/

/-- A child's edge to its parent. -/
def State.isParent (s : State) (p : Fin 18) : Bool := !s.isMaster && s.cas.parent = p.val

/-- The 10 ms of a holdover are over (R9, R332): the module says so to the master. -/
def State.endHoldover (s : State) : State :=
  if !s.cas.holdover || s.tick < s.cas.holdTick + 10000000 then s
  else ((s.modCas fun c => { c with holdover := false, locked := false }).raise 0x0807).report .timeUnlocked

/-- TIME_HOLDOVER_EXPIRE: 10 ms without a parent's time (R332). -/
def execTimeHoldoverExpire (s : State) : Outcome State Fault Refusal := .next s.endHoldover

/-- TIME_SYNC: departure at the parent and arrival here, in ps of the two counts. The child takes its offset with the
measured link delay; a module that has not joined steps its timebase once; later it only slews, by a rate within ±200 ppm
that the manual leaves open and that its count follows at every tick (R331, R333). One that comes once the holdover's 10 ms are over comes
after their end (R9, R332). -/
def execTimeSync (p : Fin 18) (depart arrive : Nat) (s : State) : Outcome State Fault Refusal :=
  if !s.isParent p || (s.port p).st ≠ .up || !s.agentUp then .next s
  else
    let off : Int := (arrive : Int) - depart - (s.port p).delayPs.toNat
    let s := s.endHoldover
    let s1 := (s.modPort p fun x => { x with syncT := some arrive }).modCas fun c => { c with syncTx := some (depart, arrive) }
    if !s.cas.joined && !s.cas.stepped then
      let t := max s.tick ((s.tick : Int) - off / 1000).toNat
      .next ({ s1 with tick := t }.modCas fun c => { c with
        stepped := true, locked := true, holdover := false, offsetPs := 0, lockTick := t, slewAcc := 0 })
    else
      let rate : Int := (Config.freeNat s.freeCtr % 401 : Nat) - 200
      let near := decide (off.natAbs ≤ 600)
      .next (s1.draw.modCas fun c => { c with
        rateppm := rate, offsetPs := BitVec.ofInt 32 off, lockTick := if near && !c.locked then s.tick else c.lockTick
        locked := near, holdover := c.holdover && !near })

/-- TIME_DELAY at a child: the way back of the exchange, as its parent has returned it: the link delay is half the round trip. -/
def State.takeDelay (s : State) (p : Fin 18) (depart arrive : Nat) : State :=
  match s.cas.syncTx with
  | none => s
  | some (d, a) =>
    let trip : Int := ((a : Int) - d) + ((arrive : Int) - depart)
    s.modPort p fun x => { x with delayPs := BitVec.ofInt 32 (trip / 2) }

/-- TIME_DELAY at the other end of a tree edge: the child's flit is returned with its departure and its arrival. By an alternate edge a child
has attached (R327, R332). -/
def State.returnDelay (s : State) (p : Fin 18) (depart arrive : Nat) : State :=
  match s.portCfg p with
  | none => s
  | some e =>
    if prfTree e = 0 then s
    else
      (if prfTree e = 2 then s.modCas fun c => { c with attached := c.attached ||| (1#18 <<< p.val) } else s).sendOn p (prfPeer e) 0x15 vcTime 0
        (natLe 8 depart ++ natLe 8 arrive)

/-- TIME_DELAY: the flits of the way back, in ps of the two counts (R331). -/
def execTimeDelay (p : Fin 18) (depart arrive : Nat) (s : State) : Outcome State Fault Refusal :=
  if (s.port p).st ≠ .up || !s.agentUp then .next s
  else .next (if s.isParent p then s.takeDelay p depart arrive else s.returnDelay p depart arrive)

/-- TIME_SYNC_INTERVAL: the flits of every 8 µs: a TIME_SYNC on every tree edge but the one to the parent, an alternate edge among them, so
that a child can attach by it (R332), and a TIME_DELAY to the parent (R331). Each begins with its departure. -/
def execTimeSyncInterval (s : State) : Outcome State Fault Refusal :=
  if !s.agentUp then .next s
  else
    .next (forAllOf (allPorts.filter fun p => (s.port p).st = .up) (fun p s =>
      match s.portCfg p with
      | some e =>
        if prfTree e = 0 then s
        else s.sendOn p (prfPeer e) (if s.isParent p then 0x15 else 0x14) vcTime 0 (natLe 8 s.tick)
      | none => s) s)

/-! ### PTP (R334) -/

/-- The port's PTP settings take a message: enabled, of its domain, on its transport. -/
def Eth.takesPtp (e : Eth) (domain : BitVec 7) (layer2 : Bool) : Bool :=
  e.link && e.ptpEn && e.ptpDomain = domain && e.ptpUdp = !layer2

/-- PTP_MESSAGE: on the master, before its first marker the timebase steps to PTP time, though never back (R331); after it, it slews within
±100 ppm, at a rate the manual leaves open. `time` is what the exchange gives: a one-step Sync, or a two-step Sync with its Follow_Up, with
the delay that request and response have shown. Each is answered with the next delay request. -/
def execPtpMessage (e : Fin 2) (domain : BitVec 7) (layer2 : Bool) (time : BitVec 64) (s : State) :
    Outcome State Fault Refusal :=
  if !s.isMaster || !s.agentUp || !(s.eth e).takesPtp domain layer2 then .next s
  else
    let s1 := s.ethSend e framePtp [domain.toNat, b2n layer2] [] 64
    if !s.cas.mst.placed then
      let t := max s.tick time.toNat
      .next ({ s1 with tick := t }.modCas fun c => { c with ptpTick := some t, ptpLost := false })
    else
      let rate : Int := (Config.freeNat s.freeCtr % 201 : Nat) - 100
      .next (s1.draw.modCas fun c => { c with ptpTick := some s.tick, ptpLost := false, rateppm := rate })

/-- PTP messages have come and then stayed away for 10 s (R334). -/
def State.ptpGone (s : State) : Bool :=
  match s.cas.ptpTick with
  | some t => decide (t + 10000000000 ≤ s.tick)
  | none => false

/-- PTP_LOSS: 10 s without PTP messages (R334). -/
def execPtpLoss (s : State) : Outcome State Fault Refusal :=
  if !s.isMaster || s.cas.ptpLost || !((s.eth 0).ptpEn || (s.eth 1).ptpEn) || !s.ptpGone then .next s
  else .next ((s.modCas fun c => { c with ptpLost := true }).raise 0x080B)

end Sys2Proof.Machine
end

