-- ==== Sys2Proof/Machine/Clocks.lean ====
section
/-! DEFINITION. Clocks, operating points, droop, the power cap, freewheel work and heat (chapter 12). -/

namespace Sys2Proof.Machine

open Host

/-! ### The operating points (R372) -/

/-- Chainring frequency of an operating point, MHz. -/
def opMhz : Nat → Nat
  | 0 => 4800 | 1 => 4500 | 2 => 4200 | 3 => 3900 | 4 => 3600 | 5 => 3000 | 6 => 2400 | _ => 1200
/-- Array rail, mV. -/
def opRail : Nat → Nat
  | 0 => 850 | 1 => 820 | 2 => 790 | 3 => 760 | 4 => 730 | 5 => 680 | 6 => 630 | _ => 550
/-- The column r, in thousandths. -/
def opR : Nat → Nat
  | 0 => 1000 | 1 => 872 | 2 => 756 | 3 => 650 | 4 => 553 | 5 => 400 | 6 => 275 | _ => 105
/-- The emergency divider's N at a running point (R391). -/
def emergencyN : Nat → Nat
  | 0 => 4 | 1 => 4 | 2 => 4 | 3 => 4 | 4 => 3 | 5 => 3 | 6 => 2 | _ => 1

/-- The half's chainring as it runs, MHz: divided while the emergency divider is in force (R391). -/
def Half.chainring (h : Half) : Nat := opMhz h.running / (if h.emergN = 0 then 1 else h.emergN)

/-- The module is in M0 or M1, where cap, throttling and ALERT_N apply (R394), in a start-up from its chainring step onwards (R400). -/
def State.awake (s : State) : Bool :=
  decide (s.pwr.state ≤ 1) && !s.pwr.off && !s.pwr.tripped && (s.glb.mode ≠ .starting || decide (6 ≤ s.glb.step))

/-- The clocks of a half run: up, PLL locked, no hardware trip, and not in M2 or below. -/
def State.clocked (s : State) (h : Fin 2) : Bool :=
  s.stewardUp h && !(s.half h).pllLost && !s.pwr.tripped && decide (s.pwr.state ≤ 1)

/-- The geared domains of a half run: not in the gap of a switch (R375, R377). -/
def State.geared (s : State) (h : Fin 2) : Bool := s.clocked h && (s.half h).switch ≠ .switching

/-! ### Requests and grants (R373, R374) -/

/-- The STEP_START task at the head of one of a core's queues that waits for its marker, for a partition (R185, R373). -/
def State.startWaiting (s : State) (c : Fin 8) (p : Fin 4) : Option Task :=
  ([0, 1, 2, 3] : List Nat).findSome? fun q =>
    match s.headEntry c q with
    | (.words w, _) => (s.cfg.bind fun g => g.candidate c q 0 (entryOf w)).filter fun t =>
        hdrStepStart t.hdr && t.part = some p && !(s.core c).seq.hasMarker q
    | _ => none

/-- A partition waits for the next step-boundary marker: its task at WAIT_MARKER, or a STEP_START task at its queue's head
(R386, R389). -/
def State.markerWaits (s : State) (c : Fin 8) (p : Fin 4) : Bool :=
  match (s.core c).seq.tasks.find? fun t => t.part = some p with
  | some t => t.st = .waitMarker
  | none => (s.startWaiting c p).isSome

/-- The phases a core counts (R373): of its admitted tasks, of the STEP_START task a ramping partition waits for, and of the task a
partition with freewheel last ran. -/
def State.corePhases (s : State) (c : Fin 8) : List Nat :=
  match s.cfg with
  | none => []
  | some g =>
    ((s.core c).seq.tasks.map fun t => g.taskPhaseOf t.entry.tid)
      ++ allParts.flatMap fun p =>
        let q := s.part c p
        ((if q.ramp then s.startWaiting c p else none).toList.map fun t => g.taskPhaseOf t.entry.tid)
          ++ if 0 < q.density then [q.phase] else []

/-- A core's request: the point, and the phase that asks for it (R373). With no image active there are no phases: it requests
nothing, which shows as 7 and 7 (R472). -/
def State.coreRequest (s : State) (c : Fin 8) : Nat × Nat :=
  match s.cfg with
  | none => (7, 7)
  | some g =>
    let op (ph : Nat) : Nat := g.phases.getD ph 0
    match s.corePhases c with
    | [] => (op 5, 5)
    | a :: l => l.foldl (fun r ph => if op ph < r.1 then (op ph, ph) else r) (op a, a)

/-- The lowest request of a half's unfenced cores (R25, R374); until the first image becomes active, BOOT_OP (R400). DESIGN CHOICE (log entry 74, safe): a half whose four cores are all fenced
requests OP0, as a limit that limits nothing; R374 does not speak of an empty set. -/
def State.phaseLimit (s : State) (h : Fin 2) : Nat :=
  let l := (allCores.filter fun c => coreHalf c = h && !s.coreFenced c).map fun c => (s.coreRequest c).1
  if s.cfg.isNone then s.glb.bootOp.toNat
  else
    match l with
    | [] => 0
    | a :: r => r.foldl min a

/-- The limits beside the phase requests and the cap. -/
def State.otherLimit (s : State) (h : Fin 2) : Nat :=
  let x := s.half h
  max (max x.thermLimit s.pwr.alertLimit) (max x.opLimit.toNat (if x.forced7 then 7 else 0))

/-- The grant without the cap limit (R382). -/
def State.grantNoCap (s : State) (h : Fin 2) : Nat := max (s.phaseLimit h) (s.otherLimit h)

/-- The granted point g (R374). -/
def State.grantOf (s : State) (h : Fin 2) : Nat := max (s.grantNoCap h) (s.half h).capLimit

/-! ### Switching (R375, R376) -/

/-- A switch's target and whether only a phase request asks for it: such a slower switch moves one point (R376). -/
def State.switchGoal (s : State) (h : Fin 2) : Nat × Bool :=
  let m := (s.half h).running
  let g := s.grantOf h
  let o := max (s.otherLimit h) (s.half h).capLimit
  if g ≤ m then (g, false) else if m < o then (o, false) else (m + 1, true)

/-- The steward recomputes the grant and starts a switch, or gives one before its commit point a new target (R374 to
R376). A faster switch commands the rail up first. -/
def State.recompute (s : State) (h : Fin 2) : State :=
  let x := s.half h
  let goal := s.switchGoal h
  let n := goal.1
  s.modHalf h fun y =>
    let y1 := { y with granted := s.grantOf h }
    if x.switch = .switching then y1
    else if n = x.running then { y1 with target := n, switch := .idle, swPhase := false, railMv := opRail x.running }
    else if x.switch ≠ .idle && x.target = n then { y1 with swPhase := goal.2 }
    else { y1 with
      target := n, swPhase := goal.2, switch := if n < x.running then .ramping else .relocking
      switchTick := s.tick, heldCounted := false, railMv := opRail (min n x.running) }

/-- GRANT_RECOMPUTE, in M0 (R374). -/
def execGrantRecompute (h : Fin 2) (s : State) : Outcome State Fault Refusal :=
  if s.clocked h && s.awake && s.pwr.state = 0 then .next (s.recompute h) else .next s

/-- A switch the droop window holds (R380). -/
def Half.droopHolds (x : Half) : Bool := x.gear4 || decide (x.arrCycle < x.commitAfter)

/-- The predicted fall in a half's draw from one point to another, mW (R376). -/
def Half.fallTo (x : Half) (n : Nat) : Nat := x.scalingW * 1000 * (opR x.running - opR n) / opR x.running

/-- OP_SWITCH_COMMIT: rail and PLL are ready; droop holds the commit, and a phase-only switch waits for its fall budget
(R375, R376, R380). -/
def execOpSwitchCommit (h : Fin 2) (s : State) : Outcome State Fault Refusal :=
  let x := s.half h
  if !s.clocked h || x.switch = .idle || x.switch = .switching then .next s
  else if x.droopHolds then
    .next (s.modHalf h fun y => { y with
      switch := .heldByDroop, heldCounted := true
      droopHeld := if y.heldCounted then y.droopHeld else satAdd 32 y.droopHeld 1 })
  else if x.swPhase && decide (x.fallLeft < x.fallTo x.target) then .next s
  else
    .next (s.modHalf h fun y => { y with
      switch := .switching, pll := 1 - y.pll, switchTick := s.tick
      fallLeft := if y.swPhase then y.fallLeft - y.fallTo y.target else y.fallLeft })

/-- OP_SWITCH_COMPLETE: the gap ends on the new chainring; a slower switch lowers the rail (R375). The emergency divider, while it is
in force, divides the new chainring by its own N, and ends at OP7 (R391). -/
def execOpSwitchComplete (h : Fin 2) (s : State) : Outcome State Fault Refusal :=
  let x := s.half h
  if !s.clocked h || x.switch ≠ .switching then .next s
  else
    .next (s.modHalf h fun y => { y with
      running := y.target, switch := .idle, swPhase := false, switches := satAdd 32 y.switches 1
      railMv := opRail y.target
      emergN := if y.emergN = 0 || y.target = 7 || !s.pwr.alertLow then 0 else emergencyN y.target })

/-! ### A lost PLL (R378) -/

/-- PLL_UNLOCK: the half's domains are held low, their state kept. -/
def execPllUnlock (h : Fin 2) (s : State) : Outcome State Fault Refusal :=
  if s.clocked h then
    .next (s.modHalf h fun y => { y with pllLost := true, pllLostTick := s.tick, switch := .idle, swPhase := false })
  else .next s

/-- PLL_RELOCK: the idle PLL locks at OP7 and the domains are released on it. -/
def execPllRelock (h : Fin 2) (s : State) : Outcome State Fault Refusal :=
  let x := s.half h
  if s.stewardUp h && x.pllLost && decide (s.tick < x.pllLostTick + 100000) then
    .next ((s.modHalf h fun y => { y with
      pllLost := false, forced7 := true, lockTick := s.tick, pll := 1 - y.pll
      granted := 7, running := 7, target := 7, railMv := opRail 7, emergN := 0 }).raise 0x0A06 (unit := h.val))
  else .next s

/-- A half-die is fenced, and the shares whose pages it held fail (R24, R421). -/
def State.loseHalf (s : State) (h : Fin 2) (cause : BitVec 16) (detail : BitVec 32 := 0) : State :=
  forAllOf (allStacks.filter fun k => stackHalf k = h) (fun k s => s.failSharesOn k) (s.fenceHalf h cause detail)

/-- PLL_RELOCK_TIMEOUT: no lock within 100 µs; Oztas fences the half (R22, R378). -/
def execPllRelockTimeout (h : Fin 2) (s : State) : Outcome State Fault Refusal :=
  let x := s.half h
  if s.stewardUp h && x.pllLost && s.oz.up && !s.glb.moduleFenced && decide (x.pllLostTick + 100000 ≤ s.tick) then
    .next (s.loseHalf h 0x0A07)
  else .next s

/-- PLL_LOCK_CHECK_PASS: the lost PLL has relocked and passed its 1 ms check; normal grants resume. -/
def execPllLockCheckPass (h : Fin 2) (s : State) : Outcome State Fault Refusal :=
  let x := s.half h
  if x.forced7 && decide (x.lockTick + 1000000 ≤ s.tick) then .next (s.modHalf h fun y => { y with forced7 := false })
  else .next s

/-! ### Droop (R379, R380) -/

/-- The commit of a switch in this very cycle is undone: droop wins (R380). -/
def Half.undoCommit (y : Half) : Half :=
  { y with
    switch := .heldByDroop, pll := 1 - y.pll, heldCounted := true
    droopHeld := if y.heldCounted then y.droopHeld else satAdd 32 y.droopHeld 1
    fallLeft := if y.swPhase then y.fallLeft + y.fallTo y.target else y.fallLeft }

/-- DROOP_DETECT: the array gear goes to /4 for 256 array cycles from the last detection (R379); a commit of the same cycle
counts as after it, and is held (R380). -/
def execDroopDetect (h : Fin 2) (s : State) : Outcome State Fault Refusal :=
  if s.clocked h then
    .next (s.modHalf h fun y =>
      let y1 := if y.switch = .switching && y.switchTick = s.tick then y.undoCommit else y
      { y1 with droops := satAdd 64 y1.droops 1, gear4 := true, droopUntil := y1.arrCycle + 256 })
  else .next s

/-- DROOP_WINDOW_END: 256 cycles at /4 have passed; a held commit waits 64 array cycles more. -/
def execDroopWindowEnd (h : Fin 2) (s : State) : Outcome State Fault Refusal :=
  let x := s.half h
  if x.gear4 && decide (x.droopUntil ≤ x.arrCycle) then
    .next (s.modHalf h fun y => { y with gear4 := false, commitAfter := y.arrCycle + 64 })
  else .next s

/-! ### The power cap (R381 to R385) -/

/-- A number of watts times the gain G, an FP32 value in [0.5, 2], rounded down. -/
def gainTimes (g : BitVec 32) (w : Nat) : Nat :=
  w * (2 ^ 23 + fld g 22 0) * 2 ^ fld g 30 23 / 2 ^ 150

/-- A quotient as FP32, clamped to [0.5, 2] and rounded to nearest even. -/
def gainOf (n d : Nat) : BitVec 32 :=
  if 2 * n ≤ d then 0x3F000000
  else if 2 * d ≤ n then 0x40000000
  else
    let e := if n < d then 126 else 127
    let k := n * 2 ^ (150 - e)
    let q := k / d
    let r := k % d
    let q1 := if d < 2 * r || (2 * r = d && q % 2 = 1) then q + 1 else q
    BitVec.ofNat 32 (e * 2 ^ 23 + (q1 - 2 ^ 23))


/-- A reading or a rail figure that no working sensor gives (R385). -/
def Pwr.implausible (p : Pwr) (w : Nat) : Bool := decide (w < p.idleFloor.toNat) || decide (3000 < w)

/-- The first implausible reading marks the sensors distrusted (R385). -/
def State.distrust (s : State) : State :=
  if s.pwr.distrusted then s.modPwr fun p => { p with plausible := 0 }
  else (s.modPwr fun p => { p with distrusted := true, plausible := 0, diverging := 0, divSumM := 0, divSumE := 0 }).raise 0x0A04

/-- What the reading P would be with a half at another point, mW (R382). -/
def capPred (p d g n : Nat) : Nat := p - d + d * opR n / opR g

/-- The slower point a half is cut to: the first whose prediction meets the cap, or 7. -/
def cutPoint (p d g cap : Nat) : Nat :=
  ((List.range 8).find? fun n => decide (g ≤ n) && decide (capPred p d g n ≤ cap)).getD 7

/-- The cuts of one µs, half by half (R382). -/
def State.capCut (s : State) (cap : Nat) : List (Fin 2) → Nat → State
  | [], _ => s
  | h :: t, p =>
    if p ≤ cap then s
    else
      let x := s.half h
      let n := cutPoint p (x.scalingW * 1000) x.granted cap
      (s.modHalf h fun y => { y with capLimit := max y.capLimit n }).capCut cap t (capPred p (x.scalingW * 1000) x.granted n)

/-- 64 calm µs lower one cap limit, where its prediction allows it (R382). -/
def State.capCalm (s : State) (cap p : Nat) : State :=
  let calm := s.pwr.calm + 1
  if calm < 64 then s.modPwr fun x => { x with calm := calm }
  else
    let s1 := s.modPwr fun x => { x with calm := 0 }
    let w := s.half 0
    let e := s.half 1
    let pick : Option (Fin 2) :=
      if 0 < w.capLimit && (e.capLimit = 0 || decide (w.scalingW ≤ e.scalingW)) then some 0
      else if 0 < e.capLimit then some 1 else none
    match pick with
    | none => s1
    | some h =>
      let x := s.half h
      if x.capLimit ≤ s.grantNoCap h || 100 * capPred p (x.scalingW * 1000) x.granted (x.capLimit - 1) ≤ 95 * cap then
        s1.modHalf h fun y => { y with capLimit := y.capLimit - 1 }
      else s1

/-- CAP_STEP: the reading P is formed of the activity draws, the other draws and the rail monitors, and the procedure of
R382 runs. -/
def execCapStep (actW actE other rails : Nat) (s : State) : Outcome State Fault Refusal :=
  if !s.awake || !s.oz.up then .next s
  else
    let dw := gainTimes s.pwr.gain actW
    let de := gainTimes s.pwr.gain actE
    let e := dw + de + other + 30
    let s0 := if s.pwr.implausible rails && !s.pwr.distrusted then s.distrust else s
    let m := s.pwr.inputW + rails - s.pwr.railsAt
    let p := if s0.pwr.distrusted then 11 * e / 10 else max e m
    let s1 := (s0.modHalf 0 fun y => { y with scalingW := dw }).modHalf 1 fun y => { y with scalingW := de }
    let cap := s.pwr.cap.toNat
    let both7 := (s.half 0).capLimit = 7 ∧ (s.half 1).capLimit = 7
    let s2 := s1.modPwr fun x => { x with
      readP := min p 65535, readE := min e 65535, readM := min m 65535, rails := rails
      estSum := x.estSum + e, estCount := x.estCount + 1
      capUnmet := x.capUnmet && decide (cap < p)
      overSince := if cap < p ∧ both7 then some (x.overSince.getD s.tick) else none }
    if cap < p then
      let order : List (Fin 2) := if de ≤ dw then [0, 1] else [1, 0]
      .next ((s2.modPwr fun x => { x with calm := 0 }).capCut (cap * 1000) order (p * 1000))
    else if 100 * p ≤ 95 * cap then .next (s2.capCalm (cap * 1000) (p * 1000))
    else .next (s2.modPwr fun x => { x with calm := 0 })

/-- CAP_UNMET: P has exceeded the cap for 1 ms with both cap limits at 7: no task is admitted while it does (R383). -/
def execCapUnmet (s : State) : Outcome State Fault Refusal :=
  match s.pwr.overSince with
  | some t =>
    if s.awake && !s.pwr.capUnmet && decide (t + 1000000 ≤ s.tick) then
      .next ((s.modPwr fun p => { p with capUnmet := true }).raise 0x0A05)
    else .next s
  | none => .next s

/-- The mean of the window's estimates (R384). -/
def Pwr.meanE (p : Pwr) : Nat := if p.estCount = 0 then p.readE else p.estSum / p.estCount

def gap (a b : Nat) : Nat := if a ≤ b then b - a else a - b

/-- A trusted window: four diverging in a row recalibrate the gain (R384). -/
def State.compareWindow (s : State) (reading : Nat) : State :=
  let p := s.pwr
  let e := p.meanE
  if gap e reading ≤ 225 then s.modPwr fun x => { x with diverging := 0, divSumM := 0, divSumE := 0 }
  else if p.diverging < 3 then
    s.modPwr fun x => { x with diverging := x.diverging + 1, divSumM := x.divSumM + reading, divSumE := x.divSumE + e }
  else
    let n := (2 ^ 23 + fld p.gain 22 0) * 2 ^ fld p.gain 30 23 * (p.divSumM + reading)
    let d := 2 ^ 150 * (p.divSumE + e)
    (s.modPwr fun x => { x with
      gain := gainOf n d, diverging := 0, divSumM := 0, divSumE := 0, divergences := satAdd 32 x.divergences 1 }).raise 0x0A03

/-- INPUT_POWER_WINDOW: an input reading ends a 50 µs window (R384, R385). -/
def execInputPowerWindow (reading : Nat) (s : State) : Outcome State Fault Refusal :=
  if !s.awake || !s.oz.up then .next s
  else
    let p := s.pwr
    let close (s : State) : State := s.modPwr fun x => { x with
      inputW := reading, railsAt := x.rails, estSum := 0, estCount := 0 }
    if p.implausible reading then .next (close s.distrust)
    else if p.distrusted then
      let n := if gap p.meanE reading ≤ 225 then p.plausible + 1 else 0
      .next (close (s.modPwr fun x => { x with plausible := if n = 16 then 0 else n, distrusted := n ≠ 16 }))
    else .next (close (s.compareWindow reading))

/-! ### Freewheel budgets (R386 to R389) -/

def halfParts (h : Fin 2) : List (Fin 8 × Fin 4) :=
  (allCores.filter fun c => coreHalf c = h).flatMap fun c => allParts.map fun p => (c, p)

/-- The estimator's charge for one step of a partition's density, mW: less where the active set is empty (R388). -/
def State.stepCost (s : State) (full empty_ : Nat) (x : Fin 8 × Fin 4) : Nat :=
  if (s.part x.1 x.2).active then full else empty_

/-- One pass over the partitions, one step of density each, up or down, until the budget would be exceeded. The result
says whether the pass ran to its end. -/
def State.densityPass (s : State) (up : Bool) (full empty_ : Nat) : List (Fin 8 × Fin 4) → Nat → Bool × Nat × State
  | [], left => (true, left, s)
  | x :: t, left =>
    let cost := s.stepCost full empty_ x
    if left < cost then (false, left, s)
    else
      (s.modPart x.1 x.2 fun q => if up then { q with density := q.density + 1, ramp := true }
        else { q with density := q.density - 1 }).densityPass up full empty_ t (left - cost)

/-- Passes until nothing is left to move or the budget is spent. -/
def State.densityPasses (s : State) (up : Bool) (full empty_ : Nat) (pick : State → List (Fin 8 × Fin 4)) :
    Nat → Nat → Nat × State
  | 0, left => (left, s)
  | n + 1, left =>
    match pick s with
    | [] => (left, s)
    | l =>
      match s.densityPass up full empty_ l left with
      | (true, left', s1) => s1.densityPasses up full empty_ pick n left'
      | (false, left', s1) => (left', s1)

/-- The marker tick the module knows and has not reached (R389). -/
def State.knownMarker (s : State) : Option Nat :=
  match s.cas.pkg with
  | some p => if p.complete && !p.taken && decide (s.tick < p.tick) then some p.tick else none
  | none => none

/-- FREEWHEEL_BUDGET: a half's share of the µs: density falls step by step, what is left may pay for a phase-only switch,
and partitions waiting for a known marker ramp up to reach 64 at its tick: in this µs if the budgets of those left after it, less
what whole steps leave of each, would not do (R387, R389). -/
def execFreewheelBudget (h : Fin 2) (fullStep emptyStep : Nat) (s : State) : Outcome State Fault Refusal :=
  if !s.clocked h || s.pwr.state ≠ 0 then .next s
  else
    let budget := s.pwr.ramp.toNat * 500
    let falling (s : State) := (halfParts h).filter fun x => 0 < (s.part x.1 x.2).density && !(s.part x.1 x.2).ramp
    let d := s.densityPasses false fullStep emptyStep falling 64 budget
    let s1 := d.2.modHalf h fun y => { y with fallLeft := d.1 }
    let rising (s : State) := (halfParts h).filter fun x =>
      s.markerWaits x.1 x.2 && decide ((s.part x.1 x.2).density < 64)
    match s1.knownMarker with
    | some t =>
      let need := (rising s1).foldl (fun n x => n + (64 - (s1.part x.1 x.2).density) * s1.stepCost fullStep emptyStep x) 0
      let spent := budget + 1 - max fullStep emptyStep
      if s1.pwr.premark && decide (((t - s1.tick) / 1000 - 1) * spent < need) then
        .next (s1.densityPasses true fullStep emptyStep rising 64 budget).2
      else .next s1
    | none => .next s1

/-! ### Heat (R205, R390, R392) -/

/-- THERMAL_READ: the hottest junction and the stackTemps of a half, in quarter degrees (R205, R390). -/
def execThermalRead (h : Fin 2) (junction : Nat) (stackTemps : List Nat) (s : State) : Outcome State Fault Refusal :=
  if !s.awake then .next s
  else
    let hot := stackTemps.foldl max 0
    let s0 := forAllOf (allStacks.filter fun k => stackHalf k = h)
      (fun k s => s.modStack k fun x => { x with hot := decide (340 < stackTemps.getD (k.val % 16) 0) }) s
    let x := s0.half h
    let tooHot := decide (400 ≤ junction) || decide (380 ≤ hot)
    let cool := decide (junction ≤ 388) && decide (hot ≤ 368)
    let s1 := s0.modHalf h fun y => { y with
      hotJunction := BitVec.ofNat 12 (min 4095 junction), hotStack := BitVec.ofNat 12 (min 4095 hot) }
    if !x.thermEpisode then
      if tooHot then
        .next (((s1.modHalf h fun y => { y with
          thermEpisode := true, thermEasing := false, thermLimit := min 7 (y.granted + 1), thermTick := s.tick
          episodes := satAdd 5 y.episodes 1 }).raise 0x0A01 (unit := h.val)).msix 3)
      else .next s1
    else if tooHot then
      .next (s1.modHalf h fun y =>
        if y.thermTick + 100000 ≤ s.tick || y.thermEasing then { y with
          thermLimit := if y.thermTick + 100000 ≤ s.tick then min 7 (y.thermLimit + 1) else y.thermLimit
          thermTick := s.tick, thermEasing := false }
        else y)
    else if cool then
      .next (s1.modHalf h fun y => if y.thermEasing then y else { y with thermEasing := true, thermTick := s.tick })
    else .next (s1.modHalf h fun y => { y with thermEasing := false })

/-- THERMAL_EASE: each ms of easing lowers the limit by one; at 0 the episode ends (R390). -/
def execThermalEase (h : Fin 2) (s : State) : Outcome State Fault Refusal :=
  let x := s.half h
  if s.awake && x.thermEasing && decide (x.thermTick + 1000000 ≤ s.tick) then
    let n := x.thermLimit - 1
    .next (s.modHalf h fun y => { y with
      thermLimit := n, thermTick := s.tick, thermEpisode := n ≠ 0, thermEasing := n ≠ 0 })
  else .next s

/-- ALERT_N falls: both halves go to the emergency divider, and OP7 is forced (R391). -/
def State.alert (s : State) : State :=
  if !s.awake then s
  else
    let s1 := s.modPwr fun p => { p with alertLow := true, alertLimit := 7, alertFall := s.tick }
    let s2 := forAllOf allHalves (fun h s => if s.clocked h then
        (s.modHalf h fun y => { y with emergN := emergencyN y.running }).recompute h else s) s1
    (s2.raise 0x0A02).msix 3

/-- ALERT_ASSERT: the system drives ALERT_N low: a falling edge, unless the converter holds the wired line low already
(R391). -/
def execAlertAssert (s : State) : Outcome State Fault Refusal := .next (if s.pwr.convAlert then s else s.alert)

/-- ALERT_RELEASE: ALERT_N has been high for 1 ms; the alert limit is cleared (R391), and with it what is left of the divider.
DESIGN CHOICE (log entry 74, unsafe): the command table has no row for the system's release of the line; this command says that
it has been high for 1 ms, which the model takes at its word no sooner than 1 ms after the line's last fall. -/
def execAlertRelease (s : State) : Outcome State Fault Refusal :=
  if s.pwr.alertLow && !s.pwr.convAlert && decide (s.pwr.alertHighTick + 1000000 ≤ s.tick)
      && decide (s.pwr.alertFall + 1000000 ≤ s.tick) then
    .next (forAllOf allHalves (fun h s => s.modHalf h fun y => { y with emergN := 0 })
      (s.modPwr fun p => { p with alertLow := false, alertLimit := 0 }))
  else .next s

/-- THERMAL_TRIP: a junction at 118 °C stops every chainring and SerDes PLL, the host port's among them, and asserts THERMTRIP_N;
Oztas records it in flash, but for M4, where the island is held in reset (R392, R394). -/
def execThermalTrip (sensor : Fin 64) (s : State) : Outcome State Fault Refusal :=
  if s.pwr.tripped then .next s
  else if s.pwr.off then .next (s.modPwr fun p => { p with tripped := true })
  else
    .next (((s.haltUnits.modHost fun h => { h with linkUp := false }).modPwr fun p => { p with tripped := true }).modFlash fun f => { f with
      tripTick := BitVec.ofNat 56 s.tick, tripSensor := BitVec.ofNat 7 sensor.val, tripValid := true, tripReport := true })

end Sys2Proof.Machine
end

