-- ==== Sys2Proof/Machine/ImageParse.lean ====
section
/-! DEFINITION. A structure image read from its bytes: header, framing, subtables, and the configuration they carry
(R349 to R352). -/

namespace Sys2Proof.Machine

/-! ### CRC-32C (R349, R350) -/

def crcBit (r : BitVec 32) : BitVec 32 := if bit r 0 then (r >>> 1) ^^^ 0x82F63B78#32 else r >>> 1
def crcByte (r : BitVec 32) (b : BitVec 8) : BitVec 32 :=
  (List.range 8).foldl (fun r _ => crcBit r) (r ^^^ b.zeroExtend 32)
/-- CRC-32C of `n` bytes from offset `o` of what `rd` reads. -/
def crc32c (rd : Nat → BitVec 8) (o n : Nat) : BitVec 32 :=
  ~~~((List.range n).foldl (fun r i => crcByte r (rd (o + i))) 0xFFFFFFFF#32)

/-- `n` bytes at offset `o`, as a number. -/
def rdNum (rd : Nat → BitVec 8) (o n : Nat) : Nat := leNat ((List.range n).map fun i => rd (o + i))
def allZero (rd : Nat → BitVec 8) (o n : Nat) : Bool := (List.range n).all fun i => rd (o + i) = 0

/-- Why a place is rejected: its code, the section TYPE and the byte offset of the first failure (R355). -/
structure Reject where
  code : BitVec 16
  sect : Nat
  offset : Nat
  deriving DecidableEq, Repr

/-- The first check of a list that fails. -/
def firstBad (l : List (Nat × Nat × Bool)) (code : BitVec 16) : Option Reject :=
  (l.find? fun x => !x.2.2).map fun x => ⟨code, x.1, x.2.1⟩

/-! ### The header (R349) -/

def hMagic : Nat := 0x54534C46
def hTrailer : Nat := 3456

/-- The checks of the header, in offset order. `maxLen` bounds TOTAL_LEN for a local load; `taken` are the IMAGE_IDs of the
other places; on an FX8 a base image leaves out no core. -/
def headerChecks (rd : Nat → BitVec 8) (maxLen : Option Nat) (taken : List (BitVec 64)) (fx8 : Bool) : List (Nat × Nat × Bool) :=
  let n := rdNum rd
  let len := n 0x1C 4
  [(0, 0x00, n 0 4 = hMagic),
   (0, 0x04, n 4 1 = 1),
   (0, 0x05, decide (n 5 1 ≤ Config.imageMinor)),
   (0, 0x06, n 6 2 = 128),
   (0, 0x08, n 8 8 ≠ 0 && !taken.contains (BitVec.ofNat 64 (n 8 8))),
   (0, 0x10, n 0x10 8 ≠ 0),
   (0, 0x18, decide (n 0x18 1 ≤ 1)),
   (0, 0x19, !fx8 || n 8 8 ≠ n 0x10 8 || rd 0x19 = 0),
   (0, 0x1A, n 0x1A 2 = 9),
   (0, 0x1C, decide (len ≤ 67108864 ∧ 128 + hTrailer ≤ len) && len % 64 = 0 && (match maxLen with
      | some m => decide (len ≤ m)
      | none => true)),
   (0, 0x2C, allZero rd 0x2C 80),
   (0, 0x7C, n 0x7C 4 = (crc32c rd 0 0x7C).toNat)]

/-! ### Framing and subtables (R350, R351) -/

/-- One subtable of R351: its ID, entry size, least and greatest count. -/
structure TabSpec where
  id : Nat
  entry : Nat
  lo : Nat
  hi : Nat
  deriving DecidableEq, Repr

def anyCount : Nat := 2 ^ 32

def sectionSpec : Nat → List TabSpec
  | 1 => [⟨0x0101, 16, 8, 8⟩]
  | 2 => [⟨0x0201, 4, 8, 8⟩]
  | 3 => [⟨0x0301, 24, 0, 8192⟩, ⟨0x0302, 24, 0, 256⟩, ⟨0x0303, 40, 0, 1⟩, ⟨0x0304, 8, 0, 1024⟩, ⟨0x0305, 24, 0, 16⟩]
  | 4 => [⟨0x0401, 136, 0, 32768⟩]
  | 5 => [⟨0x0501, 16, 8, 8⟩, ⟨0x0502, 8, 1, 65536⟩, ⟨0x0503, 16, 0, anyCount⟩, ⟨0x0504, 32, 0, anyCount⟩,
          ⟨0x0505, 8, 0, 256⟩, ⟨0x0506, 4, 0, 8192⟩]
  | 6 => [⟨0x0601, 64, 0, 65535⟩]
  | 7 => [⟨0x0701, 64, 1, 1⟩, ⟨0x0703, 24, 0, anyCount⟩, ⟨0x0704, 16, 0, anyCount⟩, ⟨0x0705, 16, 0, anyCount⟩]
  | 8 => [⟨0x0801, 32, 1, 1⟩, ⟨0x0802, 32, 1, 4096⟩, ⟨0x0803, 64, 0, 64⟩]
  | 9 => [⟨0x0901, 8, 1, 1⟩, ⟨0x0902, 8, 1, anyCount⟩]
  | _ => []

/-- A subtable found in an image: its ID, the offset of its entries, its entry size and count. -/
structure TabRef where
  id : Nat
  off : Nat
  entry : Nat
  count : Nat
  deriving DecidableEq, Repr

def alignUp (a n : Nat) : Nat := (a + n - 1) / n * n

/-- The subtables of a body of `len` bytes at `body`, from position `pos` in it. The error is the offset where the framing
breaks. -/
def readTabs (rd : Nat → BitVec 8) (body len : Nat) : List TabSpec → Nat → List TabRef → Except Nat (List TabRef)
  | [], pos, acc => if pos = len then .ok acc else .error (body + pos)
  | t :: ts, pos, acc =>
    let p := alignUp pos 8
    let a := body + p
    let count := rdNum rd (a + 4) 4
    if len < p + 8 || !allZero rd (body + pos) (p - pos) then .error (body + pos)
    else if rdNum rd a 2 ≠ t.id ∨ rdNum rd (a + 2) 2 ≠ t.entry ∨ count < t.lo ∨ t.hi < count ∨ len < p + 8 + t.entry * count then
      .error a
    else readTabs rd body len ts (p + 8 + t.entry * count) (acc ++ [⟨t.id, a + 8, t.entry, count⟩])

/-- What framing gives: the subtables, and each section's LENGTH and CRC. -/
structure Framed where
  tabs : List TabRef
  crcs : List (Nat × BitVec 32)
  deriving DecidableEq, Repr

/-- The PORTS subtable of a LINK section has 18 entries for each module of the stage; else the offset of its header (R351). -/
def portCountBad (rd : Nat → BitVec 8) (ts : List TabRef) : Option Nat :=
  match ts.find? (·.id = 0x0701), ts.find? (·.id = 0x0703) with
  | some t, some p =>
    let mods := (List.range p.count).map fun i => rdNum rd (p.off + 24 * i) 2
    if p.count = 18 * (rdNum rd (t.off + 8) 2 * rdNum rd (t.off + 10) 2) ∧ mods.eraseDups.all (fun m => mods.count m = 18) then none
    else some (p.off - 8)
  | _, _ => none

/-- Sections `ty` to 9, from offset `pos`: a 16-byte header, then the body padded to a multiple of 64 bytes (R350). The trailer begins on
the 64-byte boundary after the last (R352). -/
def readSections (rd : Nat → BitVec 8) (trailer : Nat) : Nat → Nat → Nat → Framed → Except Reject Framed
  | 0, _, pos, acc => if alignUp pos 64 = trailer then .ok acc else .error ⟨0x0905, 9, pos⟩
  | n + 1, ty, pos, acc =>
    let len := rdNum rd (pos + 4) 4
    let body := pos + 16
    let stop := body + alignUp len 64
    if trailer < body ∨ rdNum rd pos 2 ≠ ty ∨ rdNum rd (pos + 2) 2 ≠ 1 ∨ trailer < stop then .error ⟨0x0905, ty, pos⟩
    else if rdNum rd (pos + 8) 4 ≠ (crc32c rd body len).toNat ∨ rdNum rd (pos + 12) 4 ≠ 0 then .error ⟨0x0905, ty, pos + 8⟩
    else if !allZero rd (body + len) (stop - body - len) then .error ⟨0x0905, ty, body + len⟩
    else
      match readTabs rd body len (sectionSpec ty) 0 [] with
      | .error o => .error ⟨0x0905, ty, o⟩
      | .ok ts =>
        match portCountBad rd ts with
        | some o => .error ⟨0x0905, ty, o⟩
        | none => readSections rd trailer n (ty + 1) stop
            ⟨acc.tabs ++ ts, acc.crcs ++ [(len, BitVec.ofNat 32 (rdNum rd (pos + 8) 4))]⟩

/-! ### The configuration (R351) -/

/-- The offsets of a subtable's entries. -/
def Framed.offs (f : Framed) (id : Nat) : List Nat :=
  match f.tabs.find? fun t => t.id = id with
  | some t => (List.range t.count).map fun i => t.off + t.entry * i
  | none => []

def coreCfgOf (rd : Nat → BitVec 8) (route part task : Nat) : CoreCfg :=
  let r := rdNum rd route 16
  let p := rdNum rd part 4
  { decoupled := bitsOf r 0 0 = 1
    gang := BitVec.ofNat 8 (bitsOf r 8 1)
    lead := bitsOf r 11 9
    sharedFeed := bitsOf r 12 12 = 1
    partMode := match bitsOf p 1 0 with
      | 0 => .full
      | 1 => .half
      | _ => .quarter
    used := bitsOf p 2 2 = 1
    specTasks := rdNum rd task 2
    tokenSrc := BitVec.ofNat 3 (rdNum rd (task + 2) 1)
    runFirst := rdNum rd (task + 4) 4
    runCount := rdNum rd (task + 8) 4 }

def presentId (x : Nat) : List Nat := if x = 0xFFFF then [] else [x]

def topoOf (rd : Nat → BitVec 8) (o : Nat) : TopoCfg :=
  let n (i : Nat) : Nat := rdNum rd (o + i) 2
  { n0 := n 0, n1 := n 2, n2 := n 4, stages := n 6, channels := n 8, members := n 10
    tree := rdNum rd (o + 12) 1 = 1
    master := n 16
    deputies := presentId (n 18) ++ presentId (n 20) ++ presentId (n 22)
    markerLead := rdNum rd (o + 24) 8 }

/-- The configuration an image's sections carry. -/
def imgOf (rd : Nat → BitVec 8) (f : Framed) : ImgCfg :=
  let n := rdNum rd
  let w (k o : Nat) : BitVec (8 * k) := BitVec.ofNat (8 * k) (n o k)
  let at0 (id : Nat) : Nat := (f.offs id).headD 0
  let trailer := n 0x1C 4 - hTrailer
  { imageId := w 8 8, familyId := w 8 0x10, eval := n 0x18 1 = 1, omit_ := w 1 0x19, totalLen := n 0x1C 4
    secVersion := w 4 0x20, minFw := w 4 0x24, keyId := n (trailer + 4) 1
    secCrcs := f.crcs
    cores := (List.range 8).map fun c => coreCfgOf rd (at0 0x0101 + 16 * c) (at0 0x0201 + 4 * c) (at0 0x0501 + 16 * c)
    slots := (f.offs 0x0301).map fun o =>
      { core := bitsOf (n o 2) 12 10, slot := bitsOf (n o 2) 9 0, entry := w 16 (o + 8) }
    mirrors := (f.offs 0x0302).map fun o =>
      { primary := bitsOf (n o 8) 40 0, mirror := bitsOf (n (o + 8) 8) 40 0, pages := n (o + 16) 4 }
    pool := (f.offs 0x0303).head?.map fun o =>
      { base0 := bitsOf (n o 8) 40 0, mib0 := n (o + 8) 4, mib1 := n (o + 12) 4, base1 := bitsOf (n (o + 16) 8) 40 0
        lender := n (o + 24) 2, lendMib := n (o + 28) 4, ringBase := bitsOf (n (o + 32) 8) 40 0 }
    moraine := (f.offs 0x0304).map fun o =>
      let x := n o 8
      { core := bitsOf x 12 10, slot := bitsOf x 9 0, newest := bitsOf x 13 13 = 1, recomp := bitsOf x 14 14 = 1
        entries := bitsOf x 28 16, rebuild := bitsOf x 55 32 }
    loans := (f.offs 0x0305).map fun o =>
      { borrower := n o 2, mib := n (o + 4) 4, base := bitsOf (n (o + 8) 8) 40 0 }
    templates := (f.offs 0x0401).map fun o => (n o 1, bitsOf (n (o + 2) 2) 11 0, w 128 (o + 8))
    progs := (f.offs 0x0502).map fun o =>
      let x := n o 8
      { tid := bitsOf x 23 0, core := bitsOf x 26 24, offset := bitsOf x 63 32 }
    words := (f.offs 0x0503).map (w 16)
    runList := (f.offs 0x0504).map (w 32)
    barriers := (f.offs 0x0505).map fun o => (bitsOf (n o 8) 7 0, bitsOf (n o 8) 63 32)
    replace_ := (f.offs 0x0506).map fun o => (bitsOf (n o 4) 12 10, bitsOf (n o 4) 9 0)
    buckets := (f.offs 0x0601).map (w 64)
    topo := topoOf rd (at0 0x0701)
    ports := (f.offs 0x0703).map fun o => { module := n o 2, port := n (o + 2) 1, entry := w 16 (o + 8) }
    routes := (f.offs 0x0704).map fun o =>
      { module := n o 2, first := n (o + 4) 2, count := n (o + 6) 2
        primary := BitVec.ofNat 18 (n (o + 8) 4), alternate := BitVec.ofNat 18 (n (o + 12) 4) }
    rings := (f.offs 0x0705).map fun o =>
      { ring := n o 1, core := n (o + 1) 1, slot := n (o + 2) 2, module := n (o + 4) 2, outPort := n (o + 6) 1
        successor := n (o + 8) 2, hops := n (o + 10) 2 }
    censusBase := bitsOf (n (at0 0x0801) 8) 40 0
    scaleBase := bitsOf (n (at0 0x0801 + 8) 8) 40 0
    clipNorm := w 4 (at0 0x0801 + 16)
    tensors := (f.offs 0x0802).map fun o =>
      { id := bitsOf (n o 2) 11 0, policy := w 2 (o + 2), lead := w 4 (o + 4), baseIdx := bitsOf (n (o + 8) 8) 47 0
        scale := w 16 (o + 16) }
    profiles := (f.offs 0x0803).map (w 64)
    phases := (List.range 6).map fun i => n (at0 0x0901 + i) 1
    taskPhase := (f.offs 0x0902).map fun o =>
      let x := n o 8
      (bitsOf x 23 0, bitsOf x 55 32, bitsOf x 63 56) }

end Sys2Proof.Machine
end

