-- ==== Sys2Proof/Machine/Update.lean ====
section
/-! DEFINITION. The update engine: the optimisers, stochastic rounding and the command UPDATE (R175, R244 to R256). -/

namespace Sys2Proof.Machine

open Host

/-! ### Stochastic rounding (R252, R253) -/

def mod64 (x : Nat) : Nat := x % 2 ^ 64

def mix64 (z : Nat) : Nat :=
  let z1 := mod64 ((z ^^^ (z / 2 ^ 31)) * 0xA3C59AC28D315E47)
  let z2 := mod64 ((z1 ^^^ (z1 / 2 ^ 29)) * 0x8F1BBCDC6A2E9D35)
  z2 ^^^ (z2 / 2 ^ 32)

/-- The 32 random bits of an element, step and lane. -/
def srBits (seed t i lane : Nat) : Nat :=
  let z := mix64 (seed ^^^ mod64 (t * 0xE4F72B1953C80A6B))
  mix64 (z ^^^ mod64 (i * 4) ^^^ lane) / 2 ^ 32

/-- round_sr under NONFINITE: the code, and whether the rounding went away from zero. -/
def roundSr (f : FpFmt) (v : Val) (r : Nat) : Nat × Bool :=
  match v with
  | .num neg m e =>
    if m = 0 then (f.signed neg 0, false)
    else
      let q := max (m.log2 + e) f.emin - (f.p - 1 : Nat)
      let d := (q - e).toNat
      let n := if e ≥ q then m * 2 ^ (e - q).toNat else m / 2 ^ d
      let frac := if e ≥ q then 0 else m % 2 ^ d * 2 ^ 32 / 2 ^ d
      let away := decide (2 ^ 32 ≤ frac + r)
      let c := (q - f.qmin).toNat * 2 ^ (f.p - 1) + n + b2n away
      (if f.maxCode < c then f.overflow neg true else f.signed neg c, away)
  | v => ((f.round true v).code, false)

/-! ### Arithmetic (R247 to R250) -/

/-- RN of an exact value, as a value. -/
def Val.rn (v : Val) : Val := rn32 v
def Val.sub (a b : Val) : Val := a.add b.negate

/-- bc of R247: one less β^t, by squaring, with one RN an operation. -/
def biasCorrection (beta : Val) (t : Nat) : Val :=
  let bits := (List.range (t.log2 + 1)).reverse.map fun i => decide (t / 2 ^ i % 2 = 1)
  let p := bits.foldl (fun p b =>
    let p1 := (p.mul p).rn
    if b then (p1.mul beta).rn else p1) Val.one
  (Val.one.sub p).rn

/-- What every element of one UPDATE shares. -/
structure UpdCtx where
  prof : UpdProf
  t : Nat
  lr : Val
  bc1 : Val
  bc2 : Val
  clip : Nat
  /-- Global index of the command's first element (R254). -/
  idx : Nat
  wcFmt : Fmt
  wcOvf : Bool
  tscale : Nat
  xceil : Nat
  deriving DecidableEq, Repr

/-- What one element's update gives: codes as stored, the master's value, and the roundings away from zero. -/
structure UpdEl where
  x : Nat
  m1 : Nat
  m2 : Nat
  val : Val
  away : Nat
  bad : Nat
  deriving DecidableEq, Repr

/-- A master's code read as its value. -/
def UpdProf.masterVal (p : UpdProf) (code : Nat) : Val := if p.masterFp32 then f32 code else lm48Val code

/-- ROUND_M (R247): the moment's code, in lane 1 or 2, and whether it rounded away. -/
def roundM (k : UpdCtx) (i lane : Nat) (v : Val) : Nat × Bool :=
  if k.prof.momBf16 then roundSr fpBf16 v (srBits k.prof.seed k.t i lane) else ((fpFp32.round true v).code, false)

/-- ROUND_X (R247). -/
def roundX (k : UpdCtx) (i : Nat) (v : Val) : Nat × Bool :=
  if k.prof.masterFp32 then roundSr fpFp32 v (srBits k.prof.seed k.t i 0) else ((fpLm48.round true v).code, false)

def notFinite (v : Val) : Nat := b2n (!v.isFinite)

/-- The master step x - lr·u - lr·WD·x of R248, exact, then ROUND_X. -/
def masterStep (k : UpdCtx) (i : Nat) (x u : Val) : Nat × Bool :=
  roundX k i ((x.sub (k.lr.mul u)).sub ((k.lr.mul k.prof.wd).mul x))

/-- u of R248 from the corrected first moment (or gradient) a and second moment b. -/
def adamStep (k : UpdCtx) (a b : Val) : Val := (a.div ((b.sqrt.rn).add k.prof.eps).rn).rn

/-- ADAMW (R248) on one element. -/
def adamw (k : UpdCtx) (i : Nat) (g x m v : Val) : UpdEl :=
  let p := k.prof
  let m1 := roundM k i 1 ((p.beta1.mul m).add ((Val.one.sub p.beta1).mul g))
  let v1 := roundM k i 2 ((p.beta2.mul v).add (((Val.one.sub p.beta2).mul g).mul g))
  let mv := p.momFmt.decode m1.1
  let vv := p.momFmt.decode v1.1
  let u := adamStep k (mv.div k.bc1).rn (vv.div k.bc2).rn
  let r := masterStep k i x u
  let xv := p.masterVal r.1
  { x := r.1, m1 := m1.1, m2 := v1.1, val := xv, away := b2n m1.2 + b2n v1.2 + b2n r.2
    bad := notFinite mv + notFinite vv + notFinite xv }

/-- SGDM (R249) on one element. -/
def sgdm (k : UpdCtx) (i : Nat) (g x m : Val) : UpdEl :=
  let p := k.prof
  let decay := p.wd.mul x
  let m1 := roundM k i 1 (((p.beta1.mul m).add g).add decay)
  let mv := p.momFmt.decode m1.1
  let st := if p.nesterov then (g.add decay).add (p.beta1.mul mv) else mv
  let r := roundX k i (x.sub (k.lr.mul st))
  let xv := p.masterVal r.1
  { x := r.1, m1 := m1.1, m2 := 0, val := xv, away := b2n m1.2 + b2n r.2, bad := notFinite mv + notFinite xv }

/-- FACTORED's per-element part (R250), from its second-moment estimate v. -/
def factoredEl (k : UpdCtx) (i : Nat) (g x m v : Val) : UpdEl :=
  let p := k.prof
  let m1 := if p.firstMom then roundM k i 1 ((p.beta1.mul m).add ((Val.one.sub p.beta1).mul g)) else (0, false)
  let mv := p.momFmt.decode m1.1
  let a := if p.firstMom then (mv.div k.bc1).rn else g
  let r := masterStep k i x (adamStep k a (v.div k.bc2).rn)
  let xv := p.masterVal r.1
  { x := r.1, m1 := m1.1, m2 := 0, val := xv, away := b2n m1.2 + b2n r.2
    bad := (if p.firstMom then notFinite mv else 0) + notFinite xv }

/-- The gradient as the optimiser sees it (R247). -/
def clipGrad (k : UpdCtx) (g : Val) : Val := if k.clip = 0x3F800000 then g else ((f32 k.clip).mul g).rn

/-- An ascending sum with one RN an addition. -/
def rnSum (l : List Val) : Val := l.foldl (fun a v => (a.add v).rn) Val.zero

/-- A positive integer as a value. -/
def valNat (n : Nat) : Val := .num false n 0

/-- The new row and column factors of an 8,192-element group, and their mean row factor (R250). -/
def newFactors (k : UpdCtx) (g : List Val) (rows cols : List Val) : List Val × List Val × Val :=
  let q := g.map fun x => (x.mul x).rn
  let beta := k.prof.beta2
  let mix (old new : Val) : Val := ((beta.mul old).add ((Val.one.sub beta).mul new)).rn
  let rs := (List.range 64).map fun r =>
    mix (rows.getD r .zero) ((rnSum ((List.range 128).map fun c => q.getD (r * 128 + c) .zero)).div (valNat 128)).rn
  let cs := (List.range 128).map fun c =>
    mix (cols.getD c .zero) ((rnSum ((List.range 64).map fun r => q.getD (r * 128 + c) .zero)).div (valNat 64)).rn
  (rs, cs, ((rnSum rs).div (valNat 64)).rn)

/-- v of R250. -/
def factorV (rs cs : List Val) (rbar : Val) (j : Nat) : Val :=
  if rbar.isZero then Val.zero
  else ((((rs.getD (j / 128) .zero).mul (cs.getD (j % 128) .zero)).rn).div rbar).rn

/-! ### The working copy (R245, R251) -/

/-- A block under the ceiling: its scale, its elements, and whether it hit the ceiling. -/
def ceilBlock (k : UpdCtx) (vs : List Val) : Nat × List Conv × Bool :=
  let r := convBlock k.wcFmt k.wcOvf vs
  if r.1 ≠ 0xFF && decide (k.xceil < r.1) then
    (k.xceil, (vs.map fun v => match v with | .inf n => maxFp32 n | v => v).map (blockElem k.wcFmt k.xceil), true)
  else (r.1, r.2, false)

/-- The elements of a vector whose working copy is non-finite (R256): the value itself, or what it overflows to in the
working copy's format under NONFINITE. -/
def workingBad (k : UpdCtx) (vs : List Val) (codes : List Nat) : Nat :=
  match (if k.wcFmt.isBlock then none else k.wcFmt.elem) with
  | some ef => ((vs.zip codes).filter fun x => !x.1.isFinite || !(ef.decode x.2).isFinite).length
  | none => (vs.filter fun v => !v.isFinite).length

/-- A vector's working copy: the array at row ROW, the plane or element arrays, its ceiling hits, and its non-finite
elements. DESIGN CHOICE (log entry 80, unsafe): a tensor whose policy's FORMAT is PB6 or PB4 gets FORMAT's own planes (R75), also where
PB_STORED names more of them stored (R74, R93). -/
def workingCopy (k : UpdCtx) (vs : List Val) : List (BitVec 8) × List (List (BitVec 8)) × Nat × Nat :=
  let f := k.wcFmt
  if f.isBlock then
    let bs := (List.range 16).map fun b => ceilBlock k ((vs.drop (32 * b)).take 32)
    let codes := bs.map fun b => b.2.1.map (·.code)
    let planes := if f.isPlaned then
        (List.range f.planes).map fun p => codes.flatMap fun l => natLe 4 (planeWord f.planes p l)
      else [codes.flatMap fun l => packBytes f.bits l]
    (bs.map fun b => BitVec.ofNat 8 b.1, planes, (bs.filter fun b => b.2.2).length, workingBad k vs [])
  else
    match f.elem with
    | some ef =>
      let code (v : Val) : Nat :=
        (ef.round k.wcOvf (if f.isTensorScaled then v.scale (127 - (k.tscale : Int)) else v)).code
      let codes := vs.map code
      (codes.flatMap fun c => natLe (f.bits / 8) c, [], 0, workingBad k vs codes)
    | none => ([], [], 0, 0)

/-- Formats a working copy may have (R245). -/
def wcFormatOk (f : Fmt) : Bool := f ≠ .lm48 && f ≠ .lf48

/-! ### Vectors -/

/-- Where an UPDATE's arrays lie: home and address of each one's first byte. -/
structure UpdArrays where
  grad : Bool × Nat
  mas : Bool × Nat
  ext : Bool × Nat
  mom1 : Bool × Nat
  mom2 : Bool × Nat
  newMas : Bool × Nat
  newExt : Bool × Nat
  newMom1 : Bool × Nat
  newMom2 : Bool × Nat
  wc : Bool × Nat
  wcN : List (Bool × Nat)
  deriving DecidableEq, Repr

/-- Counts an UPDATE gathers. -/
structure UpdCount where
  away : Nat := 0
  bad : Nat := 0
  ceil : Nat := 0
  vecs : Nat := 0
  deriving DecidableEq, Repr


/-- Several reads, or the first refusal. -/
def State.readAll (s : State) (c : Fin 8) : List ((Bool × Nat) × Nat) → List (List (BitVec 8)) →
    Except (BitVec 16) (List (List (BitVec 8))) × State
  | [], acc => (.ok acc, s)
  | (a, n) :: rest, acc =>
    if n = 0 then s.readAll c rest (acc ++ [[]])
    else
      match s.engineRead c a.1 a.2 n with
      | (.ok bs, s1) => s1.readAll c rest (acc ++ [bs])
      | (.error e, s1) => (.error e, s1)

/-- Several writes, up to the first refusal. -/
def State.writeAll (s : State) (c : Fin 8) : List ((Bool × Nat) × List (BitVec 8)) → Option (BitVec 16) × State
  | [] => (none, s)
  | (a, bs) :: rest =>
    if bs = [] then s.writeAll c rest
    else
      match s.engineWrite c a.1 a.2 bs with
      | (none, s1) => s1.writeAll c rest
      | (some e, s1) => (some e, s1)

def vecAt (a : Bool × Nat) (v len : Nat) : Bool × Nat := (a.1, a.2 + v * len)

/-- One vector: its arrays read, its 512 elements updated, its results written. `second` gives FACTORED's estimate of
each element. -/
def State.updVector (s : State) (c : Fin 8) (k : UpdCtx) (a : UpdArrays) (second : Nat → Val) (v : Nat)
    (n : UpdCount) : Option (BitVec 16) × UpdCount × State :=
  let p := k.prof
  let m1 := if p.moment1 then p.momLen else 0
  let m2 := if p.opt = 1 then p.momLen else 0
  let ext := if p.masterFp32 then 0 else 1024
  match s.readAll c [(vecAt a.grad v p.gradLen, p.gradLen), (vecAt a.mas v 2048, 2048), (vecAt a.ext v 1024, ext),
      (vecAt a.mom1 v p.momLen, m1), (vecAt a.mom2 v p.momLen, m2)] [] with
  | (.error e, s1) => (some e, n, s1)
  | (.ok r, s1) =>
    let at_ (i w j : Nat) : Nat := leAt (r.getD i []) (j * w) w
    let mw := p.momFmt.bits / 8
    let el (j : Nat) : UpdEl :=
      let i := k.idx + 512 * v + j
      let g := clipGrad k (p.gradFmt.decode (at_ 0 (p.gradFmt.bits / 8) j))
      let x := p.masterVal (if p.masterFp32 then at_ 1 4 j else at_ 1 4 j * 2 ^ 16 + at_ 2 2 j)
      let m := p.momFmt.decode (at_ 3 mw j)
      if p.opt = 0 then sgdm k i g x m
      else if p.opt = 1 then adamw k i g x m (p.momFmt.decode (at_ 4 mw j))
      else factoredEl k i g x m (second j)
    let els := (List.range 512).map el
    let w := workingCopy k (els.map (·.val))
    let writes : List ((Bool × Nat) × List (BitVec 8)) := [
        (vecAt a.newMas v 2048, els.flatMap fun e => natLe 4 (if p.masterFp32 then e.x else e.x / 2 ^ 16)),
        (vecAt a.newExt v 1024, if p.masterFp32 then [] else els.flatMap fun e => natLe 2 e.x),
        (vecAt a.newMom1 v p.momLen, if p.moment1 then els.flatMap fun e => natLe mw e.m1 else []),
        (vecAt a.newMom2 v p.momLen, if p.opt = 1 then els.flatMap fun e => natLe mw e.m2 else []),
        (vecAt a.wc v (wcLen0 k.wcFmt), w.1)]
      ++ (a.wcN.zip w.2.1).map fun x => (vecAt x.1 v (wcLenN k.wcFmt), x.2)
    let away := (els.map (·.away)).foldl (· + ·) 0
    let bad := (els.map fun e => e.bad).foldl (· + ·) w.2.2.2
    let n1 : UpdCount := { away := n.away + away, bad := n.bad + bad, ceil := n.ceil + w.2.2.1, vecs := n.vecs + 1 }
    match s1.writeAll c writes with
    | (none, s2) => (none, n1, s2)
    | (some e, s2) => (some e, n, s2)

/-- The vectors of SGDM and ADAMW, in ascending order. -/
def State.updVectors (s : State) (c : Fin 8) (k : UpdCtx) (a : UpdArrays) (second : Nat → Nat → Val) (v : Nat) (n : UpdCount) :
    Nat → Option (BitVec 16) × UpdCount × State
  | 0 => (none, n, s)
  | left + 1 =>
    match s.updVector c k a (second v) v n with
    | (none, n1, s1) => s1.updVectors c k a second (v + 1) n1 left
    | r => r

/-- The gradients of a group of 16 vectors. -/
def State.groupGrads (s : State) (c : Fin 8) (k : UpdCtx) (a : UpdArrays) (grp : Nat) :
    Except (BitVec 16) (List Val) × State :=
  let p := k.prof
  let len := 16 * p.gradLen
  match s.engineRead c a.grad.1 (a.grad.2 + grp * len) len with
  | (.error e, s1) => (.error e, s1)
  | (.ok bs, s1) =>
    let w := p.gradFmt.bits / 8
    (.ok ((List.range 8192).map fun j => clipGrad k (p.gradFmt.decode (leAt bs (j * w) w))), s1)

/-- FACTORED (R250), group by group: the factors first, then the group's vectors. The 64 reserved words of a factor
record are not written. -/
def State.updGroups (s : State) (c : Fin 8) (k : UpdCtx) (a : UpdArrays) (grp : Nat) (n : UpdCount) :
    Nat → Option (BitVec 16) × UpdCount × State
  | 0 => (none, n, s)
  | left + 1 =>
    match s.groupGrads c k a grp with
    | (.error e, s1) => (some e, n, s1)
    | (.ok g, s1) =>
      match s1.engineRead c a.mom2.1 (a.mom2.2 + 1024 * grp) 768 with
      | (.error e, s2) => (some e, n, s2)
      | (.ok old, s2) =>
        let word (j : Nat) : Val := f32 (leAt old (4 * j) 4)
        let r := newFactors k g ((List.range 64).map word) ((List.range 128).map fun j => word (64 + j))
        let bytes := (r.1 ++ r.2.1).flatMap fun v => natLe 4 (toF32 v)
        match s2.engineWrite c a.newMom2.1 (a.newMom2.2 + 1024 * grp) bytes with
        | (some e, s3) => (some e, n, s3)
        | (none, s3) =>
          let bad := ((r.1 ++ r.2.1).map notFinite).foldl (· + ·) 0
          match s3.updVectors c k a (fun v j => factorV r.1 r.2.1 r.2.2 ((v - 16 * grp) * 512 + j)) (16 * grp)
              { n with bad := n.bad + bad } 16 with
          | (none, n1, s4) => s4.updGroups c k a (grp + 1) n1 left
          | r => r

/-! ### UPDATE (R168, R175, R181, R187) -/

/-- The counts of an UPDATE reach their counters; ceiling hits wait for the settle, or for the task's retirement
(R251). -/
def State.countUpdate (s : State) (c : Fin 8) (key : Nat) (n : UpdCount) : State :=
  let s1 := s.modUpd c fun u => { u with
    elements := satAdd 64 u.elements (512 * n.vecs), srAway := satAdd 64 u.srAway n.away
    nonfinite := satAdd 32 u.nonfinite n.bad }
  let s2 := if n.bad = 0 then s1 else s1.raise 0x0603 (unit := c.val)
  match s2.findTask c key with
  | none => s2
  | some t =>
    match (if t.epoch = 0 then none else (s2.core c).seq.place t.epoch) with
    | some i => s2.modSeq c fun q => q.modEpoch i fun e => { e with ceil := e.ceil + n.ceil }
    | none => s2.modTask c key fun t => { t with ceil := t.ceil + n.ceil }

/-- Every array of an UPDATE, when all of them lie within memory (R99, R245). -/
def State.updArrays (s : State) (c : Fin 8) (p : UpdProf) (f : Fmt) (w : BitVec 128) (src dst : List Nat) :
    Option UpdArrays :=
  let row := fld w 95 72
  let vecs := fld w 111 96 + 1
  let grad := fld w 41 32
  let mas := fld w 51 42
  let mom := fld w 61 52
  let wc := fld w 71 62
  let arr (slot buf ofs len : Nat) : Option (Bool × Nat) := s.bufExtent c slot buf ((row + ofs) * 512) len
  let opt (b : Bool) (x : Option (Bool × Nat)) : Option (Bool × Nat) := if b then x else some (false, 0)
  let m2 := if p.factored then vecs / 16 * 1024 else vecs * p.momLen
  let ns := (List.range (wcArrays f)).map fun i => arr wc (dst.getD 2 0) (p.wcOfs + i * p.wcStride) (vecs * wcLenN f)
  match arr grad (src.getD 0 0) 0 (vecs * p.gradLen), arr mas (src.getD 1 0) 0 (vecs * 2048),
      opt (!p.masterFp32) (arr mas (src.getD 1 0) p.extOfs (vecs * 1024)),
      opt p.moment1 (arr mom (src.getD 2 0) 0 (vecs * p.momLen)),
      opt (p.opt ≠ 0) (arr mom (src.getD 2 0) p.mom2Ofs m2) with
  | some g, some m, some e, some a, some b =>
    (match arr (mas + 1) (dst.getD 0 0) 0 (vecs * 2048),
        opt (!p.masterFp32) (arr (mas + 1) (dst.getD 0 0) p.extOfs (vecs * 1024)),
        opt p.moment1 (arr (mom + 1) (dst.getD 1 0) 0 (vecs * p.momLen)),
        opt (p.opt ≠ 0) (arr (mom + 1) (dst.getD 1 0) p.mom2Ofs m2),
        arr wc (dst.getD 2 0) 0 (vecs * wcLen0 f) with
      | some m', some e', some a', some b', some x =>
        if ns.all Option.isSome then some ⟨g, m, e, a, b, m', e', a', b', x, ns.filterMap id⟩ else none
      | _, _, _, _, _ => none)
  | _, _, _, _, _ => none

/-- The accesses of an UPDATE to its arrays in the scratchpad, on port 9 (R100, R246). -/
def UpdArrays.rows (a : UpdArrays) (p : UpdProf) (f : Fmt) (vecs : Nat) : List (Nat × Nat × Nat) :=
  let ext := if p.masterFp32 then 0 else vecs * 1024
  let m1 := if p.moment1 then vecs * p.momLen else 0
  let m2 := if p.opt = 0 then 0 else if p.factored then vecs / 16 * 1024 else vecs * p.momLen
  operandRows [(a.grad, vecs * p.gradLen, 9), (a.mas, vecs * 2048, 9), (a.ext, ext, 9), (a.mom1, m1, 9), (a.mom2, m2, 9)]
  ++ resultRows ([(a.newMas, vecs * 2048, 9), (a.newExt, ext, 9), (a.newMom1, m1, 9), (a.newMom2, m2, 9),
    (a.wc, vecs * wcLen0 f, 9)] ++ a.wcN.map fun x => (x, vecs * wcLenN f, 9))

/-- The engine's work on a command whose buffers are granted. -/
def State.runUpdate (s : State) (c : Fin 8) (t : Task) (w : BitVec 128) (src dst : List Nat) : State :=
  let finish (s : State) : State := s.modCore c fun k => { k with
    seq := { k.seq with updQ := k.seq.updQ.drop 1 }
    upd := { k.upd with profile := BitVec.ofNat 6 (fld w 117 112), specId := t.epoch } }
  let s0 := finish s
  let fail (code : BitVec 16) (detail : Nat) : State := s0.failCmd c t.key code detail
  match s.cfg.bind fun g => g.profiles[fld w 117 112]? with
  | none => fail 0x0302 (fld w 117 112)
  | some raw =>
    let p := profileOf raw
    match s.tensor p.wcTensor with
    | none => fail 0x0601 p.wcTensor
    | some tc =>
      let pol := policyOf tc.policy
      match pol.fmt with
      | none => fail 0x0601 p.wcTensor
      | some f =>
        if !wcFormatOk f then fail 0x0601 p.wcTensor
        else
          match s0.updArrays c p f w src dst with
          | none => fail 0x0204 (fld w 95 72)
          | some a =>
            let step := (s.core c).upd.step.toNat
            match (s0.carry (coreHalf c) (p.lrBase + 4 * min (step - 1) (p.lrLen - 1)) 4 true).stackRead
                (p.lrBase + 4 * min (step - 1) (p.lrLen - 1)) 4 with
            | (.error e, s1) => s1.engineFail c t.key e
            | (.ok lr, s1) =>
              let vecs := fld w 111 96 + 1
              match s1.takeAll c t.key 0 (a.rows p f vecs) with
              | (false, s2) => s2
              | (true, s1) =>
              let rec_ := s.scaleRec c p.wcTensor
              let k : UpdCtx := {
                prof := p, t := step, lr := f32 (leNat lr), clip := t.clip.toNat
                bc1 := biasCorrection p.beta1 step, bc2 := biasCorrection p.beta2 step
                idx := t.arg (fld w 119 118) * 8192
                wcFmt := f, wcOvf := pol.nonfinite, tscale := scaleT rec_, xceil := scaleXceil rec_ }
              let r := if p.factored then s1.updGroups c k a 0 {} (vecs / 16)
                else s1.updVectors c k a (fun _ _ => Val.zero) 0 {} vecs
              let s2 := r.2.2.countUpdate c t.key r.2.1
              match r.1 with
              | some e => s2.engineFail c t.key e
              | none =>
                let grad := fld w 41 32
                let mas := fld w 51 42
                let mom := fld w 61 52
                let s3 := if bit w 121 then s2.postTokens c t.key false t.epoch 2 ([grad, mas, mom].zip src).eraseDups else s2
                if bit w 123 then s3.postTokens c t.key true t.epoch 2 ([mas + 1, mom + 1, fld w 71 62].zip dst).eraseDups
                else s3

/-- The command at the head of the update queue takes its buffers, in the order named, and runs; one that must wait
stays at the head (R121, R168). In a uniform stall the queue holds (R112). -/
def State.headUpdate (s : State) (c : Fin 8) (task : Nat) : State :=
  match (s.core c).seq.updQ, s.findTask c task with
  | u :: _, some t =>
    let w := u.word
    let drop (s : State) : State := s.modSeq c fun q => { q with updQ := q.updQ.drop 1 }
    if u.task ≠ task || !s.coreRuns c || s.queuesHeld c || s.tokenHeld c 2 then s
    else
      let srcs := [fld w 41 32, fld w 51 42, fld w 61 52]
      let dsts := [fld w 51 42 + 1, fld w 61 52 + 1, fld w 71 62]
      match s.commandBufs c task true (bit w 120) srcs [] with
      | (.waits, _, s1) => s1
      | (.refused e, _, s1) => (drop s1).failCmd c task e (fld w 41 32)
      | (.granted _, src, s1) =>
        match s1.commandBufs c task false (bit w 122) dsts [] with
        | (.waits, _, s2) => s2
        | (.refused e, _, s2) => (drop s2).failCmd c task e (fld w 71 62)
        | (.granted _, dst, s2) =>
          ((s2.consumeHolds c task true srcs).consumeHolds c task false dsts).runUpdate c t w src dst
  | _, _ => s

/-- UPDATE: the command joins the update queue (R181), and the head of the queue runs when its buffers are granted. -/
def execUpdate (c : Fin 8) (task : Nat) (s : State) : Outcome State Fault Refusal :=
  match s.cmdReady c task 0x06 with
  | none => .next (s.headUpdate c task)
  | some (t, i, w) =>
    if 64 ≤ (s.core c).seq.updQ.length then
      (if s.taskDecoupled c t then .next (s.headUpdate c task) else .next (s.failCmd c task 0x0407 i))
    else
      .next (((s.modTask c task fun t => t.issued 2 i).modSeq c fun q => { q with
        updQ := q.updQ ++ [{ task := task, word := w }] }).headUpdate c task)

end Sys2Proof.Machine
end

