-- ==== Sys2Proof/Machine/ImageRules.lean ====
section
/-! DEFINITION. Content validation of a structure image: every rule that calls for rejection at image validation, with the
section and the offset of the entry it is checked on (R68, R93, R116, R117, R162 to R175, R181, R227, R240, R244, R245,
R266, R274, R295, R321 to R323, R351, R353, R356). -/

namespace Sys2Proof.Machine

open Host

/-- The entries of a subtable with their offsets. -/
def Framed.zip {β : Type} (f : Framed) (id : Nat) (l : List β) : List (Nat × β) := (f.offs id).zip l

/-- A core that must carry nothing: omitted, or not used (R356). -/
def ImgCfg.idle (g : ImgCfg) (c : Nat) : Bool := bit g.omit_ c || !(g.cores.getD c {}).used

def noTwice {β : Type} [DecidableEq β] (l : List β) (x : β) : Bool := (l.filter fun y => y = x).length = 1

/-! ### Sections 1 and 2 (R57, R351) -/

def gangOk (g : ImgCfg) (c : Nat) : Bool :=
  let k := g.cores.getD c {}
  let mates := (List.range 8).filter fun i => bit k.gang i
  if g.idle c then k.gang = 0 || k.gang = (1#8 <<< c)
  else
    bit k.gang c && bit k.gang k.lead && decide (k.lead < 8)
      && mates.all fun i => i / 4 = c / 4 && (g.cores.getD i {}).gang = k.gang
        && (g.cores.getD i {}).decoupled = k.decoupled && !g.idle i

def routeChecks (rd : Nat → BitVec 8) (f : Framed) (g : ImgCfg) : List (Nat × Nat × Bool) :=
  (f.zip 0x0101 (List.range 8)).map (fun x => (1, x.1, gangOk g x.2))
    ++ (f.offs 0x0201).map fun o => (2, o, decide (bitsOf (rdNum rd o 4) 1 0 ≠ 3))

/-! ### Section 3 (R116, R117, R227, R261, R266, R353) -/

/-- Address ranges as base and length. -/
def meets (a b : Nat × Nat) : Bool := decide (a.1 < b.1 + b.2 ∧ b.1 < a.1 + a.2)
/-- The part of the image store of each half (R353). -/
def storeRanges : List (Nat × Nat) := [(0xFFC0000000, 0x40000000), (0x1FFC0000000, 0x40000000)]
def inStoreRange (a : Nat × Nat) : Bool := storeRanges.any (meets a)
def oneHalf (a : Nat × Nat) : Bool := a.2 = 0 || decide (a.1 / 2 ^ 40 = (a.1 + a.2 - 1) / 2 ^ 40 ∧ a.1 + a.2 ≤ 2 ^ 41)

def ImgCfg.isMoraine (g : ImgCfg) (c slot : Nat) : Bool := g.moraine.any fun m => m.core = c && m.slot = slot
def slotRange (e : SlotEnt) : Nat × Nat := (e.base, e.depth * e.size)

def slotOk (g : ImgCfg) (x : SlotCfg) : Bool :=
  let e := slotEntOf x.entry
  let w := x.entry
  !slotUsed w ||
    (!g.idle x.core && fld w 15 12 = 0 && fld w 63 40 = 0 && fld w 127 105 = 0 && fld w 72 64 = 0
      && e.fills ≠ 0 && e.drains ≠ 0 && (!e.versioned || e.depth = 2)
      && (g.slots.filter fun y => y.core = x.core && y.slot = x.slot && slotUsed y.entry).length = 1
      && (if e.home then
            g.isMoraine x.core x.slot || (decide (e.base + e.depth * e.size ≤ 2 ^ 41) && !inStoreRange (slotRange e))
          else
            decide (e.base + e.depth * e.size ≤ 2 ^ 26)
              && (g.slots.filter fun y => y.core = x.core && slotUsed y.entry && !(slotEntOf y.entry).home
                    && y.slot ≠ x.slot).all fun y => !meets (slotRange e) (slotRange (slotEntOf y.entry))))

def mirRanges (m : MirCfg) : List (Nat × Nat) := [(m.primary, m.pages * 65536), (m.mirror, m.pages * 65536)]

def mirrorOk (g : ImgCfg) (i : Nat) (m : MirCfg) : Bool :=
  let mine := mirRanges m
  let others := ((g.mirrors.zip (List.range g.mirrors.length)).filter fun y => y.2 ≠ i).flatMap fun y => mirRanges y.1
  m.pages ≠ 0 && m.primary % 65536 = 0 && m.mirror % 65536 = 0 && m.primary / 2 ^ 40 ≠ m.mirror / 2 ^ 40
    && mine.all fun r => oneHalf r && !inStoreRange r && others.all fun o => !meets r o

def PoolCfg.spans (p : PoolCfg) : List (Nat × Nat) := [(p.base0, p.mib0 * 2 ^ 20), (p.base1, p.mib1 * 2 ^ 20)]

/-- A pool's ranges are whole MiB, each on one half and outside the image store, as is the record ring (R261, R262, R353). DEDUCED
(log entry 69):
that entries start on 1 MiB boundaries and spread over the stacks of their half (R262) asks it of the ranges. -/
def poolOk (p : PoolCfg) : Bool :=
  p.spans.all (fun r => r.2 = 0 || (r.1 % 2 ^ 20 = 0 && oneHalf r && !inStoreRange r)) && !inStoreRange (p.ringBase, 32 * 65536)

/-- A moraine slot is a used stack-homed slot of DEPTH 0 (R261). -/
def moraineOk (g : ImgCfg) (m : MorCfg) : Bool :=
  (match g.slotRaw m.core m.slot with
    | some w => (slotEntOf w).home && fld w 3 2 = 0
    | none => false)
    && !g.idle m.core && decide (1 ≤ m.entries ∧ m.entries ≤ 4096)

/-- The regions of a bucket's share: LOCAL, TREE and the anchor table. -/
def Bucket.regions (b : Bucket) : List (Nat × Nat) :=
  [(b.localBase, b.pages * 65536), (b.treeBase, b.pages * 65536), (b.anchorBase, 16 + 4 * b.blocks)]

/-- Every stack range the image names, the loan ranges apart. -/
def ImgCfg.ranges (g : ImgCfg) : List (Nat × Nat) :=
  ((g.slots.filter fun x => slotUsed x.entry && (slotEntOf x.entry).home && !g.isMoraine x.core x.slot).map fun x =>
      slotRange (slotEntOf x.entry))
    ++ g.mirrors.flatMap mirRanges ++ (g.pool.toList.flatMap fun p => p.spans ++ [(p.ringBase, 32 * 65536)])
    ++ ((g.buckets.map bucketOf).flatMap Bucket.regions) ++ [(g.censusBase, 6 * 2 ^ 20), (g.scaleBase, 65536)]

def loanRangeOf (l : LoanCfg) : Nat × Nat := (l.base, l.mib * 2 ^ 20)

def loanOk (g : ImgCfg) (i : Nat) (l : LoanCfg) : Bool :=
  let others := ((g.loans.zip (List.range g.loans.length)).filter fun y => y.2 ≠ i).map (·.1)
  l.base % 2 ^ 20 = 0 && oneHalf (loanRangeOf l) && !inStoreRange (loanRangeOf l)
    && (g.ranges.all fun r => !meets (loanRangeOf l) r)
    && others.all fun o => o.borrower ≠ l.borrower && !meets (loanRangeOf l) (loanRangeOf o)

def slotChecks (f : Framed) (g : ImgCfg) : List (Nat × Nat × Bool) :=
  (f.zip 0x0301 g.slots).map (fun x => (3, x.1, slotOk g x.2))
    ++ (f.zip 0x0302 (g.mirrors.zip (List.range g.mirrors.length))).map (fun x => (3, x.1, mirrorOk g x.2.2 x.2.1))
    ++ (f.zip 0x0303 g.pool.toList).map (fun x => (3, x.1, !g.eval && poolOk x.2))
    ++ (f.zip 0x0304 g.moraine).map (fun x => (3, x.1, moraineOk g x.2))
    ++ (f.zip 0x0305 (g.loans.zip (List.range g.loans.length))).map fun x => (3, x.1, loanOk g x.2.2 x.2.1)

/-! ### Section 4 (R68, R356) -/

def templateOk (g : ImgCfg) (t : Nat × Nat × BitVec 1024) : Bool :=
  let d := t.2.2
  decide (t.1 < 8) && !g.idle t.1 && (g.templates.filter fun y => y.1 = t.1 && y.2.1 = t.2.1).length = 1 && !dFormatBad d
    && (!dSrcSlotEn d || (g.slotRaw (dSrcCore d) (dSrcSlot d)).isSome)
    && (!dDstSlotEn d || dDstSpace d = 2 || dDstSpace d = 4 || (g.slotRaw (dDstCore d) (dDstSlot d)).isSome)

def descChecks (f : Framed) (g : ImgCfg) : List (Nat × Nat × Bool) :=
  (f.zip 0x0401 g.templates).map fun x => (4, x.1, templateOk g x.2)

/-! ### Section 5: programs (R162 to R175, R181, R183, R245, R356) -/

/-- Reserved bits of a command word, by opcode (R165, R169 to R175, R183); none for an unassigned opcode. -/
def cmdReserved (w : BitVec 128) : Option (List (Nat × Nat)) :=
  match cmdOp w with
  | 0x04 => some [(127, 127)]
  | 0x05 => some [(127, 113)]
  | 0x09 => some [(127, 126)]
  | 0x0D => some [(127, 112)]
  | 0x11 => some [(127, 56)]
  | 0x15 => some [(127, 120)]
  | 0x06 => some [(127, 124)]
  | 0x07 => some [(127, 43)]
  | 0x03 => some []
  | 0x0B => some []
  | 0x0F => some []
  | _ => none

/-- Slots a command reads and writes with the flags of R168: sources, destinations, ACQ, REL, CLAIM, FILL. -/
structure SlotUse where
  src : List Nat
  dst : List Nat
  acq : Bool
  rel : Bool
  claim : Bool
  fill : Bool
  deriving DecidableEq, Repr

def cmdVecTwo (w : BitVec 128) : Bool := let v := fld w 37 32; v = 0 || v = 1 || v = 2 || v = 6

def slotUse (w : BitVec 128) : SlotUse :=
  match cmdOp w with
  | 0x05 => ⟨[fld w 41 32], [], bit w 111, bit w 112, false, false⟩
  | 0x0D => ⟨[fld w 41 32], [], bit w 110, bit w 111, false, false⟩
  | 0x09 => ⟨[], [fld w 99 90], false, false, bit w 124, bit w 125⟩
  | 0x15 => ⟨if cmdVecTwo w then [fld w 47 38, fld w 57 48] else [fld w 47 38], [fld w 67 58], bit w 116, bit w 117, bit w 118, bit w 119⟩
  | 0x06 => ⟨[fld w 41 32, fld w 51 42, fld w 61 52], [fld w 51 42 + 1, fld w 61 52 + 1, fld w 71 62],
      bit w 120, bit w 121, bit w 122, bit w 123⟩
  | _ => ⟨[], [], false, false, false, false⟩

/-- What a walk through a program keeps: slots acquired and claimed, the last SCHED of each engine under the present base,
and the cycle from which the partition's issue slots are free. -/
structure ProgWalk where
  acq : List Nat := []
  clm : List Nat := []
  last : List Nat := [0, 0, 0, 0]
  issueEnd : Nat := 0
  deriving DecidableEq, Repr

def fieldsOk (g : ImgCfg) (core : Nat) (h w : BitVec 128) : Bool :=
  let home (slot : Nat) : Bool := match g.slotRaw core slot with
    | some e => (slotEntOf e).home
    | none => true
  match cmdOp w with
  | 0x04 => (g.templates.any fun t => t.1 = core && t.2.1 = fld w 43 32) && (!bit w 126 || hdrSpec h)
  | 0x05 => (opFmt (fld w 69 66) (fld w 71 70) (fld w 73 72) (bit w 74)).isSome && !home (fld w 41 32)
  | 0x0D => (opFmt (fld w 94 91) (fld w 96 95) (fld w 98 97) (bit w 99)).isSome && !home (fld w 41 32)
  | 0x09 =>
    !home (fld w 99 90) && ((g.cores.getD core {}).partMode ≠ .quarter || decide (fld w 42 33 ≤ 511))
      && (match g.tensors.find? fun t => t.id = fld w 89 78 with
          | some t => (match fmtOfCode (fld t.policy 3 0) with
              | some f => f.isDrainOutput
              | none => false)
          | none => false)
  | 0x11 => fld w 55 32 ≠ 0
  | 0x15 => decide (fld w 37 32 ≤ 6) && fld w 85 84 ≠ 3 && fld w 87 86 ≠ 3 && fld w 89 88 ≠ 3
  | 0x06 =>
    match g.profiles[fld w 117 112]? with
    | some p => fld p 3 0 ≠ 2 || (fld w 111 96 + 1) % 16 = 0
    | none => false
  | 0x07 => g.barriers.any fun b => b.1 = fld w 39 32
  | _ => true

/-- Issue slots a command takes in its partition (R31, R172, R173). -/
def issueSlots (w : BitVec 128) : Nat :=
  match cmdOp w with
  | 0x0D => (fld w 75 66 + 1) * (if fld w 94 91 = 0xA ∨ fld w 94 91 = 0xB then 2 else 1)
  | 0x11 => fld w 55 32
  | _ => 0

/-- One command of a program: whether it may stand there, and the walk after it. The rows that it fixes, those that no argument
moves and those that the smallest argument would leave, lie within the scratchpad (R99, R162). -/
def walkCmd (g : ImgCfg) (core : Nat) (h : BitVec 128) (sched : Bool) (k : ProgWalk) (w : BitVec 128) : Bool × ProgWalk :=
  let u := slotUse w
  let e := cmdEngine w
  let t := cmdSched w
  let issues := cmdOp w = 0x0D || cmdOp w = 0x05 || cmdOp w = 0x11
  let ok := (match cmdReserved w with
      | none => false
      | some l => l.all fun r => fld w r.1 r.2 = 0)
    && fld w 11 8 = 0 && (hdrParts h ≠ 0 || e ≠ 1)
    && (if sched then decide (k.last.getD e 0 ≤ t) && (!issues || decide (k.issueEnd ≤ t)) else t = 0)
    && fieldsOk g core h w && !g.rowBeyond core (g.cores.getD core {}).partMode (fun _ => 0) w
    && ((u.src ++ u.dst).all fun s => (g.slotRaw core s).isSome)
    && (u.acq || u.src.all fun s => k.acq.contains s) && (u.claim || u.dst.all fun s => k.clm.contains s)
  let acq := if u.acq then k.acq ++ u.src else k.acq
  let clm := if u.claim then k.clm ++ u.dst else k.clm
  let k1 : ProgWalk := {
    acq := if u.rel then acq.filter fun s => !u.src.contains s else acq
    clm := if u.fill then clm.filter fun s => !u.dst.contains s else clm
    last := k.last.set e t
    issueEnd := if sched && issues then t + issueSlots w else k.issueEnd }
  (ok, if cmdOp w = 0x07 || cmdOp w = 0x0B then { k1 with last := [0, 0, 0, 0], issueEnd := 0 } else k1)

def walkProgram (g : ImgCfg) (core : Nat) (h : BitVec 128) (sched : Bool) : ProgWalk → List (BitVec 128) → Bool
  | _, [] => true
  | k, w :: ws =>
    let r := walkCmd g core h sched k w
    r.1 && walkProgram g core h sched r.2 ws

def partsOk (m : PartMode) (mask : Nat) : Bool :=
  mask = 0 || (match m with
    | .full => mask = 1
    | .half => mask = 1 || mask = 2
    | .quarter => mask = 1 || mask = 2 || mask = 4 || mask = 8)

def programOk (g : ImgCfg) (p : ProgCfg) : Bool :=
  let h := g.word p.offset
  let cmds := g.cmds p.offset
  let k := g.cores.getD p.core {}
  decide (p.offset < g.words.length) && !g.idle p.core && p.tid ≠ 0 && hdrTid h = p.tid
    && noTwice (g.progs.map (·.tid)) p.tid
    && fld h 31 31 = 0 && fld h 63 53 = 0 && fld h 127 80 = 0 && partsOk k.partMode (hdrParts h)
    && decide (1 ≤ hdrCycles h ∧ hdrCycles h ≤ 400000) && hdrCount h ≠ 0 && cmds.length = hdrCount h
    && cmdOp (cmds.getLastD 0) = 0x0F && walkProgram g p.core h (!(hdrDecoupled h || k.decoupled)) {} cmds

def coreTaskOk (g : ImgCfg) (c : Nat) : Bool :=
  let k := g.cores.getD c {}
  decide (1 ≤ k.specTasks ∧ k.specTasks ≤ 4096) && decide (k.runFirst + k.runCount ≤ g.runList.length)
    && (!g.idle c || k.runCount = 0)

def runEntryOk (g : ImgCfg) (i : Nat) (w : BitVec 256) : Bool :=
  let tid := fld w 23 0
  (g.progs.any fun p => p.tid = tid)
    && (List.range 8).all fun c =>
      let k := g.cores.getD c {}
      !(decide (k.runFirst ≤ i ∧ i < k.runFirst + k.runCount)) || g.progs.any fun p => p.tid = tid && p.core = c

def replaceOk (g : ImgCfg) (x : Nat × Nat) : Bool :=
  match g.slotRaw x.1 x.2 with
  | some w => (slotEntOf w).home && !(slotEntOf w).versioned
  | none => false

def taskChecks (f : Framed) (g : ImgCfg) : List (Nat × Nat × Bool) :=
  (f.zip 0x0501 (List.range 8)).map (fun x => (5, x.1, coreTaskOk g x.2))
    ++ (f.zip 0x0502 g.progs).map (fun x => (5, x.1, programOk g x.2))
    ++ (f.zip 0x0504 (g.runList.zip (List.range g.runList.length))).map (fun x => (5, x.1, runEntryOk g x.2.2 x.2.1))
    ++ (f.zip 0x0506 g.replace_).map fun x => (5, x.1, replaceOk g x.2)

/-! ### Section 6 (R274, R295, R353, R356) -/

def bucketOk (g : ImgCfg) (e : BitVec 512) : Bool :=
  let b := bucketOf e
  let n := b.cores.length
  let share := b.elements / b.members
  let bases := [b.localBase, b.treeBase, b.anchorBase]
  fld e 127 112 = 0 && fld e 159 150 = 0 && bit e 191 = false && fld e 255 240 = 0 && fld e 319 297 = 0 && fld e 383 361 = 0
    && fld e 511 425 = 0
    && (b.cfmt = 0xA || b.cfmt = 0xB || b.cfmt = 0xC) && (b.rfmt = 0xA || b.rfmt = 0xC) && b.nfPolicy ≠ 3 && b.divide ≠ 3
    && b.id ≠ 0 && noTwice (g.buckets.map fun x => (bucketOf x).id) b.id
    && decide (1 ≤ b.members ∧ b.members ≤ 256 ∧ 1 ≤ b.channels ∧ b.channels ≤ 256 ∧ 1 ≤ b.deadlineOfs)
    && b.elements % (512 * b.members) = 0 && share % (8192 * n) = 0
    && (bases.all fun a => a % 65536 = 0 && a / 2 ^ 40 = b.localBase / 2 ^ 40) && (b.regions.all fun r => !inStoreRange r)
    && (g.tensors.any fun t => t.id = b.gradTensor) && (g.slotRaw b.srcCore b.srcSlot).isSome && !g.idle b.srcCore
    && b.cores.all fun c => !g.idle c.val && (g.slotRaw c.val b.resultSlot).isSome

def reduChecks (f : Framed) (g : ImgCfg) : List (Nat × Nat × Bool) :=
  (f.zip 0x0601 g.buckets).map fun x => (6, x.1, bucketOk g x.2)

/-! ### Section 7 (R321 to R323, R356) -/

def topoOk (rd : Nat → BitVec 8) (o : Nat) (g : ImgCfg) : Bool :=
  let t := g.topo
  decide (1 ≤ t.stages ∧ 1 ≤ t.channels ∧ 1 ≤ t.members ∧ t.stages ≤ 256 ∧ t.channels ≤ 256 ∧ t.members ≤ 256
      ∧ t.stages * t.channels * t.members ≤ 8192)
    && decide (rdNum rd (o + 12) 1 ≤ 1) && allZero rd (o + 13) 3 && allZero rd (o + 32) 32

def torusSizes (t : TopoCfg) : List Nat := [t.n0, t.n1, t.n2]

/-- A torus dimension of three or more has a port of each sign on the module. -/
def torusOk (g : ImgCfg) (m : Nat) : Bool :=
  let mine := (g.ports.filter fun x => x.module = m && prfRole x.entry = 1).map (·.entry)
  (List.range 3).all fun d =>
    decide ((torusSizes g.topo).getD d 0 < 3)
      || ((mine.any fun e => prfDim e = d && prfSign e = 0) && mine.any fun e => prfDim e = d && prfSign e = 1)

def portOk (rd : Nat → BitVec 8) (o : Nat) (g : ImgCfg) (x : PortCfg) : Bool :=
  let e := x.entry
  decide (x.port < 18) && allZero rd (o + 3) 5 && fld e 127 35 = 0 && decide (prfRole e ≤ 4) && prfTree e ≠ 3
    && (prfRole e = 0
        || ((prfRole e ≠ 1 || prfDim e ≠ 3) && fld e 30 27 ≠ 0 && fld e 34 31 ≠ 0
            && (match g.portAt (prfPeer e) (prfPeerPort e) with
                | some q => prfPeer q = x.module && prfPeerPort q = x.port
                | none => !g.portModules.contains (prfPeer e))))

/-- The tree edges make one spanning tree: no cycle, and one component. The section of an image with more stages gives one stage's ports
only: there, each component must have a tree edge that leaves the stage, without which it could be no part of one tree. -/
def treeOk (g : ImgCfg) : Bool :=
  match joinEdges g.treeEdges (labels g.treeNodes) with
  | none => false
  | some l =>
    if 1 < g.topo.stages then g.portModules.all (g.leavesStage l)
    else decide ((l.map (·.2)).eraseDups.length ≤ 1)

/-- An alternate tree edge leads outside the module's own subtree: with the module taken out of the tree, its far end is
still joined to the master, or to another stage, where the section gives one stage of several. A far end that the section's own
tree joins to the master only through the module lies in its subtree, whatever else its side reaches. -/
def alternateOk (g : ImgCfg) (x : PortCfg) : Bool :=
  let far := prfPeer x.entry
  if prfTree x.entry ≠ 2 || g.topo.master = 0xFFFF then true
  else
    match g.treeWithout x.module, joinEdges g.treeEdges (labels g.treeNodes) with
    | some l, some all => x.module ≠ g.topo.master
        && (connected l far g.topo.master || !g.portModules.contains far
          || (!connected all far g.topo.master && g.leavesStage l far))
    | _, _ => true

def routeEntryOk (rd : Nat → BitVec 8) (o : Nat) : Bool :=
  allZero rd (o + 2) 2 && decide (rdNum rd (o + 8) 4 < 2 ^ 18 ∧ rdNum rd (o + 12) 4 < 2 ^ 18)

/-- A ring's entry on one member (R337, R356): its slot exists, has DEPTH 1 or more and a consumer for the relay, HOPS is MEMBERS - 1,
and every member of the ring names the same core and slot. -/
def ringOk (rd : Nat → BitVec 8) (o : Nat) (g : ImgCfg) (r : RingCfg) : Bool :=
  allZero rd (o + 7) 1 && allZero rd (o + 12) 4 && decide (r.core < 8) && !g.idle r.core
    && (match g.slotRaw r.core r.slot with
      | some w => fld w 3 2 ≠ 0 && fld w 11 8 ≠ 0
      | none => false)
    && r.hops = g.topo.members - 1
    && (g.rings.filter fun x => x.ring = r.ring).all fun x => x.core = r.core && x.slot = r.slot

def linkChecks (rd : Nat → BitVec 8) (f : Framed) (g : ImgCfg) : List (Nat × Nat × Bool) :=
  (f.offs 0x0701).map (fun o => (7, o, topoOk rd o g && treeOk g && g.portModules.all (torusOk g)))
    ++ (f.zip 0x0703 g.ports).map (fun x => (7, x.1, portOk rd x.1 g x.2 && alternateOk g x.2))
    ++ (f.offs 0x0704).map (fun o => (7, o, routeEntryOk rd o))
    ++ (f.zip 0x0705 g.rings).map fun x => (7, x.1, ringOk rd x.1 g x.2)

/-! ### Section 8 (R93, R240, R243, R244, R254, R356) -/

/-- A region lies in the primary range of a MIRROR pair. -/
def mirrored (g : ImgCfg) (r : Nat × Nat) : Bool :=
  g.mirrors.any fun m => decide (m.primary ≤ r.1 ∧ r.1 + r.2 ≤ m.primary + m.pages * 65536)

/-- The element width of a policy word's format. -/
def policyWidth (p : BitVec 16) : Option Nat := (policyOf p).fmt.map Fmt.bits

/-- A gradient tensor has the element width of its activation (R257). No field of an image names the activation a tensor is the
gradient of: `Config.activationOf` stands for that pairing, free (log entry 67). -/
def gradientOk (g : ImgCfg) (t : TensorCfg) : Bool :=
  match Config.activationOf g.imageId t.id with
  | none => true
  | some a =>
    match g.tensors.find? fun x => x.id = a with
    | some x => policyWidth x.policy = policyWidth t.policy
    | none => true

def tensorOk (rd : Nat → BitVec 8) (o : Nat) (t : TensorCfg) : Bool :=
  policyOk t.policy && fld t.lead 31 28 = 0 && decide (rdNum rd o 2 < 4096 ∧ rdNum rd (o + 14) 2 = 0) && t.baseIdx % 8192 = 0
    && (!bit t.lead 0 || (match fmtOfCode (fld t.policy 3 0) with
        | some f => f.isDrainOutput
        | none => false))

/-- A value lies in [lo, 1), lo being 0 or one half. -/
def Val.inUnit (v : Val) (half : Bool) : Bool :=
  v.isFinite && v.lt (f32 0x3F800000) && !(v.lt (if half then f32 0x3F000000 else f32 0))

/-- A profile (R244): its fields, a working-copy tensor of the image in a format the update engine writes (R68, R162, R251), and a
learning-rate table outside the image store (R353). -/
def profileOk (g : ImgCfg) (w : BitVec 512) : Bool :=
  let p := profileOf w
  fld w 31 21 = 0 && fld w 191 160 = 0 && fld w 511 480 = 0 && fld w 319 297 = 0 && decide (p.opt ≤ 2)
    && ((p.opt = 0 && p.beta1.inUnit false) || ((p.opt = 1 || (p.opt = 2 && p.firstMom)) && p.beta1.inUnit true)
        || (p.opt = 2 && !p.firstMom))
    && p.beta2.inUnit true && p.eps.isFinite && (f32 0).lt p.eps
    && decide (1 ≤ p.lrLen ∧ p.lrLen ≤ 16777216) && p.lrBase % 4 = 0 && !inStoreRange (p.lrBase, 4 * p.lrLen)
    && (g.tensors.any fun t => t.id = p.wcTensor && (match (policyOf t.policy).fmt with
      | some f => wcFormatOk f
      | none => false))

def numpChecks (rd : Nat → BitVec 8) (f : Framed) (g : ImgCfg) : List (Nat × Nat × Bool) :=
  (f.offs 0x0801).map (fun o => (8, o, mirrored g (g.censusBase, 6 * 2 ^ 20) && mirrored g (g.scaleBase, 65536)))
    ++ (f.zip 0x0802 g.tensors).map (fun x => (8, x.1, tensorOk rd x.1 x.2 && gradientOk g x.2
        && noTwice (g.tensors.map (·.id)) x.2.id))
    ++ (f.zip 0x0803 g.profiles).map fun x => (8, x.1, profileOk g x.2)

/-! ### Section 9 (R351, R373) -/

def powrChecks (rd : Nat → BitVec 8) (f : Framed) (g : ImgCfg) : List (Nat × Nat × Bool) :=
  (f.offs 0x0901).map (fun o => (9, o, g.phases.all (fun n => decide (n ≤ 7)) && allZero rd (o + 6) 2))
    ++ (f.zip 0x0902 g.taskPhase).map fun x => (9, x.1, decide (x.2.2.2 ≤ 5)
        && g.progs.all fun p => (g.taskPhase.filter fun t => decide (t.1 ≤ p.tid ∧ p.tid ≤ t.2.1)).length = 1)

/-- Content validation (R356): every check, section by section. -/
def contentChecks (rd : Nat → BitVec 8) (f : Framed) (g : ImgCfg) : List (Nat × Nat × Bool) :=
  routeChecks rd f g ++ slotChecks f g ++ descChecks f g ++ taskChecks f g ++ reduChecks f g ++ linkChecks rd f g
    ++ numpChecks rd f g ++ powrChecks rd f g

/-! ### The five checks in order (R355) -/

/-- What the checks need beside the bytes: the bound of a local load, whether the module is an FX8, the other places' IDs, the key slots and floors, and
the running firmware. -/
structure VerifyCtx where
  maxLen : Option Nat
  fx8 : Bool
  taken : List (BitVec 64)
  keys : Nat → Option (List (BitVec 8))
  floor : Nat → BitVec 32
  firmware : BitVec 32

/-- Both signatures (R352): the trailer's magic and reserved bytes, the key slot, and the two algorithms. -/
def signatureOk (rd : Nat → BitVec 8) (x : VerifyCtx) : Bool :=
  let o := rdNum rd 0x1C 4 - hTrailer
  let key := rdNum rd (o + 4) 1
  rdNum rd o 4 = 0x53474953 && decide (key ≤ 3) && allZero rd (o + 5) 11 && allZero rd (o + 0xD5D) 35
    && (match x.keys key with
        | some k => Config.imageSigned k ((List.range o).map rd) ((List.range 3405).map fun i => rd (o + 0x10 + i))
        | none => false)

/-- An image is verified (R355): the first check that fails decides. -/
def verifyImage (rd : Nat → BitVec 8) (x : VerifyCtx) : Except Reject ImgCfg :=
  let trailer := rdNum rd 0x1C 4 - hTrailer
  match firstBad (headerChecks rd x.maxLen x.taken x.fx8) 0x0901 with
  | some r => .error r
  | none =>
    if !signatureOk rd x then .error ⟨0x0903, 0, trailer⟩
    else if BitVec.ofNat 32 (rdNum rd 0x20 4) < x.floor (rdNum rd (trailer + 4) 1) then .error ⟨0x0904, 0, 0x20⟩
    else if x.firmware < BitVec.ofNat 32 (rdNum rd 0x24 4) then .error ⟨0x0904, 0, 0x24⟩
    else
      match readSections rd trailer 9 1 0x80 ⟨[], []⟩ with
      | .error r => .error r
      | .ok f =>
        let g := imgOf rd f
        match firstBad (contentChecks rd f g) 0x0906 with
        | some r => .error r
        | none => .ok g

end Sys2Proof.Machine
end

