-- ==== Sys2Proof/Machine/Images.lean ====
section
/-! DEFINITION. The image store: loading, verification and staging of structure images (R353 to R359). -/

namespace Sys2Proof.Machine

open Host

/-! ### Bytes of the store (R353, R406) -/

def placeBytes : Nat := 67108864

/-- The west address of a byte of a place. -/
def State.storeAddr (s : State) (p off : Nat) : Nat :=
  0xFFC0000000 + s.storePage (1024 * p + off / 65536) * 65536 + off % 65536

/-- A byte of a place, from the copy that serves it (R358). -/
def State.storeByte (s : State) (p off : Nat) : BitVec 8 := s.memByte (s.servedAt (s.storeAddr p off))

/-- The first bytes of a place checked page by page, as its reads are (R209, R227): the code of a refusal. -/
def State.checkPlace (s : State) (p n : Nat) : Option (BitVec 16) × State :=
  s.checkExtents ((List.range ((n + 65535) / 65536)).map fun i => (s.storeAddr p (65536 * i), min 65536 (n - 65536 * i)))

/-- The bytes of a place's image, by its TOTAL_LEN, or the code of a refusal. -/
def State.checkImage (s : State) (p : Nat) : Option (BitVec 16) × State :=
  match s.checkPlace p 128 with
  | (some c, s1) => (some c, s1)
  | (none, s1) => s1.checkPlace p (min (rdNum (s1.storeByte p) 0x1C 4) placeBytes)

/-- The loader writes a place page by page, at both copies (R227, R353). -/
def State.storeWrite (s : State) (p : Nat) : Nat → Nat → List (BitVec 8) → State
  | 0, _, _ => s
  | n + 1, off, bs =>
    if bs = [] then s
    else ((s.writeLoop 2049 (s.storeAddr p off) (bs.take 65536)).2).storeWrite p n (off + 65536) (bs.drop 65536)

/-! ### Loading (R354, R406) -/

def imgOff (r : Nat) : BitVec 27 := BitVec.ofNat 27 (0x06000000 + r)

/-- A load, or a staging, its conditions forbid (R354, R358, R406). -/
def State.refuseImage (s : State) (p : Nat) : State := s.raise 0x0907 (detail := BitVec.ofNat 32 p)

/-- The states in which a place takes no load, and places beyond those rebuilt (R354, R406). -/
def State.loadable (s : State) (p : Nat) : Bool :=
  let x := s.imgPlace p
  decide (p < s.img.nplaces) && x.st ≠ .loading && x.st ≠ .verifying && x.st ≠ .staged && x.st ≠ .active

/-- A place is REJECTED under a code that has been raised where it was given (R354, R355, R461). -/
def State.markRejected (s : State) (p : Nat) (code : BitVec 16) (sect offset : Nat) : State :=
  (s.modImgPlace p fun x => { x with
    st := .rejected, code := code, sect := BitVec.ofNat 4 sect, offset := BitVec.ofNat 28 offset, cfg := none }).msix 2

/-- A place is REJECTED, and its code is raised (R355). -/
def State.rejectPlace (s : State) (p : Nat) (code : BitVec 16) (sect offset : Nat) : State :=
  (s.raise code (detail := BitVec.ofNat 32 p)).markRejected p code sect offset

/-- The bytes have come: the place awaits its verification (R355). -/
def State.placeLoaded (s : State) (p : Nat) (bs : List (BitVec 8)) (peer : Bool) : State :=
  ((s.storeWrite p 1024 0 bs).modImgPlace p fun _ => {
    st := .verifying, fromPeer := peer, loadLen := if peer then placeBytes else bs.length }).msix 2

/-- IMG_LOAD_LOCAL: the loader copies the source into the place (R354). A source the stack refuses leaves the place
REJECTED with the refusal's code. -/
def execImgLoadLocal (place : Fin 16) (s : State) : Outcome State Fault Refusal :=
  .next (s.bar0Write (imgOff 0x2C) .oz false fun s =>
    if !s.loadable place.val then s.refuseImage place.val
    else
      match s.stackRead s.img.loadSrc.toNat (min s.img.loadLen.toNat placeBytes) with
      | (.ok bs, s1) => s1.placeLoaded place.val bs false
      | (.error c, s1) => s1.markRejected place.val c 0 0)

/-- The model's own message kind by which loaders talk; the manual gives the peer load no kind. -/
def loaderKind : Nat := 0x17

/-- IMG_LOAD_PEER: the place is loaded with what the peer answers: its bytes, or a refusal (R354). -/
def execImgLoadPeer (place : Fin 16) (peer : BitVec 13) (peerPlace : Fin 16) (answer : Option (List (BitVec 8)))
    (s : State) : Outcome State Fault Refusal :=
  .next (s.bar0Write (imgOff 0x2C) .oz false fun s =>
    if !s.loadable place.val then s.refuseImage place.val
    else
      let s1 := s.sendMsg peer.toNat loaderKind vcBulk (BitVec.ofNat 144 peerPlace.val) []
      match answer with
      | some bs => s1.placeLoaded place.val (bs.take placeBytes) true
      | none => s1.rejectPlace place.val 0x0901 0 0)

/-- PEER_LOAD_REQUEST: the loader sends the image of a VERIFIED place, or a refusal (R354); a refusal too for one it cannot read. -/
def execPeerLoadRequest (src : BitVec 13) (place : Fin 16) (s : State) : Outcome State Fault Refusal :=
  if !s.oz.up then .next s
  else if (s.imgPlace place.val).st ≠ .verified then
    .next (s.sendMsg src.toNat loaderKind vcBulk (BitVec.ofNat 144 (place.val + 2 ^ 5)) [])
  else
    match s.checkImage place.val with
    | (some _, s1) => .next (s1.sendMsg src.toNat loaderKind vcBulk (BitVec.ofNat 144 (place.val + 2 ^ 5)) [])
    | (none, s1) =>
      let n := rdNum (s1.storeByte place.val) 0x1C 4
      .next ((cutMessages 0 ((List.range n).map (s1.storeByte place.val))).foldl (fun (s : State) m =>
        s.sendMsg src.toNat loaderKind vcBulk (BitVec.ofNat 144 (place.val + 2 ^ 4 + m.1 * 2 ^ 8)) m.2) s1)

/-! ### Verification (R355 to R357) -/

/-- Images of the other places of the store whose IDs a new one must not repeat (R349). -/
def State.takenIds (s : State) (p : Nat) : List (BitVec 64) :=
  (List.range 16).filterMap fun q =>
    let x := s.imgPlace q
    if q ≠ p && (x.st = .verified || x.st = .staged || x.st = .active) then some x.imageId else none

/-- The first of LINK and NUMP whose body differs between two images of one family, with the section's offset (R357). -/
def familyDiffers (a b : ImgCfg) : Option (Nat × Nat) :=
  ([7, 8].find? fun t => a.secCrcs[t - 1]? ≠ b.secCrcs[t - 1]?).map fun t =>
    (t, (b.secCrcs.take (t - 1)).foldl (fun o x => o + 16 + alignUp x.1 64) 0x80)

/-- IMAGE_VERIFY: the checks in their order; the first that fails decides the code (R355). An image whose bytes the store cannot give is
rejected with the code of that refusal (DESIGN CHOICE, log entry 73). -/
def execImageVerify (place : Fin 16) (s : State) : Outcome State Fault Refusal :=
  let p := place.val
  let x := s.imgPlace p
  if !s.oz.up || x.st ≠ .verifying then .next s
  else
    let c := s.checkImage p
    let rd := c.2.storeByte p
    let ctx : VerifyCtx := {
      maxLen := if x.fromPeer then none else some x.loadLen, fx8 := !s.fuses.isFx7, taken := s.takenIds p
      keys := fun k => tabGet none s.flash.imageKeys k, floor := fun k => tabGet 0 s.flash.imageFloors k
      firmware := s.oz.fwVersion }
    let s1 := c.2.modImgPlace p fun y => { y with
      imageId := BitVec.ofNat 64 (rdNum rd 8 8), eval := rdNum rd 0x18 1 = 1, omit_ := rd 0x19 }
    match c.1, verifyImage rd ctx with
    | some e, _ => .next (s1.markRejected p e 0 0)
    | none, .error r => .next (s1.rejectPlace p r.code r.sect r.offset)
    | none, .ok g =>
      let differs := match s.img.active with
        | some (_, a) => if a.familyId = g.familyId then familyDiffers a g else none
        | none => none
      match differs with
      | some (t, o) => .next (s1.rejectPlace p 0x0906 t o)
      | none => .next ((s1.modImgPlace p fun y => { y with st := .verified, code := 0, sect := 0, offset := 0, cfg := some g }).msix 2)

/-! ### Staging (R268, R358) -/

/-- The command words of every program of an image. -/
def ImgCfg.allCmds (g : ImgCfg) : List (Nat × BitVec 128) :=
  g.progs.flatMap fun p => (g.cmds p.offset).map fun w => (p.core, w)

/-- What an evaluation image may not hold, beside the training image it is checked against (R268); a remote space whose module is
this one, `me`, is local (R138). -/
def evalFits (me : Nat) (train : Option ImgCfg) (e : ImgCfg) : Bool :=
  let same (c slot : Nat) : Bool := match train with
    | some g => (g.slotRaw c slot).isSome && g.slotRaw c slot = e.slotRaw c slot
    | none => false
  (e.allCmds.all fun x => cmdOp x.2 ≠ 0x06 && (slotUse x.2).dst.all fun sl => !same x.1 sl)
    && (e.progs.all fun p => !hdrSpec (e.word p.offset))
    && e.moraine = [] && (e.tensors.all fun t => !leadOn t.lead)
    && (match train with
        | some g => !meets (e.censusBase, 6 * 2 ^ 20) (g.censusBase, 6 * 2 ^ 20)
        | none => true)
    && (e.buckets.all fun b => (bucketOf b).cores.all fun c => !same c.val (bucketOf b).resultSlot)
    && (e.rings.all fun r => !same r.core r.slot)
    && e.templates.all fun t =>
        let remote := (dDstSpace t.2.2 = 2 || dDstSpace t.2.2 = 4) && dModule t.2.2 ≠ me
        !(dDstSlotEn t.2.2 && !remote && same (dDstCore t.2.2) (dDstSlot t.2.2))

/-- The image leaves out every core that is fenced now. -/
def State.omitsFenced (s : State) (g : ImgCfg) : Bool := s.glb.fencedCores &&& ~~~g.omit_ = 0

/-- A staging of the place is allowed (R358). -/
def State.stageable (s : State) (p : Nat) : Bool :=
  let x := s.imgPlace p
  x.st = .verified && (match x.cfg with
    | some g => s.omitsFenced g && (g.ports.any fun e => e.module = s.selfId)
        && (!g.eval || evalFits s.selfId s.img.lastTrainCfg g)
    | none => false)

/-- IMG_STAGE: the stagers start on a VERIFIED place; the image the shadow set held goes back to VERIFIED (R358). An armed
swap counts as a swap in progress. -/
def execImgStage (place : Fin 16) (s : State) : Outcome State Fault Refusal :=
  .next (s.bar0Write (imgOff 0x30) .oz false fun s =>
    if s.img.staging.isSome || s.img.swap.phase ≠ .idle || !s.stageable place.val then s.refuseImage place.val
    else (s.dropShadow).modImg fun i => { i with staging := some (place.val, s.tick) })

/-- IMG_MODULE_ID is written only while every place is EMPTY (R359). -/
def execImgModuleId (id : BitVec 13) (s : State) : Outcome State Fault Refusal :=
  .next (s.bar0Write (imgOff 0x18) .oz false fun s =>
    if (List.range 16).all fun p => (s.imgPlace p).st = .empty then s.modImg fun i => { i with moduleId := id } else s)

end Sys2Proof.Machine
end

