-- ==== Sys2Proof/Machine/Security.lean ====
section
/-! DEFINITION. The security boundary: zeroisation and tamper, the Oztas mailbox and its commands, the SPDM responder and
the binding of the host port (R438 to R452). -/

namespace Sys2Proof.Machine

open Host Sys2Proof.Config

/-- The sideband pair answers: the island runs and no test instruction has its pins (R454, R492). -/
def State.sideband (s : State) : Bool := s.oz.up && s.tap.drive = .functional

/-- The responder hears a transport: DOE once configuration space answers, MCTP while the sideband answers (R398, R454). -/
def State.spdmHears (s : State) (doe : Bool) : Bool :=
  if doe then s.oz.up && s.host.configUp && s.host.linkUp else s.sideband

/-! ### Sessions and the binding of the port (R443, R450, R452) -/

/-- The link IDE stream stops and its keys are gone: the port is no longer bound (R443, R452). `how` is what
HST_LINK_STATUS.IDE reads: 0 off, 3 stopped by failure. -/
def State.stopIde (s : State) (how : BitVec 2) : State :=
  (s.modHost fun h => { h with ide := how, bound := false, ideSession := none }).modOz fun o =>
    { o with ideTx := false, ideRx := false, ideKeyTx := false, ideKeyRx := false }

/-- An SPDM session ends (R450): its keys are destroyed, and so are the IDE keys it brought; vector 45 fires (R435). -/
def State.endSession (s : State) (id : Nat) : State :=
  if s.oz.sessions.any fun x => x.id = id then
    let s1 := (s.modOz fun o => { o with sessions := o.sessions.filter fun x => x.id ≠ id }).msix 45
    if s1.host.ideSession = some id then s1.stopIde 0 else s1
  else s

/-- Every session that meets a test ends. -/
def State.endSessions (s : State) (p : Session → Bool) : State :=
  ((s.oz.sessions.filter p).map (·.id)).foldl (fun s id => s.endSession id) s

/-- An open session, by its identifier. -/
def State.session (s : State) (id : Nat) : Option Session := s.oz.sessions.find? fun x => x.id = id

/-- OZ_STATUS.APPROVED (R438). -/
def State.approved (s : State) : Bool :=
  s.flash.requireBind && s.flash.ownerCred.isSome && firmwareApproved s.oz.fwVersion

/-! ### Zeroisation and tamper (R445, R446) -/

/-- Places that are neither ACTIVE nor STAGED become EMPTY (R445); one that leaves LOADING or VERIFYING fires vector 2 (R435). -/
def State.emptyPlaces (s : State) : State :=
  (List.range 16).foldl (fun s p =>
    let x := (tabGet ({} : Place) s.img.places p).st
    if x = PlaceSt.active ∨ x = PlaceSt.staged then s
    else
      let s1 := s.modImg fun i => { i with places := tabSet {} i.places p {} }
      if x = PlaceSt.loading ∨ x = PlaceSt.verifying then s1.msix 2 else s1) s

/-- Zeroisation begins (R445): volatile secrets go, every SPDM session ends, the IDE stream stops, the port is no longer
bound, and every Prifa port is fenced with its keys. The flash-held secrets go by ERASURE_VERIFIED. -/
def State.zeroise (s : State) (tamper : Bool) : State :=
  let s1 := (s.endSessions fun _ => true).stopIde 0
  let s2 := s1.modOz fun o => { o with
    nonce := none, drbg := 0, zeroiseTick := some (o.zeroiseTick.getD s.tick), zeroiseTamper := o.zeroiseTamper || tamper }
  (forAllOf allPorts (fun p s => if s.portFenced p then s else (s.noteFence 2 p.val 0x0B04).markPort p) s2).emptyPlaces

/-- The response of a mailbox command (R442): in OZ_MBX_RESP with vector 1 for the host, over its own path otherwise. -/
def State.respond (s : State) (path : MbxPath) (status : BitVec 3) (data : List (BitVec 8)) : State :=
  let d := data.take 4096
  let s1 := s.modOz fun o => { o with mbxBusy := none }
  match path with
  | .host => (s1.modOz fun o => { o with
      mbxState := 2, mbxResp := status, mbxLen := d.length
      resp := (List.range 4096).foldl (fun t i => tabSet 0 t i (d.getD i 0)) o.resp }).msix 1
  | .mctp => s1.emit (.response 2 status.toNat d)
  | .session id => s1.emit (.response 3 (status.toNat + 8 * id) d)

/-- The flash-held secrets that zeroisation destroys are erased; after tamper the owner credential too (R443, R445). -/
def State.eraseSecrets (s : State) (tamper : Bool) : State :=
  s.modFlash fun f => { f with
    userKeys := [], imageKeys := [], cascadeKey := none, ownerCred := if tamper then none else f.ownerCred }

def tamperCode : TamperCause → Nat
  | .lidMesh => 1
  | .islandSupply => 2
  | .islandTemperature => 3

/-- SEC_TAMPER fences the module, from then on in management only (R446); one that is fenced already reports it. -/
def State.fenceTamper (s : State) : State :=
  if s.glb.moduleFenced then (s.raise 0x0B03).modGlb fun g => { g with mode := .managementOnly } else s.fenceModule 0x0B03

/-- Steps 1, 3 and 4 of the tamper response (R446): zeroise, fence the module, record the cause and the tick. -/
def State.tamper (s : State) (cause tick : Nat) : State :=
  ((s.modFlash fun f => { f with
    tamperCause := BitVec.ofNat 3 cause, tamperTick := BitVec.ofNat 56 tick }).zeroise true).fenceTamper

/-- TAMPER_DETECT: the identity-kill fuse is blown, and the device secret and the keys derived from it are gone (R443); the rest follows at once, or, in M4, at the island's next start (R446). -/
def execTamperDetect (cause : TamperCause) (s : State) : Outcome State Fault Refusal :=
  if !s.pwr.on_ then .next s
  else
    let s1 := (s.modFuses fun f => { f with identityKilled := true, deviceSecret := 0 }).modOz fun o => { o with
      identityKey := none, wrappingKey := none }
    if s.pwr.off then
      .next (s1.modPwr fun p => { p with standbyTamper := tamperCode cause, standbyTick := s.tick })
    else .next (s1.tamper (tamperCode cause) s.tick)

/-! ### The mailbox (R440 to R442) -/

def mbxOk : BitVec 3 := 0
def mbxBadRole : BitVec 3 := 1
def mbxBadSignature : BitVec 3 := 2
def mbxBadNonce : BitVec 3 := 3
def mbxBadCommand : BitVec 3 := 4
def mbxRefused : BitVec 3 := 5
def mbxBusyStatus : BitVec 3 := 6

/-- The bytes of a request: OZ_MBX_REQ for the host, its own otherwise. -/
def State.mbxBytes (s : State) (q : MbxReq) : List (BitVec 8) :=
  match q.path with
  | .host => (List.range 4096).map fun i => tabGet 0 s.oz.req i
  | .mctp => q.bytes
  | .session _ => q.bytes

/-- Fields of the request layout of R442. -/
def mbxBodyLen (b : List (BitVec 8)) : Nat := leAt b 2 2
def mbxRole (b : List (BitVec 8)) : Nat := leAt b 4 1
def mbxKey (b : List (BitVec 8)) : Nat := leAt b 5 1
def mbxNonce (b : List (BitVec 8)) : BitVec 256 := BitVec.ofNat 256 (leAt b 8 32)
def mbxBody (b : List (BitVec 8)) : List (BitVec 8) := (b.drop 40).take (mbxBodyLen b)
def mbxSigned (b : List (BitVec 8)) : List (BitVec 8) := b.take (40 + mbxBodyLen b)
def mbxSignature (b : List (BitVec 8)) : List (BitVec 8) := (b.drop (40 + mbxBodyLen b)).take 96

/-- The session in which a request comes holds the role it claims (R440). -/
def State.sessionHolds (s : State) (path : MbxPath) (role : Nat) : Bool :=
  match path with
  | .session id => (match s.session id with
    | some x => x.open_ && decide (x.role = role)
    | none => false)
  | .host => false
  | .mctp => false

/-- The signature of a request verifies under the key its role names (R440, R442). -/
def State.mbxVerifies (s : State) (b : List (BitVec 8)) : Bool :=
  if mbxRole b = 2 then
    match s.flash.ownerCred with
    | some c => officerSigned c s.fuses.serial (mbxSigned b) (mbxSignature b)
    | none => false
  else
    match tabGet none s.flash.userKeys (mbxKey b) with
    | some k => decide (mbxKey b < 8) && userSigned k s.fuses.serial (mbxSigned b) (mbxSignature b)
    | none => false

/-- The nonce of a request is the one in force, within 60 s of its issue (R442). -/
def State.nonceGood (s : State) (b : List (BitVec 8)) : Bool :=
  match s.oz.nonce with
  | some (n, t) => n = mbxNonce b && decide (s.tick < t + 60000000000)
  | none => false

/-- The checks of a request under the role its service needs: 0 none, 1 User or Crypto Officer, 2 Crypto Officer (R441,
R442). A nonce that serves is used up. The answer is the status that stops the command, if any. -/
def State.mbxAdmit (s : State) (q : MbxReq) (need : Nat) : BitVec 3 × State :=
  let b := s.mbxBytes q
  let role := mbxRole b
  let held := s.sessionHolds q.path role
  let signed := role ≠ 0 && !held
  if b.length < 40 + mbxBodyLen b + (if signed then 96 else 0) then (mbxBadCommand, s)
  else if 2 < role ∨ role < need then (mbxBadRole, s)
  else if !signed then (mbxOk, s)
  else if !s.mbxVerifies b then (mbxBadSignature, s)
  else if !s.nonceGood b then (mbxBadNonce, s)
  else (mbxOk, s.modOz fun o => { o with nonce := none })

/-- A Crypto Officer's service comes over MCTP only while SIDEBAND_CO is 1 (R441); a session over MCTP is MCTP too. -/
def State.sidebandShut (s : State) (path : MbxPath) (need : Nat) : Bool :=
  need = 2 && !s.flash.sidebandCo && (match path with
    | .host => false
    | .mctp => true
    | .session id => (match s.session id with
      | some x => !x.doe
      | none => true))

/-- What a command does once admitted: its status and data, or nothing yet where its answer awaits an erasure. -/
inductive MbxAnswer
  | done (status : BitVec 3) (data : List (BitVec 8))
  | later

/-- The mailbox commands, in the order of R441. -/
inductive MbxCmd
  | getStatus | getLog | getNonce | zeroise | takeOwnership | requestSelftest | installUserKey | removeUserKey
  | installImageKey | raiseImageFloor | setPolicy | fwUpdate | raiseFwFloor | transferOwnership | debugOpen | installCascadeKey
  deriving DecidableEq, Repr

/-- The place of a command's code in the firmware's table. -/
def MbxCmd.idx : MbxCmd → Fin 16
  | .getStatus => 0 | .getLog => 1 | .getNonce => 2 | .zeroise => 3 | .takeOwnership => 4 | .requestSelftest => 5
  | .installUserKey => 6 | .removeUserKey => 7 | .installImageKey => 8 | .raiseImageFloor => 9 | .setPolicy => 10
  | .fwUpdate => 11 | .raiseFwFloor => 12 | .transferOwnership => 13 | .debugOpen => 14 | .installCascadeKey => 15

/-- The COMMAND field of a request names a command (R442). -/
def State.mbxNames (s : State) (q : MbxReq) (k : MbxCmd) : Bool :=
  leAt (s.mbxBytes q) 0 2 = (s.flash.mbxCodes.get k.idx).toNat

/-- A mailbox command runs (R442): one at a time; a request whose COMMAND is another's is answered BAD_COMMAND; a role, signature or nonce that fails raises SEC_AUTH_FAIL. -/
def State.mbxRun (s : State) (q : MbxReq) (k : MbxCmd) (need : Nat) (run : List (BitVec 8) → State → MbxAnswer × State)
    (side : Bool := true) : State :=
  if !s.mbxNames q k then s.respond q.path mbxBadCommand [] else
  match s.mbxAdmit q need with
  | (st, s1) =>
    if st ≠ mbxOk then
      (if st = mbxBadCommand then s1 else s1.raise 0x0B05).respond q.path st []
    else if side && s1.sidebandShut q.path need then s1.respond q.path mbxRefused []
    else
      match run (mbxBody (s.mbxBytes q)) s1 with
      | (.done c d, s2) => s2.respond q.path c d
      | (.later, s2) => s2.modOz fun o => { o with
          mbxBusy := some q.path, mbxState := if q.path = .host then 1 else o.mbxState }

/-- A request arrives at the mailbox (R441, R442): the host's GO is a write of OZ_MBX_CTRL and is ignored and counted while a
command is busy; MCTP and sessions are answered BUSY then, and are heard while the sideband or the port answers. `side`: the
service is one that SIDEBAND_CO governs over MCTP. -/
def State.mailbox (s : State) (q : MbxReq) (k : MbxCmd) (need : Nat) (run : List (BitVec 8) → State → MbxAnswer × State)
    (side : Bool := true) : State :=
  match q.path with
  | .host => s.bar0Write 0x00100010 .oz true fun s =>
      if s.oz.mbxBusy.isSome then s.modOz fun o => { o with mbxIgnored := satAdd 32 o.mbxIgnored 1 }
      else s.mbxRun q k need run side
  | .mctp =>
      if !s.sideband then s
      else if s.oz.mbxBusy.isSome then s.emit (.response 2 mbxBusyStatus.toNat [])
      else s.mbxRun q k need run side
  | .session id =>
      match s.session id with
      | none => s
      | some x =>
        if !s.spdmHears x.doe || !x.open_ then s
        else if s.oz.mbxBusy.isSome then s.emit (.response 3 (mbxBusyStatus.toNat + 8 * id) [])
        else s.mbxRun q k need run side

/-- OZ_STATUS (R466). -/
def State.ozStatus (s : State) : BitVec 64 :=
  BitVec.ofNat 64 (b2n s.oz.fwCopyB + b2n s.flash.ownerCred.isSome * 2 + b2n s.approved * 4 + b2n s.host.bound * 8
    + (s.flash.userKeys.filter fun k => k.2.isSome).length % 16 * 2 ^ 4 + s.oz.sessions.length % 8 * 2 ^ 8
    + b2n s.oz.debugOpen * 2 ^ 11 + s.oz.fwVersion.toNat * 2 ^ 32)

/-- GET_STATUS: OZ_STATUS, then the start-up step, the mode, the power state and the converter's telemetry, which the system reads over
MCTP (R441, R453, R481). -/
def execGetStatus (q : MbxReq) (s : State) : Outcome State Fault Refusal :=
  .next (s.mailbox q .getStatus 0 fun _ s =>
    let m := match s.glb.mode with
      | .starting => 0
      | .service => 1
      | .managementOnly => 2
      | .recovery => 3
    (.done mbxOk (natLe 8 s.ozStatus.toNat ++ natLe 1 s.glb.step ++ natLe 1 m ++ natLe 1 s.pwr.state
      ++ s.pwr.telemetry.toList.flatMap (natLe 2)), s))

/-- The records of GLB_FAULT_LOG from an index on, oldest first (R408). -/
def State.faultLogBytes (s : State) : List (BitVec 8) :=
  (List.range 256).flatMap fun i => natLe 16 (tabGet 0 s.glb.log ((s.glb.faultHead.toNat + i) % 256)).toNat

/-- GET_LOG: by the body's first byte, the fault log, the records in flash, the tamper log or the trip log (R441). -/
def execGetLog (q : MbxReq) (s : State) : Outcome State Fault Refusal :=
  .next (s.mailbox q .getLog 0 fun b s =>
    match leAt b 0 1 with
    | 0 => (.done mbxOk s.faultLogBytes, s)
    | 1 => (.done mbxOk (s.flash.faultRecords.flatMap fun r => natLe 16 r.toNat), s)
    | 2 => (.done mbxOk (natLe 8 (s.flash.tamperCause.toNat + s.flash.tamperTick.toNat * 2 ^ 8)), s)
    | 3 => (.done mbxOk (natLe 8 (s.flash.tripTick.toNat + s.flash.tripSensor.toNat * 2 ^ 56 + b2n s.flash.tripValid * 2 ^ 63)), s)
    | _ => (.done mbxBadCommand [], s))

/-- GET_NONCE: a fresh nonce from the DRBG, in force for 60 s or until the next (R442). -/
def execGetNonce (q : MbxReq) (s : State) : Outcome State Fault Refusal :=
  .next (s.mailbox q .getNonce 0 fun _ s =>
    let n := freeBits 256 s.freeCtr
    (.done mbxOk (natLe 32 n.toNat), (s.draw).modOz fun o => { o with nonce := some (n, s.tick), drbg := o.drbg + 1 }))

/-- ZEROISE: answered when the erasure has been verified (R442, R445). -/
def execZeroise (q : MbxReq) (s : State) : Outcome State Fault Refusal :=
  .next (s.mailbox q .zeroise 0 fun _ s => (.later, s.zeroise false))

/-- TAKE_OWNERSHIP sets the owner credential while none is set (R440). -/
def execTakeOwnership (q : MbxReq) (s : State) : Outcome State Fault Refusal :=
  .next (s.mailbox q .takeOwnership 0 fun b s =>
    if b.length ≠ 48 then (.done mbxBadCommand [], s)
    else if s.flash.ownerCred.isSome then (.done mbxRefused [], s)
    else (.done mbxOk [], s.modFlash fun f => { f with ownerCred := some (BitVec.ofNat 384 (leNat b)) }))

/-- TRANSFER_OWNERSHIP replaces the credential and zeroises (R440, R445). -/
def execTransferOwnership (q : MbxReq) (s : State) : Outcome State Fault Refusal :=
  .next (s.mailbox q .transferOwnership 2 fun b s =>
    if b.length ≠ 48 then (.done mbxBadCommand [], s)
    else (.later, (s.modFlash fun f => { f with ownerCred := some (BitVec.ofNat 384 (leNat b)) }).zeroise false))

/-- REQUEST_SELFTEST: the full self-test runs at the next warm reset (R401). -/
def execRequestSelftest (q : MbxReq) (s : State) : Outcome State Fault Refusal :=
  .next (s.mailbox q .requestSelftest 1 fun _ s => (.done mbxOk [], s.modGlb fun g => { g with fullRequested := true }))

/-- INSTALL_USER_KEY: the body's first byte is the key's index, 96 bytes of public key follow (R440, R443). -/
def execInstallUserKey (q : MbxReq) (s : State) : Outcome State Fault Refusal :=
  .next (s.mailbox q .installUserKey 2 fun b s =>
    let k := leAt b 0 1
    if b.length ≠ 97 ∨ 8 ≤ k then (.done mbxBadCommand [], s)
    else (.done mbxOk [], s.modFlash fun f => { f with
      userKeys := tabSet none f.userKeys k (some (BitVec.ofNat 768 (leAt b 1 96))) }))

/-- REMOVE_USER_KEY (R443). -/
def execRemoveUserKey (q : MbxReq) (s : State) : Outcome State Fault Refusal :=
  .next (s.mailbox q .removeUserKey 2 fun b s =>
    let k := leAt b 0 1
    if b.length ≠ 1 ∨ 8 ≤ k then (.done mbxBadCommand [], s)
    else (.done mbxOk [], s.modFlash fun f => { f with userKeys := tabSet none f.userKeys k none }))

/-- Every VERIFIED place whose image meets a test becomes REJECTED with a code (R444); others keep their state. -/
def State.rejectVerified (s : State) (code : BitVec 16) (p : ImgCfg → Bool) : State :=
  (List.range 16).foldl (fun s i =>
    let x := tabGet ({} : Place) s.img.places i
    match x.cfg with
    | some g => if x.st = PlaceSt.verified && p g then s.rejectPlace i code 0 0 else s
    | none => s) s

/-- INSTALL_IMAGE_KEY: the body's first byte is the slot, the keys' bytes follow. Replacing them rejects the VERIFIED places
signed in the slot with IMG_SIGNATURE_INVALID (R443, R444). -/
def execInstallImageKey (q : MbxReq) (s : State) : Outcome State Fault Refusal :=
  .next (s.mailbox q .installImageKey 2 fun b s =>
    let k := leAt b 0 1
    if b.length < 2 ∨ 4 ≤ k then (.done mbxBadCommand [], s)
    else (.done mbxOk [], (s.modFlash fun f => { f with
      imageKeys := tabSet none f.imageKeys k (some (b.drop 1)) }).rejectVerified 0x0903 fun g => g.keyId = k))

/-- RAISE_IMAGE_FLOOR: floors only rise; the VERIFIED places of the slot below the new floor become REJECTED with
IMG_ROLLBACK (R443, R444). -/
def execRaiseImageFloor (q : MbxReq) (s : State) : Outcome State Fault Refusal :=
  .next (s.mailbox q .raiseImageFloor 2 fun b s =>
    let k := leAt b 0 1
    let v : BitVec 32 := BitVec.ofNat 32 (leAt b 1 4)
    if b.length ≠ 5 ∨ 4 ≤ k then (.done mbxBadCommand [], s)
    else if v.toNat < (tabGet 0 s.flash.imageFloors k).toNat then (.done mbxRefused [], s)
    else (.done mbxOk [], (s.modFlash fun f => { f with
      imageFloors := tabSet 0 f.imageFloors k v }).rejectVerified 0x0904 fun g =>
        g.keyId = k && decide (g.secVersion.toNat < v.toNat)))

/-- SET_POLICY writes OZ_POLICY, and the change applies at once (R448). -/
def execSetPolicy (q : MbxReq) (s : State) : Outcome State Fault Refusal :=
  .next (s.mailbox q .setPolicy 2 fun b s =>
    if b.length ≠ 1 then (.done mbxBadCommand [], s)
    else (.done mbxOk [], s.modFlash fun f => { f with
      requireBind := leAt b 0 1 % 2 = 1, sidebandCo := leAt b 0 1 / 2 % 2 = 1 }))

/-- The firmware image a command names: its bytes at the BAR2 source, or, in recovery, those it brings (R405, R447). -/
def State.firmwareBytes (s : State) (b image : List (BitVec 8)) : Option (List (BitVec 8)) × State :=
  if s.glb.mode = .recovery then (if image.length ≤ 0x800000 then some image else none, s)
  else if s.glb.mode ≠ .service || 2 ≤ s.pwr.state || 0x800000 < leAt b 8 8 || 2 ^ 41 < leAt b 0 8 + leAt b 8 8 then (none, s)
  else
    match s.stackRead (leAt b 0 8) (leAt b 8 8) true with
    | (.ok bs, s1) => (some bs, s1)
    | (.error _, s1) => (none, s1)

/-- FW_UPDATE: verified, then written to copy B and to copy A; a failure before that raises SEC_FW_INVALID and changes
neither (R447). The running firmware stays until the next cold reset. In recovery the signed load alone counts (R405). -/
def execFwUpdate (q : MbxReq) (image : List (BitVec 8)) (s : State) : Outcome State Fault Refusal :=
  .next (s.mailbox q .fwUpdate (if s.glb.mode = .recovery then 0 else 2) fun b s =>
    if b.length ≠ 16 then (.done mbxBadCommand [], s)
    else
      match s.firmwareBytes b image with
      | (none, s1) => (.done mbxRefused [], s1.raise 0x0B07)
      | (some bs, s1) =>
        if !firmwareSigned bs || decide ((firmwareSecurity bs).toNat < s.fuses.fwFloor.toNat) then
          (.done mbxRefused [], s1.raise 0x0B07)
        else (.done mbxOk [], s1.modFlash fun f => { f with
          fwCopyA := some (firmwareVersion bs), fwSecA := firmwareSecurity bs
          fwCopyB := some (firmwareVersion bs), fwSecB := firmwareSecurity bs }))

/-- RAISE_FW_FLOOR: the fuse floor rises to the running firmware's security version, never above it (R447). -/
def execRaiseFwFloor (q : MbxReq) (s : State) : Outcome State Fault Refusal :=
  .next (s.mailbox q .raiseFwFloor 2 fun _ s =>
    (.done mbxOk [], s.modFuses fun f => { f with
      fwFloor := if f.fwFloor.toNat < s.oz.fwSec.toNat then s.oz.fwSec else f.fwFloor }))

/-- DEBUG_OPEN: refused while DEBUG_LOCK is blown; otherwise the module zeroises first, and the window opens with the
response (R449). -/
def execDebugOpen (q : MbxReq) (s : State) : Outcome State Fault Refusal :=
  .next (s.mailbox q .debugOpen 2 fun _ s =>
    if s.fuses.debugLock then (.done mbxRefused [], s)
    else (.later, (s.zeroise false).modOz fun o => { o with debugPending := true }))

/-- INSTALL_CASCADE_KEY comes in a secured session only, of either transport and whatever SIDEBAND_CO says (R441); links that
are up keep their keys (R444). -/
def execInstallCascadeKey (q : MbxReq) (s : State) : Outcome State Fault Refusal :=
  .next (s.mailbox q .installCascadeKey 2 (fun b s =>
    let secured := match q.path with
      | .session _ => true
      | .host => false
      | .mctp => false
    if !secured then (.done mbxRefused [], s)
    else if b.length ≠ 32 then (.done mbxBadCommand [], s)
    else (.done mbxOk [], s.modFlash fun f => { f with cascadeKey := some (BitVec.ofNat 256 (leNat b)) })) false)

/-! ### SPDM (R450, R451) -/

def spdmIdx (doe : Bool) : Fin 2 := if doe then 0 else 1
def State.spdmConn (s : State) (doe : Bool) : SpdmConn := s.oz.spdm.get (spdmIdx doe)
def State.setSpdm (s : State) (doe : Bool) (c : SpdmConn) : State :=
  s.modOz fun o => { o with spdm := o.spdm.set (spdmIdx doe) c }

/-- A response of the responder over a transport: its SPDM code and its content. -/
def State.spdmSay (s : State) (doe : Bool) (code : Nat) (data : List (BitVec 8)) : State :=
  s.emit (.response (if doe then 0 else 1) code data)

/-- An ERROR response: 0x01 invalid request, 0x03 busy, 0x04 unexpected request, 0x05 unspecified, 0x06 decrypt error,
0x41 version mismatch. -/
def State.spdmError (s : State) (doe : Bool) (code : Nat) : State := s.spdmSay doe 0x7F (natLe 1 code)

/-- The algorithms have been agreed on the transport. -/
def State.spdmReady (s : State) (doe : Bool) : Bool := (s.spdmConn doe).algs

/-- GET_VERSION: versions 1.2 and 1.3; the negotiation begins anew (R450). -/
def execGetVersion (doe : Bool) (s : State) : Outcome State Fault Refusal :=
  if !s.spdmHears doe then .next s
  else .next ((s.setSpdm doe {}).spdmSay doe 0x04 (natLe 1 0x12 ++ natLe 1 0x13))

/-- The capability flags of R450, bit by bit as SPDM orders them: CERT, CHAL, MEAS with signature, ENCRYPT, MAC, MUT_AUTH,
KEY_EX, ENCAP, HBEAT, KEY_UPD, CHUNK. -/
def spdmCaps : Nat :=
  2 ^ 1 + 2 ^ 2 + 2 * 2 ^ 3 + 2 ^ 6 + 2 ^ 7 + 2 ^ 8 + 2 ^ 9 + 2 ^ 12 + 2 ^ 13 + 2 ^ 14 + 2 ^ 17

def execGetCapabilities (doe : Bool) (version : BitVec 8) (s : State) : Outcome State Fault Refusal :=
  if !s.spdmHears doe then .next s
  else if version ≠ 0x12 ∧ version ≠ 0x13 then .next (s.spdmError doe 0x41)
  else .next ((s.setSpdm doe { version := version.toNat, caps := true }).spdmSay doe 0x61 (natLe 4 spdmCaps))

/-- NEGOTIATE_ALGORITHMS: only the algorithms of R450 are agreed. -/
def execNegotiateAlgorithms (doe : Bool) (offer : SpdmOffer) (s : State) : Outcome State Fault Refusal :=
  if !s.spdmHears doe then .next s
  else if !(s.spdmConn doe).caps then .next (s.spdmError doe 0x04)
  else if !(offer.ecdsaP384 && offer.sha384 && offer.secp384r1 && offer.aes256Gcm && offer.keySchedule) then
    .next (s.spdmError doe 0x01)
  else .next ((s.setSpdm doe { s.spdmConn doe with algs := true }).spdmSay doe 0x63 [])

/-- GET_CERTIFICATE: slot 0 holds the chain; slots 1 to 7 are empty (R450). -/
def execGetCertificate (doe : Bool) (slot offset len : Nat) (s : State) : Outcome State Fault Refusal :=
  if !s.spdmHears doe then .next s
  else if !s.spdmReady doe then .next (s.spdmError doe 0x04)
  else if slot ≠ 0 ∨ (certChain s.fuses.serial).length < offset then .next (s.spdmError doe 0x01)
  else .next (s.spdmSay doe 0x02 (((certChain s.fuses.serial).drop offset).take len))

/-- The device identity key with which the responder signs (R443, R450). -/
def State.identity (s : State) : BitVec 384 := s.oz.identityKey.getD 0

/-- A nonce of the responder's own, from the DRBG. -/
def State.spdmNonce (s : State) : List (BitVec 8) × State :=
  (natLe 32 (freeBits 256 s.freeCtr).toNat, (s.draw).modOz fun o => { o with drbg := o.drbg + 1 })

/-- The image bytes of a place that holds an image set (R451). -/
def State.imageBytes (s : State) (x : Option (Nat × ImgCfg)) : List (BitVec 8) :=
  match x with
  | none => []
  | some (p, g) => natLe 8 g.imageId.toNat ++ natLe 8 g.familyId.toNat ++ (List.range g.totalLen).map (s.storeByte p)

/-- GLB_FENCE_CORE as it reads (R425): fenced, held fenced, and the core an FX7 has fenced at the factory. -/
def State.fenceCoreWord (s : State) : Nat :=
  s.glb.fencedCores.toNat + s.glb.heldCores.toNat * 2 ^ 8
    + (if s.fuses.isFx7 then s.fuses.factoryCore % 8 * 2 ^ 16 + 2 ^ 19 else 0)

/-- The content of a measurement block (R451). -/
def State.measured (s : State) (index : Nat) : List (BitVec 8) :=
  match index with
  | 1 => romCode
  | 2 => firmwareCode s.oz.fwVersion ++ natLe 4 s.oz.fwVersion.toNat ++ natLe 4 s.oz.fwSec.toNat
  | 3 => natLe 1 (b2n s.fuses.isFx7) ++ natLe 1 s.fuses.factoryCore ++ natLe 1 (b2n s.fuses.debugLock)
      ++ natLe 4 s.fuses.fwFloor.toNat
  | 4 => natLe 48 ((s.flash.ownerCred.getD 0).toNat) ++ natLe 1 (b2n s.flash.requireBind + 2 * b2n s.flash.sidebandCo)
      ++ ((List.range 4).flatMap fun k => natLe 48 (match tabGet none s.flash.imageKeys k with
        | some b => (sha384 b).toNat
        | none => 0))
      ++ (List.range 4).flatMap fun k => natLe 4 (tabGet 0 s.flash.imageFloors k).toNat
  | 5 => s.imageBytes s.img.active
  | 6 => s.imageBytes s.img.shadow
  | _ => natLe 4 s.fenceCoreWord
      ++ natLe 8 (s.glb.fencedStacks.toNat + s.glb.heldStacks.toNat * 2 ^ 32)
      ++ natLe 4 (s.glb.fencedPorts.toNat + s.glb.fencedHalves.toNat * 2 ^ 20 + s.glb.fencedEths.toNat * 2 ^ 24)

/-- A measurement block: the digest of its content; the image blocks are all zero without an image (R451). -/
def State.measurement (s : State) (index : Nat) : List (BitVec 8) :=
  if (index = 5 ∧ s.img.active.isNone) ∨ (index = 6 ∧ s.img.shadow.isNone) then List.replicate 48 0
  else natLe 48 (sha384 (s.measured index)).toNat

def State.allMeasurements (s : State) : List (BitVec 8) :=
  ([1, 2, 3, 4, 5, 6, 7] : List Nat).flatMap fun i => natLe 1 i ++ s.measurement i

/-- CHALLENGE: a signed answer over the chain's digest, the measurements and both nonces; after tamper an error (R446, R450). -/
def execChallenge (doe : Bool) (slot : Nat) (nonce : BitVec 256) (s : State) : Outcome State Fault Refusal :=
  if !s.spdmHears doe then .next s
  else if !s.spdmReady doe then .next (s.spdmError doe 0x04)
  else if slot ≠ 0 then .next (s.spdmError doe 0x01)
  else if s.fuses.identityKilled then .next (s.spdmError doe 0x05)
  else
    let r := s.spdmNonce
    let d := natLe 48 (sha384 (certChain s.fuses.serial)).toNat ++ r.1 ++ natLe 48 (sha384 s.allMeasurements).toNat
    .next (r.2.spdmSay doe 0x03 (d ++ identitySign s.identity (natLe 32 nonce.toNat ++ d)))

/-- GET_MEASUREMENTS: index 0 asks how many blocks there are, 1 to 7 for one, 0xFF for all; signed if asked, which after tamper
is an error (R446, R451). -/
def execGetMeasurements (doe : Bool) (index : BitVec 8) (sign : Bool) (nonce : BitVec 256) (s : State) :
    Outcome State Fault Refusal :=
  if !s.spdmHears doe then .next s
  else if !s.spdmReady doe then .next (s.spdmError doe 0x04)
  else if 7 < index.toNat ∧ index ≠ 0xFF then .next (s.spdmError doe 0x01)
  else if sign && s.fuses.identityKilled then .next (s.spdmError doe 0x05)
  else
    let m := if index = 0 then natLe 1 7 else if index = 0xFF then s.allMeasurements
      else natLe 1 index.toNat ++ s.measurement index.toNat
    let r := s.spdmNonce
    let d := m ++ r.1
    .next (r.2.spdmSay doe 0x60 (if sign then d ++ identitySign s.identity (natLe 32 nonce.toNat ++ d) else d))

/-- The role of a requester's key (R450): 2 Crypto Officer, 1 User with its index, 0 neither. -/
def State.keyRole (s : State) (key : BitVec 768) : Nat × Nat :=
  if s.flash.ownerCred = some (credentialOf key) then (2, 0)
  else
    match (List.range 8).find? fun i => tabGet none s.flash.userKeys i = some key with
    | some i => (1, i)
    | none => (0, 0)

/-- The lowest session identifier not in use. -/
def State.freeSession (s : State) : Nat :=
  ((List.range 5).find? fun i => !(s.oz.sessions.any fun x => x.id = i + 1)).getD 0 + 1

/-- KEY_EXCHANGE: a session begins its handshake; a third on a transport is answered BUSY; its response is signed, so after
tamper it is an error (R446, R450). -/
def execKeyExchange (doe : Bool) (slot : Nat) (key : Option (BitVec 768)) (s : State) : Outcome State Fault Refusal :=
  if !s.spdmHears doe then .next s
  else if !s.spdmReady doe then .next (s.spdmError doe 0x04)
  else if slot ≠ 0 then .next (s.spdmError doe 0x01)
  else if 2 ≤ (s.oz.sessions.filter fun x => x.doe == doe).length then .next (s.spdmError doe 0x03)
  else if s.fuses.identityKilled then .next (s.spdmError doe 0x05)
  else
    let id := s.freeSession
    let r := s.spdmNonce
    let x : Session := { id := id, doe := doe, reqKey := key, beat := s.tick }
    let d := natLe 2 id ++ r.1
    .next ((r.2.modOz fun o => { o with sessions := o.sessions ++ [x] }).spdmSay doe 0x64
      (d ++ identitySign s.identity d))

/-- A session changed in place. -/
def State.modSession (s : State) (id : Nat) (f : Session → Session) : State :=
  s.modOz fun o => { o with sessions := o.sessions.map fun x => if x.id = id then f x else x }

/-- FINISH completes a session; with a User key or the Crypto Officer's it is mutually authenticated and holds that role; one
that does not verify ends it (R450). -/
def execFinish (session : Nat) (proof : List (BitVec 8)) (s : State) : Outcome State Fault Refusal :=
  match s.session session with
  | none => .next s
  | some x =>
    if !s.spdmHears x.doe then .next s
    else if x.open_ then .next (s.spdmError x.doe 0x04)
    else if !finishValid x.reqKey s.fuses.serial session proof then
      .next ((s.endSession session).spdmError x.doe 0x06)
    else
      let r := match x.reqKey with
        | some k => s.keyRole k
        | none => (0, 0)
      .next ((s.modSession session fun x => { x with
        open_ := true, role := r.1, key := r.2, mutualAuth := decide (r.1 ≠ 0), beat := s.tick }).spdmSay x.doe 0x65 [])

/-- KEY_UPDATE: the session's keys are updated (R450). -/
def execKeyUpdate (session : Nat) (s : State) : Outcome State Fault Refusal :=
  match s.session session with
  | none => .next s
  | some x =>
    if !s.spdmHears x.doe then .next s
    else if !x.open_ then .next (s.spdmError x.doe 0x04)
    else .next ((s.modSession session fun x => { x with keyGen := x.keyGen + 1, beat := s.tick }).spdmSay x.doe 0x69 [])

/-- SPDM_HEARTBEAT keeps a session alive (R450). -/
def execSpdmHeartbeat (session : Nat) (s : State) : Outcome State Fault Refusal :=
  match s.session session with
  | none => .next s
  | some x =>
    if !s.spdmHears x.doe then .next s
    else if !x.open_ then .next (s.spdmError x.doe 0x04)
    else .next ((s.modSession session fun x => { x with beat := s.tick }).spdmSay x.doe 0x68 [])

/-- END_SESSION: the session ends, and with the one that keyed the link stream the port is no longer bound (R450, R452). -/
def execEndSession (session : Nat) (s : State) : Outcome State Fault Refusal :=
  match s.session session with
  | none => .next s
  | some x =>
    if !s.spdmHears x.doe then .next s
    else .next ((s.endSession session).spdmSay x.doe 0x6C [])

/-- Sessions without a heartbeat for two periods of 10 s end (R450). -/
def State.expireSessions (s : State) : State :=
  if s.oz.sessions.any fun x => decide (x.beat + 20000000000 ≤ s.tick) then
    s.endSessions fun x => decide (x.beat + 20000000000 ≤ s.tick)
  else s

/-! ### IDE (R452) -/

/-- The open DOE session with an identifier: IDE_KM is a payload of DOE sessions only (R450). -/
def State.doeSession (s : State) (id : Nat) : Option Session :=
  (s.session id).bind fun x => if x.doe && x.open_ && s.spdmHears true then some x else none

/-- IDE_KM in an open session of the sideband, which does not carry it: an error response (R7, R450). -/
def State.ideDeclined (s : State) (id : Nat) : State :=
  match s.session id with
  | some x => if !x.doe && x.open_ && s.spdmHears false then s.spdmError false 0x01 else s
  | none => s

/-- KEY_PROG programs a direction of the link IDE stream. Keys that another session has programmed are replaced while the port is not
bound. While it is, its binding ends by what R452 lists alone: DESIGN CHOICE (log entry 80, safe), another session's KEY_PROG is
declined, for which the spec gives no answer. -/
def execKeyProg (session : Nat) (tx : Bool) (s : State) : Outcome State Fault Refusal :=
  match s.doeSession session with
  | none => .next (s.ideDeclined session)
  | some _ =>
    if s.host.bound && s.host.ideSession ≠ some session then .next (s.spdmError true 0x01)
    else
    let s0 := if s.host.ideSession = some session then s else s.stopIde 0
    let s1 := (s0.modHost fun h => { h with ideSession := some session }).modOz fun o => { o with
      ideKeyTx := o.ideKeyTx || tx, ideKeyRx := o.ideKeyRx || !tx }
    .next ((s1.modHost fun h => { h with ide := if h.ide = 2 then 2 else 1 }).spdmSay true 0x80 [])

/-- K_SET_GO starts a keyed direction; with both running over a mutually authenticated session the port is bound (R452). -/
def execKSetGo (session : Nat) (tx : Bool) (s : State) : Outcome State Fault Refusal :=
  match s.doeSession session with
  | none => .next (s.ideDeclined session)
  | some x =>
    if s.host.ideSession ≠ some session || !(if tx then s.oz.ideKeyTx else s.oz.ideKeyRx) then
      .next (s.spdmError true 0x01)
    else
      let s1 := s.modOz fun o => { o with ideTx := o.ideTx || tx, ideRx := o.ideRx || !tx }
      let both := s1.oz.ideTx && s1.oz.ideRx
      .next ((s1.modHost fun h => { h with
        ide := if both then 2 else h.ide, bound := h.bound || (both && x.mutualAuth) }).spdmSay true 0x81 [])

/-- IDE_CHECK_FAIL: HOST_IDE_FAIL; the stream stops and the port is no longer bound, while admitted tasks run on (R452). -/
def execIdeCheckFail (s : State) : Outcome State Fault Refusal :=
  if s.oz.ideTx || s.oz.ideRx then .next (((s.raise 0x0B02).msix 45).stopIde 3) else .next s

end Sys2Proof.Machine
end

