-- ==== Sys2Proof/Machine/Swap.lean ====
section
/-! DEFINITION. The swap of the active and shadow sets, and the fence path that ends in one (R128, R190, R360 to R366,
R410 to R417). -/

namespace Sys2Proof.Machine

open Host

/-! ### Arming (R360) -/

/-- IMG_SWAP with MODE 0 and ARM: the swap waits for a step-boundary marker (R360). -/
def execImgSwapArmStep (s : State) : Outcome State Fault Refusal :=
  .next (s.bar0Write (imgOff 0x34) .oz false fun s =>
    if s.img.shadow.isNone || s.img.swap.phase ≠ .idle then s
    else s.modImg fun i => { i with swap := { mode := 0, phase := .armed, tick := s.tick, limit := i.drainLimit.toNat } })

/-- IMG_SWAP with MODE 1 and ARM: every sequencer stops admitting, and the swap waits for quiescence (R360). -/
def execImgSwapArmImmediate (s : State) : Outcome State Fault Refusal :=
  .next (s.bar0Write (imgOff 0x34) .oz false fun s =>
    if s.img.shadow.isNone || s.img.swap.phase ≠ .idle then s
    else s.modImg fun i => { i with
      stopAdmit := true, swap := { mode := 1, phase := .draining, tick := s.tick, limit := i.drainLimit.toNat } })

/-- IMG_SWAP with CANCEL disarms a STEP or IMMEDIATE swap that has not started (R360). -/
def execImgSwapCancel (s : State) : Outcome State Fault Refusal :=
  .next (s.bar0Write (imgOff 0x34) .oz false fun s =>
    let w := s.img.swap
    if w.mode ≠ 2 && (w.phase = .armed || w.phase = .draining) then
      s.modImg fun i => { i with swap := {}, stopAdmit := false }
    else s)

/-! ### Quiescence (R361) -/

/-- No task is admitted or halted, no descriptor is in flight, and the arrays are idle; a fenced core has none. -/
def State.drained (s : State) : Bool :=
  allCores.all fun c =>
    let k := s.core c
    s.coreFenced c || (k.seq.tasks = [] && k.seq.retryQ = [] && k.seq.halted = [] && k.mov.queue = []
      && (k.mov.flying.all fun f => f.2.isNone) && k.mov.groupDone = [] && s.arrayIdle c)

/-- What a swap to another family asks beside: no epoch, no open share, no moraine entry (R361). -/
def State.familyIdle (s : State) : Bool :=
  (allCores.all fun c => s.coreFenced c || allHalves.all fun i => ((s.core c).seq.epochs.get i).st = .free)
    && s.red.shares = [] && allHalves.all fun h => (s.half h).morEntries.all fun e => e.st = .free

def State.quiescent (s : State) (incoming : ImgCfg) : Bool :=
  s.drained && (match s.img.active with
    | some (_, a) => a.familyId = incoming.familyId || s.familyIdle
    | none => true)

/-- Every block holding configuration receives PREPARE (R362). -/
def State.startSwap (s : State) : State :=
  s.modImg fun i => { i with swap := { i.swap with phase := .preparing, tick := s.tick } }

/-- SWAP_START: an armed swap starts at a quiescent module, within its limit (R361, R362). -/
def execSwapStart (s : State) : Outcome State Fault Refusal :=
  let w := s.img.swap
  match s.img.shadow with
  | some (_, g) =>
    if w.phase = .draining && decide (s.tick < w.tick + 1000 * w.limit) && s.quiescent g then .next s.startSwap
    else .next s
  | none => .next s

/-- SWAP_DRAIN_LIMIT: an armed swap that has not started within IMG_DRAIN_LIMIT is aborted (R361). -/
def execSwapDrainLimit (s : State) : Outcome State Fault Refusal :=
  let w := s.img.swap
  if w.phase = .draining && decide (w.tick + 1000 * w.limit ≤ s.tick) then .next (s.abortSwap 0x0908) else .next s

/-! ### The end of every unretired task at a FENCE swap (R187, R190, R366, R417) -/

/-- The unretired tasks a FENCE swap ends on a surviving core: running, and waiting for a retry; of the run list, halted ones
too. -/
def Seq.unretired (x : Seq) : List Task := x.tasks ++ x.retryQ ++ x.halted.filter fun t => t.queue = 0

/-- A surviving core's tasks end with the effects of R187; each keeps its holds for its replay. A host queue's go back to
the head of their queue. -/
def State.endSurviving (s : State) (c : Fin 8) : State :=
  let x := (s.core c).seq
  let s1 := x.tasks.foldl (fun (s : State) t => (s.dropCommands c t).endInPartition c t 0) s
  let ended := x.unretired.map Task.restart
  s1.modSeq c fun y => { y with
    tasks := [], retryQ := ended.filter fun t => t.queue ≠ 0
    halted := y.halted.filter fun t => t.queue ≠ 0
    inherit := y.inherit ++ ended.filter fun t => t.queue = 0 }

/-- The fenced core's engines stop: nothing further of any descriptor is written and no command runs (R23, R187). -/
def Core.stopEngines (k : Core) : Core :=
  { k with
    ending := none
    mov := { k.mov with queue := [], flying := [], groupDone := [], groupId := none, groupCount := 0, fillQ := [], relQ := [], tokWait := [] }
    seq := { k.seq with tasks := [], retryQ := [], halted := [], updQ := [] } }

/-- The fenced core's unretired tasks end (R190, R417): the tokens posted to it count still, their claims, those of a descriptor whose
group has not posted its fills among them, are cancelled, host-queue tasks that have not completed
complete FAULTED with the fence's cause, and the run list's are kept for the cores the variant gives them to, those that an earlier
FENCE swap ended and that have not run again among them. -/
def State.endFenced (s : State) (c : Fin 8) (cause : BitVec 16) : State :=
  let m := (s.core c).mov
  let s0 := (m.fillQ ++ m.relQ ++ m.tokWait).foldl (fun (s : State) t =>
    if t.fill then (s.putFill c t.slot t.buf t.epoch).2 else (s.putRelease c t.slot t.buf t.epoch).2) s
  let fl := m.flying.filterMap (·.2) ++ m.groupDone.map (·.fl)
  let s1 := fl.foldl (fun (s : State) f => (s.keepClaim c f).keepAcquisition c f) s0
  let x := (s1.core c).seq
  let ts := x.inherit ++ x.tasks ++ x.retryQ ++ x.halted
  let s2 := ts.foldl (fun (s : State) t =>
    (s.dropHolds c (t.holds.filter fun h => !h.acq)).dropMoveHolds (t.moveHolds.filter fun h => !h.acq)) s1
  let s3 := ((x.tasks ++ x.retryQ).filter fun t => t.queue ≠ 0).foldl (fun (s : State) t => s.completeTask c t 1 cause) s2
  (s3.modCore c Core.stopEngines).modSeq c fun y => { y with
    inherit := (ts.filter fun t => t.queue = 0).map fun t =>
      { t.restart with holds := (t.restart).holds.filter (·.acq), moveHolds := t.moveHolds.filter (·.acq) } }

/-- The tasks of every core fenced since end (R190). DESIGN CHOICE (log entry 60, safe): the manual says only that the steward cancels their claims
once the issued writes have completed; here that is the next tick, or the start of the FENCE swap when it comes first. -/
def State.endAllFenced (s : State) : State :=
  forAllOf allCores (fun c s => match (s.core c).ending with
    | some cause => s.endFenced c cause
    | none => s) s

/-! ### Staging completes (R358, R366) -/

/-- The FENCE swap starts at once: every task that has not retired ends (R366). -/
def State.startFenceSwap (s : State) (f : FencePath) : State :=
  let s1 := forAllOf allCores (fun c s => if s.coreFenced c then s else s.endSurviving c) s.endAllFenced
  (s1.modGlb fun g => { g.notePhase f (fun l => { l with stage := s.phaseUs f.since }) with
    fencePath := some { f with phase := 3, since := s.tick } }).modImg fun i => { i with
      swap := { mode := 2, phase := .preparing, tick := s.tick, limit := i.drainLimit.toNat } }

/-- The fences decided meanwhile are handled in turn against the active image, up to one whose path begins (R365, R410). -/
def State.serveFences (s : State) : List FencePend → State
  | [] => s.modGlb fun g => { g with fencePending := [] }
  | f :: rest =>
    let s1 := if f.half then s.halfPath f.cause else s.beginFencePath (fin8 f.core) f.cause
    if s1.fencePathBusy then s1.modGlb fun g => { g with fencePending := rest } else s1.serveFences rest
def State.nextFence (s : State) : State := s.serveFences s.glb.fencePending

/-- The place being staged is fit still: a fence path's variant while it is VERIFIED, whatever has been fenced since, whose turn
comes after this path (R366, R410); one the host stages by the checks it began under (R358). -/
def State.stagingFit (s : State) (p : Nat) : Bool :=
  if s.fencePathBusy then (s.imgPlace p).st = .verified else s.stageable p

/-- STAGING_COMPLETE: the shadow set is STAGED, unless the place is no longer fit; the fence path goes on to its swap
(R358, R366). -/
def execStagingComplete (s : State) : Outcome State Fault Refusal :=
  match s.img.staging with
  | none => .next s
  | some (p, _) =>
    let s0 := s.modImg fun i => { i with staging := none }
    match (s.imgPlace p).cfg, s.stagingFit p with
    | some g, true =>
      let s1 := (s0.modImgPlace p fun x => { x with st := .staged }).modImg fun i => { i with shadow := some (p, g) }
      (match s.glb.fencePath with
        | some f => if f.phase = 2 then .next (s1.startFenceSwap f) else .next s1
        | none => .next s1)
    | _, _ =>
      let s1 := s0.refuseImage p
      if s.fencePathBusy then .next ((s1.modGlb fun g => { g with fencePath := none }).missVariant.nextFence) else .next s1

/-! ### Commit (R59, R362) -/

/-- Both stationary sets and every bank of a partition are empty (R59). -/
def Part.emptied (q : Part) : Part :=
  { q with
    setA := {}, setB := {}, runs := [], fillRuns := [], banks := Vector.replicate 2 {}, active := false, shadowNew := false
    loadWait := none, markWait := none }

/-- SWAP_COMMIT: every block is READY and flips its configuration selector; the arrays begin empty (R59, R362). DESIGN CHOICE (log
entry 54, unsafe): the spec names sets and banks; complete tiles waiting in the tile buffers, which are of the old image, are
dropped too, and a load under way runs to its end (R41) and leaves its set empty. -/
def execSwapCommit (s : State) : Outcome State Fault Refusal :=
  let w := s.img.swap
  match s.img.shadow with
  | some (p, g) =>
    if w.phase ≠ .preparing || decide (w.tick + 22000 < s.tick) then .next s
    else
      let s1 := match s.img.active with
        | some (a, _) => s.modImgPlace a fun (x : Place) => if x.st = PlaceSt.active then { x with st := .staged } else x
        | none => s
      let s2 := (s1.modImgPlace p fun x => { x with st := .active }).modImg fun i => { i with
        active := some (p, g), shadow := s.img.active, swap := { i.swap with phase := .switching } }
      .next (forAllOf allCores (fun c s => if s.coreFenced c then s else s.modArr c fun a => { a with
        parts := a.parts.map Part.emptied, flights := []
        tileBuf := a.tileBuf.map fun l => (l.filter fun t => t.loading).map fun t => { t with dropped := true } }) s2)
  | none => .next s

/-! ### The switch effects (R128, R156, R196, R363) -/

/-- The 128-bit entry of a slot in the image that was active before. -/
def slotOf (g : Option ImgCfg) (c slot : Nat) : Option (BitVec 128) := g.bind fun x => x.slotRaw c slot

/-- A slot's state after a switch that does not keep it: EMPTY; the second buffer of a versioned slot is its névé one. -/
def freshSlot (e : Option SlotEnt) : SlotSt :=
  match e with
  | some x => if x.versioned then { wp := 1 } else {}
  | none => {}

/-- Slot states are kept where the entry is identical; the others start EMPTY (R128). DESIGN CHOICE (log entry 80, unsafe): a
request that still waits on a slot, of this module or of another, is dropped with no answer. -/
def State.switchSlots (s : State) (c : Fin 8) (old : Option ImgCfg) (g : ImgCfg) : State :=
  let ids := (((s.core c).scr.slots.map (·.1)) ++ (g.slots.filter fun x => x.core = c.val).map (·.slot)).eraseDups
  let s1 := s.modCore c fun k => { k with stewSlots := [], scr := { k.scr with waits := [] } }
  ids.foldl (fun s n =>
    let same := (slotOf old c.val n).isSome && slotOf old c.val n = slotOf (some g) c.val n
    s.setSlot c n (if same then s.slotSt c n else freshSlot (s.slotEnt c n))) s1

def CoreCfg.ofImg (g : ImgCfg) (c : Fin 8) : CoreCfg := g.cores.getD c.val {}

/-- What a core takes from the incoming image; the run list restarts at its first entry. After a STEP swap the marker that
started it counts as received. In a FENCE swap the place the list had reached stays, until WQ0 restarts from it (R416). -/
def State.switchCore (s : State) (c : Fin 8) (old : Option ImgCfg) (g : ImgCfg) (family : Bool) (step : Bool) : State :=
  let k := CoreCfg.ofImg g c
  let fence := decide (s.img.swap.mode = 2)
  let was := (s.core c).seq
  let s1 := s.switchSlots c old g
  let s2 := s1.modCore c fun x => { x with
    arr := { x.arr with mode := k.partMode }
    mov := { x.mov with mode := k.decoupled, gang := k.gang }
    seq := { x.seq with
      tokenSrc := k.tokenSrc, specTasks := k.specTasks, runPos := if fence then was.runPos else 0
      runWrapped := false, skipping := false
      q0Steps := if fence then was.q0Steps else if step then [s.cas.markerStep] else []
      epochs := if family then x.seq.epochs else Vector.replicate 2 {}
      heldOpens := if family then x.seq.heldOpens else []
      lastDisc := if family then x.seq.lastDisc else none
      inherit := if family then x.seq.inherit else []
      retired := if family then x.seq.retired else [] } }
  if g.eval then s2 else (s2.copyScales c g.scaleBase).modUpd c fun u => { u with scaleStep := u.step }

/-- The module's part in the cascade follows a new LINK body (R328, R363). -/
def State.switchRoles (s : State) (g : ImgCfg) : State :=
  let t := g.topo
  let me := s.selfId
  let role : CasRole := if t.master = me then .master else if t.deputies.contains me then .deputy else .member
  let s1 := (s.modCas fun c => { c with
    role := role, master := BitVec.ofNat 13 t.master, term := if c.term = 0 then 1 else c.term, parent := 31
    locked := c.locked || role = .master, stopStepStart := false, lastHeartbeat := s.tick
    rateppm := if role = .master then 0 else c.rateppm }).setDeputies t.deputies
  let up := allPorts.find? fun p => (s1.routePorts t.master).contains p && (match s1.portCfg p with
    | some e => prfTree e = 1
    | none => false)
  if role = .master then s1 else s1.modCas fun c => { c with parent := (up.map (·.val)).getD 31 }

/-- Bridge adders and ring relays follow a new LINK body: what the old one's held has no place in it (R363). -/
def State.switchLinks (s : State) : State :=
  forAllOf allPorts (fun p s => s.modPort p fun x => { x with bridge := [] }) (s.modCas fun c => { c with relays := [] })

/-- A port whose peer entry changed retrains (R316, R363). -/
def State.switchPorts (s : State) (old : Option ImgCfg) : State :=
  let was (p : Fin 18) : Option (BitVec 128) :=
    (old.bind fun g => g.ports.find? fun x => x.module = s.selfId && x.port = p.val).map (·.entry)
  let peer (e : Option (BitVec 128)) : Option (Nat × Nat × Nat) := e.map fun x => (prfRole x, prfPeer x, prfPeerPort x)
  forAllOf allPorts (fun p s =>
    if (s.port p).st = .up && peer (was p) ≠ peer (s.portCfg p) then s.startRetrain p else s) s

/-- Spans of a borrower whose LOAN entry differs are freed, and the borrower is told (R266). -/
def State.switchLoans (s : State) (old : Option ImgCfg) (g : ImgCfg) : State :=
  let entry (x : Option ImgCfg) (b : Nat) : Option LoanCfg := x.bind fun y => y.loans.find? fun l => l.borrower = b
  let ended (l : LoanSpan) : Bool := entry old l.borrower ≠ entry (some g) l.borrower
  let told := ((allHalves.flatMap fun h => (s.half h).loans.filter ended).map (·.borrower)).eraseDups
  told.foldl State.refuseSpan (forAllOf allHalves (fun h s => s.modHalf h fun y => { y with
    loans := y.loans.filter fun l => !ended l }) s)

/-- Places of the family that has become active are compared with its image (R357). -/
def State.compareFamily (s : State) (g : ImgCfg) : State :=
  (List.range 16).foldl (fun s p =>
    let x := s.imgPlace p
    match x.cfg with
    | some v =>
      if x.st = .verified && v.familyId = g.familyId then
        (match familyDiffers g v with
          | some (t, o) => s.rejectPlace p 0x0906 t o
          | none => s)
      else s
    | none => s) s

/-- The census of a family that was not the last to train is initialised, both banks (R364), and the scale region takes
the initial records its image supplies (R240). DESIGN CHOICE (log entry 78, unsafe): the spec does not say when an evaluation
image's own initial records are written; here at each switch to it, unless its scale region is the training image's, which an
evaluation leaves as it was (R268, R269). -/
def State.switchCensus (s : State) (g : ImgCfg) : State :=
  if g.eval then
    (if s.img.lastTrainCfg.map (·.scaleBase) = some g.scaleBase then s else s.initScales g)
  else
    let step := s.cas.markerStep.toNat
    let s1 := if s.img.lastTrainCfg.map (·.familyId) = some g.familyId then s
      else ((s.initCensus g.censusBase step 0).initCensus g.censusBase step 1).initScales g
    s1.modImg fun i => { i with lastTrainCfg := some g }

/-! ### Replay after a fence (R414 to R416) -/

def ImgCfg.runEntriesOf (g : ImgCfg) (c : Fin 8) : List (BitVec 256) :=
  let k := CoreCfg.ofImg g c
  (g.runList.drop k.runFirst).take k.runCount

def entryTid (w : BitVec 256) : Nat := fld w 23 0

def ImgCfg.startsStep (g : ImgCfg) (c : Fin 8) (w : BitVec 256) : Bool :=
  match g.prog c.val (entryTid w) with
  | some o => hdrStepStart (g.word o)
  | none => false

/-- The stack-homed slots of a fenced core that the incoming image places on surviving cores, with an identical entry:
old core and slot, new core and slot (R414). The same slot ID goes first, then the lowest core and slot. -/
def State.newHomes (s : State) (c : Fin 8) (old : Option ImgCfg) (g : ImgCfg) : List (Nat × Nat × Nat × Nat) :=
  let mine : List SlotCfg := match old with
    | some o => o.slots.filter fun x => x.core = c.val && (slotEntOf x.entry).home
    | none => []
  mine.filterMap fun x =>
    let fits : List SlotCfg := g.slots.filter fun y =>
      y.entry = x.entry && !s.coreFenced (fin8 y.core) && slotOf old y.core y.slot ≠ some x.entry
    match fits.find? (fun y => y.slot = x.slot), fits.head? with
    | some y, _ => some (c.val, x.slot, y.core, y.slot)
    | none, some y => some (c.val, x.slot, y.core, y.slot)
    | none, none => none

/-- The steward's copies become the state of the slots that moved, and requests follow them (R414). -/
def State.moveSlots (s : State) (c : Fin 8) (old : Option ImgCfg) (g : ImgCfg) : State :=
  let moved := s.newHomes c old g
  let copies := (s.core c).stewSlots
  let s1 := moved.foldl (fun (s : State) m => s.setSlot (fin8 m.2.2.1) m.2.2.2 (tabGet {} copies m.2.1)) s
  s1.modImg fun i => { i with
    redirects := (i.redirects.map fun r => match moved.find? fun m => m.1 = r.2.2.1 && m.2.1 = r.2.2.2 with
      | some m => (r.1, r.2.1, m.2.2.1, m.2.2.2)
      | none => r) ++ moved }

/-- Where a task of the fenced core goes on: the first surviving core whose run list names it, with the acquisitions whose
slots moved there under the same ID. -/
def State.handOver (s : State) (c : Fin 8) (g : ImgCfg) : State :=
  let ts := (s.core c).seq.inherit
  ts.foldl (fun (s : State) t =>
    match allCores.find? fun d => !s.coreFenced d && (g.runEntriesOf d).any fun w => entryTid w = t.entry.tid with
    | some d =>
      let kept := t.holds.filter fun h => s.img.redirects.contains (c.val, h.slot, d.val, h.slot)
      s.modSeq d fun x => { x with inherit := x.inherit ++ [{ t with holds := kept, moveHolds := [] }] }
    | none => s) (s.modSeq c fun x => { x with inherit := [] })

/-- The entries of a run list that carry STEP_START; the first entry, at which the list restarts, where none does (R176, R185). -/
def ImgCfg.stepStarts (g : ImgCfg) (c : Fin 8) : List Nat :=
  let l := g.runEntriesOf c
  match (List.range l.length).filter fun j => g.startsStep c (l.getD j 0) with
  | [] => [0]
  | a :: r => a :: r

/-- Which of the run list's STEP_START entries is the last at or before a position, in an order that wraps (R176, R416). -/
def startBefore (starts : List Nat) (i : Nat) : Nat :=
  match (starts.filter (· ≤ i)).length with
  | 0 => starts.length - 1
  | n + 1 => n

/-- Where WQ0 of a core restarts for a step (R416): the last STEP_START entry at or before the core's oldest unretired task of that
step; on a core without one, the STEP_START entry of the step, counted from the entry it has reached and the steps it has begun. -/
def State.restartAt (s : State) (g : ImgCfg) (ts : List Task) (step : BitVec 32) (c : Fin 8) : Nat :=
  let l := g.runEntriesOf c
  let starts := g.stepStarts c
  let n := starts.length
  let x := (s.core c).seq
  let mine := (List.range l.length).find? fun j => ts.any fun t => t.step = step && t.entry.tid = entryTid (l.getD j 0)
  let k := match mine with
    | some j => startBefore starts j
    | none =>
      let o := startBefore starts (if x.runPos = 0 then l.length - 1 else x.runPos - 1)
      match x.q0Steps.idxOf? step with
      | some j => (o + 1 + j) % n
      | none => ((o : Int) + step.toNat - x.wq0Step.toNat).emod n |>.toNat
  starts.getD k 0

/-- WQ0 of a surviving core restarts at the oldest step with unretired work, and passes over what has retired (R416). -/
def State.restartCore (s : State) (g : ImgCfg) (ts : List Task) (steps : List (BitVec 32)) (c : Fin 8) : State :=
  let at_ := s.restartAt g ts (steps.headD (s.core c).seq.wq0Step) c
  s.modSeq c fun x => { x with
    runPos := at_, runWrapped := false, skipping := false, q0Steps := steps, replaySteps := steps
    wq0Step := steps.headD x.wq0Step }

/-- The steps from the oldest with unretired run-list work to the current one. -/
def State.stepsToReplay (s : State) (ts : List Task) : List (BitVec 32) :=
  if !s.cas.markerSeen then []
  else
    let now := s.cas.markerStep.toNat
    let first := ts.foldl (fun m t => min m t.step.toNat) now
    (List.range (now + 1 - first)).map fun i => BitVec.ofNat 32 (first + i)

def State.restartAll (s : State) (g : ImgCfg) : State :=
  let live := allCores.filter fun c => !s.coreFenced c
  let ts := (live.flatMap fun c => (s.core c).seq.inherit).filter fun t => t.queue = 0 && t.code ≠ 0xFFFF
  let steps := s.stepsToReplay ts
  forAllOf live (fun c s => s.restartCore g ts steps c) s

/-! ### Completion (R362, R363, R410) -/

/-- The fence path's swap is done: the fenced core's slots and tasks move, every WQ0 restarts, and the replay begins
(R411, R414, R416). -/
def State.fenceSwapped (s : State) (f : FencePath) (old : Option ImgCfg) (g : ImgCfg) : State :=
  let c := fin8 f.core
  let s1 := (((s.moveSlots c old g).handOver c g).restartAll g)
  let left := allCores.flatMap fun d => ((s1.core d).seq.inherit.filter fun t => t.code ≠ 0xFFFF).map
    (fun t => (t.queue, t.entry.tid)) ++ (s1.core d).seq.retryQ.map fun t => (t.queue, t.entry.tid)
  s1.modGlb fun x => { x.notePhase f (fun l => { l with swap := s.phaseUs f.since }) with
    fencePath := if left = [] then none else some { f with phase := 4, since := s.tick, left := left } }

/-- SWAP_COMPLETE: the switch effects, and admission resumes under the new image (R128, R243, R363, R364, R410). -/
def execSwapComplete (s : State) : Outcome State Fault Refusal :=
  let w := s.img.swap
  match s.img.active with
  | some (_, g) =>
    if w.phase ≠ .switching then .next s
    else
      let old := s.img.shadow.map (·.2)
      let family : Bool := match old with
        | some o => o.familyId = g.familyId
        | none => false
      let link : Bool := match old with
        | some o => o.secCrcs[6]? = g.secCrcs[6]?
        | none => false
      let cause := match s.glb.fencePath with
        | some f => if w.mode = 2 then f.cause else 0
        | none => 0
      let s0 := if w.mode = 0 then (s.switchCensus g).runDueLead else s.switchCensus g
      let s1 := forAllOf (allCores.filter fun c => !s.coreFenced c)
        (fun c s => s.switchCore c old g family (w.mode = 0 && s.cas.markerSeen)) s0
      let s2 := ((if link then s1 else (s1.switchRoles g).switchLinks).switchPorts old).switchLoans old g
      let s3 := if family then s2 else forAllOf allHalves (fun h s => s.modHalf h fun y => { y with retSets := Vector.replicate 2 [] })
        (s2.modRed fun r => { r with
          finished := [], lateShares := [], senders := [], shifts := [], orders := [], notes := [], fallback := [], anchorReset := [] })
      let s4 := ((forAllOf allHalves (fun h s => s.modHalf h fun y => { y with morHigh := 0 }) s3).noteMorHigh).modImg fun i => { i with
        swap := {}, stopAdmit := false, moraineStop := false, variantMissing := false
        redirects := if family then i.redirects else []
        swapCount := satAdd 32 i.swapCount 1
        lastSwap := lastSwapWord w.mode false ((s.tick - w.tick) / 1000) cause }
      let s5 := match s.glb.fencePath with
        | some f => if w.mode = 2 then s4.fenceSwapped f old g else s4
        | none => s4
      let s6 := (if s5.omitsFenced g || s5.glb.fencePending ≠ [] then s5 else s5.missVariant).compareFamily g
      .next ((s6.deliverHeld.msix 2).nextFence)
  | none => .next s

/-- SWAP_READY_TIMEOUT: a block has not answered READY by 20 µs: nothing switches (R362). A FENCE swap's tasks have ended;
they restart on the active image. -/
def execSwapReadyTimeout (s : State) : Outcome State Fault Refusal :=
  let w := s.img.swap
  if w.phase ≠ .preparing || decide (s.tick < w.tick + 20000) then .next s
  else
    let s1 := s.abortSwap 0x0908
    if w.mode ≠ 2 then .next s1
    else
      let s2 := match s.img.active with
        | some (_, g) => s1.restartAll g
        | none => s1
      .next (s2.modGlb fun g => { g with fencePath := none }).nextFence

/-! ### Fences that Oztas decides (R24, R409 to R411, R421, R422) -/

/-- Oztas runs, and the module is not fenced: it can decide a fence (R22, R409). -/
def State.decidesFences (s : State) : Bool := s.oz.up && !s.glb.moduleFenced

/-- The codes whose kind is a fence of a core (R424): a repeated hard fault, spares exhausted, a failed directed check, a
failed scratchpad bank, and the self-test. -/
def coreFenceCauses : List (BitVec 16) := [0x0120, 0x0121, 0x0122, 0x0203, 0x0C06]

/-- The codes whose kind is a fence of a stack (R424): the retirement limit, a failed channel, a repeated rime mismatch, and
what training and test find at start-up. -/
def stackFenceCauses : List (BitVec 16) := [0x0505, 0x0506, 0x0702, 0x0C03, 0x0C04]

/-- The codes whose kind is a fence of a half-die (R424): its PLLs, and the bridge at start-up. -/
def halfFenceCauses : List (BitVec 16) := [0x0A07, 0x0C05, 0x0C07]

/-- The codes whose kind is a fence of the module (R424): tamper, no valid firmware, the minimum set lost. -/
def moduleFenceCauses : List (BitVec 16) := [0x0B03, 0x0C02, 0x0C09]

/-- CORE_FENCE: Oztas fences a core for a cause of the core domain (R14, R22, R411); its staging, swap and replay follow. -/
def execCoreFence (c : Fin 8) (cause : BitVec 16) (detail : BitVec 32) (s : State) : Outcome State Fault Refusal :=
  if s.decidesFences && coreFenceCauses.contains cause then .next (s.fenceCore c cause detail) else .next s

/-- STK_CHANNEL_FAILED: a channel interface fails to retrain (R226): the steward stops admitting to the stack and reports to
Oztas (R22), which fences it in the next tick, or by STACK_FENCE once it runs. -/
def execStkChannelFailed (k : Fin 32) (channel : Nat) (s : State) : Outcome State Fault Refusal :=
  if s.stackFenced k || (s.stack k).stopped.isSome then .next s
  else .next ((s.modStack k fun x => { x with stopped := some channel }).raise 0x0506 (unit := k.val)
    (detail := BitVec.ofNat 32 channel))

/-- Oztas fences the stacks whose stewards have stopped them and reported (R22, R226, R421). -/
def State.decideStops (s : State) : State :=
  if !s.decidesFences then s
  else forAllOf (allStacks.filter fun k => (s.stack k).stopped.isSome && !s.stackFenced k) (fun k s =>
    (s.fenceStack k 0x0506 (BitVec.ofNat 32 ((s.stack k).stopped.getD 0))).failSharesOn k) s

/-- STACK_FENCE: Oztas fences a stack for a cause of the stack domain; shares whose pages lay there fail (R14, R22, R226,
R421). -/
def execStackFence (k : Fin 32) (cause : BitVec 16) (s : State) : Outcome State Fault Refusal :=
  if s.decidesFences && stackFenceCauses.contains cause then
    .next ((s.fenceStack k cause (BitVec.ofNat 32 ((s.stack k).stopped.getD 0))).failSharesOn k)
  else .next s

/-- HALF_FENCE: a half-die is fenced for a cause of its domain, with all it holds; shares whose pages lay there fail (R14, R24,
R409, R421, R422). -/
def execHalfFence (h : Fin 2) (cause : BitVec 16) (detail : BitVec 32) (s : State) : Outcome State Fault Refusal :=
  if s.decidesFences && halfFenceCauses.contains cause then
    .next (forAllOf (allStacks.filter fun k => stackHalf k = h) (fun k s => s.failSharesOn k) (s.fenceHalf h cause detail))
  else .next s

/-- MODULE_FENCE: the module is fenced into management only, for a cause of its domain (R14, R409). -/
def execModuleFence (cause : BitVec 16) (detail : BitVec 32) (s : State) : Outcome State Fault Refusal :=
  if s.oz.up && moduleFenceCauses.contains cause then .next (s.fenceModule cause detail) else .next s

end Sys2Proof.Machine
end

