-- ==== Sys2Proof/Machine/Startup.lean ====
section
/-! DEFINITION. From 48 V to service-ready: resets, the start-up steps and what each does, self-test findings and the
fence record (R398 to R406, R479, R483, R484). -/

namespace Sys2Proof.Machine

open Host

/-! ### What a reset leaves (R11, R127, R211, R219, R224, R399) -/

/-- A failed row takes its bank's next free spare without a copy, or its page is RETIRED (R219, R221); the flash record
keeps it (R224). -/
def State.remapAtReset (s : State) (k : Fin 32) (key : Nat) : State :=
  let x := s.stack k
  let r := x.row key
  let bank := key / 65536
  match (if r.depth < 2 then x.freeSpare bank else none) with
  | some i =>
    (s.modStack k fun y =>
      let z := y.setRow key {
        st := if r.depth = 0 then .remapped1 else .remapped2, depth := r.depth + 1, spares := r.spares ++ [i] }
      { z with spareUsed := tabSet 0 z.spareUsed bank (i + 1) }).writeRemap k key
  | none =>
    let p := pageOfRow k key
    (s.modStack k fun y =>
      let z := y.setRow key { r with st := .retired }
      { z with retired := if z.retired.contains p then z.retired else z.retired ++ [p] }).writeRemap k key

/-- At every reset the rows that were PENDING, or whose copy had not flipped, take effect (R219, R220). -/
def State.settleRows (s : State) : State :=
  forAllOf allStacks (fun k s =>
    let x := s.stack k
    let due := (x.rows.filter fun r => r.2.st = .pending || r.2.st = .copying).map (·.1)
    ((x.copyQ.filter fun key => !due.contains key) ++ due).foldl (fun s key => s.remapAtReset k key) s) s

/-- A cold reset during test state, or before a zeroisation's erasure has been verified, leaves no secret that it destroys
(R445, R493). -/
def State.finishErasure (s : State) : State :=
  if s.oz.zeroiseTick.isSome || s.tap.testState then s.eraseSecrets s.oz.zeroiseTamper else s

/-- An FX7's factory-fenced core is fenced from the first, whatever starts afterwards (R1). -/
def State.factoryFence (s : State) : State :=
  if s.fuses.isFx7 then s.isolateCore (fin8 s.fuses.factoryCore) else s

/-- The module after a cold reset: everything at its reset value but fuses, flash and the standby rail's latch (R11,
R398). -/
def State.coldStart (s : State) : State :=
  let s := s.finishErasure.settleRows
  State.factoryFence { State.reset with
    pending := s.pending, freeCtr := s.freeCtr, out := s.out, fuses := s.fuses, flash := s.flash
    tap := { s.tap with testState := false, testReady := false, drive := .functional }
    pwr := { State.reset.pwr with
      standbyTamper := s.pwr.standbyTamper, standbyTick := s.pwr.standbyTick, inputMv := s.pwr.inputMv }
    host := { State.reset.host with perst := s.host.perst }
    oz := { State.reset.oz with addrSel := s.oz.addrSel, smbAddr := 0x60 + s.oz.addrSel.toNat } }

/-- A unit of the fence record is held fenced without a test, and reported (R403). -/
def State.holdUnit (s : State) (r : FenceRec) : State :=
  let s1 := s.raise 0x0C0B (detail := BitVec.ofNat 32 (r.dom + r.unit * 8))
  if r.dom = 0 then
    (s1.isolateCore (fin8 r.unit)).modGlb fun g => { g with heldCores := g.heldCores ||| (1#8 <<< (r.unit % 8)) }
  else if r.dom = 1 then
    (s1.markStack (fin32 r.unit)).modGlb fun g => { g with heldStacks := g.heldStacks ||| (1#32 <<< (r.unit % 32)) }
  else
    let h := fin2 r.unit
    let s2 := forAllOf (allCores.filter fun c => coreHalf c = h) (fun c s => s.isolateCore c) s1
    let s3 := forAllOf (allStacks.filter fun k => stackHalf k = h) (fun k s => s.markStack k) s2
    let s4 := forAllOf (allPorts.filter fun p => portHalf p = h) (fun p s => s.markPort p) s3
    s4.modGlb fun g => { g with
      fencedHalves := g.fencedHalves ||| (1#2 <<< h.val), fencedEths := g.fencedEths ||| (1#2 <<< h.val) }

/-- The held units are tested again when RETEST is set together with FULL (R403). -/
def State.retests (s : State) : Bool := s.glb.stRetest && s.glb.stFull

/-- The factory fence of an FX7 (R1), then the units of the fence record, unless they are to be tested again (R403). -/
def State.holdRecorded (s : State) : State :=
  let s1 := s.factoryFence
  if s1.retests then s1 else s1.flash.fenceRecord.foldl (fun s r => s.holdUnit r) s1

/-- The module at the start of a warm reset: the Oztas island with its fault log, its keys, the RWS fields, the timebase and
the host link stay; sessions, counts and every other register go (R11, R399, R443, R460). It begins at the main-rails step. -/
def State.warmStart (s : State) : State :=
  let s := s.settleRows
  let full := s.glb.stFull || s.glb.fullRequested
  let g : Glb := { State.reset.glb with
    step := 4, stFull := s.glb.stFull, stRetest := s.glb.stRetest, bootOp := s.glb.bootOp, fullLast := full
    coldStart := false, startTick := s.tick, stepTick := s.tick, bootTimes := s.glb.bootTimes
    log := s.glb.log, faultHead := s.glb.faultHead, faultTail := s.glb.faultTail, unreadAll := s.glb.unreadAll
    seen := s.glb.seen, faultFlags := s.glb.faultFlags }
  let ended := s.oz.sessions ≠ []
  let t : State := { State.reset with
    pending := s.pending, freeCtr := s.freeCtr, out := s.out, fuses := s.fuses, flash := s.flash, tap := s.tap
    tick := s.tick, glb := g
    img := { State.reset.img with moduleId := s.img.moduleId }
    pwr := { State.reset.pwr with
      standbyTamper := s.pwr.standbyTamper, standbyTick := s.pwr.standbyTick
      inputMv := s.pwr.inputMv, inputMa := s.pwr.inputMa, telemetry := s.pwr.telemetry, convAlert := s.pwr.convAlert
      alertLow := s.pwr.convAlert, alertLimit := if s.pwr.convAlert then 7 else 0, alertHighTick := s.tick }
    host := { State.reset.host with
      linkUp := s.host.linkUp, configUp := s.host.configUp, perst := s.host.perst, perstRisen := s.host.perstRisen
      rate := s.host.rate, width := s.host.width, flit := s.host.flit, cxl := s.host.cxl }
    oz := { State.reset.oz with
      up := true, identityKey := s.oz.identityKey, wrappingKey := s.oz.wrappingKey, drbgTick := s.tick
      fwCopyB := s.oz.fwCopyB, fwVersion := s.oz.fwVersion, fwSec := s.oz.fwSec, debugOpen := s.oz.debugOpen
      zeroiseTick := s.oz.zeroiseTick, zeroiseTamper := s.oz.zeroiseTamper, smbAddr := s.oz.smbAddr
      i3cAddr := s.oz.i3cAddr, addrSel := s.oz.addrSel } }
  (if ended then { t with host := { t.host with msixPending := 1#64 <<< 45 } } else t).holdRecorded

/-! ### The steps (R398, R400, R401) -/

/-- Latest times of R398, in ms, steps numbered from 0. -/
def latestMs : Nat → Nat
  | 0 => 2 | 1 => 10 | 2 => 60 | 3 => 100 | 4 => 150 | 5 => 3200 | 6 => 3230 | 7 => 3290 | 8 => 3310 | 9 => 3800 | _ => 4000

/-- The Latest time of a step in ns from the start: 60 ms earlier in a warm start (R399), 40 s later from the stack step on
under the full self-test (R401), and later from the zeroing step on for a slower BOOT_OP (R400). -/
def State.latestNs (s : State) (i : Nat) : Nat :=
  let f := opMhz s.glb.bootOp.toNat
  let base := latestMs i * 1000000 - (if s.glb.coldStart then 0 else 60000000)
  base + (if s.glb.fullLast && 5 ≤ i then 40000000000 else 0)
    + (if 7 ≤ i then 53700000 * (4800 - f) / f else 0)

/-- A start-up is running: the module is starting, or, fenced by tamper or in recovery, its management comes up (R398, R405,
R446). In M3 by request nothing starts (R394), and with the main rails latched off or the hardware trip latched nothing past the
island does (R392, R481). -/
def State.booting (s : State) : Bool :=
  s.pwr.on_ && !s.pwr.off && (s.glb.bootStop = 0 || s.glb.bootStop = 2) && decide (s.glb.step < 11)
    && ((s.glb.mode = .starting && s.pwr.state = 0) || (s.glb.moduleFenced && decide (s.glb.step < 4)))
    && (!(s.pwr.railsLatched || s.pwr.tripped) || decide (s.glb.step < 4))

/-- A step has ended: GLB_STATUS.STEP and GLB_BOOT_TIMES take it (R425, R466). -/
def State.stepEnded (s : State) (i : Nat) : State :=
  s.modGlb fun g => { g with
    step := i + 1, stepTick := s.tick
    bootTimes := tabSet 0 g.bootTimes i (BitVec.ofNat 16 (min 65535 ((s.tick - g.startTick) / 1000000))) }

/-- Step 1: the island is powered. A tamper latched in M4 is completed before anything else; a module whose identity is killed offers
management only at every start (R446). -/
def State.bootIsland (s : State) : State :=
  if s.pwr.standbyTamper ≠ 0 then
    (s.tamper s.pwr.standbyTamper s.pwr.standbyTick).modPwr fun p => { p with standbyTamper := 0, standbyTick := 0 }
  else if s.fuses.identityKilled then (s.modGlb fun g => { g with moduleFenced := true }).toManagement
  else s

/-- No firmware copy starts: recovery, which offers what management only does (R398, R405). A module fenced by tamper stays in
management only (R446). -/
def State.bootRecovery (s : State) : State :=
  let s1 := if s.glb.moduleFenced then s.raise 0x0C02
    else (s.fenceModule 0x0C02).modGlb fun g => { g with mode := .recovery }
  (s1.modGlb fun g => { g with bootStop := 2 }).modOz fun o => { o with up := true }

/-- A firmware copy runs (R398): the DRBG is seeded (R439), the keys of the device secret are derived (R443), the records of flash take effect, and a trip that waited is reported (R392, R403). -/
def State.startFirmware (s : State) (copyB : Bool) (version sec : BitVec 32) : State :=
  let s1 := s.draw.modOz fun o => { o with
    up := true, fwCopyB := copyB, fwVersion := version, fwSec := sec, drbg := 0, drbgTick := s.tick
    identityKey := if s.fuses.identityKilled then none else some (Config.identityKey s.fuses.deviceSecret)
    wrappingKey := if s.fuses.identityKilled then none else some (Config.wrappingKey s.fuses.deviceSecret) }
  let s2 := if s1.flash.tripReport then
      (s1.raise 0x0A08 (detail := s1.flash.tripSensor.zeroExtend 32)).modFlash fun f => { f with tripReport := false } else s1
  s2.holdRecorded

/-- Step 3: copy A, or copy B if A fails, or recovery (R398). -/
def State.bootFirmware (s : State) (found : BootFound) : State :=
  match (if found.badCopyA then none else s.flash.fwCopyA), (if found.badCopyB then none else s.flash.fwCopyB) with
  | some v, _ => s.startFirmware false v s.flash.fwSecA
  | none, some v => (s.startFirmware true v s.flash.fwSecB).raise 0x0C01
  | none, none => s.bootRecovery

/-- A link of a rate, width and mode the port supports (R426, R436). -/
def HostLink.valid (l : HostLink) : Bool :=
  (l.width = 16 || l.width = 8 || l.width = 4 || (l.width = 1 && !l.cxl)) && decide (l.rate.toNat ≤ 5)
    && (if l.rate = 5 then l.flit else !l.flit)

/-- The PCIe link is up at a rate, a width and in a mode; MSI-X messages that waited for it leave (R428, R435, R466). No
link comes up while a test instruction has the pins (R492). -/
def State.hostLinkUp (s : State) (l : HostLink) : State :=
  if l.valid && s.tap.drive = .functional && !s.pwr.tripped then (s.modHost fun h => { h with
    linkUp := true, rate := l.rate, width := l.width, flit := l.flit, cxl := l.cxl, stopped := false,
      dstate := if l.d3hot then 1 else 0 }).msixFlush
  else s

/-- Step 4: the configuration space answers, unless PERST_N holds the link down (R398, R484). -/
def State.bootConfig (s : State) (found : BootFound) : State :=
  if s.host.perst then
    (s.modHost fun h => { h with configUp := true, perstRisen := true }).hostLinkUp found.link
  else s

/-- Step 5: rails in regulation, PLL B locked at OP7 on each half, the bridge trained (R398). -/
def State.bootRails (s : State) (late : List Nat) : State :=
  let s1 := forAllOf allHalves (fun h s =>
    if s.halfFenced h then s
    else if late.contains h.val then s.fenceHalf h 0x0C05
    else s.modHalf h fun x => { x with up := true, pll := 1, running := 7, granted := 7, target := 7, railMv := opRail 7 }) s
  let s2 := if late.contains 2 then s1.fenceHalf 1 0x0C07 else s1
  if s2.stewardUp 0 && s2.stewardUp 1 then
    forAllOf allHalves (fun h s => s.modHalf h fun x => { x with bridgeOpen := true }) s2
  else s2

/-- A stack's remap tables and defective spares from the flash record (R224). -/
def State.loadRemaps (s : State) (k : Fin 32) : State :=
  let recs := s.flash.remaps.filter fun r => r.stack = k.val
  let bad := (s.flash.defectiveSpares.filter fun x => x / 2 ^ 15 = k.val).map (· % 2 ^ 15)
  s.modStack k fun x =>
    let x1 : Stack := { x with spareBad := bad.foldl (fun t b => tabSet false t b true) x.spareBad }
    recs.foldl (fun (y : Stack) r =>
      let y1 := y.setRow r.row {
        st := if r.retiring then .retired else if r.depth = 1 then .remapped1 else if r.depth = 2 then .remapped2 else .normal
        depth := r.depth, spares := r.spares }
      let p := pageOfRow k r.row
      { y1 with
        spareUsed := tabSet 0 y1.spareUsed (r.row / 65536)
          (r.spares.foldl (fun m i => max m (i + 1)) (tabGet 0 y1.spareUsed (r.row / 65536)))
        retired := if r.retiring && !y1.retired.contains p then y1.retired ++ [p] else y1.retired }) x1

/-- A spare the self-test finds defective leaves its bank's pool and is to be recorded within 10 ms (R220, R224, R402). -/
def State.loseSpare (s : State) (k : Fin 32) (spare : Nat) : State :=
  s.draw.modStack k fun x => { x with
    spareBad := tabSet false x.spareBad spare true
    dueSpares := x.dueSpares ++ [(s.tick + Config.freeNat s.freeCtr % 10000001, spare)] }

/-- Step 6: a stack trains and is tested: what the test finds is remapped at once, and more than 256 retired pages fence it
(R398, R402). -/
def State.bootStack (s : State) (k : Fin 32) (late : List Nat) (found : BootFound) : State :=
  if s.stackFenced k || !s.stewardUp (stackHalf k) then s
  else if late.contains k.val then s.fenceStack k 0x0C03
  else
    let s1 := (found.badSpares.filter fun x => x.1 = k.val).foldl (fun s x => s.loseSpare k (x.2 % 2 ^ 15)) (s.loadRemaps k)
    let s2 := (found.failedRows.filter fun x => x.1 = k.val).foldl (fun s x =>
      if ((s.stack k).row x.2).st = .retired then s else s.remapAtReset k x.2) s1
    if 256 < (s2.stack k).retired.length then s2.fenceStack k 0x0C04
    else s2.modStack k fun x => { x with st := .ready }

/-- Step 7: PLL A locked at BOOT_OP and switched to (R375, R398, R400). -/
def State.bootChainring (s : State) (late : List Nat) : State :=
  let op := s.glb.bootOp.toNat
  forAllOf allHalves (fun h s =>
    if !s.stewardUp h then s
    else if late.contains h.val then s.fenceHalf h 0x0C05
    else s.modHalf h fun x => { x with
      pll := 0, running := op, granted := op, target := op, railMv := opRail op, switches := satAdd 32 x.switches 1 }) s

/-- Step 8: the stacks are zeroed (R211). -/
def State.bootZero (s : State) (late : List Nat) : State :=
  forAllOf allStacks (fun k s =>
    if late.contains k.val && s.stewardUp (stackHalf k) then s.fenceStack k 0x0C03 else s)
    { s with mem := [], mpoison := [], symErr := [] }

/-- Groups that the fuses and the field-sparing record both set, with different contents (R54): column?, group. -/
def State.spokeConflicts (s : State) (c : Fin 8) : List (Nat × Bool × Nat) :=
  let differ (fuse field : Tab (BitVec 8)) (g : Nat) : Bool :=
    let a := tabGet 0 fuse (c.val * 8 + g)
    let b := tabGet 0 field (c.val * 8 + g)
    a ≠ 0 && b ≠ 0 && a ≠ b
  (((List.range 8).filter (differ s.fuses.spokeRow s.flash.fieldRow)).map fun g => (c.val, false, g))
    ++ ((List.range 8).filter (differ s.fuses.spokeCol s.flash.fieldCol)).map fun g => (c.val, true, g)

/-- The spoke map of a core: of each group the fuse entry, or the field-sparing record's where there is none; a conflict of the
two is reported to Oztas (R54). -/
def State.buildSpokes (s : State) (c : Fin 8) : State :=
  let build (fuse field : Tab (BitVec 8)) : Tab (BitVec 8) :=
    (List.range 8).foldl (fun t g =>
      let b := tabGet 0 fuse (c.val * 8 + g)
      tabSet 0 t g (if b = 0 then tabGet 0 field (c.val * 8 + g) else b)) []
  (s.modArr c fun a => { a with
    spokeRow := build s.fuses.spokeRow s.flash.fieldRow, spokeCol := build s.fuses.spokeCol s.flash.fieldCol }).modOz fun o =>
      { o with spokeConflicts := (o.spokeConflicts.filter fun x => x.1 ≠ c.val) ++ s.spokeConflicts c }

/-- A defect the array's self-test finds: spared where its group is FREE and it is at most the eighth, else the core is fenced
(R54, R56, R402). A defective spare line makes its group DEAD (R53). -/
def State.bootLine (s : State) (c : Fin 8) (x : LineFound) : State :=
  let a := (s.core c).arr
  if s.coreFenced c then s
  else if a.canSpare x.column (x.line % 512) then
    let g := x.line % 512 / 64
    let b : BitVec 8 := if x.spare then 0xC0 else fieldByte x.line
    (s.modArr c fun a =>
      if x.column then { a with spokeCol := tabSet 0 a.spokeCol g b } else { a with spokeRow := tabSet 0 a.spokeRow g b }).modFlash
      fun f =>
        if x.column then { f with fieldCol := tabSet 0 f.fieldCol (c.val * 8 + g) b }
        else { f with fieldRow := tabSet 0 f.fieldRow (c.val * 8 + g) b }
  else s.fenceCore c 0x0121 (BitVec.ofNat 32 x.line)

/-- Step 9: a core's scratchpad is zeroed, its spoke map built, and the core tested (R54, R127, R398, R402). -/
def State.bootCore (s : State) (c : Fin 8) (late : List Nat) (found : BootFound) : State :=
  if s.coreFenced c || !s.stewardUp (coreHalf c) then s
  else if late.contains c.val || found.badScratch.contains c then s.fenceCore c 0x0C06
  else
    let s1 := (found.lines.filter fun x => x.core = c).foldl (fun s x => s.bootLine c x) ((s.modScr c fun _ => {}).buildSpokes c)
    if s1.coreFenced c then s1 else s1.modCore c fun k => { k with up := true, gated := false }

/-- An Ethernet port whose lanes fail is fenced (R398, R402). -/
def State.fenceEth (s : State) (e : Fin 2) : State :=
  if bit s.glb.fencedEths e.val then s
  else ((s.raise 0x0C08 (unit := 18 + e.val) (fenced := true)).noteFence 2 (18 + e.val) 0x0C08).modGlb fun g =>
    { g with fencedEths := g.fencedEths ||| (1#2 <<< e.val) }

/-- The PCIe port's SerDes does not calibrate: BOOT_PORT_CAL, and the minimum service set is incomplete (R398, R404). -/
def State.failHostPort (s : State) : State :=
  ((s.raise 0x0C08 (unit := 20) (fenced := true)).noteFence 2 20 0x0C08).modHost fun h => { h with portFailed := true }

/-- Step 10: the SerDes calibrate; a lane group that fails or is late fences its port (R398, R402): 0 to 17 Prifa, 18 and 19 Ethernet, 20
PCIe. -/
def State.bootPorts (s : State) (late : List Nat) (found : BootFound) : State :=
  let bad (n : Nat) : Bool := late.contains n || found.failedPorts.contains n
  let s1 := forAllOf allPorts (fun p s =>
    if s.portFenced p || !s.stewardUp (portHalf p) then s
    else if bad p.val then s.fencePort p 0x0C08
    else s.modPort p fun x => { x with calibrated := true }) s
  let s2 := forAllOf allHalves (fun e s => if s.stewardUp e && bad (18 + e.val) then s.fenceEth e else s) s1
  if bad 20 then s2.failHostPort else s2

/-- The places are rebuilt from the reachable store pages when some page has lost both copies (R406). -/
def State.rebuildPlaces (s : State) : State :=
  if s.glb.fencedStacks = 0 && (allStacks.all fun k => (s.stack k).retired = []) then s
  else
    let ok := (List.range 16384).filter fun i => !s.storePageLost i
    if ok.length = 16384 then s else s.modImg fun i => { i with storePages := ok, nplaces := ok.length / 1024 }

/-- Units of the record that were tested again and are not fenced leave it (R403). -/
def State.clearRetested (s : State) : State :=
  if !s.retests then s
  else
    let stays (r : FenceRec) : Bool :=
      if r.dom = 0 then s.coreFenced (fin8 r.unit) else if r.dom = 1 then s.stackFenced (fin32 r.unit)
      else s.halfFenced (fin2 r.unit)
    s.modFlash fun f => { f with fenceRecord := f.fenceRecord.filter stays }

/-- What the self-test found is in flash before service-ready (R402). -/
def State.recordAll (s : State) : State := forAllOf allStacks (fun k s => s.recordDue k (s.tick + 10000000)) s

/-- Step 11: the minimum service set is checked; the module is in service, or offers management only (R398, R404). A change from M3
to M0 is complete (R394, R435). -/
def State.bootService (s : State) : State :=
  let s1 := (s.recordAll.clearRetested.modGlb fun g => { g with fullRequested := false }).modPwr fun p => { p with leaving := false }
  if !s1.minimumSet then s1.fenceModule 0x0C09
  else
    let s2 := ((s1.rebuildPlaces.modGlb fun g => { g with mode := .service }).modHost fun h => { h with served := true }).modPwr
      fun p => { p with state := 0 }
    if s.pwr.leaving then s2.msix 3 else s2

/-- What a step does at its end, with the units that have missed its time. -/
def State.bootStep (s : State) (i : Nat) (late : List Nat) (found : BootFound) : State :=
  match i with
  | 0 => s.bootIsland
  | 1 => s
  | 2 => s.bootFirmware found
  | 3 => s.bootConfig found
  | 4 => s.bootRails late
  | 5 => forAllOf allStacks (fun k s => s.bootStack k late found) s
  | 6 => s.bootChainring late
  | 7 => s.bootZero late
  | 8 => forAllOf allCores (fun c s => s.bootCore c late found) s
  | 9 => s.bootPorts late found
  | _ => s.bootService

/-- STARTUP_STEP_END: the running step ends by its Latest time and the next begins (R398). The configuration-space step, for whose
lateness the table gives nothing, ends whenever it ends, and the last step cannot miss its time. -/
def execStartupStepEnd (found : BootFound) (s : State) : Outcome State Fault Refusal :=
  let i := s.glb.step
  if s.booting && (decide (s.tick < s.glb.startTick + s.latestNs i) || i = 3 || i = 10) then .next ((s.stepEnded i).bootStep i [] found)
  else .next s

/-- STARTUP_STEP_TIMEOUT: a step misses its Latest time: the module stays dark, stops, or goes to recovery, or the units that
have not finished are fenced and the next step begins (R398). -/
def execStartupStepTimeout (late : List Nat) (found : BootFound) (s : State) : Outcome State Fault Refusal :=
  let i := s.glb.step
  if !s.booting || decide (s.tick < s.glb.startTick + s.latestNs i) || i = 3 || i = 10 then .next s
  else if i = 0 then .next (s.modGlb fun g => { g with bootStop := 3 })
  else if i = 1 then .next ((s.raise 0x0C0C).modGlb fun g => { g with bootStop := 1 })
  else if i = 2 then .next (s.stepEnded 2).bootRecovery
  else .next ((s.stepEnded i).bootStep i late found)

/-! ### Resets (R399, R479, R483, R484) -/

/-- POWER_ON: the input first rises to 38 V: the standby rail starts and samples the straps; with MOD_EN low the module waits
in M4 (R479, R485). -/
def execPowerOn (mv : Nat) (modEn : Bool) (straps : BitVec 2) (s : State) : Outcome State Fault Refusal :=
  if s.pwr.on_ || mv < 38000 then .next s
  else
    let t := ({ s with oz := { s.oz with addrSel := straps } }).coldStart
    .next { t with
      tap := {}
      pwr := { t.pwr with inputMv := mv, modEn := modEn, off := !modEn, state := if modEn then 0 else 4 } }

/-- INPUT_TURN_OFF: below 35 V for 100 µs the module powers down: only flash and fuses survive (R422, R479, R483). -/
def execInputTurnOff (mv : Nat) (s : State) : Outcome State Fault Refusal :=
  if !s.pwr.on_ || 35000 ≤ mv then .next s
  else
    let t := s.coldStart
    .next { t with tap := {}, pwr := { State.reset.pwr with on_ := false, inputMv := mv } }

/-- The module in M4: the island is held in reset and every content is lost; the standby rail alone works (R393, R483). -/
def State.enterM4 (s : State) (modEn : Bool) : State :=
  let t := s.coldStart
  { t with
    tap := s.tap
    tick := s.tick
    pwr := { t.pwr with modEn := modEn, off := true, state := 4 } }

/-- MOD_EN_LOW: low for 10 ms, from any state (R483). -/
def execModEnLow (s : State) : Outcome State Fault Refusal :=
  if s.pwr.on_ then .next (s.enterM4 false) else .next s

/-- MOD_EN_RISE: after such a low period, a cold reset; the straps take effect (R483, R485). -/
def execModEnRise (straps : BitVec 2) (s : State) : Outcome State Fault Refusal :=
  if !s.pwr.on_ || s.pwr.modEn then .next s
  else .next ({ s with oz := { s.oz with addrSel := straps } }).coldStart

/-- A warm reset starts, unless only a cold one leaves the present state (R392, R399, R405, R481). -/
def State.warmReset (s : State) : State :=
  if !s.oz.up || s.managed || s.glb.bootStop ≠ 0 || s.pwr.tripped
      || s.pwr.railsLatched || decide (s.glb.step < 4) then s
  else s.warmStart

/-- WARM_RESET: a hot reset of the PCIe link, or a write of WARM to GLB_RESET (R399, R426). -/
def execWarmReset (hot : Bool) (s : State) : Outcome State Fault Refusal :=
  if hot then (if s.host.linkUp then .next s.warmReset else .next s)
  else .next (s.bar0Write 0x10 .oz true fun s => s.warmReset)

/-- The PCIe link goes down: the port is no longer bound (R452). -/
def State.dropHostLink (s : State) : State := (s.stopIde 0).modHost fun h => { h with linkUp := false }

/-- PERST_FALL: with the host port up, a fundamental reset, which is a warm reset; the link is held down (R399, R484). -/
def execPerstFall (s : State) : Outcome State Fault Refusal :=
  if !s.host.perst then .next s
  else if s.host.configUp then
    .next ((s.dropHostLink.warmReset).modHost fun h => { h with perst := false, configUp := false, linkUp := false })
  else .next (s.modHost fun h => { h with perst := false })

/-- PERST_RISE: the link is released; the configuration space answers when start-up has reached it (R484). -/
def execPerstRise (link : HostLink) (s : State) : Outcome State Fault Refusal :=
  if s.host.perst then .next s
  else
    let s1 := s.modHost fun h => { h with perst := true, perstRisen := true }
    if s1.oz.up && decide (4 ≤ s1.glb.step) then
      .next ((s1.modHost fun h => { h with configUp := true }).hostLinkUp link)
    else .next s1

end Sys2Proof.Machine
end

