-- ==== Sys2Proof/Machine/Power.lean ====
section
/-! DEFINITION. Power states, the 48 V input's protection and the converter's telemetry (R393, R394, R453, R454, R480,
R481). -/

namespace Sys2Proof.Machine

open Host

/-- Nothing is admitted and no descriptor is in flight (R394). -/
def State.quiet (s : State) : Bool :=
  allCores.all fun c => (s.core c).seq.tasks = [] && (s.core c).mov.groupDone = [] && (s.core c).mov.flying.all fun f => f.2.isNone

/-- A power-state change completes: vector 3 (R435). -/
def State.powerState (s : State) (n : Nat) : State :=
  (s.modPwr fun p => { p with state := n, m1Wake := none }).msix 3

/-- A forbidden request: PWR_STATE_REFUSED, the state unchanged (R394). -/
def State.refusePower (s : State) : State := s.raise 0x0A09 (detail := s.pwr.request.zeroExtend 32)

/-- A write of PWR_STATE: the request is kept in [2:0], then acted on (R394, R396). -/
def State.pwrRequest (s : State) (n : BitVec 3) (act : State → State) : State :=
  s.bar0Write 0x05000000 .oz false fun s => act (s.modPwr fun p => { p with request := n })

/-- From M2 the rails, PLLs and clocks come back; each stack controller starts its refresh count afresh (R394). -/
def State.leaveM2 (s : State) : State :=
  let s1 := forAllOf allCores (fun c s => s.modCore c fun k => { k with gated := k.fenced }) s
  forAllOf allStacks (fun k s => s.modStack k fun x => { x with selfRefresh := false, owed := [], ahead := [] }) s1

/-- From M3 the start-up sequence runs from its main-rails step (R394, R398): the island has kept its keys, its sessions and
its log. -/
def State.leaveM3 (s : State) : State :=
  let full := s.glb.stFull
  ((s.modGlb fun g => { g with
      step := 4, mode := .starting, coldStart := false, startTick := s.tick, stepTick := s.tick, fullLast := full
      fencedCores := 0, heldCores := 0, fencedStacks := 0, heldStacks := 0, fencedPorts := 0, fencedHalves := 0
      fencedEths := 0 }).modHost fun h => { h with served := false }).modPwr (fun p => { p with state := 0, leaving := true })
    |>.holdRecorded

/-- PWR_STATE_M0: from M1 at once, from M2 through M1, from M3 by the start-up sequence (R393, R394). -/
def execPwrStateM0 (s : State) : Outcome State Fault Refusal :=
  .next (s.pwrRequest 0 fun s =>
    if s.managed || s.pwr.tripped || s.pwr.railsLatched then s.refusePower
    else match s.pwr.state with
      | 0 => if s.glb.mode = .starting then s.refusePower else s
      | 1 => s.powerState 0
      | 2 => (s.leaveM2.powerState 1).powerState 0
      | _ => s.leaveM3)

/-- PWR_STATE_M1: the array and feeder clocks are gated, with nothing admitted and no descriptor in flight (R393, R394). -/
def execPwrStateM1 (s : State) : Outcome State Fault Refusal :=
  .next (s.pwrRequest 1 fun s =>
    if s.glb.mode = .service && s.pwr.state = 1 then s
    else if s.glb.mode = .service && s.pwr.state = 0 && s.quiet && !s.pwr.tripped && !s.pwr.railsLatched then s.powerState 1
    else s.refusePower)

/-- Every Prifa port is unused by the active image, or fenced (R394). -/
def State.portsUnused (s : State) : Bool :=
  allPorts.all fun p => s.portFenced p || (match s.portCfg p with
    | none => true
    | some e => prfRole e = 0)

/-- The module is listed in a membership epoch (R299, R394). -/
def State.listed (s : State) : Bool :=
  (s.cas.members.any fun m => m.2.2.2 = s.selfId)
    || (match s.cas.nextEpoch with
      | some e => e.2.any fun m => m.2.2.2 = s.selfId
      | none => false)

/-- The sequence into M2 (R393, R394): the tier caches are written back and invalidated, the stacks enter self-refresh, the
PLLs and rails stop. -/
def State.enterM2 (s : State) : State :=
  let s1 := forAllOf allHalves (fun h s => if s.stewardUp h then s.tcFlush h else s) s
  let s2 := forAllOf allStacks (fun k s =>
    if (s.stack k).st = .ready then s.modStack k fun x => { x with selfRefresh := true } else s) s1
  let s3 := forAllOf allHalves (fun h s => (s.modHalf h fun x => { x with switch := .idle }).modEth h fun e =>
    { e with link := false }) s2
  (forAllOf allCores (fun c s => s.modCore c fun k => { k with gated := true }) s3).powerState 2

/-- PWR_STATE_M2: from M1 only, outside every epoch and with no port in use (R394). -/
def execPwrStateM2 (s : State) : Outcome State Fault Refusal :=
  .next (s.pwrRequest 2 fun s =>
    if s.glb.mode = .service && s.pwr.state = 2 then s
    else if s.glb.mode = .service && s.pwr.state = 1 && !s.listed && s.portsUnused && !s.pwr.tripped && !s.pwr.railsLatched then
      s.enterM2
    else s.refusePower)

/-- M3 by request (R393): the Oztas island, its keys and its flash go on; every other unit and content is lost, the cap and the
estimator's gain among them. A place that was VERIFYING or LOADING has left that state (R435). -/
def State.enterM3 (s : State) : State :=
  let s := s.recordAll.settleRows
  let moved := s.img.places.any fun x => x.2.st = .verifying || x.2.st = .loading
  let t := s.haltUnits
  let u : State := { t with
    cores := Vector.replicate 8 {}, halves := Vector.replicate 2 {}, stks := Vector.replicate 32 {}
    mem := [], mpoison := [], symErr := [], red := {}, ports := Vector.replicate 18 {}, cas := {}
    eths := Vector.replicate 2 {}, fencedViews := Vector.replicate 2 none, img := { moduleId := s.img.moduleId } }
  let p := s.pwr
  let v := ((u.modGlb fun g => { g with fencePath := none, fencePending := [] }).modPwr fun q => { State.reset.pwr with
    on_ := q.on_, modEn := q.modEn, off := q.off, request := q.request, tripped := q.tripped, railsLatched := q.railsLatched
    statusCause := q.statusCause, telemetry := q.telemetry, inputMv := q.inputMv, inputMa := q.inputMa
    convAlert := q.convAlert, alertLow := q.convAlert, alertLimit := if p.convAlert then 7 else 0, alertHighTick := s.tick
    standbyTamper := q.standbyTamper, standbyTick := q.standbyTick }).powerState 3
  if moved then v.msix 2 else v

/-- PWR_STATE_M3: accepted in any state (R394). -/
def execPwrStateM3 (s : State) : Outcome State Fault Refusal :=
  .next (s.pwrRequest 3 fun s => if s.pwr.state = 3 then s else s.enterM3)

/-- PWR_STATE_M4: accepted in any state; with MOD_EN high the module leaves it only by MOD_EN (R394, R483). -/
def execPwrStateM4 (s : State) : Outcome State Fault Refusal :=
  .next (s.pwrRequest 4 fun s => s.enterM4 true)

/-- M1_WAKE: a doorbell, token, claim or fill that waits, or a known marker 2 µs ahead, takes the module from M1 to M0 (R394). -/
def execM1Wake (s : State) : Outcome State Fault Refusal :=
  let marker : Bool := match s.knownMarker with
    | some t => decide (t ≤ s.tick + 2000)
    | none => false
  if s.pwr.state = 1 && (s.pwr.m1Wake.isSome || marker) then .next (s.powerState 0) else .next s

/-! ### The 48 V input (R480, R481) -/

/-- INPUT_DIP: below 40 V for 20 µs the converter drives ALERT_N low (R391, R480). -/
def execInputDip (mv : Nat) (s : State) : Outcome State Fault Refusal :=
  if !s.pwr.on_ || 40000 ≤ mv || s.pwr.convAlert then .next s
  else .next ((s.modPwr fun p => { p with convAlert := true, inputMv := mv }).alert)

/-- INPUT_RECOVER: at 40 V or above for 20 µs the converter releases ALERT_N (R480); the alert ends by ALERT_RELEASE. -/
def execInputRecover (mv : Nat) (s : State) : Outcome State Fault Refusal :=
  if !s.pwr.on_ || mv < 40000 || !s.pwr.convAlert then .next s
  else .next (s.modPwr fun p => { p with convAlert := false, inputMv := mv, alertHighTick := s.tick })

/-- The main rails latch off: every unit but the Oztas island stops and loses its content until a cold reset (R422, R481). -/
def State.latchRails (s : State) (cause : Nat) : State :=
  (s.haltUnits.modPwr fun p => { p with railsLatched := true, statusCause := cause })

/-- OVERCURRENT_TRIP: above 46 A for 1 ms, or 80 A for 1 µs (R481). -/
def execOvercurrentTrip (ma : Nat) (s : State) : Outcome State Fault Refusal :=
  if !s.pwr.on_ || s.pwr.off || s.pwr.railsLatched || ma ≤ 46000 then .next s
  else .next ((s.latchRails 1).modPwr fun p => { p with inputMa := ma })

/-- OVERVOLTAGE_TRIP: above 62 V for 10 µs (R481). -/
def execOvervoltageTrip (mv : Nat) (s : State) : Outcome State Fault Refusal :=
  if !s.pwr.on_ || s.pwr.off || s.pwr.railsLatched || mv ≤ 62000 then .next s
  else .next ((s.latchRails 2).modPwr fun p => { p with inputMv := mv })

/-! ### Sideband (R453, R454) -/

/-- PMBUS_POLL: every 10 ms Oztas reads READ_VIN, READ_IIN, READ_VOUT, READ_TEMPERATURE_1 and STATUS_WORD (R453). In STATUS_WORD the
cause of a latch shows (R481), in bits the spec does not give. -/
def execPmbusPoll (vin iin vout temp status : BitVec 16) (s : State) : Outcome State Fault Refusal :=
  if !s.oz.up then .next s
  else .next (s.modPwr fun p => { p with
    telemetry := #v[vin.toNat, iin.toNat, vout.toNat, temp.toNat,
      (if p.statusCause = 0 then status else status ||| Config.latchStatus p.statusCause).toNat] })

/-- I3C_DYNAMIC_ADDRESS: the management pair becomes an I3C target when a controller assigns it an address (R454); it is
silent in M4. -/
def execI3cDynamicAddress (addr : BitVec 7) (s : State) : Outcome State Fault Refusal :=
  if !s.sideband then .next s else .next (s.modOz fun o => { o with i3cAddr := some addr.toNat })

end Sys2Proof.Machine
end

