-- ==== Sys2Proof/Machine/HostPort.lean ====
section
/-! DEFINITION. The host port: BAR2 and CXL.mem, the link, Function Level Reset, the fault log's tail, the CXL memory-device
mailbox and the status LEDs (R408, R426 to R437, R455). -/

namespace Sys2Proof.Machine

open Host

/-! ### Windows (R431, R432, R437) -/

/-- A completion leaves the host port: 0 successful, 1 Unsupported Request, 2 data marked poisoned. -/
def State.complete (s : State) (status : Nat) (data : List (BitVec 8)) : State :=
  (s.modHost fun h => { h with lastRead := data, lastUr := status = 1, lastPoison := status = 2 }).emit
    (.completion status data)

/-- A CXL.mem read answered with data marked poisoned (R432, R437): the manual gives the data no value, so it is free. -/
def State.completePoison (s : State) : State := s.draw.complete 2 (natLe 64 (Config.freeBits 512 s.freeCtr).toNat)

/-- BAR2_REQUEST: a request of the host's class at a local physical address: a read of up to 4,096 bytes within a page of 4 KiB,
a write of up to 512. A longer read is declined with UR (R7, R426), a longer write dropped. A refused read completes with UR; a
refused write is dropped; both are logged with their code (R212, R223, R431). In an unavailable window it is counted (R432). -/
def execBar2Request (write : Bool) (addr : BitVec 41) (len : Nat) (data : List (BitVec 8)) (s : State) :
    Outcome State Fault Refusal :=
  let n := if write then data.length else len
  let tooLong : Bool := decide ((if write then 512 else 4096) < n) || decide (4096 < addr.toNat % 4096 + n)
  if !s.host.linkUp || n = 0 then .next s
  else if !s.hostHears then .next (if write then s else s.complete 1 [])
  else if s.windowClosed then
    .next (if write then s.countUnavail else s.countUnavail.complete 1 [])
  else if tooLong then .next (if write then s else s.complete 1 [])
  else if write then .next (s.hostWrite addr.toNat data).2
  else
    match s.stackRead addr.toNat n with
    | (.ok bs, s1) => .next (s1.complete 0 bs)
    | (.error _, s1) => .next (s1.complete 1 [])

/-- The bytes of a CXL line that a write enables, sector by sector, none of which is written in part (R23). -/
def State.lineWrite (s : State) (a : Nat) (data : BitVec 512) (en : BitVec 64) : State :=
  ((s.passSlots a 64).serveWrites (sectorWrites a (natLe 64 data.toNat) ((List.range 64).map fun i => en.getLsbD i))).2

/-- CXL_MEM_REQUEST: a 64-byte line of the HDM range (R436). Where BAR2 would refuse, or the window is unavailable (always while
REQUIRE_BIND is 1), a read returns poisoned data and a write is dropped (R432, R437). -/
def execCxlMemRequest (write : Bool) (line : BitVec 35) (data : BitVec 512) (enable : BitVec 64) (s : State) :
    Outcome State Fault Refusal :=
  let a := line.toNat * 64
  if !s.host.linkUp || !s.host.cxl then .next s
  else if s.windowClosed || s.flash.requireBind then
    .next (if write then s.countUnavail else s.countUnavail.completePoison)
  else if write then .next (s.lineWrite a data enable)
  else
    match s.stackRead a 64 with
    | (.ok bs, s1) => .next (s1.complete 0 bs)
    | (.error _, s1) => .next (s1.completePoison)

/-! ### The link (R428, R434, R452) -/

/-- HOST_LINK_DOWN: HOST_LINK_DOWN is raised in M0 and M1; host queues stop, admitted tasks run on, the port is no longer
bound (R428, R452). -/
def execHostLinkDown (s : State) : Outcome State Fault Refusal :=
  if !s.host.linkUp then .next s
  else
    let s1 := if decide (s.pwr.state ≤ 1) && s.oz.up then s.raise 0x0B01 else s
    .next (s1.dropHostLink.modHost fun h => { h with stopped := true })

/-- HOST_LINK_RETRAIN: the link comes up again under the host's control (R428). -/
def execHostLinkRetrain (link : HostLink) (s : State) : Outcome State Fault Refusal :=
  if s.host.configUp && s.host.perst then .next (s.hostLinkUp link) else .next s

/-- FLR: every vector is masked, the IDE stream stops, the port is no longer bound and DOE sessions end; nothing else of the device
changes (R434). The port leaves D3hot, as PCIe has a function reset do (log entry 80). -/
def execFlr (s : State) : Outcome State Fault Refusal :=
  if !s.host.linkUp then .next s
  else .next (((s.modHost fun h => { h with msixUnmasked := 0, dstate := 0 }).stopIde 0).endSessions fun x => x.doe)

/-- GLB_FAULT_TAIL: the records from the old tail up to the index written are read; an index outside the unread records is
ignored (R408). -/
def execGlbFaultTail (idx : BitVec 8) (s : State) : Outcome State Fault Refusal :=
  .next (s.bar0Write 0x64 .oz true fun s =>
    let g := s.glb
    let unread := if g.faultHead = g.faultTail then (if g.unreadAll then 256 else 0) else (g.faultHead - g.faultTail).toNat
    let d := (idx - g.faultTail).toNat
    if d = 0 ∨ unread < d then s else s.modGlb fun g => { g with faultTail := idx, unreadAll := false })

/-! ### The CXL memory-device mailbox (R436) -/

/-- A command of the memory-device mailbox answers, while the port works as a CXL device. -/
def State.cxlAnswer (s : State) (data : List (BitVec 8)) : State :=
  if s.host.linkUp && s.host.cxl && s.oz.up then
    (s.modHost fun h => { h with cxlResp := data, cxlStatus := 0 }).emit (.response 4 0 data)
  else s

/-- IDENTIFY_MEMORY_DEVICE: firmware version, total and volatile capacity in units of 256 MiB, no persistent memory. -/
def execIdentifyMemoryDevice (s : State) : Outcome State Fault Refusal :=
  .next (s.cxlAnswer (natLe 16 s.oz.fwVersion.toNat ++ natLe 8 8192 ++ natLe 8 8192 ++ natLe 8 0))

/-- GET_HEALTH_INFO: whether a unit is fenced, the hottest stack in °C, corrected errors of the stacks. -/
def execGetHealthInfo (s : State) : Outcome State Fault Refusal :=
  let t := allHalves.foldl (fun m h => max m ((s.half h).hotStack.toNat / 4)) 0
  let ce := allStacks.foldl (fun n k => n + (s.stack k).ceCount) 0
  let bad := s.glb.fencedStacks ≠ 0 || s.glb.fencedHalves ≠ 0
  .next (s.cxlAnswer (natLe 1 (b2n bad) ++ natLe 2 t ++ natLe 4 (min ce (2 ^ 32 - 1))))

/-- GET_EVENT_RECORDS: the records of an event log, oldest first. -/
def execGetEventRecords (log : Nat) (s : State) : Outcome State Fault Refusal :=
  .next (s.cxlAnswer ((s.host.cxlEvents.filter fun e => e.1 = log).flatMap fun e => natLe 16 e.2.toNat))

/-- The oldest `n` records of a log are taken out. -/
def clearEvents (log : Nat) : Nat → List (Nat × BitVec 128) → List (Nat × BitVec 128)
  | 0, l => l
  | n + 1, l => clearEvents log n (removeFirst (fun e => e.1 = log) l)

def execClearEventRecords (log count : Nat) (s : State) : Outcome State Fault Refusal :=
  if s.host.linkUp && s.host.cxl && s.oz.up then
    .next ((s.modHost fun h => { h with cxlEvents := clearEvents log (min count h.cxlEvents.length) h.cxlEvents }).cxlAnswer [])
  else .next s

/-- GET_POISON_LIST: the poisoned sectors of an address range. -/
def execGetPoisonList (addr len : Nat) (s : State) : Outcome State Fault Refusal :=
  .next (s.cxlAnswer ((s.mpoison.filter fun x => x.2 && decide (addr ≤ x.1 * 32 ∧ x.1 * 32 < addr + len)).flatMap fun x =>
    natLe 8 (x.1 * 32)))

/-- GET_SUPPORTED_LOGS: one log, the fault log, with its size. -/
def execGetSupportedLogs (s : State) : Outcome State Fault Refusal := .next (s.cxlAnswer (natLe 2 1 ++ natLe 4 4096))

/-- CXL_GET_LOG: a part of that log. -/
def execCxlGetLog (offset len : Nat) (s : State) : Outcome State Fault Refusal :=
  .next (s.cxlAnswer ((s.faultLogBytes.drop offset).take len))

/-- GET_FW_INFO: two slots, the one that runs, and the versions they hold. -/
def execGetFwInfo (s : State) : Outcome State Fault Refusal :=
  .next (s.cxlAnswer (natLe 1 2 ++ natLe 1 (b2n s.oz.fwCopyB) ++ natLe 4 (s.flash.fwCopyA.getD 0).toNat
    ++ natLe 4 (s.flash.fwCopyB.getD 0).toNat))

/-! ### The status LEDs (R455) -/

/-- What an LED does: off, on, or blinking at a rate in hundredths of a hertz. -/
inductive Led | off | on | blink (centihertz : Nat)
  deriving DecidableEq, Repr

/-- Any unit is fenced. -/
def State.anyFenced (s : State) : Bool :=
  s.glb.fencedCores ≠ 0 || s.glb.fencedStacks ≠ 0 || s.glb.fencedPorts ≠ 0 || s.glb.fencedHalves ≠ 0 || s.glb.fencedEths ≠ 0

/-- LED_PWR_N (green) and LED_FAULT_N (amber): the first row of the table that applies (R455): the row of a
fenced unit, which asks for no power state, before that of M2. -/
def State.leds (s : State) : Led × Led :=
  if !s.pwr.on_ || s.pwr.off then (.off, .off)
  else if s.fuses.identityKilled || s.glb.bootStop = 1 || s.glb.bootStop = 2 then (.off, .blink 400)
  else if s.glb.moduleFenced || s.glb.mode = .managementOnly then (.off, .on)
  else if s.glb.mode = .starting then (.blink 100, .off)
  else if decide (s.pwr.state ≤ 2) && s.anyFenced then (.on, .blink 200)
  else if decide (s.pwr.state ≤ 1) then (.on, .off)
  else (.blink 25, .off)

/-- LED_LOC_N (blue) blinks at 1 Hz while OZ_LED.LOCATE is 1 (R455). -/
def State.locateLed (s : State) : Led := if s.oz.led then .blink 100 else .off

end Sys2Proof.Machine
end

