-- ==== Sys2Proof/Machine/Tap.lean ====
section
/-! DEFINITION. The test access port: its controller, its registers, its instructions and test state (R487 to R493). -/

namespace Sys2Proof.Machine

open Host

/-- Instruction codes (R488). -/
def irBypass : BitVec 8 := 0xFF
def irIdcode : BitVec 8 := 0x01
def irTestEnter : BitVec 8 := 0x10
def irSample : BitVec 8 := 0x02
def irExtest : BitVec 8 := 0x03
def irClamp : BitVec 8 := 0x04
def irHighz : BitVec 8 := 0x05
def irPulse : BitVec 8 := 0x06
def irTrain : BitVec 8 := 0x07

/-- The data register an instruction selects (R488). -/
inductive TapReg | bypass | identification | boundary
  deriving DecidableEq, Repr

/-- The register selected: codes not assigned, and test-only codes outside test state, select the bypass register (R488). -/
def Tap.selected (t : Tap) : TapReg :=
  if t.ir = irIdcode then .identification
  else if t.testReady && (t.ir = irSample || t.ir = irExtest || t.ir = irPulse || t.ir = irTrain) then .boundary
  else .bypass

/-- Who drives the covered pins under an instruction (R492). -/
def Tap.driver (t : Tap) (ir : BitVec 8) : TapDrive :=
  if !t.testReady then .functional
  else if ir = irExtest then .boundary
  else if ir = irClamp then .clamp
  else if ir = irHighz then .highz
  else if ir = irPulse then .pulse
  else if ir = irTrain then .train
  else .functional

/-- The identification code (R489). -/
def State.idCode (s : State) : BitVec 32 :=
  BitVec.ofNat 32 (1 + 0x6A7 * 2 + (if s.fuses.isFx7 then 0x8F07 else 0x8F08) * 2 ^ 12 + s.fuses.stepping.toNat % 16 * 2 ^ 28)

/-- The next controller state of IEEE 1149.1 (R487). -/
def tapNext (st : TapSt) (tms : Bool) : TapSt :=
  match st with
  | .testLogicReset => if tms then .testLogicReset else .runTestIdle
  | .runTestIdle => if tms then .selectDr else .runTestIdle
  | .selectDr => if tms then .selectIr else .captureDr
  | .captureDr => if tms then .exit1Dr else .shiftDr
  | .shiftDr => if tms then .exit1Dr else .shiftDr
  | .exit1Dr => if tms then .updateDr else .pauseDr
  | .pauseDr => if tms then .exit2Dr else .pauseDr
  | .exit2Dr => if tms then .updateDr else .shiftDr
  | .updateDr => if tms then .selectDr else .runTestIdle
  | .selectIr => if tms then .testLogicReset else .captureIr
  | .captureIr => if tms then .exit1Ir else .shiftIr
  | .shiftIr => if tms then .exit1Ir else .shiftIr
  | .exit1Ir => if tms then .updateIr else .pauseIr
  | .pauseIr => if tms then .exit2Ir else .pauseIr
  | .exit2Ir => if tms then .updateIr else .shiftIr
  | .updateIr => if tms then .selectDr else .runTestIdle

/-- TEST_ENTER in the instruction register with TEST_N low: the module zeroises and passes into management only; a mailbox
command in progress ends without a response. In test state, with TEST_N high and in M4 it does nothing (R491). -/
def State.enterTest (s : State) : State :=
  if s.tap.testN || s.tap.testState || s.pwr.off then s
  else
    let s1 := (s.zeroise false).modOz fun o => { o with
      mbxBusy := none, debugPending := false, mbxState := if o.mbxState = 1 then 0 else o.mbxState }
    s1.toManagement.modTap fun t => { t with testState := true }

/-- The covered pins follow the instruction in the register. Where it takes them, the PCIe port and every lane stop working (R492). -/
def State.takePins (s : State) : State :=
  let d := s.tap.driver s.tap.ir
  let s1 := s.modTap fun t => { t with drive := d }
  if d = .functional then s1 else s1.dropHostLink

/-- ERASURE_VERIFIED: the flash-held secrets that zeroisation destroys are erased (R443); after tamper the owner credential
too. SEC_ZEROISED follows, except after tamper; in test state the test-only instructions become available (R491), and one already in the instruction register takes the pins (R492); a
command that waited for it answers, and DEBUG_OPEN opens its window (R449). -/
def execErasureVerified (s : State) : Outcome State Fault Refusal :=
  if s.oz.zeroiseTick.isNone then .next s
  else
    let t := s.oz.zeroiseTamper
    let s1 := s.eraseSecrets t
    let s2 := if t then s1 else (s1.raise 0x0B04).msix 45
    let s3 := (s2.modTap fun x => { x with testReady := x.testReady || x.testState }).takePins.modOz fun o => { o with
      zeroiseTick := none, zeroiseTamper := false, debugOpen := o.debugOpen || o.debugPending, debugPending := false }
    match s3.oz.mbxBusy with
    | some path => .next (s3.respond path 0 [])
    | none => .next s3

/-- Update-IR: the instruction takes effect (R488, R492). -/
def State.loadInstr (s : State) (ir : BitVec 8) : State :=
  let s1 := (s.modTap fun t => { t with ir := ir, irShift := ir }).takePins
  if ir = irTestEnter then s1.enterTest else s1

/-- TRST_N, or Test-Logic-Reset: IDCODE is loaded; test state is not affected (R487). -/
def State.tapReset (s : State) : State :=
  s.modTap fun t => { t with st := .testLogicReset, ir := irIdcode, drive := .functional, tdo := none }

/-- TAP_RESET: the TAP works while 48 V is present (R487). -/
def execTapReset (s : State) : Outcome State Fault Refusal :=
  if s.pwr.on_ then .next s.tapReset else .next s

/-- An instruction reaches Update-IR. -/
def State.tapInstr (s : State) (ir : BitVec 8) : State := if s.pwr.on_ then s.loadInstr ir else s

def execBypass (s : State) : Outcome State Fault Refusal := .next (s.tapInstr irBypass)
def execIdcode (s : State) : Outcome State Fault Refusal := .next (s.tapInstr irIdcode)
/-- TEST_ENTER, with the level of TEST_N (R491). -/
def execTestEnter (testN : Bool) (s : State) : Outcome State Fault Refusal :=
  .next ((s.modTap fun t => { t with testN := testN }).tapInstr irTestEnter)
def execSamplePreload (s : State) : Outcome State Fault Refusal := .next (s.tapInstr irSample)
def execExtest (s : State) : Outcome State Fault Refusal := .next (s.tapInstr irExtest)
def execClamp (s : State) : Outcome State Fault Refusal := .next (s.tapInstr irClamp)
def execHighz (s : State) : Outcome State Fault Refusal := .next (s.tapInstr irHighz)
def execExtestPulse (s : State) : Outcome State Fault Refusal := .next (s.tapInstr irPulse)
def execExtestTrain (s : State) : Outcome State Fault Refusal := .next (s.tapInstr irTrain)

/-! ### Edges of TCK (R487, R490) -/

/-- The place of the THERMTRIP_N cell counted from TDO: the hardware trip alone drives that pin, low while latched (R490,
R492). -/
def thermtripBit : Nat := 7

/-- The boundary register's captured pins. Cell k from TDI is bit 562 - k, so that bit 0 is next to TDO (R490). -/
def State.observe (s : State) (pins : BitVec 563) : BitVec 563 :=
  if s.pwr.tripped then pins &&& ~~~(1#563 <<< thermtripBit) else pins ||| (1#563 <<< thermtripBit)

/-- What a rising edge does in the state it meets: capture, or shift TDI in (R487 to R490). -/
def State.tapShift (s : State) (tdi : Bool) : State :=
  let t := s.tap
  match t.st with
  | .captureIr => s.modTap fun t => { t with irShift := if t.testState then 0x05 else 0x01 }
  | .shiftIr => s.modTap fun t => { t with irShift := (t.irShift >>> 1) ||| (if tdi then 0x80 else 0) }
  | .captureDr =>
    (match t.selected with
    | .bypass => s.modTap fun t => { t with bypass := false }
    | .identification => s.modTap fun t => { t with idShift := s.idCode }
    | .boundary => s.modTap fun t => { t with bndShift := t.pins })
  | .shiftDr =>
    (match t.selected with
    | .bypass => s.modTap fun t => { t with bypass := tdi }
    | .identification => s.modTap fun t => { t with idShift := (t.idShift >>> 1) ||| (if tdi then 0x80000000 else 0) }
    | .boundary => s.modTap fun t => { t with
        bndShift := (t.bndShift >>> 1) ||| (if tdi then 1#563 <<< 562 else 0) })
  | _ => s

/-- TDO in a shifting state is the selected register's last stage; elsewhere it is high impedance (R485, R487). -/
def Tap.out (t : Tap) : Option Bool :=
  match t.st with
  | .shiftIr => some (bit t.irShift 0)
  | .shiftDr => (match t.selected with
    | .bypass => some t.bypass
    | .identification => some (bit t.idShift 0)
    | .boundary => some (bit t.bndShift 0))
  | _ => none

/-- What a falling edge does: Update-IR and Update-DR take effect, then TDO changes (R487). -/
def State.tapFall (s : State) : State :=
  let s1 := match s.tap.st with
    | .updateIr => s.loadInstr s.tap.irShift
    | .updateDr => if s.tap.selected = TapReg.boundary then s.modTap fun t => { t with bnd := t.bndShift } else s
    | .testLogicReset => s.tapReset
    | _ => s
  s1.modTap fun t => { t with tdo := t.out }

/-- TCK_EDGE: TDI and TMS are sampled on the rising edge, TDO changes on the falling one (R487). -/
def execTckEdge (rising tdi tms testN : Bool) (pins : BitVec 563) (s : State) : Outcome State Fault Refusal :=
  if !s.pwr.on_ then .next s
  else
    let s1 := s.modTap fun t => { t with pins := s.observe pins, testN := testN }
    if rising then .next ((s1.tapShift tdi).modTap fun t => { t with st := tapNext t.st tms })
    else .next s1.tapFall

/-! ### The cells of the boundary register (R490, R492) -/

/-- A boundary cell: the control cell of a lane group, the driver of a lane of a group, a test receiver, an input, an output, or the
cell that observes THERMTRIP_N. Lane groups: Prifa ports 0 to 17, Ethernet ports 18 and 19, the PCIe port 20. -/
inductive Cell
  | control (group : Nat)
  | driver (group : Nat)
  | receiver
  | input
  | output
  | observe
  deriving DecidableEq, Repr

/-- The group of a lane in the order of the register: PCIe lanes 0 to 15, Prifa 0 to 17, Ethernet 0 and 1. -/
def laneGroup (lane : Nat) : Nat :=
  if lane < 16 then 20 else if lane < 160 then (lane - 16) / 8 else 18 + (lane - 160) / 8

/-- The k-th cell from TDI (R490). -/
def cellOf (k : Nat) : Cell :=
  if k < 21 then .control k
  else if k < 549 then (if (k - 21) % 3 = 0 then .driver (laneGroup ((k - 21) / 3)) else .receiver)
  else if k < 555 then (if k % 2 = 1 then .input else .output)
  else if k = 555 then .observe
  else if k < 559 then .output
  else .input

/-- What drives a covered pin: the module as usual, nothing, or a level. -/
inductive PinDrive | functional | highz | level (high : Bool)
  deriving DecidableEq, Repr

/-- Bit of the k-th cell from TDI in the boundary register: cell 562 is next to TDO. -/
def Tap.cellBit (t : Tap) (k : Nat) : Bool := bit t.bnd (562 - k)

/-- The pin of the k-th cell from TDI (R492): under an instruction that takes the pins, an output follows its cell, a lane's driver too
while its group's control cell enables it, and every other pin is undriven; HIGHZ leaves all undriven. The hardware trip alone
drives THERMTRIP_N. DESIGN CHOICE (log entry 80, unsafe): a control cell of 1 enables its group; the spec gives no polarity. -/
def State.boundaryPin (s : State) (k : Nat) : PinDrive :=
  match s.tap.drive, cellOf k with
  | _, .observe => .functional
  | .functional, _ => .functional
  | .highz, _ => .highz
  | _, .driver g => if s.tap.cellBit g then .level (s.tap.cellBit k) else .highz
  | _, .output => .level (s.tap.cellBit k)
  | _, _ => .highz

/-- The pin of an LED (R455, R492): low while it is lit, high while it is dark, unless a test instruction has it. DESIGN CHOICE (log
entry 80, safe): a blinking LED is lit in the first half of each period of the timebase; the spec gives the rate alone. -/
def State.ledPin (s : State) (led : Led) (k : Nat) : PinDrive :=
  match s.boundaryPin k, led with
  | .functional, .off => .level true
  | .functional, .on => .level false
  | .functional, .blink c => .level (decide (100000000000 / c ≤ 2 * (s.tick % (100000000000 / c))))
  | d, _ => d

/-- LED_PWR_N, LED_FAULT_N and LED_LOC_N (R455, R490). -/
def State.ledPins (s : State) : PinDrive × PinDrive × PinDrive :=
  (s.ledPin s.leds.1 556, s.ledPin s.leds.2 557, s.ledPin s.locateLed 558)

end Sys2Proof.Machine
end

