-- ==== Sys2Proof/Machine/RegRead.lean ====
section
/-! DEFINITION. What BAR0 reads give: every register's fields, bit by bit, and which blocks answer (R425, R430, R432, R457 to
R473). A read has no effect; these functions only look at the state. -/

namespace Sys2Proof.Machine

open Host

/-- Fields of a register word: lowest bit, width and value of each. -/
def pack (l : List (Nat × Nat × Nat)) : Nat := l.foldl (fun n f => n + f.2.2 % 2 ^ f.2.1 * 2 ^ f.1) 0

/-- Spoke bytes, group 0 lowest (R53). -/
def spokeBytes (t : Tab (BitVec 8)) (n : Nat) : Nat := leNat ((List.range n).map fun i => tabGet 0 t i)

/-- 64-bit word `i` of a wide register. -/
def word64 {w : Nat} (x : BitVec w) (i : Nat) : Nat := x.toNat / 2 ^ (64 * i) % 2 ^ 64

/-! ### GLOBAL and OZTAS mailbox (R425, R457, R466) -/

def glbModeCode : GlbMode → Nat
  | .starting => 0
  | .service => 1
  | .managementOnly => 2
  | .recovery => 3

def State.glbWord (s : State) (off : Nat) : Nat :=
  let g := s.glb
  let l := g.fenceLast
  match off with
  | 0x00 => pack [(0, 4, b2n s.fuses.isFx7), (4, 8, s.fuses.stepping.toNat), (16, 48, s.fuses.serial.toNat)]
  | 0x08 => pack [(0, 4, g.step), (4, 3, glbModeCode g.mode), (7, 1, b2n g.fullLast),
      (32, 1, b2n g.stFull), (33, 1, b2n g.stRetest), (40, 3, g.bootOp.toNat)]
  | 0x18 => s.fenceCoreWord
  | 0x20 => pack [(0, 32, g.fencedStacks.toNat), (32, 32, g.heldStacks.toNat)]
  | 0x28 => pack [(0, 18, g.fencedPorts.toNat), (20, 2, g.fencedHalves.toNat), (24, 2, g.fencedEths.toNat)]
  | 0x30 => pack ((List.range 4).map fun i => (16 * i, 16, (tabGet 0 g.bootTimes i).toNat))
  | 0x38 => pack ((List.range 4).map fun i => (16 * i, 16, (tabGet 0 g.bootTimes (4 + i)).toNat))
  | 0x40 => pack ((List.range 3).map fun i => (16 * i, 16, (tabGet 0 g.bootTimes (8 + i)).toNat))
  | 0x48 => pack [(0, 3, l.dom.toNat), (3, 5, l.unit.toNat), (8, 16, l.cause.toNat), (32, 12, l.detect.toNat),
      (44, 12, l.isolate.toNat), (56, 8, l.stage.toNat)]
  | 0x50 => pack [(0, 4, l.stage.toNat / 256), (4, 12, l.swap.toNat), (16, 12, l.replay.toNat)]
  | 0x60 => pack [(0, 8, g.faultHead.toNat), (32, 8, g.faultTail.toNat)]
  | 0x68 => pack [(0, 32, g.faultLost)]
  | 0x70 => pack [(0, 32, g.ownErrCount), (32, 27, g.ownErrOffset.toNat), (59, 1, b2n g.ownErrBar4)]
  | 0x78 => pack [(0, 32, g.faultFlags.toNat)]
  | _ =>
    if 0x1000 ≤ off ∧ off < 0x2000 then word64 (tabGet 0 g.log ((off - 0x1000) / 16)) (off / 8 % 2) else 0

def State.ozWord (s : State) (off : Nat) : Nat :=
  let o := s.oz
  let h := s.host
  match off with
  | 0x00 => s.ozStatus.toNat
  | 0x08 => pack [(0, 1, b2n s.flash.requireBind), (1, 1, b2n s.flash.sidebandCo)]
  | 0x10 => pack [(32, 2, o.mbxState.toNat), (36, 3, o.mbxResp.toNat), (48, 13, o.mbxLen)]
  | 0x18 => pack [(0, 32, o.mbxIgnored)]
  | 0x20 => h.unavail % 2 ^ 64
  | 0x28 => pack [(0, 3, h.rate.toNat), (4, 5, h.width.toNat), (9, 1, b2n h.flit), (10, 1, b2n h.cxl), (11, 2, h.ide.toNat),
      (13, 2, h.dstate.toNat)]
  | 0x30 => word64 s.cas.lastEvent 0
  | 0x38 => word64 s.cas.lastEvent 1
  | 0x40 => b2n o.led
  | 0x48 => pack [(0, 3, s.flash.tamperCause.toNat), (8, 56, s.flash.tamperTick.toNat)]
  | _ =>
    if 0x1000 ≤ off ∧ off < 0x2000 then leNat ((List.range 8).map fun i => tabGet 0 o.req (off - 0x1000 + i))
    else if 0x2000 ≤ off ∧ off < 0x3000 then leNat ((List.range 8).map fun i => tabGet 0 o.resp (off - 0x2000 + i))
    else 0

/-! ### CORE blocks (R66, R132, R160, R203, R271, R467, R468) -/

def partModeCode : PartMode → Nat
  | .full => 0
  | .half => 1
  | .quarter => 2

def State.arrWord (s : State) (c : Fin 8) (off : Nat) : Nat :=
  let a := (s.core c).arr
  match off with
  | 0x8000 => pack [(0, 2, partModeCode a.mode), (32, 11, passLatency a.mode)]
  | 0x8008 =>
    pack ([(0, 4, sparesIn a.spokeRow 0 8), (4, 4, sparesIn a.spokeCol 0 8),
      (8, 4, ((List.range 8).filter fun g => spokeState (tabGet 0 a.spokeRow g) = 3).length
        + ((List.range 8).filter fun g => spokeState (tabGet 0 a.spokeCol g) = 3).length),
      (12, 4, a.defects)] ++ (List.range 4).map fun p => (16 + 4 * p, 4, a.equaliser p))
  | 0x8010 => spokeBytes a.spokeRow 8
  | 0x8018 => spokeBytes a.spokeCol 8
  | 0x8020 => pack [(0, 4, a.suspect.toNat), (32, 22, a.hardWindow.toNat)]
  | 0x8028 => (match a.hardFirst with
    | some t => if s.tick < t + a.hardW * 1000000 then t % 2 ^ 64 else 0
    | none => 0)
  | 0x8030 => pack ((List.range 4).map fun p => (16 * p, 16, (s.part c (fin4 p)).pfault.toNat))
  | 0x8040 => a.bubbles
  | 0x8048 => a.swaps
  | 0x8050 => a.markerHold
  | _ => 0

def bufCode : BufSt → Nat
  | .empty => 0
  | .filling => 1
  | .full => 2
  | .reading => 3

/-- SCR_SLOT_STATE of a slot; slots the active image does not use read 0 in their BUF fields, as do buffers beyond DEPTH. -/
def State.slotWord (s : State) (c : Fin 8) (slot : Nat) : Nat :=
  let x := s.slotSt c slot
  match s.slotEnt c slot with
  | none => 0
  | some e =>
    pack (((List.range e.depth).map fun b =>
      let y := x.bufs.get (fin4 b)
      (10 * b, 10, bufCode y.st + y.fills % 16 * 4 + y.rels % 16 * 64))
      ++ [(40, 2, if e.versioned then x.neveBuf else x.wp), (42, 2, if e.versioned then x.firn else x.rp), (44, 1, if e.versioned then x.firn else 0), (45, 1, b2n (!e.versioned && x.bufs.any (·.neve))),
        (48, 14, x.epoch.toNat)])

def State.scrWord (s : State) (c : Fin 8) (off : Nat) : Nat :=
  let x := (s.core c).scr
  match off with
  | 0x9000 => pack [(0, 5, x.fixups.length), (8, 4, x.held.length), (16, 5, x.fixHigh), (32, 24, x.slotLimit.toNat)]
  | 0x9008 => pack [(0, 12, x.scrubInterval.toNat)]
  | 0x9010 => x.ceCount
  | 0x9018 => x.ueCount
  | 0x9020 => (match x.ueLast with
    | some r => pack [(0, 5, r % 32), (5, 12, r / 32), (31, 1, 1)]
    | none => 0)
  | 0x9028 => x.stallTotal
  | 0x9030 => x.stallFixup
  | 0x9038 => x.stallSlot
  | 0x9040 => pack [(0, 17, x.scrubRow), (17, 1, b2n x.scrubLate), (32, 32, x.scrubSweeps)]
  | 0x9048 => pack [(0, 32, x.claimRefused), (32, 8, x.fault.toNat)]
  | _ => if 0x10000 ≤ off ∧ off < 0x12000 then s.slotWord c ((off - 0x10000) / 8) else 0

def State.movWord (s : State) (c : Fin 8) (off : Nat) : Nat :=
  let m := (s.core c).mov
  match off with
  | 0xA000 => pack [(0, 1, b2n m.mode), (8, 8, m.gang.toNat), (32, 7, m.pfDepth.toNat)]
  | 0xA008 => pack [(0, 7, m.pfBudget.toNat)]
  | 0xA010 => m.bytes
  | 0xA018 => m.halfBytes
  | 0xA020 => m.turnBytes
  | 0xA028 => pack [(0, 32, m.inplace), (32, 32, m.staged)]
  | 0xA030 => pack [(0, 5, (m.flying.filter fun f => f.2.isSome).length), (8, 7, m.groupCount), (32, 7, m.fillQ.length),
      (48, 7, m.relQ.length)]
  | 0xA038 => pack [(0, 5, m.fault.toNat)]
  | 0xA040 => pack [(0, 16, m.lastTag.toNat), (16, 16, m.lastCode.toNat)]
  | _ => 0

def epochCode : EpochSt → Nat
  | .free => 0
  | .opened => 1
  | .settling => 2
  | .discarding => 3

/-- SEQ_STATUS.PART_p (R468). DESIGN CHOICE (log entry 78, unsafe): the spec does not say whether a partition counts as waiting for a
marker while a STEP_START task still stands at its queue's head (R203); here only an admitted task at WAIT_MARKER does. -/
def State.partCode (s : State) (c : Fin 8) (p : Fin 4) : Nat :=
  if (s.core c).seq.halted.any fun t => t.part = some p then 2
  else match s.partTask c p with
    | none => 0
    | some t => if t.st = .waitMarker then 3 else 1

def State.seqWord (s : State) (c : Fin 8) (off : Nat) : Nat :=
  let q := (s.core c).seq
  let open_ (i : Fin 2) : Bool := (q.epochs.get i).st ≠ .free
  let task (p : Nat) : Nat := match s.partTask c (fin4 p) with
    | some t => t.entry.tid % 2 ^ 24
    | none => 0
  let wq (n : Fin 3) : Wq := q.wqs.get n
  let head (n : Fin 3) : Nat := (wq n).head.toNat % 2 ^ (wq n).log2.toNat
  match off with
  | 0xB000 => pack ([(8, 1, b2n (q.halted.any fun t => t.part.isNone)), (9, 2, b2n (open_ 0) + b2n (open_ 1)),
      (12, 2, epochCode (q.epochs.get 0).st), (14, 2, epochCode (q.epochs.get 1).st)]
      ++ (List.range 4).map fun p => (2 * p, 2, s.partCode c (fin4 p)))
  | 0xB008 => pack [(0, 24, task 0), (32, 24, task 1)]
  | 0xB010 => pack [(0, 24, task 2), (32, 24, task 3)]
  | 0xB018 => q.lastEnd.toNat
  | 0xB020 => q.stepCount
  | 0xB028 => q.nextMarker % 2 ^ 64
  | 0xB030 => pack [(0, 16, (q.epochs.get 0).id.toNat), (16, 16, (q.epochs.get 1).id.toNat), (32, 13, q.specTasks),
      (48, 13, q.counted)]
  | 0xB038 => pack [(0, 16, q.specWaitLimit.toNat), (32, 16, q.barrierLimit.toNat)]
  | 0xB040 => pack [(0, 32, q.nsClip.toNat), (32, 3, q.tokenSrc.toNat)]
  | 0xB050 => pack [(0, 32, q.tokDropped), (32, 32, q.specDropped)]
  | 0xB058 => pack [(0, 32, q.flipCycles)]
  | 0xB070 => (wq 0).base.toNat
  | 0xB078 => pack [(0, 4, (wq 0).log2.toNat), (16, 12, head 0)]
  | 0xB080 => (wq 1).base.toNat
  | 0xB088 => pack [(0, 4, (wq 1).log2.toNat), (16, 12, head 1)]
  | 0xB090 => (wq 2).base.toNat
  | 0xB098 => pack [(0, 4, (wq 2).log2.toNat), (16, 12, head 2)]
  | 0xB0A0 => q.cqBase.toNat
  | 0xB0A8 => pack [(0, 4, q.cqLog2.toNat), (16, 12, q.cqHead.toNat), (48, 12, q.cqTail.toNat)]
  | 0xB0B0 => q.fault.toNat
  | _ => 0

def State.updWord (s : State) (c : Fin 8) (off : Nat) : Nat :=
  let u := (s.core c).upd
  match off with
  | 0xC000 => pack [(0, 32, u.step.toNat), (32, 1, b2n u.busy), (33, 6, u.profile.toNat), (48, 16, u.specId.toNat)]
  | 0xC008 => u.elements
  | 0xC010 => u.srAway
  | 0xC018 => pack [(0, 32, u.ceilHits), (32, 32, u.nonfinite)]
  | 0xC020 => pack [(0, 3, u.fault.toNat), (32, 1, b2n u.gaugeEn)]
  | 0xC028 => pack [(0, 32, u.gaugeFlushes), (32, 32, u.scaleStep.toNat)]
  | _ => 0

/-- The state a core's registers are read from: for a fenced core, as it stood at the fence (R465). -/
def State.shown (s : State) (c : Fin 8) : State :=
  match (s.core c).atFence with
  | some v => ({ s with tick := v.tick }.modImg fun i => { i with active := v.active }).modCore c fun k =>
      { k with arr := v.arr, scr := v.scr, mov := v.mov, seq := v.seq, upd := v.upd }
  | none => s

def State.coreWord (s0 : State) (c : Fin 8) (off : Nat) : Nat :=
  let s := s0.shown c
  if off < 0x8000 then 0
  else if off < 0x9000 then s.arrWord c off
  else if off < 0xA000 then s.scrWord c off
  else if off < 0xB000 then s.movWord c off
  else if off < 0xC000 then s.seqWord c off
  else if off < 0xD000 then s.updWord c off
  else s.scrWord c off

/-! ### STACK blocks (R161, R235, R272, R469) -/

def stkCode : StkSt → Nat
  | .training => 0
  | .ready => 1
  | .fenced => 2

/-- Pages of a range of whole pages that lie on a stack. -/
def pagesOn (base pages k : Nat) : Nat := ((List.range pages).filter fun i => pageStack (base / 65536 + i) = k).length

/-- The mirrored regions: those the active image declares, and the image store once start-up has built its places (R227, R353). -/
def State.mirrorRegions (s : State) : List MirCfg :=
  (match s.cfg with
    | none => []
    | some g => g.mirrors) ++
  (if s.img.nplaces = 0 then [] else [{ primary := 0xFFC0000000, mirror := 2 ^ 40 + 0xFFC0000000, pages := 16384 }])

/-- Primary pages, mirror pages and pages running unmirrored on a stack (R228). -/
def State.mirrorCounts (s : State) (k : Fin 32) : Nat × Nat × Nat :=
  let l := s.mirrorRegions
  let lone (m : MirCfg) : Nat := ((List.range m.pages).filter fun i =>
    (pageStack (m.primary / 65536 + i) = k.val && (s.copyState (m.mirror + i * 65536)).isSome)
      || (pageStack (m.mirror / 65536 + i) = k.val && (s.copyState (m.primary + i * 65536)).isSome)).length
  (l.foldl (fun n m => n + pagesOn m.primary m.pages k.val) 0, l.foldl (fun n m => n + pagesOn m.mirror m.pages k.val) 0,
    l.foldl (fun n m => n + lone m) 0)

/-- The bank with the fewest free spares, lowest first: free spares and bank. -/
def Stack.spareMin (x : Stack) : Nat × Nat :=
  (List.range 512).foldl (fun m b => if x.freeSpares b < m.1 then (x.freeSpares b, b) else m) (x.freeSpares 0, 0)

/-- Rows remapped to a depth, whatever state they are in since (R235). -/
def Stack.rowsAtDepth (x : Stack) (n : Nat) : Nat := (x.rows.filter fun r => r.2.depth = n).length
def Stack.rowsAt (x : Stack) (st : RowState) : Nat := (x.rows.filter fun r => r.2.st = st).length

def State.stkWord (s : State) (k : Fin 32) (off : Nat) : Nat :=
  let x := s.stack k
  match off with
  | 0x00 => pack [(0, 2, stkCode x.st), (2, 1, b2n x.hot), (3, 4, x.owed.foldl (fun m e => max m e.2) 0),
      (7, 5, x.copies.length), (32, 7, x.quota.toNat)]
  | 0x08 => pack [(0, 1, b2n x.defer), (32, 8, x.ceLimit.toNat)]
  | 0x10 => pack [(0, 20, x.patrol.toNat)]
  | 0x18 => x.ceCount
  | 0x20 => x.ueCount
  | 0x28 => x.ueLast.toNat
  | 0x30 => pack [(0, 13, min 8191 (x.rowsAtDepth 1)), (13, 10, min 1023 (x.rowsAtDepth 2)),
      (23, 9, min 511 (x.rowsAt .pending)), (32, 7, x.spareMin.1), (40, 4, x.spareMin.2 / 32), (48, 5, x.spareMin.2 % 32)]
  | 0x38 => pack [(0, 9, x.retiring.length), (16, 9, x.retired.length)]
  | 0x40 => (match x.retiring with
    | (p, cause) :: _ => pack [(0, 24, p), (24, 3, cause.toNat), (31, 1, 1)]
    | [] => 0)
  | 0x50 => pack [(0, 10, x.slots.length), (16, 10, x.slotHigh), (32, 10, (x.slots.filter (·.promoted)).length),
      (48, 11, x.ingress.length)]
  | 0x58 => x.promotedCt
  | 0x60 => x.quotaFull.toNat
  | 0x68 => x.panOps
  | 0x70 => x.panRefused
  | 0x78 =>
    let m := s.mirrorCounts k
    pack [(0, 21, m.1), (21, 21, m.2.1), (42, 21, m.2.2)]
  | 0x80 => x.fault.toNat
  | _ => 0

def Half.morCount (h : Half) (l : List MorSt) : Nat := (h.morEntries.filter fun e => l.contains e.st).length

/-- The moraine, loan, lead and tier-cache registers of a half (R161, R272). -/
def State.halfStackWord (s : State) (h : Fin 2) (off : Nat) : Nat :=
  let x := s.half h
  match off with
  | 0xE000 => pack [(0, 21, (x.morEntries.filter MorEntry.placed).foldl (fun n e => n + mibOf e.size) 0),
      (32, 8, min 255 (x.morCount [.present])), (40, 8, min 255 (x.morCount [.dropped])),
      (48, 8, min 255 (x.morCount [.lent])), (56, 8, min 255 (x.morCount [.returning]))]
  | 0xE008 => x.morHigh
  | 0xE010 => (match s.cfg.bind fun g => g.pool with
    | some p => if s.morHalf = h then p.ringBase else 0
    | none => 0)
  | 0xE018 => pack [(0, 32, x.morDrops), (32, 32, x.morLends)]
  | 0xE020 => pack [(0, 32, x.morRebuilds), (32, 4, x.morFault.toNat)]
  | 0xE028 => pack [(0, 32, x.leadStep.toNat), (32, 12, min 4095 x.leadTensors), (48, 11, x.leadUs)]
  | 0xE030 => pack [(0, 32, x.loans.foldl (fun n l => n + l.mib) 0)]
  | 0xF000 => x.tcHits
  | 0xF008 => x.tcMisses
  | 0xF010 => x.tcPfFills
  | 0xF018 => x.tcPfWasted
  | 0xF020 => x.tcCe
  | 0xF028 => x.tcUe
  | 0xF030 => x.tcUeLast.toNat
  | 0xF038 => x.tcFault.toNat
  | _ => 0

/-- LEAD_STATUS is 64 bits at 0xE028 and LEAD_CTRL lies at 0xE02C, inside it: a 4-byte read there gives LEAD_CTRL, an 8-byte read
of 0xE028 gives LEAD_STATUS (R272, R469). -/
def State.stackWord (s : State) (k : Fin 32) (off : Nat) : Nat :=
  if off < 0xE000 then s.stkWord k off
  else if k.val = 0 then s.halfStackWord 0 off
  else if k.val = 16 then s.halfStackWord 1 off
  else 0

/-! ### REDUCE (R306, R470) -/

def shareCode : ShareSt → Nat
  | .opening => 0
  | .collecting => 1
  | .exchanging => 2
  | .rerunning => 3
  | .finishing => 4
  | .final => 5
  | .failed => 6

/-- Shares of the current step in a state. -/
def State.shareCount (s : State) (st : ShareSt) : Nat :=
  min 15 (if st = .final then (s.red.finished.filter fun x => !x.2).length
    else if st = .failed then (s.red.finished.filter fun x => x.2).length
    else (s.red.shares.filter fun x => x.st = st).length)

def State.redWord (s : State) (off : Nat) : Nat :=
  let r := s.red
  match off with
  | 0x00 => pack (([ShareSt.opening, .collecting, .exchanging, .rerunning, .finishing, .final, .failed].map fun st =>
        (4 * shareCode st, 4, s.shareCount st))
      ++ [(28, 1, b2n r.poisoned), (29, 1, b2n r.failedFlag), (32, 32, r.epoch.toNat)])
  | 0x08 => pack [(0, 32, r.step.toNat)]
  | 0x10 => r.late
  | 0x18 => r.stale
  | 0x20 => r.missing
  | 0x28 => r.nonfinite
  | 0x30 => pack [(0, 32, r.reruns), (32, 32, r.rimeFail)]
  | 0x38 => pack [(0, 20, r.partialLimit.toNat)]
  | 0x40 => r.shifts.foldl (fun n x => n + x.2) 0 % 2 ^ 64
  | 0x48 => pack [(0, 10, wrap 10 r.normH), (10, 1, b2n r.normOver), (16, 16, rimeOf r.normLanes.toList)]
  | 0x50 => word64 r.lastBlock 0
  | 0x58 => word64 r.lastBlock 1
  | 0x60 => r.fault.toNat
  | _ =>
    if 0x100 ≤ off ∧ off < 0x180 then
      let h := s.half (fin2 ((off - 0x100) / 0x40))
      match (off - 0x100) % 0x40 with
      | 0x00 => h.fpSrc.toNat
      | 0x08 => h.fpLen.toNat
      | 0x10 => h.fpDst.toNat
      | 0x18 => pack [(1, 1, b2n h.fpBusy), (2, 1, b2n h.fpRefused), (8, 24, h.fpPage.toNat)]
      | _ => 0
    else if 0x10000 ≤ off ∧ off < 0x20000 then
      word64 (s.sharePlace ((off - 0x10000) / 32)) (off / 8 % 4)
    else 0

/-! ### PRIFA, CASCADE and ETH (R346 to R348, R471) -/

def portCode : PortSt → Nat
  | .down => 0
  | .training => 1
  | .up => 2
  | .fenced => 3

def State.prfWord (s : State) (p : Fin 18) (off : Nat) : Nat :=
  let x := s.port p
  match off with
  | 0x00 => pack [(0, 2, portCode x.st), (2, 3, match s.portCfg p with
        | some e => prfRole e
        | none => 0), (5, 13, x.peerModule.toNat), (18, 5, x.peerPort.toNat), (24, 8, x.lanes.toNat)]
  | 0x08 => x.fecCorr
  | 0x10 => x.fecUncorr
  | 0x18 => pack [(0, 32, x.retries), (32, 32, x.retrains)]
  | 0x20 => x.txFlits
  | 0x28 => x.rxFlits
  | 0x30 => pack ((List.range 4).map fun v => (16 * v, 16, x.credit.get (fin4 v)))
  | 0x38 => pack [(0, 32, x.keyEpoch), (32, 32, x.delayPs.toNat)]
  | 0x40 => pack [(0, 9, x.bridge.length), (9, 23, x.combined), (32, 32, x.dropped)]
  | 0x48 => pack [(32, 5, x.fault.toNat)]
  | _ => 0

def casRoleCode : CasRole → Nat
  | .member => 0
  | .master => 1
  | .deputy => 2

/-- The destinations of CAS_ROUTE_STATUS (R324, R327, R347): every other module of the topology. -/
def State.destinations (s : State) : List Nat :=
  let t := s.topo
  (List.range (t.members * t.channels * t.stages)).filter (· ≠ s.selfId)

/-- A destination that has lost every port of its PRIMARY mask and is reached by its ALTERNATE mask. -/
def State.onAlternate (s : State) (m : Nat) : Bool :=
  match s.routeTo m with
  | some r => s.liveMask r.primary = [] && s.liveMask r.alternate ≠ []
  | none => false

def State.casWord (s : State) (off : Nat) : Nat :=
  let c := s.cas
  match off with
  | 0x00 => pack [(0, 2, casRoleCode c.role), (2, 2, c.deputyRank), (16, 16, c.term.toNat), (32, 13, s.img.moduleId.toNat)]
  | 0x08 => s.tick % 2 ^ 64
  | 0x10 => pack [(0, 1, b2n c.locked), (1, 1, b2n c.holdover), (2, 5, c.parent), (32, 32, c.offsetPs.toNat)]
  | 0x18 => pack [(0, 13, c.master.toNat), (16, 13, c.deputy.toNat), (31, 1, b2n c.deputyValid), (32, 32, c.stepSet.toNat)]
  | 0x20 => pack [(0, 32, c.epoch.toNat)]
  | 0x28 => pack [(0, 14, (s.destinations.filter s.onAlternate).length), (16, 14, (s.destinations.filter fun m => s.routePorts m = []).length)]
  | 0x30 => pack [(0, 32, c.staleTerm), (32, 7, c.fault.toNat)]
  | _ => 0

def State.ethWord (s : State) (e : Fin 2) (off : Nat) : Nat :=
  let x := s.eth e
  match off with
  | 0x00 => pack [(0, 1, b2n x.link), (1, 2, x.phy.toNat), (32, 32, x.fecErr)]
  | 0x08 => x.mac.toNat
  | 0x10 => pack [(0, 32, x.ipv4.toNat), (32, 4, x.ipv6Idx.toNat), (36, 1, b2n x.ipv6En)]
  | 0x18 => pack [(0, 8, x.pfc.toNat), (8, 3, x.rocePrio.toNat)]
  | 0x20 => x.qpBase.toNat
  | 0x28 => x.mrBase.toNat
  | 0x30 => pack [(0, 1, b2n x.ptpEn), (1, 7, x.ptpDomain.toNat), (8, 1, b2n x.ptpUdp)]
  | 0x38 => x.rxBytes
  | 0x40 => x.txBytes
  | 0x48 => pack [(0, 32, x.rxDropped), (32, 16, x.cnpSent), (48, 16, x.cnpRecv)]
  | 0x50 => x.fault.toNat
  | _ => if 0x100 ≤ off ∧ off < 0x200 then word64 (tabGet 0 x.ipv6 ((off - 0x100) / 16)) (off / 8 % 2) else 0

/-! ### POWER/CLOCK and IMAGE (R369, R396, R397, R472) -/

def swCode : SwSt → Nat
  | .idle => 0
  | .ramping => 1
  | .relocking => 2
  | .heldByDroop => 3
  | .switching => 4

def State.pwrWord (s : State) (off : Nat) : Nat :=
  let p := s.pwr
  match off with
  | 0x00 => pack [(0, 3, p.request.toNat), (4, 3, p.state)]
  | 0x08 => pack [(0, 11, p.cap.toNat), (32, 7, p.ramp.toNat)]
  | 0x10 => pack [(0, 1, b2n p.premark), (32, 10, p.idleFloor.toNat)]
  | 0x18 => pack [(0, 16, min 65535 p.readP), (16, 16, min 65535 p.readE), (32, 16, min 65535 p.readM), (48, 1, b2n p.distrusted)]
  | 0x20 => pack [(0, 32, p.gain.toNat), (32, 3, (s.half 0).capLimit), (36, 3, (s.half 1).capLimit), (40, 6, p.calm)]
  | 0x28 => pack [(0, 1, b2n p.distrusted), (4, 5, p.plausible), (12, 3, p.diverging), (32, 32, p.divergences)]
  | 0x30 => pack [(0, 56, s.flash.tripTick.toNat), (56, 7, s.flash.tripSensor.toNat), (63, 1, b2n s.flash.tripValid)]
  | 0x38 => p.fault.toNat
  | _ =>
    if 0x100 ≤ off ∧ off < 0x140 then
      let n := (off - 0x100) / 8
      pack [(0, 16, opMhz n), (16, 16, opRail n), (32, 11, (opR n * 1024 + 500) / 1000)]
    else 0

/-- The densities of a half's partitions in core and partition order, 7 bits each (R397). -/
def State.fwStatus (s : State) (h : Fin 2) : Nat :=
  ((halfParts h).zipIdx).foldl (fun n x => n + (s.part x.1.1 x.1.2).density % 128 * 2 ^ (7 * x.2)) 0

def State.clkWord (s : State) (h : Fin 2) (off : Nat) : Nat :=
  let x := s.half h
  let req (j : Nat) : Nat × Nat :=
    let c := fin8 (4 * h.val + j)
    if s.coreFenced c then (7, 7) else s.coreRequest c
  match off with
  | 0x00 => pack [(0, 3, x.granted), (4, 3, x.running), (8, 3, x.target), (12, 3, swCode x.switch), (16, 1, x.pll),
      (20, 3, x.emergN), (32, 3, x.opLimit.toNat)]
  | 0x08 => pack (((List.range 4).flatMap fun j => [(8 * j, 3, (req j).1), (8 * j + 4, 3, (req j).2)])
      ++ [(32, 32, x.switches)])
  | 0x10 => x.droops
  | 0x18 => x.droopCycles
  | 0x20 => pack [(0, 32, x.droopHeld), (32, 12, x.hotJunction.toNat), (44, 12, x.hotStack.toNat), (56, 3, x.thermLimit),
      (59, 5, x.episodes)]
  | 0x28 => s.fwStatus h % 2 ^ 64
  | 0x30 => s.fwStatus h / 2 ^ 64 % 2 ^ 64
  | 0x38 => x.clkFault.toNat
  | _ => 0

def swapCode : SwapSt → Nat
  | .idle => 0
  | .armed => 1
  | .draining => 2
  | .preparing => 3
  | .switching => 4

def placeCode : PlaceSt → Nat
  | .empty => 0
  | .loading => 1
  | .verifying => 2
  | .verified => 3
  | .rejected => 4
  | .staged => 5
  | .active => 6

/-- IMG_PLACE, 128 bits (R369). -/
def State.placeWord (s : State) (p : Nat) : BitVec 128 :=
  let x := s.imgPlace p
  BitVec.ofNat 128 (pack [(0, 64, x.imageId.toNat), (64, 4, placeCode x.st), (68, 1, b2n x.eval), (69, 8, x.omit_.toNat),
    (80, 16, x.code.toNat), (96, 4, x.sect.toNat), (100, 28, x.offset.toNat)])

def State.imgWord (s : State) (off : Nat) : Nat :=
  let i := s.img
  match off with
  | 0x00 =>
    pack [(0, 4, (i.active.map (·.1)).getD 0),
      (4, 4, match i.staging, i.shadow with
        | some p, _ => p.1
        | none, some p => p.1
        | none, none => 0),
      (8, 2, if i.staging.isSome then 1 else if i.shadow.isSome then 2 else 0),
      (12, 3, swapCode i.swap.phase), (16, 2, i.swap.mode), (31, 1, b2n i.active.isSome)]
  | 0x08 => (match i.active with
    | some a => a.2.imageId.toNat
    | none => 0)
  | 0x10 => (match i.shadow with
    | some a => a.2.imageId.toNat
    | none => 0)
  | 0x18 => pack [(0, 13, i.moduleId.toNat), (32, 8, 1), (40, 8, Config.imageMinor), (48, 16, s.oz.fwVersion.toNat)]
  | 0x20 => i.loadSrc.toNat
  | 0x28 => pack [(0, 27, i.loadLen.toNat)]
  | 0x38 => pack [(0, 14, i.drainLimit.toNat)]
  | 0x40 => pack [(0, 32, i.swapCount)]
  | 0x48 => i.lastSwap.toNat
  | 0x50 => i.fault.toNat
  | 0x60 => pack [(0, 32, (tabGet 0 s.flash.imageFloors 0).toNat), (32, 32, (tabGet 0 s.flash.imageFloors 1).toNat)]
  | 0x68 => pack [(0, 32, (tabGet 0 s.flash.imageFloors 2).toNat), (32, 32, (tabGet 0 s.flash.imageFloors 3).toNat)]
  | _ => if 0x100 ≤ off ∧ off < 0x200 then word64 (s.placeWord ((off - 0x100) / 16)) (off / 8 % 2) else 0

/-! ### The blocks (R13, R430, R432, R458, R465) -/

/-- The state a half's blocks are read from: for a fenced half, as it stood at the fence (R465). -/
def State.shownHalf (s : State) (h : Fin 2) : State :=
  match s.fencedViews.get h with
  | some v => { s with
      tick := v.tick, halves := s.halves.set h v.half, stks := v.stks, ports := v.ports, eths := s.eths.set h v.eth
      cores := v.cores, glb := { s.glb with fencedCores := v.fencedCores, fencedStacks := v.fencedStacks }
      img := { s.img with active := v.active } }
  | none => s

/-- A block of BAR0 and an offset in it. -/
inductive Block
  | glb | oz | core (c : Fin 8) | stack (k : Fin 32) | red | prf (p : Fin 18) | cas | pwr | clk (h : Fin 2) | img | eth (e : Fin 2)
  | none
  deriving DecidableEq, Repr

/-- The block of a BAR0 offset, and the offset in it (R458). -/
def blockOf (off : Nat) : Block × Nat :=
  if off < 0x00100000 then (.glb, off)
  else if off < 0x01000000 then (.oz, off - 0x00100000)
  else if off < 0x02000000 then (.core (fin8 ((off - 0x01000000) / 0x200000)), (off - 0x01000000) % 0x200000)
  else if off < 0x02200000 then (.stack (fin32 ((off - 0x02000000) / 0x10000)), (off - 0x02000000) % 0x10000)
  else if off < 0x03000000 then (.none, 0)
  else if off < 0x04000000 then (.red, off - 0x03000000)
  else if off < 0x04120000 then (.prf (fin18 ((off - 0x04000000) / 0x10000)), (off - 0x04000000) % 0x10000)
  else if off < 0x04130000 then (.cas, off - 0x04120000)
  else if off < 0x05000000 then (.none, 0)
  else if off < 0x05010000 then (.pwr, off - 0x05000000)
  else if off < 0x05020000 then (.clk 0, off - 0x05010000)
  else if off < 0x05030000 then (.clk 1, off - 0x05020000)
  else if off < 0x06000000 then (.none, 0)
  else if off < 0x07000000 then (.img, off - 0x06000000)
  else if off < 0x07010000 then (.eth (fin2 ((off - 0x07000000) / 0x8000)), (off - 0x07000000) % 0x8000)
  else (.none, 0)

/-- The node that owns a block (R16). -/
def Block.owner : Block → Owner
  | .glb => .oz
  | .oz => .oz
  | .core c => .core c
  | .stack k => .half (stackHalf k)
  | .red => .stewards
  | .prf p => .half (portHalf p)
  | .cas => .cascade
  | .pwr => .oz
  | .clk h => .half h
  | .img => .oz
  | .eth e => .half e
  | .none => .oz

/-- GLOBAL and OZTAS mailbox, which an unbound port and management only reach (R405, R432). -/
def Block.isOpen : Block → Bool
  | .glb => true
  | .oz => true
  | _ => false

/-- A block's owning node has come up; a fenced one keeps answering (R432, R465). -/
def State.blockUp (s : State) (b : Block) : Bool :=
  match b.owner with
  | .oz => s.oz.up
  | .core c => (s.core c).up
  | .half h => (s.half h).up || s.halfFenced h
  | .stewards => (s.half 0).up || (s.half 1).up
  | .cascade => (s.half 0).up || (s.half 1).up

/-- A block answers: its node is up and the window reaches it; otherwise it reads 0 (R405, R432). -/
def State.blockAnswers (s : State) (b : Block) : Bool :=
  s.blockUp b && (!s.unbound || b.isOpen) && (!s.managed || b.isOpen)
    && (!s.deepSleep || b.owner = .oz)

/-- The aligned 64-bit word at a BAR0 offset; a fenced half's blocks keep what they held (R465). -/
def State.bar0Word (s : State) (off : Nat) : Nat :=
  let b := blockOf off
  if !s.blockAnswers b.1 then 0
  else match b.1 with
    | .glb => s.glbWord b.2
    | .oz => s.ozWord b.2
    | .core c => s.coreWord c b.2
    | .stack k => (s.shownHalf (stackHalf k)).stackWord k b.2
    | .red => s.redWord b.2
    | .prf p => (s.shownHalf (portHalf p)).prfWord p b.2
    | .cas => s.casWord b.2
    | .pwr => s.pwrWord b.2
    | .clk h => (s.shownHalf h).clkWord h b.2
    | .img => s.imgWord b.2
    | .eth e => (s.shownHalf e).ethWord e b.2
    | .none => 0

/-- A BAR0 read: 4 or 8 bytes aligned to their size; any other completes with UR, here none (R430). LEAD_CTRL is the one 4-byte
register inside an 8-byte one. -/
def State.bar0Read (s : State) (off : BitVec 27) (size : Nat) : Option Nat :=
  let o := off.toNat
  if size = 8 ∧ o % 8 = 0 then some (s.bar0Word o % 2 ^ 64)
  else if size = 4 ∧ o % 4 = 0 then
    match blockOf o with
    | (.stack k, r) =>
      if r = 0xE02C ∧ k.val % 16 = 0 ∧ s.blockAnswers (.stack k) then some (b2n ((s.shownHalf (stackHalf k)).half (stackHalf k)).leadHold)
      else some (s.bar0Word (o - o % 8) / 2 ^ (8 * (o % 8)) % 2 ^ 32)
    | _ => some (s.bar0Word (o - o % 8) / 2 ^ (8 * (o % 8)) % 2 ^ 32)
  else none

/-! ### BAR4 (R433, R434) -/

/-- The aligned 64-bit word at a BAR4 offset (R344, R433, R434): the last TAIL a work queue's doorbell accepted; of a queue pair's page the
last SQ_TAIL and RQ_TAIL accepted, and, DESIGN CHOICE (log entry 80, safe), the last CQ_HEAD; the MSI-X table and its pending bits; every
other offset reads 0. -/
def State.bar4Word (s : State) (off : Nat) : Nat :=
  let page := off % 0x1000
  if off < 0x20000 then
    let n := off / 0x1000
    if page ≠ 0 ∨ n % 4 = 0 then 0
    else ((s.core (fin8 (n / 4))).seq.wqs.get (Fin.ofNat 3 (n % 4 - 1))).tail.toNat
  else if 0x01000000 ≤ off ∧ off < 0x03000000 then
    let x := tabGet {} (s.eth (fin2 (off / 0x01000000 - 1))).qps (off / 0x1000 % 4096)
    if page = 0 then x.sqTail.toNat else if page = 8 then x.rqTail.toNat else if page = 16 then x.cqHead.toNat else 0
  else if 0x03F00000 ≤ off ∧ off < 0x03F00400 then
    let v := (off - 0x03F00000) / 16
    let mask := if s.host.msixUnmasked.getLsbD v then 0 else 2 ^ 96
    ((tabGet 0 s.host.msixAddr v).toNat % 2 ^ 96 + mask) / 2 ^ (64 * (off / 8 % 2)) % 2 ^ 64
  else if off = 0x03F01000 then s.host.msixPending.toNat
  else 0

/-- A BAR4 read of 1 to 8 bytes within an aligned 8-byte word. An unavailable window completes with UR, here none, and counts
(R432). -/
def State.bar4Read (s : State) (off size : Nat) : Option Nat × State :=
  if s.windowClosed then (none, s.countUnavail)
  else (some (s.bar4Word (off - off % 8) / 2 ^ (8 * (off % 8)) % 2 ^ (8 * size)), s)

end Sys2Proof.Machine
end

