-- ==== Sys2Proof/Machine/Registers.lean ====
section
/-! DEFINITION. Writes of register fields that have no row of their own, W1C clears, and the injection and acknowledgement
registers (R11, R12, R430, R433, R459, R461 to R464). -/

namespace Sys2Proof.Machine

open Host

/-- A write to a block: offset in the block, size in bytes and value. -/
structure BusWrite where
  off : Nat
  size : Nat
  val : Word
  deriving DecidableEq, Repr

/-- What the write carries for the 4-byte register at `r` (R430). -/
def BusWrite.at32 (b : BusWrite) (r : Nat) : Option (BitVec 32) :=
  if b.off = r then some (b.val.truncate 32)
  else if b.size = 8 ∧ b.off + 4 = r then some (b.val.extractLsb' 32 32)
  else none

/-- The value the write gives the 8-byte register at `r` that holds `cur`: a 4-byte write replaces one half (R430). -/
def BusWrite.at64 (b : BusWrite) (r : Nat) (cur : BitVec 64) : Option (BitVec 64) :=
  if b.off = r then
    if b.size = 8 then some b.val else some (cur.extractLsb' 32 32 ++ (b.val.truncate 32 : BitVec 32))
  else if b.off = r + 4 ∧ b.size = 4 then some ((b.val.truncate 32 : BitVec 32) ++ (cur.truncate 32 : BitVec 32))
  else none

/-- The bytes the write carries, with their offsets in the block. -/
def BusWrite.bytes (b : BusWrite) : List (Nat × BitVec 8) :=
  (List.range b.size).map fun i => (b.off + i, b.val.extractLsb' (8 * i) 8)

/-- One 4-byte register's part of a write. -/
def State.on32 (s : State) (b : BusWrite) (r : Nat) (f : BitVec 32 → State → State) : State :=
  match b.at32 r with
  | some v => f v s
  | none => s

/-- One 8-byte register's part of a write. -/
def State.on64 (s : State) (b : BusWrite) (r : Nat) (cur : BitVec 64) (f : BitVec 64 → State → State) : State :=
  match b.at64 r cur with
  | some v => f v s
  | none => s

/-- A field's bits of a write, clamped into its range (R459, R464). -/
def clampField (w width lo hi : Nat) (v : BitVec 32) : BitVec w := BitVec.ofNat w (clampTo lo hi (v.toNat % 2 ^ width))

/-- One byte of a 128-bit entry replaced. -/
def setByte128 (i : Nat) (v : BitVec 8) (w : BitVec 128) : BitVec 128 :=
  (w &&& ~~~((255 : BitVec 128) <<< (8 * i))) ||| ((v.zeroExtend 128) <<< (8 * i))

/-! ### Blocks -/

/-- GLB_SELFTEST_CTRL (R425). -/
def State.writeGlb (s : State) (b : BusWrite) : State :=
  s.on32 b 0x0C fun v s => s.modGlb fun g => { g with
    stFull := bit v 0
    stRetest := bit v 1
    bootOp := v.extractLsb' 8 3 }

/-- OZ_LED and the request buffer (R442, R457). -/
def State.writeOz (s : State) (b : BusWrite) : State :=
  let s := s.on32 b 0x40 fun v s => s.modOz fun o => { o with led := bit v 0 }
  if 0x1000 ≤ b.off ∧ b.off < 0x2000 then
    b.bytes.foldl (fun (s : State) x => s.modOz fun o => { o with req := tabSet 0 o.req (x.1 - 0x1000) x.2 }) s
  else s

/-- The RW registers of a core's block, and SEQ_HOST_TOKEN, which takes an 8-byte write (R66, R132, R160, R196, R203, R271). -/
def State.writeCore (s : State) (c : Fin 8) (b : BusWrite) : State :=
  let s := s.on32 b 0x8024 fun v s => s.modArr c fun a => { a with hardWindow := clampField 22 22 1000 3600000 v }
  let s := s.on32 b 0x9004 fun v s => s.modScr c fun x => { x with slotLimit := clampField 24 24 1024 16777215 v }
  let s := s.on32 b 0x9008 fun v s => s.modScr c fun x => { x with scrubInterval := clampField 12 12 100 4000 v }
  let s := s.on32 b 0xA004 fun v s => s.modMov c fun m => { m with pfDepth := clampField 7 7 0 64 v }
  let s := s.on32 b 0xA008 fun v s => s.modMov c fun m => { m with pfBudget := clampField 7 7 1 64 v }
  let s := s.on32 b 0xB038 fun v s => s.modSeq c fun q => { q with specWaitLimit := clampField 16 16 1 60000 v }
  let s := s.on32 b 0xB03C fun v s => s.modSeq c fun q => { q with barrierLimit := clampField 16 16 1 60000 v }
  let s := s.on32 b 0xB040 fun v s => s.modSeq c fun q => { q with nsClip := v }
  let s := s.on32 b 0xC024 fun v s => s.modUpd c fun u => { u with gaugeEn := bit v 0 }
  if b.off = 0xB048 ∧ b.size = 8 then
    s.spreadToken ((b.val &&& ~~~(3#64 <<< 18)) ||| (2#64 <<< 18))
  else s

/-- The RW registers of a stack's block, and LEAD_CTRL of each half (R235, R272). -/
def State.writeStack (s : State) (k : Fin 32) (b : BusWrite) : State :=
  let s := s.on32 b 0x04 fun v s => s.modStack k fun x => { x with quota := clampField 7 7 8 64 v }
  let s := s.on32 b 0x08 fun v s => s.modStack k fun x => { x with defer := bit v 0 }
  let s := s.on32 b 0x0C fun v s => s.modStack k fun x => { x with ceLimit := clampField 8 8 2 255 v }
  let s := s.on32 b 0x10 fun v s => s.modStack k fun x => { x with patrol := clampField 20 20 3600 604800 v }
  if k.val % 16 = 0 then
    s.on32 b 0xE02C fun v s => s.modHalf (stackHalf k) fun h => { h with leadHold := bit v 0 }
  else s

/-- RED_PARTIAL_LIMIT (R306). -/
def State.writeRed (s : State) (b : BusWrite) : State :=
  s.on32 b 0x38 fun v s => s.modRed fun r => { r with partialLimit := clampField 20 20 100 1000000 v }

/-- The fingerprint engine's addresses and length in a half (R306). -/
def State.writeFp (s : State) (h : Fin 2) (b : BusWrite) : State :=
  let base := 0x100 + 0x40 * h.val
  let s := s.on64 b base ((s.half h).fpSrc.zeroExtend 64) fun v s => s.modHalf h fun x => { x with fpSrc := v.truncate 41 }
  let s := s.on64 b (base + 8) ((s.half h).fpLen.zeroExtend 64) fun v s =>
    s.modHalf h fun x => { x with fpLen := v.truncate 41 }
  s.on64 b (base + 16) ((s.half h).fpDst.zeroExtend 64) fun v s => s.modHalf h fun x => { x with fpDst := v.truncate 41 }

/-- CAS_STEP_SET, honoured on the master before its first marker (R347). -/
def State.writeCas (s : State) (b : BusWrite) : State :=
  s.on32 b 0x1C fun v s =>
    if s.isMaster && !s.cas.mst.placed then s.modCas fun c => { c with stepSet := v } else s

/-- PWR_CAP, PWR_RAMP, PWR_FREEWHEEL and PWR_IDLE_FLOOR (R396). -/
def State.writePwr (s : State) (b : BusWrite) : State :=
  let s := s.on32 b 0x08 fun v s => s.modPwr fun p => { p with cap := clampField 11 11 600 1500 v }
  let s := s.on32 b 0x0C fun v s => s.modPwr fun p => { p with ramp := clampField 7 7 15 75 v }
  let s := s.on32 b 0x10 fun v s => s.modPwr fun p => { p with premark := bit v 0 }
  s.on32 b 0x14 fun v s => s.modPwr fun p => { p with idleFloor := clampField 10 10 50 600 v }

/-- CLK_OP_LIMIT (R397). -/
def State.writeClk (s : State) (h : Fin 2) (b : BusWrite) : State :=
  s.on32 b 0x04 fun v s => s.modHalf h fun x => { x with opLimit := v.truncate 3 }

/-- IMG_LOAD_SRC, IMG_LOAD_LEN and IMG_DRAIN_LIMIT; a length above 64 MiB is no length, and its write is ignored (R361, R369,
R464). -/
def State.writeImg (s : State) (b : BusWrite) : State :=
  let s := s.on64 b 0x20 (s.img.loadSrc.zeroExtend 64) fun v s => s.modImg fun i => { i with loadSrc := v.truncate 41 }
  let s := s.on32 b 0x28 fun v s =>
    if fld v 26 0 ≤ 67108864 then s.modImg fun i => { i with loadLen := v.truncate 27 } else s
  s.on32 b 0x38 fun v s => s.modImg fun i => { i with drainLimit := clampField 14 14 100 10000 v }

/-- The RW registers of an Ethernet port; a table base that is not 64 KiB-aligned is ignored (R348, R464, R471). -/
def State.writeEth (s : State) (e : Fin 2) (b : BusWrite) : State :=
  let x := s.eth e
  let s := s.on64 b 0x08 (x.mac.zeroExtend 64) fun v s => s.modEth e fun x => { x with mac := v.truncate 48 }
  let s := s.on32 b 0x10 fun v s => s.modEth e fun x => { x with ipv4 := v }
  let s := s.on32 b 0x14 fun v s => s.modEth e fun x => { x with
    ipv6Idx := v.truncate 4
    ipv6En := bit v 4 }
  let s := s.on32 b 0x18 fun v s => s.modEth e fun x => { x with
    pfc := v.truncate 8
    rocePrio := v.extractLsb' 8 3 }
  let s := s.on64 b 0x20 (x.qpBase.zeroExtend 64) fun v s =>
    if fld v 15 0 = 0 then s.modEth e fun x => { x with qpBase := v.truncate 41 } else s
  let s := s.on64 b 0x28 (x.mrBase.zeroExtend 64) fun v s =>
    if fld v 15 0 = 0 then s.modEth e fun x => { x with mrBase := v.truncate 41 } else s
  let s := s.on32 b 0x30 fun v s => s.modEth e fun x => { x with
    ptpEn := bit v 0
    ptpDomain := v.extractLsb' 1 7
    ptpUdp := bit v 8 }
  if 0x100 ≤ b.off ∧ b.off < 0x200 then
    b.bytes.foldl (fun (s : State) y => s.modEth e fun x => { x with
      ipv6 := tabMod 0 x.ipv6 ((y.1 - 0x100) / 16) (setByte128 (y.1 % 16) y.2) }) s
  else s

/-- The effect of a write on its block (R11, R12, R458). -/
def State.writeBlock (s : State) (k : Block) (b : BusWrite) : State :=
  match k with
  | .glb => s.writeGlb b
  | .oz => s.writeOz b
  | .core c => s.writeCore c b
  | .stack k => s.writeStack k b
  | .red => if 0x100 ≤ b.off ∧ b.off < 0x180 then s.writeFp (fin2 ((b.off - 0x100) / 0x40)) b else s.writeRed b
  | .prf _ => s
  | .cas => s.writeCas b
  | .pwr => s.writePwr b
  | .clk h => s.writeClk h b
  | .img => s.writeImg b
  | .eth e => s.writeEth e b
  | .none => s

/-- The node a register belongs to: the fingerprint registers of a half belong to its steward, the rest to their block's owner
(R16, R306). -/
def regOwner (k : Block) (r : Nat) : Owner :=
  match k with
  | .red => if 0x100 ≤ r ∧ r < 0x180 then .half (fin2 ((r - 0x100) / 0x40)) else .stewards
  | k => k.owner

/-! ### W1C fields (R461, R462) -/

/-- Flags cleared by the ones of a write. -/
def w1c {w : Nat} (old : BitVec w) (val : BitVec 32) : BitVec w := old &&& ~~~(val.truncate w)

/-- Half of ARR_PFAULT: a code field with any bit set in the write is cleared (R462). -/
def State.clearPfault (s : State) (c : Fin 8) (first : Nat) (val : BitVec 32) : State :=
  let one (s : State) (i : Nat) : State :=
    if val.extractLsb' (16 * i) 16 ≠ 0 then s.modPart c (fin4 (first + i)) fun x => { x with pfault := 0 } else s
  one (one s 0) 1

/-- The W1C fields of one 32-bit word of a block are cleared by the ones written to it. -/
def State.w1cWord (s : State) (k : Block) (r : Nat) (val : BitVec 32) : State :=
  match k with
  | .core c =>
    match r with
    | 0x8030 => s.clearPfault c 0 val
    | 0x8034 => s.clearPfault c 2 val
    | 0x904C => s.modScr c fun x => { x with fault := w1c x.fault val }
    | 0xA038 => s.modMov c fun x => { x with fault := w1c x.fault val }
    | 0xB0B0 => s.modSeq c fun x => { x with fault := w1c x.fault val }
    | 0xC020 => s.modUpd c fun x => { x with fault := w1c x.fault val }
    | _ => s
  | .stack k =>
    match r with
    | 0x80 => s.modStack k fun x => { x with fault := w1c x.fault val }
    | 0xE024 => if k.val % 16 = 0 then s.modHalf (stackHalf k) fun x => { x with morFault := w1c x.morFault val } else s
    | 0xF038 => if k.val % 16 = 0 then s.modHalf (stackHalf k) fun x => { x with tcFault := w1c x.tcFault val } else s
    | _ => s
  | .glb => if r = 0x78 then s.modGlb fun x => { x with faultFlags := w1c x.faultFlags val } else s
  | .red => if r = 0x60 then s.modRed fun x => { x with fault := w1c x.fault val } else s
  | .prf p => if r = 0x4C then s.modPort p fun x => { x with fault := w1c x.fault val } else s
  | .cas => if r = 0x34 then s.modCas fun x => { x with fault := w1c x.fault val } else s
  | .pwr => if r = 0x38 then s.modPwr fun x => { x with fault := w1c x.fault val } else s
  | .clk h => if r = 0x38 then s.modHalf h fun x => { x with clkFault := w1c x.clkFault val } else s
  | .img => if r = 0x50 then s.modImg fun x => { x with fault := w1c x.fault val } else s
  | .eth e => if r = 0x50 then s.modEth e fun x => { x with fault := w1c x.fault val } else s
  | .oz => s
  | .none => s

/-- The W1C fields in the words a write of 4 or 8 bytes carries (R11, R430). -/
def State.w1cBlock (s : State) (k : Block) (r size : Nat) (val : BitVec 64) : State :=
  let s1 := s.w1cWord k r (val.truncate 32)
  if size = 8 then s1.w1cWord k (r + 4) (val.extractLsb' 32 32) else s1

/-- A write of the MSI-X table (R433): address, data and mask bit of an entry. An entry unmasked with its vector pending sends
its message (R435). -/
def State.writeMsix (s : State) (b : BusWrite) : State :=
  b.bytes.foldl (fun (s : State) y =>
    let v := y.1 / 16
    let i := y.1 % 16
    let s := s.modHost fun h => { h with
      msixAddr := tabMod 0 h.msixAddr v (setByte128 i y.2) }
    if i = 12 then
      s.modHost fun h => { h with
        msixUnmasked := if bit y.2 0 then h.msixUnmasked &&& ~~~(1#64 <<< v) else h.msixUnmasked ||| (1#64 <<< v) }
    else s) s

/-- An access aligned to its size, of 4 or 8 bytes (R430). -/
def alignedAccess (off size : Nat) : Bool := (size = 4 || size = 8) && off % size = 0

/-- REGISTER_WRITE: a write from the host; the fields that have no row of their own change, and flags that lie in the words it
carries are cleared by its ones (R11, R12, R430, R432, R433). Writes of any
other size or alignment are dropped; reserved bits and unassigned offsets ignore writes. -/
def execRegisterWrite (bar4 : Bool) (off : BitVec 27) (size : Nat) (val : BitVec 64) (s : State) : Outcome State Fault Refusal :=
  if !alignedAccess off.toNat size then .next s
  else if bar4 then
    .next (s.bar4Write off .oz fun s =>
      if 0x03F00000 ≤ off.toNat ∧ off.toNat < 0x03F00400 then
        (s.writeMsix ⟨off.toNat - 0x03F00000, size, val⟩).msixFlush
      else s)
  else
    let k := blockOf off.toNat
    match k.1 with
    | .none => .next s
    | b => .next (s.bar0Write off (regOwner b k.2) b.isOpen fun s => (s.writeBlock b ⟨k.2, size, val⟩).w1cBlock b k.2 size val)

/-! ### W1C_CLEAR -/

/-- W1C_CLEAR: a write of ones to a fault register or a code field, of 8 bytes where its offset is aligned to 8 (R430, R461,
R462). -/
def execW1cClear (off : BitVec 27) (val : BitVec 64) (s : State) : Outcome State Fault Refusal :=
  let k := blockOf off.toNat
  match k.1 with
  | .none => .next s
  | b => .next (s.bar0Write off b.owner b.isOpen fun s => s.w1cBlock b k.2 (if k.2 % 8 = 0 then 8 else 4) val)

/-! ### Injection and acknowledgement (R130, R222, R235) -/

/-- SCR_INJECT: GO arms one injection, while Oztas's debug window is open; otherwise the write is dropped (R130). -/
def execScrInject (c : Fin 8) (val : BitVec 32) (s : State) : Outcome State Fault Refusal :=
  .next (s.bar0Write (coreOff c 0x9050) (.core c) false fun s =>
    if s.oz.debugOpen && bit val 31 then
      s.modScr c fun x => { x with inject := some ⟨fld val 16 0, fld val 23 17, bit val 24⟩ }
    else s)

/-- STK_RETIRE_ACK: the host acknowledges a RETIRING page, which becomes RETIRED (R222). -/
def execStkRetireAck (k : Fin 32) (page : BitVec 24) (s : State) : Outcome State Fault Refusal :=
  .next (s.bar0Write (stackOff k 0x48) (.half (stackHalf k)) false fun s => s.retireAck k page.toNat)

/-- STK_INJECT: GO arms one sector error while the debug window is open, and is dropped otherwise (R235). -/
def execStkInject (k : Fin 32) (val : BitVec 64) (s : State) : Outcome State Fault Refusal :=
  .next (s.bar0Write (stackOff k 0x88) (.half (stackHalf k)) false fun s => s.stkArm k val)

end Sys2Proof.Machine
end

