-- ==== Sys2Proof/Machine/Dispatch.lean ====
section
/-! DEFINITION. One arm per command: a direct call of its meaning, or a refusal by name. -/

namespace Sys2Proof.Machine

open Host

def exec (i : Instr) (s : State) : Host.Outcome State Fault Refusal :=
  match i with
  | .registerWrite bar4 off size val => Sys2Proof.Machine.execRegisterWrite bar4 off size val s
  | .w1cClear off val => Sys2Proof.Machine.execW1cClear off val s
  | .load c task => Sys2Proof.Machine.execLoad c task s
  | .shadowLoadBegin c loader => Sys2Proof.Machine.execShadowLoadBegin c loader s
  | .shadowLoadEnd c loader => Sys2Proof.Machine.execShadowLoadEnd c loader s
  | .loadHoldLimit c p => Sys2Proof.Machine.execLoadHoldLimit c p s
  | .openBank c task => Sys2Proof.Machine.execOpenBank c task s
  | .issue c task => Sys2Proof.Machine.execIssue c task s
  | .vectorIssue c p => Sys2Proof.Machine.execVectorIssue c p s
  | .markerSwap c p upset => Sys2Proof.Machine.execMarkerSwap c p upset s
  | .vectorOutputArrive c p upset => Sys2Proof.Machine.execVectorOutputArrive c p upset s
  | .bankConvertBegin c p b => Sys2Proof.Machine.execBankConvertBegin c p b s
  | .bankConvertEnd c p b => Sys2Proof.Machine.execBankConvertEnd c p b s
  | .partitionFree c p => Sys2Proof.Machine.execPartitionFree c p s
  | .directedCheckBegin c q => Sys2Proof.Machine.execDirectedCheckBegin c q s
  | .directedCheckEnd c q found => Sys2Proof.Machine.execDirectedCheckEnd c q found s
  | .spokeMapRewrite c => Sys2Proof.Machine.execSpokeMapRewrite c s
  | .spokeMapRewriteEnd c => Sys2Proof.Machine.execSpokeMapRewriteEnd c s
  | .filler c task => Sys2Proof.Machine.execFiller c task s
  | .vec c task => Sys2Proof.Machine.execVec c task s
  | .update c task => Sys2Proof.Machine.execUpdate c task s
  | .move c task => Sys2Proof.Machine.execMove c task s
  | .nop c task => Sys2Proof.Machine.execNop c task s
  | .barrier c task => Sys2Proof.Machine.execBarrier c task s
  | .barrierRelease c id => Sys2Proof.Machine.execBarrierRelease c id s
  | .barrierTimeout c task => Sys2Proof.Machine.execBarrierTimeout c task s
  | .waitMarker c task => Sys2Proof.Machine.execWaitMarker c task s
  | .endTask c task => Sys2Proof.Machine.execEndTask c task s
  | .scrReadReturn c port row task flips => Sys2Proof.Machine.execScrReadReturn c port row task flips s
  | .fixupRetire c row => Sys2Proof.Machine.execFixupRetire c row s
  | .fixupHeldEnter c => Sys2Proof.Machine.execFixupHeldEnter c s
  | .scrubRead c flips => Sys2Proof.Machine.execScrubRead c flips s
  | .scrubIntervalEnd c => Sys2Proof.Machine.execScrubIntervalEnd c s
  | .uniformStallEnd c => Sys2Proof.Machine.execUniformStallEnd c s
  | .slotClaim c slot rq epoch task => Sys2Proof.Machine.execSlotClaim c slot rq epoch task s
  | .slotAcquire c slot rq epoch neve task => Sys2Proof.Machine.execSlotAcquire c slot rq epoch neve task s
  | .fillToken c slot buf epoch poster => Sys2Proof.Machine.execFillToken c slot buf epoch poster s
  | .releaseToken c slot buf epoch poster => Sys2Proof.Machine.execReleaseToken c slot buf epoch poster s
  | .slotWaitGrant c idx => Sys2Proof.Machine.execSlotWaitGrant c idx s
  | .slotWaitLimit c idx => Sys2Proof.Machine.execSlotWaitLimit c idx s
  | .scrInject c val => Sys2Proof.Machine.execScrInject c val s
  | .descriptorAdmit c => Sys2Proof.Machine.execDescriptorAdmit c s
  | .descriptorComplete c => Sys2Proof.Machine.execDescriptorComplete c s
  | .transferGroupComplete c => Sys2Proof.Machine.execTransferGroupComplete c s
  | .prefetchFetch c => Sys2Proof.Machine.execPrefetchFetch c s
  | .tokenQueueDrain c => Sys2Proof.Machine.execTokenQueueDrain c s
  | .stackRequest req => Sys2Proof.Machine.execStackRequest req s
  | .stackRequestAdmit k => Sys2Proof.Machine.execStackRequestAdmit k s
  | .requestPromote k id => Sys2Proof.Machine.execRequestPromote k id s
  | .stackRequestServe k id upset => Sys2Proof.Machine.execStackRequestServe k id upset s
  | .pannierOp k id => Sys2Proof.Machine.execPannierOp k id s
  | .bankRefresh k channel bank kind => Sys2Proof.Machine.execBankRefresh k channel bank kind s
  | .patrolRead k upset => Sys2Proof.Machine.execPatrolRead k upset s
  | .remapCopyBegin k => Sys2Proof.Machine.execRemapCopyBegin k s
  | .remapCopyFlip k key => Sys2Proof.Machine.execRemapCopyFlip k key s
  | .stkRetireAck k page => Sys2Proof.Machine.execStkRetireAck k page s
  | .stkInject k val => Sys2Proof.Machine.execStkInject k val s
  | .stkChannelFailed k channel => Sys2Proof.Machine.execStkChannelFailed k channel s
  | .stackFence k cause => Sys2Proof.Machine.execStackFence k cause s
  | .wqDoorbell c q val => Sys2Proof.Machine.execWqDoorbell c q val s
  | .wqReconfigure c q size val => Sys2Proof.Machine.execWqReconfigure c q size val s
  | .cqReconfigure c size val => Sys2Proof.Machine.execCqReconfigure c size val s
  | .cqHeadWrite c head => Sys2Proof.Machine.execCqHeadWrite c head s
  | .taskAdmit c => Sys2Proof.Machine.execTaskAdmit c s
  | .taskCyclesExpire c task => Sys2Proof.Machine.execTaskCyclesExpire c task s
  | .taskRetire c task => Sys2Proof.Machine.execTaskRetire c task s
  | .seqReplay c val => Sys2Proof.Machine.execSeqReplay c val s
  | .seqSkip c val => Sys2Proof.Machine.execSeqSkip c val s
  | .stepMarker => Sys2Proof.Machine.execStepMarker s
  | .leadComplete => Sys2Proof.Machine.execLeadComplete s
  | .specOpen c tok => Sys2Proof.Machine.execSpecOpen c tok s
  | .specSettle c tok => Sys2Proof.Machine.execSpecSettle c tok s
  | .specDiscard c tok => Sys2Proof.Machine.execSpecDiscard c tok s
  | .settleComplete c id => Sys2Proof.Machine.execSettleComplete c id s
  | .discardComplete c id => Sys2Proof.Machine.execDiscardComplete c id s
  | .specWaitLimit c q => Sys2Proof.Machine.execSpecWaitLimit c q s
  | .morainePlace => Sys2Proof.Machine.execMorainePlace s
  | .moraineLendComplete => Sys2Proof.Machine.execMoraineLendComplete s
  | .moraineReturn => Sys2Proof.Machine.execMoraineReturn s
  | .bucketBegin bucket => Sys2Proof.Machine.execBucketBegin bucket s
  | .unit port hdr data arrival => Sys2Proof.Machine.execUnit port hdr data arrival s
  | .shareOpen bucket => Sys2Proof.Machine.execShareOpen bucket s
  | .shareDeadline bucket => Sys2Proof.Machine.execShareDeadline bucket s
  | .record port src data => Sys2Proof.Machine.execRecord port src data s
  | .partialLimitExpire bucket => Sys2Proof.Machine.execPartialLimitExpire bucket s
  | .shareFinish bucket => Sys2Proof.Machine.execShareFinish bucket s
  | .shareFinal h bucket share => Sys2Proof.Machine.execShareFinal h bucket share s
  | .shareFailed h bucket share => Sys2Proof.Machine.execShareFailed h bucket share s
  | .exclusionSet h bucket ranks => Sys2Proof.Machine.execExclusionSet h bucket ranks s
  | .withdrawOrder h bucket share blocks => Sys2Proof.Machine.execWithdrawOrder h bucket share blocks s
  | .rerunOrder h bucket anchors => Sys2Proof.Machine.execRerunOrder h bucket anchors s
  | .resendOrder h bucket share blocks => Sys2Proof.Machine.execResendOrder h bucket share blocks s
  | .nonfiniteRankReport h bucket channel share ranks => Sys2Proof.Machine.execNonfiniteRankReport h bucket channel share ranks s
  | .saturationReport h bucket share blocks => Sys2Proof.Machine.execSaturationReport h bucket share blocks s
  | .doneReport h step flags lanes rime amax failures => Sys2Proof.Machine.execDoneReport h step flags lanes rime amax failures s
  | .normDecision => Sys2Proof.Machine.execNormDecision s
  | .doneReportTimeout => Sys2Proof.Machine.execDoneReportTimeout s
  | .settleReport h step coresLeft => Sys2Proof.Machine.execSettleReport h step coresLeft s
  | .settleRefusalReport h step => Sys2Proof.Machine.execSettleRefusalReport h step s
  | .repairCompare module mine theirs => Sys2Proof.Machine.execRepairCompare module mine theirs s
  | .fenceReport h => Sys2Proof.Machine.execFenceReport h s
  | .moraineReport h => Sys2Proof.Machine.execMoraineReport h s
  | .fpStart h => Sys2Proof.Machine.execFpStart h s
  | .fpComplete h => Sys2Proof.Machine.execFpComplete h s
  | .linkTrain p peer peerPort nonce lanes testOk => Sys2Proof.Machine.execLinkTrain p peer peerPort nonce lanes testOk s
  | .dataFlit p hdr payload frame at_ => Sys2Proof.Machine.execDataFlit p hdr payload frame at_ s
  | .sealFlit p hdr payload frame at_ => Sys2Proof.Machine.execSealFlit p hdr payload frame at_ s
  | .retry p x => Sys2Proof.Machine.execRetry p x s
  | .idle p x => Sys2Proof.Machine.execIdle p x s
  | .prifaRetrain p host => Sys2Proof.Machine.execPrifaRetrain p host s
  | .retrainTimeout p => Sys2Proof.Machine.execRetrainTimeout p s
  | .portFence p => Sys2Proof.Machine.execPortFence p s
  | .messageForward p vc => Sys2Proof.Machine.execMessageForward p vc s
  | .write port m => Sys2Proof.Machine.execWrite port m s
  | .pannier port m => Sys2Proof.Machine.execPannier port m s
  | .writeAck port m => Sys2Proof.Machine.execWriteAck port m s
  | .claim port m => Sys2Proof.Machine.execClaim port m s
  | .grant port m => Sys2Proof.Machine.execGrant port m s
  | .refuse port m => Sys2Proof.Machine.execRefuse port m s
  | .fill port m => Sys2Proof.Machine.execFill port m s
  | .release port m => Sys2Proof.Machine.execRelease port m s
  | .loanClaim borrower mib core desc => Sys2Proof.Machine.execLoanClaim borrower mib core desc s
  | .specToken port m => Sys2Proof.Machine.execSpecToken port m s
  | .package h part parts p => Sys2Proof.Machine.execPackage h part parts p s
  | .membershipEpoch h epoch list => Sys2Proof.Machine.execMembershipEpoch h epoch list s
  | .lostDeclaration h module => Sys2Proof.Machine.execLostDeclaration h module s
  | .deadlineShift h ticks => Sys2Proof.Machine.execDeadlineShift h ticks s
  | .heartbeat h => Sys2Proof.Machine.execHeartbeat h s
  | .heartbeatTimeout => Sys2Proof.Machine.execHeartbeatTimeout s
  | .takeover h => Sys2Proof.Machine.execTakeover h s
  | .log h ack m => Sys2Proof.Machine.execLog h ack m s
  | .cascadeBarrier h id release => Sys2Proof.Machine.execCascadeBarrier h id release s
  | .timeSync p depart arrive => Sys2Proof.Machine.execTimeSync p depart arrive s
  | .timeDelay p depart arrive => Sys2Proof.Machine.execTimeDelay p depart arrive s
  | .timeHoldoverExpire => Sys2Proof.Machine.execTimeHoldoverExpire s
  | .ring port m => Sys2Proof.Machine.execRing port m s
  | .ringRelay ring => Sys2Proof.Machine.execRingRelay ring s
  | .markerPlace tick => Sys2Proof.Machine.execMarkerPlace tick s
  | .markerReqRepeat => Sys2Proof.Machine.execMarkerReqRepeat s
  | .markerReqResume => Sys2Proof.Machine.execMarkerReqResume s
  | .ptpMessage e domain layer2 time => Sys2Proof.Machine.execPtpMessage e domain layer2 time s
  | .ptpLoss => Sys2Proof.Machine.execPtpLoss s
  | .ethFrame e kind len tags fcsOk symErr => Sys2Proof.Machine.execEthFrame e kind len tags fcsOk symErr s
  | .arpRequest e v6 target => Sys2Proof.Machine.execArpRequest e v6 target s
  | .rocePacket e q p => Sys2Proof.Machine.execRocePacket e q p s
  | .roceAckTimeout e q => Sys2Proof.Machine.execRoceAckTimeout e q s
  | .roceRateIncrease e q => Sys2Proof.Machine.execRoceRateIncrease e q s
  | .ethLinkDown e => Sys2Proof.Machine.execEthLinkDown e s
  | .sqTail e q val => Sys2Proof.Machine.execSqTail e q val s
  | .rqTail e q val => Sys2Proof.Machine.execRqTail e q val s
  | .cqHead e q val => Sys2Proof.Machine.execCqHead e q val s
  | .modify e q val => Sys2Proof.Machine.execModify e q val s
  | .imgLoadLocal place => Sys2Proof.Machine.execImgLoadLocal place s
  | .imgLoadPeer place peer peerPlace answer => Sys2Proof.Machine.execImgLoadPeer place peer peerPlace answer s
  | .imageVerify place => Sys2Proof.Machine.execImageVerify place s
  | .imgStage place => Sys2Proof.Machine.execImgStage place s
  | .stagingComplete => Sys2Proof.Machine.execStagingComplete s
  | .imgSwapArmStep => Sys2Proof.Machine.execImgSwapArmStep s
  | .imgSwapArmImmediate => Sys2Proof.Machine.execImgSwapArmImmediate s
  | .imgSwapCancel => Sys2Proof.Machine.execImgSwapCancel s
  | .swapStart => Sys2Proof.Machine.execSwapStart s
  | .swapDrainLimit => Sys2Proof.Machine.execSwapDrainLimit s
  | .swapCommit => Sys2Proof.Machine.execSwapCommit s
  | .swapReadyTimeout => Sys2Proof.Machine.execSwapReadyTimeout s
  | .swapComplete => Sys2Proof.Machine.execSwapComplete s
  | .imgModuleId id => Sys2Proof.Machine.execImgModuleId id s
  | .coreFence c cause detail => Sys2Proof.Machine.execCoreFence c cause detail s
  | .halfFence h cause detail => Sys2Proof.Machine.execHalfFence h cause detail s
  | .moduleFence cause detail => Sys2Proof.Machine.execModuleFence cause detail s
  | .grantRecompute h => Sys2Proof.Machine.execGrantRecompute h s
  | .opSwitchCommit h => Sys2Proof.Machine.execOpSwitchCommit h s
  | .opSwitchComplete h => Sys2Proof.Machine.execOpSwitchComplete h s
  | .pllUnlock h => Sys2Proof.Machine.execPllUnlock h s
  | .pllRelock h => Sys2Proof.Machine.execPllRelock h s
  | .pllRelockTimeout h => Sys2Proof.Machine.execPllRelockTimeout h s
  | .droopDetect h => Sys2Proof.Machine.execDroopDetect h s
  | .droopWindowEnd h => Sys2Proof.Machine.execDroopWindowEnd h s
  | .capStep actW actE other rails => Sys2Proof.Machine.execCapStep actW actE other rails s
  | .capUnmet => Sys2Proof.Machine.execCapUnmet s
  | .inputPowerWindow reading => Sys2Proof.Machine.execInputPowerWindow reading s
  | .freewheelBudget h fullStep emptyStep => Sys2Proof.Machine.execFreewheelBudget h fullStep emptyStep s
  | .thermalRead h junction stackTemps => Sys2Proof.Machine.execThermalRead h junction stackTemps s
  | .thermalEase h => Sys2Proof.Machine.execThermalEase h s
  | .alertAssert => Sys2Proof.Machine.execAlertAssert s
  | .alertRelease => Sys2Proof.Machine.execAlertRelease s
  | .thermalTrip sensor => Sys2Proof.Machine.execThermalTrip sensor s
  | .pwrStateM0 => Sys2Proof.Machine.execPwrStateM0 s
  | .pwrStateM1 => Sys2Proof.Machine.execPwrStateM1 s
  | .pwrStateM2 => Sys2Proof.Machine.execPwrStateM2 s
  | .pwrStateM3 => Sys2Proof.Machine.execPwrStateM3 s
  | .pwrStateM4 => Sys2Proof.Machine.execPwrStateM4 s
  | .m1Wake => Sys2Proof.Machine.execM1Wake s
  | .powerOn mv modEn straps => Sys2Proof.Machine.execPowerOn mv modEn straps s
  | .startupStepEnd found => Sys2Proof.Machine.execStartupStepEnd found s
  | .startupStepTimeout late found => Sys2Proof.Machine.execStartupStepTimeout late found s
  | .inputTurnOff mv => Sys2Proof.Machine.execInputTurnOff mv s
  | .inputDip mv => Sys2Proof.Machine.execInputDip mv s
  | .inputRecover mv => Sys2Proof.Machine.execInputRecover mv s
  | .overcurrentTrip ma => Sys2Proof.Machine.execOvercurrentTrip ma s
  | .overvoltageTrip mv => Sys2Proof.Machine.execOvervoltageTrip mv s
  | .modEnLow => Sys2Proof.Machine.execModEnLow s
  | .modEnRise straps => Sys2Proof.Machine.execModEnRise straps s
  | .perstFall => Sys2Proof.Machine.execPerstFall s
  | .warmReset hot => Sys2Proof.Machine.execWarmReset hot s
  | .glbFaultTail idx => Sys2Proof.Machine.execGlbFaultTail idx s
  | .bar2Request write addr len data => Sys2Proof.Machine.execBar2Request write addr len data s
  | .cxlMemRequest write line data enable => Sys2Proof.Machine.execCxlMemRequest write line data enable s
  | .hostLinkDown => Sys2Proof.Machine.execHostLinkDown s
  | .flr => Sys2Proof.Machine.execFlr s
  | .ideCheckFail => Sys2Proof.Machine.execIdeCheckFail s
  | .getStatus q => Sys2Proof.Machine.execGetStatus q s
  | .getLog q => Sys2Proof.Machine.execGetLog q s
  | .getNonce q => Sys2Proof.Machine.execGetNonce q s
  | .zeroise q => Sys2Proof.Machine.execZeroise q s
  | .takeOwnership q => Sys2Proof.Machine.execTakeOwnership q s
  | .transferOwnership q => Sys2Proof.Machine.execTransferOwnership q s
  | .requestSelftest q => Sys2Proof.Machine.execRequestSelftest q s
  | .installUserKey q => Sys2Proof.Machine.execInstallUserKey q s
  | .removeUserKey q => Sys2Proof.Machine.execRemoveUserKey q s
  | .installImageKey q => Sys2Proof.Machine.execInstallImageKey q s
  | .raiseImageFloor q => Sys2Proof.Machine.execRaiseImageFloor q s
  | .setPolicy q => Sys2Proof.Machine.execSetPolicy q s
  | .fwUpdate q image => Sys2Proof.Machine.execFwUpdate q image s
  | .raiseFwFloor q => Sys2Proof.Machine.execRaiseFwFloor q s
  | .debugOpen q => Sys2Proof.Machine.execDebugOpen q s
  | .installCascadeKey q => Sys2Proof.Machine.execInstallCascadeKey q s
  | .tamperDetect cause => Sys2Proof.Machine.execTamperDetect cause s
  | .getVersion doe => Sys2Proof.Machine.execGetVersion doe s
  | .getCapabilities doe version => Sys2Proof.Machine.execGetCapabilities doe version s
  | .negotiateAlgorithms doe offer => Sys2Proof.Machine.execNegotiateAlgorithms doe offer s
  | .getCertificate doe slot offset len => Sys2Proof.Machine.execGetCertificate doe slot offset len s
  | .challenge doe slot nonce => Sys2Proof.Machine.execChallenge doe slot nonce s
  | .getMeasurements doe index sign nonce => Sys2Proof.Machine.execGetMeasurements doe index sign nonce s
  | .keyExchange doe slot key => Sys2Proof.Machine.execKeyExchange doe slot key s
  | .finish session proof => Sys2Proof.Machine.execFinish session proof s
  | .keyUpdate session => Sys2Proof.Machine.execKeyUpdate session s
  | .spdmHeartbeat session => Sys2Proof.Machine.execSpdmHeartbeat session s
  | .endSession session => Sys2Proof.Machine.execEndSession session s
  | .keyProg session tx => Sys2Proof.Machine.execKeyProg session tx s
  | .kSetGo session tx => Sys2Proof.Machine.execKSetGo session tx s
  | .identifyMemoryDevice => Sys2Proof.Machine.execIdentifyMemoryDevice s
  | .getHealthInfo => Sys2Proof.Machine.execGetHealthInfo s
  | .getEventRecords log => Sys2Proof.Machine.execGetEventRecords log s
  | .clearEventRecords log count => Sys2Proof.Machine.execClearEventRecords log count s
  | .getPoisonList addr len => Sys2Proof.Machine.execGetPoisonList addr len s
  | .getSupportedLogs => Sys2Proof.Machine.execGetSupportedLogs s
  | .cxlGetLog offset len => Sys2Proof.Machine.execCxlGetLog offset len s
  | .getFwInfo => Sys2Proof.Machine.execGetFwInfo s
  | .pmbusPoll vin iin vout temp status => Sys2Proof.Machine.execPmbusPoll vin iin vout temp status s
  | .i3cDynamicAddress addr => Sys2Proof.Machine.execI3cDynamicAddress addr s
  | .tapReset => Sys2Proof.Machine.execTapReset s
  | .bypass => Sys2Proof.Machine.execBypass s
  | .idcode => Sys2Proof.Machine.execIdcode s
  | .testEnter testN => Sys2Proof.Machine.execTestEnter testN s
  | .samplePreload => Sys2Proof.Machine.execSamplePreload s
  | .extest => Sys2Proof.Machine.execExtest s
  | .clamp => Sys2Proof.Machine.execClamp s
  | .highz => Sys2Proof.Machine.execHighz s
  | .extestPulse => Sys2Proof.Machine.execExtestPulse s
  | .extestTrain => Sys2Proof.Machine.execExtestTrain s
  | .pllLockCheckPass h => Sys2Proof.Machine.execPllLockCheckPass h s
  | .hostLinkRetrain link => Sys2Proof.Machine.execHostLinkRetrain link s
  | .ethLinkUp e phy => Sys2Proof.Machine.execEthLinkUp e phy s
  | .perstRise link => Sys2Proof.Machine.execPerstRise link s
  | .tckEdge rising tdi tms testN pins => Sys2Proof.Machine.execTckEdge rising tdi tms testN pins s
  | .peerLoadRequest src place => Sys2Proof.Machine.execPeerLoadRequest src place s
  | .timeUnlockedReport h => Sys2Proof.Machine.execTimeUnlockedReport h s
  | .heartbeatInterval => Sys2Proof.Machine.execHeartbeatInterval s
  | .timeSyncInterval => Sys2Proof.Machine.execTimeSyncInterval s
  | .erasureVerified => Sys2Proof.Machine.execErasureVerified s

end Sys2Proof.Machine
end

