-- ==== Sys2Proof/Machine/Tick.lean ====
section
/-! DEFINITION. One tick of the timebase, 1 ns, which passes when no command waits: the clock domains' cycles, the counters that
count them, and what no event of the table carries (R111, R113, R164, R309, R370, R371). -/

namespace Sys2Proof.Machine

open Host

/-- One array cycle of a core (R111, R113, R164): in a stall cycle the schedule counter and the task clocks stand still and the
causes are counted; the array itself stands still only for causes other than a marker or load hold (R36). In a cycle in which it
runs, the loaders write a row and the converters an entry. At the start of the next cycle the sequencer looks for causes among
the actions then due, so that a schedule cycle is held whole (R111). -/
def State.coreCycle (s : State) (c : Fin 8) : State :=
  if !s.coreRuns c then s
  else
    let stall := s.stallCause c
    let s0 := s.modArr c fun a =>
      let a1 := if s.arrayRuns c then { a.loadRows with now := a.now + 1 } else a
      { a1 with markerHold := satAdd 64 a.markerHold (b2n (s.anyHold c)) }
    let s1 := if s.arrayRuns c then s0.convertCycle c else s0
    let s2 := s1.modScr c fun x => { x with
      stallTotal := satAdd 64 x.stallTotal (b2n stall)
      stallFixup := satAdd 64 x.stallFixup (b2n (stall && s.stallFixup c))
      stallSlot := satAdd 64 x.stallSlot (b2n (stall && s.stallSlot c)) }
    (s2.modSeq c fun q => { q with
      stalled := stall
      sched := q.sched + b2n (!stall)
      tasks := q.tasks.map fun t => if (t.st = .running || t.st = .ending) && !stall then { t with clock := t.clock + 1 } else t
      }).replanAll c |>.seekCauses c

/-- One array cycle of a half (R370): its cycle count, the droop window's count and its four cores. -/
def State.arrayCycle (s : State) (h : Fin 2) : State :=
  let s1 := s.modHalf h fun x => { x with
    arrCycle := x.arrCycle + 1
    droopCycles := satAdd 64 x.droopCycles (b2n x.gear4) }
  (List.range 4).foldl (fun (s : State) j => s.coreCycle (fin8 (4 * h.val + j))) s1

/-- The array cycles that end in one tick of a half: gear 3, or 4 in a droop window; none while the array domain is gated in M1,
the chainring stands, or a switch holds the geared domains low (R370, R375, R377, R393). -/
def State.arrayTick (s : State) (h : Fin 2) : State :=
  if !s.geared h || s.pwr.state ≠ 0 then s
  else
    let x := s.half h
    let acc := x.arrAcc + x.chainring * (if x.gear4 then 3 else 4)
    let s1 := s.modHalf h fun x => { x with arrAcc := acc % 12000 }
    let s2 := (List.range 4).foldl (fun (r : State) j =>
        let c := fin8 (4 * h.val + j)
        r.modArr c fun a => { a with tickFrom := min ((s.core c).arr.now + 1) a.now })
      ((List.range (acc / 12000)).foldl (fun (s : State) _ => s.arrayCycle h) s1)
    (List.range 4).foldl (fun (s : State) j =>
      let c := fin8 (4 * h.val + j)
      if s.coreRuns c then s.modScr c fun x => { x with scrubNs := x.scrubNs + 1 } else s) s2

/-- The bridge's cycles in one tick, those of the slower half's fabric clock: 1.2 per ns at OP0 (R21, R370). With a half stopped,
or in the gap of a switch, the open bridge carries nothing and counts nothing (R377). -/
def State.bridgeTick (s : State) : State :=
  let f := if s.geared 0 && s.geared 1 then min (s.half 0).chainring (s.half 1).chainring else 0
  forAllOf allHalves (fun h s =>
    let x := s.half h
    let n := if x.bridgeOpen then (x.fabAcc + f) / 4000 else 1
    (List.range n).foldl (fun (s : State) _ => s.bridgeCycle h)
      (s.modHalf h fun x => { x with fabAcc := (x.fabAcc + f) % 4000 })) s

/-- A port that is up sends a flit every 1 / 411.8 MHz, the next of its frame (R308, R309). -/
def State.portTick (s : State) (p : Fin 18) : State :=
  let x := s.port p
  if x.st ≠ .up || !s.awake then s
  else
    let acc := x.txAcc + 4118
    let s1 := s.modPort p fun x => { x with txAcc := acc % 10000 }
    if 10000 ≤ acc then s1.pumpFlit p else s1

/-- The timebase in one nanosecond of the module's reference: it counts 1, or 0 or 2 where the rate correction has gathered a tick, and
never decreases (R331, R334). -/
def State.count (s : State) : State :=
  let a := s.cas.slewAcc + s.cas.rateppm
  let adv : Int := if 1000000 ≤ a then 2 else if a ≤ -1000000 then 0 else 1
  { s with tick := s.tick + adv.toNat }.modCas fun c => { c with slewAcc := a - (adv - 1) * 1000000 }

/-- The DRBG is reseeded every second from its source (R439): a seed is a free value. -/
def State.reseed (s : State) : State :=
  if s.oz.up && decide (s.oz.drbgTick + 1000000000 ≤ s.tick) then
    s.draw.modOz fun o => { o with drbg := 0, drbgTick := s.tick }
  else s

/-- One nanosecond: the timebase counts while the module has power (R371). -/
def State.tickOnce (s : State) : State :=
  if !s.pwr.on_ || s.pwr.off then s
  else
    let s1 := s.count.deliverOwn
    let s2 := forAllOf allHalves (fun h s => s.arrayTick h) s1
    let s3 := forAllOf allHalves (fun e s => s.endPauses e) (forAllOf allPorts (fun p s => s.portTick p) s2.bridgeTick)
    let s4 := forAllOf (allStacks.filter fun k => (s3.stack k).st = .fenced) (fun k s => s.failSharesOn k) s3.endAllFenced.decideStops
    let s5 := if s4.oz.up then forAllOf allStacks (fun k s => s.recordDue k s.tick) s4 else s4
    (if s5.swapRunning then s5 else s5.deliverHeld).takeNotes.takeOrders.expireSessions.reseed.msixDue

end Sys2Proof.Machine
end

