-- ==== Sys2Proof/Machine/Step.lean ====
section
/-! DEFINITION. One step: the command at the front of the queue, or one tick of the timebase when none waits. -/

namespace Sys2Proof.Machine

/-- The queue's front command runs on the state that holds the rest of the queue; with no command, one nanosecond passes. -/
def step (s : State) : Host.Outcome State Fault Refusal :=
  match s.pending with
  | [] => .next s.tickOnce
  | c :: rest => exec c { s with pending := rest }

/-- The state with the command that a word spells at the front of its queue; the spec's command table gives no bits, so no word
spells one and the state is unchanged. -/
def State.withFetchWord (s : State) (nbits w : Nat) : State :=
  match decodeTableWord nbits w with
  | some c => { s with pending := c :: s.pending }
  | none => s

end Sys2Proof.Machine
end

