-- ==== Sys2Proof/Safety.lean ====
section
/-! DEFINITION. What counts as a safe run, and the conditions under which a host's access reaches the node it names. -/

namespace Sys2Proof

open Sys2Proof.Machine

/-- The machine answered a next state. -/
def Completes (o : Host.Outcome State Fault Refusal) : Prop := ∃ t, o = .next t

/-- A write to a register block reaches its owner: the host link is up, the port is not one that must be bound and is not,
the module is in M0 or M1, or the owner is Oztas, the module offers more than its management, and the owner is up and not fenced (R13,
R405, R432). -/
def Machine.State.takesWrite (s : State) (o : Owner) : Bool :=
  s.hostHears && !s.unbound && (!s.deepSleep || o = .oz) && s.ownerUp o && !s.managed

/-- A doorbell write reaches its owner: the host link is up, the window is available, and the owner is up and not fenced
(R13, R432). -/
def Machine.State.takesDoorbell (s : State) (o : Owner) : Bool :=
  s.hostHears && !s.windowClosed && s.ownerUp o

/-- A mailbox request is heard and none is in progress (R441, R442): the host's while its link is up, one over MCTP while the
sideband answers, one in an open session while its transport is heard. -/
def Machine.State.hearsRequest (s : State) (q : MbxReq) : Bool :=
  s.oz.mbxBusy.isNone && (match q.path with
    | .host => s.hostHears && s.oz.up
    | .mctp => s.sideband
    | .session id => (match s.session id with
      | some x => s.spdmHears x.doe && x.open_
      | none => false))

/-- The invariant of the machine's plain data: the bytes of stack memory stand in canonical form. -/
def Machine.State.Inv (s : State) : Prop := Memory.wf s.mem = true

end Sys2Proof
end

