-- ==== Sys2Proof/Certificates/Slice0/Obligations.lean ====
section
/-! DEFINITION. The statements for the provers. -/

open Sys2Proof Sys2Proof.Machine Host

/-- LOAD, the shadow loader's begin and end, and the load hold limit. R28 R41 R43 R58 R62 R170
Where the spec leaves a layout, a value or an order open, this is the model's choice: log entries 33, 54, 80. -/
def Obligations.StationaryLoad : Prop :=
    (∀ (c : Fin 8) (task : Nat) (s : State) (t : Task) (i : Nat) (w : BitVec 128) (p : Fin 4) (o : OpFmt) (buf : Nat) (s1 : State) (a : Nat) (bs : List (BitVec 8)) (s2 : State) (s3 : State),
        (s.cmdReady c task 0x05 = some (t, i, w)) →
        (t.part = some p) →
        (loadFmt w = some o) →
        (s.bufferFull c p = false) →
        (s.commandBuf c t (fld w 41 32) true (bit w 111) false = (.granted buf, s1)) →
        (s1.scrExtent c (fld w 41 32) buf (fld w 65 42 + t.arg (fld w 110 109)) (tileElemBytes (s1.core c).arr.mode o + tileScaleBytes (s1.core c).arr.mode o) = some a) →
        (s1.takeAll c task 0 [(a / 512, rowsOf a (tileReadBytes (s1.core c).arr.mode o), 2), ((a + tileElemBytes (s1.core c).arr.mode o) / 512, rowsOf (a + tileElemBytes (s1.core c).arr.mode o) (tileScaleBytes (s1.core c).arr.mode o), 2)] = (true, s3)) →
        (s3.tileFetch c (s1.core c).arr.mode o a = (some bs, s2)) →
        exec (.load c task) s = .next (
          let s4 := (((s2.pushTile c p { part := p.val, hdr := loadHdr w o, regs := tileRegs (s1.core c).arr.mode o (fld w 108 101) bs, ready := true, readyCycle := (s2.core c).arr.now, task := task, slot := fld w 41 32 }).modPart c p fun q => { q with loadWait := none }).modTask c task fun t => t.issued 1 i).consumeHolds c task true [fld w 41 32]
          if bit w 112 then s4.postToken c task (fld w 41 32) buf false t.epoch else s4)) ∧
    (∀ (c : Fin 8) (loader : Fin 2) (s : State),
        s.coreRuns c →
        s.arrayRuns c →
        (((s.core c).arr.tileBuf.get loader).all fun t => !t.loading) →
        (((s.core c).arr.tileBuf.get loader).filter (fun t => s.loadAllowed c t) ≠ []) →
        exec (.shadowLoadBegin c loader) s = .next (
          let l := (s.core c).arr.tileBuf.get loader
          let ok := l.filter fun t => s.loadAllowed c t
          let first := ok.foldl (fun m t => if t.readyCycle < m.readyCycle ∨ (t.readyCycle = m.readyCycle ∧ t.part < m.part) then t else m) (ok.headD {})
          let begun (x : BufTile) : BufTile := { x with loading := true, startCycle := s.loadStartAt c (fin4 first.part), toB := !(s.part c (fin4 first.part)).selB, span := (s.core c).arr.mode.residency };
          ((s.keepMet c (fin4 first.part) (!(s.part c (fin4 first.part)).selB)).modArr c fun a => { a with tileBuf := a.tileBuf.set loader (replaceFirst (fun t => t = first) begun l) }).modPart c (fin4 first.part) fun q => { q with shadowNew := true, loadStart := s.loadStartAt c (fin4 first.part) })) ∧
    (∀ (c : Fin 8) (loader : Fin 2) (s : State) (x : BufTile),
        (((s.core c).arr.tileBuf.get loader).find? (fun t => t.loading) = some x) →
        s.coreRuns c →
        (x.startCycle + x.span ≤ (s.core c).arr.now) →
        (x.dropped = false) →
        exec (.shadowLoadEnd c loader) s = .next (((s.modArr c fun a => { a with tileBuf := a.tileBuf.set loader (removeFirst (fun x => x.loading) (a.tileBuf.get loader)) }).modPart c (fin4 x.part) fun q => if x.toB then { q with setB := { hdr := x.hdr, full := true } } else { q with setA := { hdr := x.hdr, full := true } }))) ∧
    (∀ (c : Fin 8) (loader : Fin 2) (s : State) (x : BufTile),
        (((s.core c).arr.tileBuf.get loader).find? (fun t => t.loading) = some x) →
        s.coreRuns c →
        (x.startCycle + x.span ≤ (s.core c).arr.now) →
        x.dropped →
        exec (.shadowLoadEnd c loader) s = .next (s.modArr c fun a => { a with tileBuf := a.tileBuf.set loader (removeFirst (fun x => x.loading) (a.tileBuf.get loader)) })) ∧
    (∀ (c : Fin 8) (p : Fin 4) (s : State) (start : Nat) (n : Nat) (t : Task),
        ((s.part c p).loadWait = some (start, n)) →
        (s.partTask c p = some t) →
        s.coreRuns c →
        s.loadHeld c p →
        (start + n ≤ s.cycle c) →
        exec (.loadHoldLimit c p) s = .next (s.failCmd c t.key 0x0104 p.val))

/-- OPEN, ISSUE, FILLER and MARKER_SWAP queue work for a partition. R42 R43 R46 R171 R172 R173
Where the spec leaves a layout, a value or an order open, this is the model's choice: log entries 33, 54. -/
def Obligations.BanksAndRuns : Prop :=
    (∀ (c : Fin 8) (task : Nat) (s : State) (t : Task) (i : Nat) (w : BitVec 128) (p : Fin 4) (x : TensorCfg) (f : Fmt),
        (s.cmdReady c task 0x09 = some (t, i, w)) →
        (t.part = some p) →
        (s.tensor (fld w 89 78) = some x) →
        ((policyOf x.policy).fmt = some f) →
        f.isDrainOutput →
        ((s.bank c p (fin2 (fld w 32 32))).st = .empty) →
        (fld w 42 33 + 1 ≤ (s.core c).arr.mode.entries) →
        ((leadOn x.lead && s.scaleLost) = false) →
        exec (.openBank c task) s = .next (
          let pick (led cmd : Nat) : BitVec 8 := BitVec.ofNat 8 (if leadOn x.lead then led else cmd);
          ((s.clearPool c p (fin2 (fld w 32 32))).modBank c p (fin2 (fld w 32 32)) fun _ => { st := .opened, n := fld w 42 33 + 1, transposed := bit w 43, word := w, wScale := if leadOn x.lead then some (scaleT (s.scaleRec c (leadW x.lead))) else none, iScale := if leadOn x.lead then some (scaleT (s.scaleRec c (leadI x.lead))) else none, xo := pick (scaleT (s.scaleRec c (fld w 89 78))) (fld w 77 70), xw := pick (scaleBound (s.scaleRec c (leadW x.lead))) (fld w 61 54), xi := pick (scaleBound (s.scaleRec c (leadI x.lead))) (fld w 69 62), anchor := if (policyOf x.policy).fixed then some (signed 10 (fld w 53 44)) else none, task := task, gauged := !hdrSpec t.hdr }).modTask c task fun t => t.issued 1 i)) ∧
    (∀ (c : Fin 8) (task : Nat) (s : State) (t : Task) (i : Nat) (w : BitVec 128) (p : Fin 4) (o : OpFmt) (buf : Nat) (s1 : State) (a : Nat),
        (s.cmdReady c task 0x0D = some (t, i, w)) →
        (t.part = some p) →
        (issueFmt w = some o) →
        (bit w 87 = true → (s.core c).arr.mode = .full) →
        ((s.bank c p (fin2 (fld w 76 76))).st = .opened) →
        ((s.bank c p (fin2 (fld w 76 76))).transposed = bit w 87) →
        (fld w 86 77 + (fld w 75 66 + 1) ≤ (s.bank c p (fin2 (fld w 76 76))).n) →
        (s.commandBuf c t (fld w 41 32) true (bit w 110) false = (.granted buf, s1)) →
        (s1.scrExtent c (fld w 41 32) buf (fld w 65 42 + t.arg (fld w 109 108)) 0 = some a) →
        exec (.issue c task) s = .next (((s1.modPart c p fun q => { q with runs := q.runs ++ [{ task := task, word := w, rowBase := a / 512, buf := buf, due := (s1.core c).seq.sched }] }).modTask c task fun t => t.issued 1 i).consumeHolds c task true [fld w 41 32])) ∧
    (∀ (c : Fin 8) (task : Nat) (s : State) (t : Task) (i : Nat) (w : BitVec 128) (p : Fin 4),
        (s.cmdReady c task 0x11 = some (t, i, w)) →
        (t.part = some p) →
        exec (.filler c task) s = .next ((s.modPart c p fun q => { q with fillRuns := q.fillRuns ++ [{ task := task, left := fld w 55 32 }] }).modTask c task fun t => t.issued 1 i)) ∧
    (∀ (c : Fin 8) (p : Fin 4) (s : State) (f : Flight),
        ((s.core c).arr.flights.find? (fun f => f.part = p.val && f.marker && !f.swapped) = some f) →
        s.coreRuns c →
        s.arrayRuns c →
        (f.issueCycle + 3 ≤ (s.core c).arr.now) →
        ((s.core c).arr.badSwap p.val f.setB = none) →
        exec (.markerSwap c p none) s = .next ((s.modArr c fun a => { a with flights := replaceFirst (fun x => x.part = p.val && x.marker && !x.swapped) (fun x => { x with swapped := true }) a.flights, swaps := satAdd 64 a.swaps 1 }).modPart c p fun q => { q with selB := !q.selB, active := !f.discard, shadowNew := false, lastEntry := some (f.issueCycle + 3), marks := ((f.issueCycle + 3) :: q.marks).take 4 })) ∧
    (∀ (c : Fin 8) (p : Fin 4) (s : State) (f : Flight) (cell : Nat) (s1 : State) (x : Nat × Nat),
        ((s.core c).arr.flights.find? (fun f => f.part = p.val && f.marker && !f.swapped) = some f) →
        s.coreRuns c →
        s.arrayRuns c →
        (f.issueCycle + 3 ≤ (s.core c).arr.now) →
        (s.strikeReg c p f.setB (cell / 512 % 512) (cell % 512) = s1) →
        ((s1.core c).arr.badSwap p.val f.setB = some x) →
        exec (.markerSwap c p (some cell)) s = .next (((s1.modArr c fun a => { a with flights := replaceFirst (fun x => x.part = p.val && x.marker && !x.swapped) (fun x => { x with swapped := true }) a.flights, swaps := satAdd 64 a.swaps 1 }).modPart c p fun q => { q with selB := !q.selB, active := !f.discard, shadowNew := false, lastEntry := some (f.issueCycle + 3), marks := ((f.issueCycle + 3) :: q.marks).take 4 }).hardFault c p 0x0110 (some x.1) x.2)) ∧
    (∀ (c : Fin 8) (p : Fin 4) (n : Nat) (s : State) (f : FillRun) (rest : List FillRun),
        s.coreRuns c →
        (p.val < (s.core c).arr.mode.count) →
        (s.issueSlot c p = some n) →
        s.arrayRuns c →
        (s.stallCause c = false) →
        (n = (s.core c).arr.now ∨ (s.core c).seq.stalled = false) →
        ((s.part c p).runs = []) →
        ((s.part c p).fillRuns = f :: rest) →
        ∃ t, exec (.vectorIssue c p) s = .next t ∧ (t.core c).arr.flights = (s.core c).arr.flights ++ [{ part := p.val, filler := true, setB := s.nextSet c p, issueCycle := n, task := f.task }] ∧
          (t.part c p).fillRuns = (if f.left ≤ 1 then rest else { f with left := f.left - 1 } :: rest) ∧ (t.part c p).lastIssue = some n) ∧
    (∀ (c : Fin 8) (p : Fin 4) (s : State) (f : Flight),
        ((s.core c).arr.flights.find? (fun f => f.part = p.val) = some f) →
        s.coreRuns c →
        s.arrayRuns c →
        (f.issueCycle + passLatency (s.core c).arr.mode ≤ (s.core c).arr.now) →
        (f.marker = true → f.swapped = true) →
        (s.vectorFault c p f none = none) →
        f.discard || f.filler || f.bubble →
        ∃ t, exec (.vectorOutputArrive c p none) s = .next t ∧ (t.core c).arr.flights = removeFirst (fun f => f.part = p.val) (s.core c).arr.flights ∧
          (t.core c).arr.pool = (s.core c).arr.pool ∧ (t.part c p) = (s.part c p)) ∧
    (∀ (c : Fin 8) (p : Fin 4) (b : Fin 2) (s : State) (buf : Nat),
        s.coreRuns c →
        s.arrayRuns c →
        ((s.bank c p b).st = .closed) →
        ((s.bank c p b).closeCycle + passLatency (s.core c).arr.mode ≤ (s.core c).arr.now) →
        ((s.core c).arr.flights.all fun f => f.part ≠ p.val || f.bank ≠ b.val || f.filler || f.bubble) →
        s.converterFree c p b →
        (s.bank c p b).lastChunk ≠ none →
        ((s.bank c p b).buf = some buf) →
        (s.outputFits c p b buf) →
        ∃ t, exec (.bankConvertBegin c p b) s = .next t ∧ (t.bank c p b).st = .converting ∧ (t.bank c p b).conv = 0 ∧ (t.bank c p b).buf = some buf ∧
          (t.bank c p b).convCycle = (s.core c).arr.now ∧ (t.bank c p b).word = (s.bank c p b).word) ∧
    (∀ (c : Fin 8) (p : Fin 4) (b : Fin 2) (s : State) (buf : Nat) (at_ : Nat) (s0 : State),
        s.coreRuns c →
        s.arrayRuns c →
        ((s.bank c p b).buf = some buf) →
        ((s.bank c p b).st = .converting) →
        ((s.bank c p b).n ≤ (s.bank c p b).conv) →
        (bit (s.bank c p b).word 125 = false) →
        (s.scrExtent c (fld (s.bank c p b).word 99 90) buf (fld (s.bank c p b).word 123 100 + (s.bank c p b).n * s.recordRows c p b) (padRow (s.bank c p b).scales).length = some at_) →
        (s.takeAll c (s.bank c p b).task 0 [(at_ / 512, rowsOf at_ (padRow (s.bank c p b).scales).length, convPort (s.core c).arr.mode p.val)] = (true, s0)) →
        ∃ t, exec (.bankConvertEnd c p b) s = .next t ∧ (t.bank c p b).st = .empty ∧ (t.bank c p b).buf = none)

/-- VECTOR_ISSUE, VECTOR_OUTPUT_ARRIVE and the bank conversion. R30 R31 R35 R42 R45 R46 R48 R49 R82 R496
Where the spec leaves a layout, a value or an order open, this is the model's choice: log entries 30, 32, 33, 54, 55, 78. -/
def Obligations.VectorsThroughTheArray : Prop :=
    (∀ (c : Fin 8) (p : Fin 4) (n : Nat) (s : State),
        s.coreRuns c →
        (p.val < (s.core c).arr.mode.count) →
        (s.issueSlot c p = some n) →
        s.arrayRuns c →
        (s.stallCause c = false) →
        (n = (s.core c).arr.now ∨ (s.core c).seq.stalled = false) →
        ((s.part c p).runs = []) →
        ((s.part c p).fillRuns = []) →
        ((s.part c p).density ≤ n % 64) →
        exec (.vectorIssue c p) s = .next ((s.modPart c p fun q => { q with lastIssue := some n, recent := (false :: q.recent).take 1024 }).modArr c fun a => { a with bubbles := satAdd 64 a.bubbles 1 })) ∧
    (∀ (c : Fin 8) (p : Fin 4) (n : Nat) (s : State),
        s.coreRuns c →
        (p.val < (s.core c).arr.mode.count) →
        (s.issueSlot c p = some n) →
        s.arrayRuns c →
        (s.stallCause c = false) →
        (n = (s.core c).arr.now ∨ (s.core c).seq.stalled = false) →
        ((s.part c p).runs = []) →
        ((s.part c p).fillRuns = []) →
        (n % 64 < (s.part c p).density) →
        exec (.vectorIssue c p) s = .next ((s.modArr c fun x => { x with flights := x.flights ++ [{ part := p.val, filler := true, setB := s.nextSet c p, issueCycle := n }] }).modPart c p fun q => { q with fillRuns := [], lastIssue := some n, recent := (false :: q.recent).take 1024 })) ∧
    (∀ (c : Fin 8) (p : Fin 4) (n : Nat) (s : State) (r : Run) (rest : List Run) (o : OpFmt),
        s.coreRuns c →
        (p.val < (s.core c).arr.mode.count) →
        (s.issueSlot c p = some n) →
        s.arrayRuns c →
        (s.stallCause c = false) →
        (n = (s.core c).arr.now ∨ (s.core c).seq.stalled = false) →
        ((s.part c p).runs = r :: rest) →
        (r.gap = false) →
        ((s.findTask c r.task).all (fun t => s.taskDecoupled c t) || decide (r.due ≤ (s.core c).seq.sched - ((s.core c).arr.now - n))) →
        (issueFmt r.word = some o) →
        (if bit r.word 88 && r.next = 0 && !r.marked then s.markerAt c p n else (s.part c p).active || s.markPending c p) →
        (let st := (s.setHdr c p (if bit r.word 88 && r.next = 0 && !r.marked then !s.nextSet c p else s.nextSet c p)).op
  (st.isFloat || o.isFloat) = false ∨ st.fmt = o.fmt) →
        ((s.bank c p (fin2 (fld r.word 76 76))).st = .opened) →
        exec (.vectorIssue c p) s = .next (s.issueVector c p n r o (bit r.word 88 && r.next = 0 && !r.marked))) ∧
    (∀ (c : Fin 8) (p : Fin 4) (n : Nat) (s : State) (r : Run) (rest : List Run) (o : OpFmt),
        s.coreRuns c →
        (p.val < (s.core c).arr.mode.count) →
        (s.issueSlot c p = some n) →
        s.arrayRuns c →
        (s.stallCause c = false) →
        (n = (s.core c).arr.now ∨ (s.core c).seq.stalled = false) →
        ((s.part c p).runs = r :: rest) →
        (r.gap = false) →
        ((s.findTask c r.task).all (fun t => s.taskDecoupled c t) || decide (r.due ≤ (s.core c).seq.sched - ((s.core c).arr.now - n))) →
        (issueFmt r.word = some o) →
        (bit r.word 88 && r.next = 0 && !r.marked) →
        (s.markerAt c p n) →
        (((s.setHdr c p (!s.nextSet c p)).op.isFloat || o.isFloat) = false) →
        ((s.bank c p (fin2 (fld r.word 76 76))).st ≠ .opened) →
        exec (.vectorIssue c p) s = .next (s.markBubble c p n r)) ∧
    (∀ (c : Fin 8) (p : Fin 4) (n : Nat) (s : State) (f : FillRun) (rest : List FillRun),
        s.coreRuns c →
        (p.val < (s.core c).arr.mode.count) →
        (s.issueSlot c p = some n) →
        s.arrayRuns c →
        (s.stallCause c = false) →
        (n = (s.core c).arr.now ∨ (s.core c).seq.stalled = false) →
        ((s.part c p).runs = []) →
        ((s.part c p).fillRuns = f :: rest) →
        exec (.vectorIssue c p) s = .next ((s.modArr c fun x => { x with flights := x.flights ++ [{ part := p.val, filler := true, setB := s.nextSet c p, issueCycle := n, task := f.task }] }).modPart c p fun q => { q with fillRuns := if f.left ≤ 1 then rest else { f with left := f.left - 1 } :: rest, lastIssue := some n, recent := (false :: q.recent).take 1024 })) ∧
    (∀ (c : Fin 8) (p : Fin 4) (s : State) (f : Flight),
        ((s.core c).arr.flights.find? (fun f => f.part = p.val) = some f) →
        s.coreRuns c →
        s.arrayRuns c →
        (f.issueCycle + passLatency (s.core c).arr.mode ≤ (s.core c).arr.now) →
        (f.marker = true → f.swapped = true) →
        (s.vectorFault c p f none = none) →
        f.discard || f.filler || f.bubble →
        exec (.vectorOutputArrive c p none) s = .next (s.modArr c fun a => { a with flights := removeFirst (fun f => f.part = p.val) a.flights })) ∧
    (∀ (c : Fin 8) (p : Fin 4) (s : State) (f : Flight) (s1 : State),
        ((s.core c).arr.flights.find? (fun f => f.part = p.val) = some f) →
        s.coreRuns c →
        s.arrayRuns c →
        (f.issueCycle + passLatency (s.core c).arr.mode ≤ (s.core c).arr.now) →
        (f.marker = true → f.swapped = true) →
        (s.vectorFault c p f none = none) →
        ((f.discard || f.filler || f.bubble) = false) →
        (s1 = s.modArr c fun a => { a with flights := removeFirst (fun f => f.part = p.val) a.flights }) →
        ((s1.bank c p (fin2 f.bank)).st ≠ .empty) →
        ((s1.bank c p (fin2 f.bank)).lastChunk.all fun k => decide ((s1.metHdr c p f).chunk.toNat ≤ k.toNat)) →
        ((s1.drainPass c p f).order = false ∧ (s1.drainPass c p f).nf = false ∧ (s1.drainPass c p f).sat = false) →
        exec (.vectorOutputArrive c p none) s = .next ((s1.modArr c fun a => { a with pool := a.pool.set (fin2 f.bank) (s1.drainPass c p f).entries }).modBank c p (fin2 f.bank) fun k => { k with underflow := k.underflow + (s1.drainPass c p f).under, anchor := if (s1.metHdr c p f).op.isFloat then k.anchor else some (k.passAnchor (s1.metHdr c p f).op f.op), lastChunk := if k.lastChunk.isNone && (s1.metHdr c p f).last then some (s1.metHdr c p f).chunk else k.lastChunk })) ∧
    (∀ (c : Fin 8) (p : Fin 4) (u : CellUpset) (s : State) (f : Flight),
        ((s.core c).arr.flights.find? (fun f => f.part = p.val) = some f) →
        s.coreRuns c →
        s.arrayRuns c →
        (f.issueCycle + passLatency (s.core c).arr.mode ≤ (s.core c).arr.now) →
        (f.marker = true → f.swapped = true) →
        (f.bubble = false) →
        (f.filler = false ∨ (s.part c p).active) →
        (u.parity = false) →
        exec (.vectorOutputArrive c p (some u)) s = .next ((s.modArr c fun a => { a with flights := removeFirst (fun f => f.part = p.val) a.flights }).hardFault c p 0x0111 none u.col)) ∧
    (∀ (c : Fin 8) (p : Fin 4) (b : Fin 2) (s : State) (buf : Nat),
        s.coreRuns c →
        s.arrayRuns c →
        ((s.bank c p b).st = .closed) →
        ((s.bank c p b).closeCycle + passLatency (s.core c).arr.mode ≤ (s.core c).arr.now) →
        ((s.core c).arr.flights.all fun f => f.part ≠ p.val || f.bank ≠ b.val || f.filler || f.bubble) →
        s.converterFree c p b →
        (s.bank c p b).lastChunk ≠ none →
        ((s.bank c p b).buf = some buf) →
        (s.outputFits c p b buf) →
        exec (.bankConvertBegin c p b) s = .next (s.modBank c p b fun k => { k with st := .converting, buf := some buf, convCycle := (s.core c).arr.now, conv := 0 })) ∧
    (∀ (c : Fin 8) (p : Fin 4) (b : Fin 2) (s : State) (t : Task) (h : Hold),
        s.coreRuns c →
        s.arrayRuns c →
        ((s.bank c p b).st = .closed) →
        ((s.bank c p b).closeCycle + passLatency (s.core c).arr.mode ≤ (s.core c).arr.now) →
        ((s.core c).arr.flights.all fun f => f.part ≠ p.val || f.bank ≠ b.val || f.filler || f.bubble) →
        s.converterFree c p b →
        (s.bank c p b).lastChunk ≠ none →
        ((s.bank c p b).buf = none) →
        (s.findTask c (s.bank c p b).task = some t) →
        ((s.core c).scr.waits.all fun w => w.rq ≠ .bank p.val b.val) →
        (bit (s.bank c p b).word 124 = false) →
        (t.held (fld (s.bank c p b).word 99 90) false = some h) →
        (s.outputFits c p b h.buf) →
        exec (.bankConvertBegin c p b) s = .next (s.modBank c p b fun k => { k with st := .converting, buf := some h.buf, convCycle := (s.core c).arr.now, conv := 0 })) ∧
    (∀ (c : Fin 8) (p : Fin 4) (b : Fin 2) (s : State) (buf : Nat) (at_ : Nat) (s0 : State),
        s.coreRuns c →
        s.arrayRuns c →
        ((s.bank c p b).buf = some buf) →
        ((s.bank c p b).st = .converting) →
        ((s.bank c p b).n ≤ (s.bank c p b).conv) →
        (s.scrExtent c (fld (s.bank c p b).word 99 90) buf (fld (s.bank c p b).word 123 100 + (s.bank c p b).n * s.recordRows c p b) (padRow (s.bank c p b).scales).length = some at_) →
        (s.takeAll c (s.bank c p b).task 0 [(at_ / 512, rowsOf at_ (padRow (s.bank c p b).scales).length, convPort (s.core c).arr.mode p.val)] = (true, s0)) →
        exec (.bankConvertEnd c p b) s = .next (
          let k := s.bank c p b
          let s1 := s0.scrWrite c at_ (padRow k.scales)
          let s2 := if k.gauged then s1.gaugeFlush c (fld k.word 89 78) k.gauge k.underflow else s1
          let s3 := s2.modBank c p b fun _ => {}
          match s3.findTask c k.task with
          | some t => if bit k.word 125 then s3.postToken c k.task (fld k.word 99 90) buf true t.epoch else s3
          | none => s3)) ∧
    (∀ (c : Fin 8) (p : Fin 4) (b : Fin 2) (s : State) (buf : Nat) (at_ : Nat) (s0 : State),
        s.coreRuns c →
        s.arrayRuns c →
        ((s.bank c p b).buf = some buf) →
        ((s.bank c p b).st = .converting) →
        ((s.bank c p b).n ≤ (s.bank c p b).conv) →
        (s.scrExtent c (fld (s.bank c p b).word 99 90) buf (fld (s.bank c p b).word 123 100 + (s.bank c p b).n * s.recordRows c p b) (padRow (s.bank c p b).scales).length = some at_) →
        (s.takeAll c (s.bank c p b).task 0 [(at_ / 512, rowsOf at_ (padRow (s.bank c p b).scales).length, convPort (s.core c).arr.mode p.val)] = (false, s0)) →
        exec (.bankConvertEnd c p b) s = .next s0) ∧
    (∀ (c : Fin 8) (p : Fin 4) (b : Fin 2) (s : State) (buf : Nat),
        s.coreRuns c →
        s.arrayRuns c →
        s.convertDue c p b →
        (s.bank c p b).lastChunk ≠ none →
        ((s.bank c p b).buf = some buf) →
        (s.outputFits c p b buf = false) →
        exec (.bankConvertBegin c p b) s = .next (s.failCmd c (s.bank c p b).task 0x0204 (fld (s.bank c p b).word 99 90))) ∧
    (∀ (c : Fin 8) (p : Fin 4) (s : State) (f : Flight) (s1 : State),
        ((s.core c).arr.flights.find? (fun f => f.part = p.val) = some f) →
        s.coreRuns c →
        s.arrayRuns c →
        (f.issueCycle + passLatency (s.core c).arr.mode ≤ (s.core c).arr.now) →
        (f.marker = true → f.swapped = true) →
        (s.vectorFault c p f none = none) →
        ((f.discard || f.filler || f.bubble) = false) →
        (s1 = s.modArr c fun a => { a with flights := removeFirst (fun f => f.part = p.val) a.flights }) →
        ((s1.bank c p (fin2 f.bank)).st ≠ .empty) →
        ((s1.drainPass c p f).order ∨ ∃ k, (s1.bank c p (fin2 f.bank)).lastChunk = some k ∧ k.toNat < (s1.metHdr c p f).chunk.toNat) →
        exec (.vectorOutputArrive c p none) s = .next (s1.failCmd c f.task 0x0103 p.val)) ∧
    (∀ (c : Fin 8) (p : Fin 4) (s : State) (f : Flight) (s1 : State),
        ((s.core c).arr.flights.find? (fun f => f.part = p.val) = some f) →
        s.coreRuns c →
        s.arrayRuns c →
        (f.issueCycle + passLatency (s.core c).arr.mode ≤ (s.core c).arr.now) →
        (f.marker = true → f.swapped = true) →
        (s.vectorFault c p f none = none) →
        ((f.discard || f.filler || f.bubble) = false) →
        (s1 = s.modArr c fun a => { a with flights := removeFirst (fun f => f.part = p.val) a.flights }) →
        ((s1.bank c p (fin2 f.bank)).st ≠ .empty) →
        ((s1.bank c p (fin2 f.bank)).lastChunk.all fun k => decide ((s1.metHdr c p f).chunk.toNat ≤ k.toNat)) →
        ((s1.drainPass c p f).order = false) →
        ((s1.drainPass c p f).nf) →
        exec (.vectorOutputArrive c p none) s = .next (s1.failCmd c f.task 0x0101 p.val)) ∧
    (∀ (c : Fin 8) (p : Fin 4) (s : State) (f : Flight) (s1 : State),
        ((s.core c).arr.flights.find? (fun f => f.part = p.val) = some f) →
        s.coreRuns c →
        s.arrayRuns c →
        (f.issueCycle + passLatency (s.core c).arr.mode ≤ (s.core c).arr.now) →
        (f.marker = true → f.swapped = true) →
        (s.vectorFault c p f none = none) →
        ((f.discard || f.filler || f.bubble) = false) →
        (s1 = s.modArr c fun a => { a with flights := removeFirst (fun f => f.part = p.val) a.flights }) →
        ((s1.bank c p (fin2 f.bank)).st ≠ .empty) →
        ((s1.bank c p (fin2 f.bank)).lastChunk.all fun k => decide ((s1.metHdr c p f).chunk.toNat ≤ k.toNat)) →
        ((s1.drainPass c p f).order = false) →
        ((s1.drainPass c p f).nf = false) →
        ((s1.drainPass c p f).sat) →
        exec (.vectorOutputArrive c p none) s = .next (s1.failCmd c f.task 0x0102 p.val))

/-- Partition release, directed checks, field sparing and the uniform stall's end. R51 R55 R56 R62 R65 R111
Where the spec leaves a layout, a value or an order open, this is the model's choice: log entry 54. -/
def Obligations.ArrayRecovery : Prop :=
    (∀ (c : Fin 8) (p : Fin 4) (s : State),
        (s.part c p).freeAt ≠ 0 →
        ((s.part c p).freeAt ≤ (s.core c).arr.now) →
        exec (.partitionFree c p) s = .next (s.modPart c p fun q => { q with freeAt := 0 })) ∧
    (∀ (c : Fin 8) (q : Fin 4) (s : State),
        s.coreRuns c →
        bit (s.core c).arr.suspect q.val →
        ((s.core c).arr.check = none) →
        ((s.core c).arr.respare.all fun r => r.2.2 ≠ q.val) →
        s.quadFree c q.val →
        exec (.directedCheckBegin c q) s = .next (s.modArr c fun a => { a with check := some ⟨q.val, a.now⟩ })) ∧
    (∀ (c : Fin 8) (q : Fin 4) (s : State) (x : Check),
        ((s.core c).arr.check = some x) →
        s.coreRuns c →
        (x.quad = q.val) →
        (x.start + 4096 ≤ (s.core c).arr.now) →
        exec (.directedCheckEnd c q .pass) s = .next (s.modArr c fun a => { a with check := none, suspect := a.suspect &&& ~~~(1#4 <<< q.val) })) ∧
    (∀ (c : Fin 8) (q : Fin 4) (col : Bool) (s : State) (x : Check) (n : Nat),
        ((s.core c).arr.check = some x) →
        s.coreRuns c →
        (x.quad = q.val) →
        (x.start + 4096 ≤ (s.core c).arr.now) →
        (s.core c).arr.canSpare col n →
        exec (.directedCheckEnd c q (.line col n)) s = .next ((s.modArr c fun a => { a with check := none, respare := a.respare ++ [(col, n, q.val)] }).modFlash fun f => if col then { f with fieldCol := tabSet 0 f.fieldCol (c.val * 8 + n / 64) (fieldByte n) } else { f with fieldRow := tabSet 0 f.fieldRow (c.val * 8 + n / 64) (fieldByte n) })) ∧
    (∀ (c : Fin 8) (q : Fin 4) (col : Bool) (s : State) (x : Check) (n : Nat),
        ((s.core c).arr.check = some x) →
        s.coreRuns c →
        (x.quad = q.val) →
        (x.start + 4096 ≤ (s.core c).arr.now) →
        ((s.core c).arr.canSpare col n = false) →
        exec (.directedCheckEnd c q (.line col n)) s = .next ((s.modArr c fun a => { a with check := none }).fenceCore c 0x0121 (BitVec.ofNat 32 n))) ∧
    (∀ (c : Fin 8) (q : Fin 4) (s : State) (x : Check),
        ((s.core c).arr.check = some x) →
        s.coreRuns c →
        (x.quad = q.val) →
        (x.start + 4096 ≤ (s.core c).arr.now) →
        exec (.directedCheckEnd c q .notLocalised) s = .next ((s.modArr c fun a => { a with check := none }).fenceCore c 0x0122 (BitVec.ofNat 32 q.val))) ∧
    (∀ (c : Fin 8) (s : State),
        s.coreRuns c →
        (s.core c).arr.respare ≠ [] →
        ((s.core c).arr.rewriteAt = none) →
        s.arrayIdle c →
        exec (.spokeMapRewrite c) s = .next (s.modArr c fun a => { a with rewriteAt := some a.now })) ∧
    (∀ (c : Fin 8) (s : State) (n : Nat),
        ((s.core c).arr.rewriteAt = some n) →
        s.coreRuns c →
        (n + 64 ≤ (s.core c).arr.now) →
        exec (.spokeMapRewriteEnd c) s = .next (
          let put (col : Bool) (m : Tab (BitVec 8)) : Tab (BitVec 8) := ((s.core c).arr.respare.filter fun r => r.1 = col).foldl (fun m r => tabSet 0 m (r.2.1 / 64) (fieldByte r.2.1)) m
          forAllOf allParts (fun p s => s.modPart c p fun q => { q with setA := {}, setB := {}, active := false, shadowNew := false, lastEntry := none }) (s.modArr c fun a => { a with spokeRow := put false a.spokeRow, spokeCol := put true a.spokeCol, suspect := a.respare.foldl (fun m r => m &&& ~~~(1#4 <<< r.2.2)) a.suspect, respare := [], rewriteAt := none, rewriteHold := false, tileBuf := a.tileBuf.map fun l => l.map fun t => if t.loading then { t with dropped := true } else t }))) ∧
    (∀ (c : Fin 8) (s : State),
        (s.core c).seq.stalled →
        (s.stallCause c = false) →
        exec (.uniformStallEnd c) s = .next ((s.modSeq c fun q => { q with stalled := false }).replanAll c)) ∧
    (∀ (t : Tab (BitVec 8)) (i : Nat) (j : Nat),
        i < j →
        j < 512 →
        pos t i < pos t j ∧ lineOf t i < lineOf t j ∧ i ≤ pos t i ∧ pos t j ≤ j + 8) ∧
    (∀ (t : Tab (BitVec 8)) (i : Nat),
        i < 512 →
        spokeInUse (tabGet 0 t (i / 64)) →
        (spokeLine (tabGet 0 t (i / 64)) ≤ i % 64 → lineOf t i = i / 64 * 65 + i % 64 + 1) ∧
        (i % 64 < spokeLine (tabGet 0 t (i / 64)) → lineOf t i = i / 64 * 65 + i % 64) ∧
        lineOf t i ≠ i / 64 * 65 + spokeLine (tabGet 0 t (i / 64)))

/-- VEC runs over its slots; UPDATE joins the update queue. R168 R174 R181 R187
Where the spec leaves a layout, a value or an order open, this is the model's choice: log entries 9, 32, 33, 50. -/
def Obligations.VectorUnitAndUpdate : Prop :=
    (∀ (c : Fin 8) (task : Nat) (s : State) (t : Task) (i : Nat) (w : BitVec 128) (fa : FpFmt) (fb : FpFmt) (fd : FpFmt) (srcs : List Nat) (n : Nat) (bufs : List Nat) (s1 : State) (m : Nat) (dbufs : List Nat) (s2 : State) (ea : Bool×Nat) (eb : Bool×Nat) (ed : Bool×Nat) (s3 : State),
        (s.cmdReady c task 0x15 = some (t, i, w)) →
        (vecFmt (fld w 85 84) = some fa) →
        (vecFmt (fld w 87 86) = some fb) →
        (vecFmt (fld w 89 88) = some fd) →
        (srcs = if vecTwo (fld w 37 32) then [fld w 47 38, fld w 57 48] else [fld w 47 38]) →
        (s.commandBufs c task true (bit w 116) srcs [] = (.granted n, bufs, s1)) →
        (s1.commandBufs c task false (bit w 118) [fld w 67 58] [] = (.granted m, dbufs, s2)) →
        (s2.bufExtent c (srcs.getD 0 0) (bufs.getD 0 0) (fld w 113 90 * 512) ((fld w 83 68 + 1) * 512 * fa.bytes) = some ea) →
        ((if vecTwo (fld w 37 32) then s2.bufExtent c (srcs.getD 1 0) (bufs.getD 1 0) (fld w 113 90 * 512) ((fld w 83 68 + 1) * 512 * fb.bytes) else some (false, 0)) = some eb) →
        (s2.bufExtent c (fld w 67 58) (dbufs.getD 0 0) (fld w 113 90 * 512) ((if fld w 37 32 = 5 then 1 else fld w 83 68 + 1) * 512 * fd.bytes) = some ed) →
        ((((s2.modTask c task fun t => t.issued 1 i).consumeHolds c task true srcs).consumeHolds c task false [fld w 67 58]).takeAll c task 0 (operandRows [(ea, (fld w 83 68 + 1) * 512 * fa.bytes, 7), (eb, if vecTwo (fld w 37 32) then (fld w 83 68 + 1) * 512 * fb.bytes else 0, 8), (ed, (if fld w 37 32 = 5 then 1 else fld w 83 68 + 1) * 512 * fd.bytes, if vecTwo (fld w 37 32) then 7 else 8)]) = (true, s3)) →
        exec (.vec c task) s = .next (
          match s3.vecAll c ⟨fld w 37 32, fa, fb, fd, ea, eb, ed, f32 (t.arg (fld w 115 114))⟩ (fld w 83 68 + 1) with
          | (some code, s4) => s4.engineFail c task code
          | (none, s4) =>
            let s5 := if bit w 117 then s4.postTokens c task false t.epoch 1 (srcs.zip bufs).eraseDups else s4
            if bit w 119 then s5.postToken c task (fld w 67 58) (dbufs.getD 0 0) true t.epoch else s5)) ∧
    (∀ (c : Fin 8) (task : Nat) (s : State) (t : Task) (i : Nat) (w : BitVec 128),
        (s.cmdReady c task 0x06 = some (t, i, w)) →
        ((s.core c).seq.updQ.length < 64) →
        exec (.update c task) s = .next ((((s.modTask c task fun t => t.issued 2 i).modSeq c fun q => { q with updQ := q.updQ ++ [{ task := task, word := w }] }).headUpdate c task)))

/-- MOVE, the descriptors' admission and completion, groups, prefetch and token queues. R134 R138 R144 R145 R149 R157 R158 R169
Where the spec leaves a layout, a value or an order open, this is the model's choice: log entries 10, 11, 32, 33, 43, 53, 78, 80. -/
def Obligations.MovementEngine : Prop :=
    (∀ (c : Fin 8) (task : Nat) (s : State) (t : Task) (i : Nat) (w : BitVec 128) (d : BitVec 1024),
        (s.cmdReady c task 0x04 = some (t, i, w)) →
        ((s.core c).mov.queue.length < 64) →
        (s.cfg.bind (fun g => g.template c.val (fld w 43 32)) = some d) →
        exec (.move c task) s = .next ((s.modTask c task fun t => t.issued 0 i).modMov c fun m => { m with queue := m.queue ++ [{ desc := patchDesc d w t.arg, task := task, srcVer := bit w 126, srcBase := dSrcBase d + 32 * (fld w 74 44 + t.arg (fld w 123 122)), dstBase := dDstBase d + 32 * (fld w 105 75 + t.arg (fld w 125 124)) }] })) ∧
    (∀ (c : Fin 8) (task : Nat) (s : State) (t : Task) (i : Nat) (w : BitVec 128),
        (s.cmdReady c task 0x04 = some (t, i, w)) →
        ((s.core c).mov.queue.length < 64) →
        (s.cfg.bind (fun g => g.template c.val (fld w 43 32)) = none) →
        exec (.move c task) s = .next (s.failCmd c task 0x0302 (fld w 43 32))) ∧
    (∀ (c : Fin 8) (s : State) (x : AccCmd) (rest : List AccCmd) (n : Nat),
        ((s.core c).mov.queue = x :: rest) →
        ((s.core c).mov.freePlace = some n) →
        s.coreRuns c →
        (s.tokenHeld c 0 = false) →
        (s.admitCheck c x = none) →
        exec (.descriptorAdmit c) s = .next (
          ((s.modMov c fun m => { m with queue := rest }).modMov c fun m =>
            let f : Flying := { desc := x.desc, task := x.task, place := n, order := m.order + 1, epoch := (match s.findTask c x.task with | some t => t.epoch | none => 0), srcVer := x.srcVer, srcBase := x.srcBase, dstBase := x.dstBase, path := (s.dPath x).getD .plain, grp := if m.joins x.desc then m.grp else m.grp + 1 }
            { m.joinGroup x.desc with order := m.order + 1, flying := tabSet none (m.joinGroup x.desc).flying n (some f), inplace := if (s.dPath x).getD .plain = .inPlace then satAdd 32 m.inplace 1 else m.inplace, staged := if (s.dPath x).getD .plain = .staged then satAdd 32 m.staged 1 else m.staged }).acquireSource c n)) ∧
    (∀ (c : Fin 8) (s : State) (x : AccCmd) (rest : List AccCmd) (n : Nat) (code : BitVec 16),
        ((s.core c).mov.queue = x :: rest) →
        ((s.core c).mov.freePlace = some n) →
        s.coreRuns c →
        (s.tokenHeld c 0 = false) →
        (s.admitCheck c x = some code) →
        exec (.descriptorAdmit c) s = .next ((s.modMov c fun m => { m with queue := rest, lastTag := BitVec.ofNat 16 (dTag x.desc), lastCode := code }).softFault c x.task code (BitVec.ofNat 32 (dTag x.desc)))) ∧
    (∀ (c : Fin 8) (s : State) (f : Flying),
        s.coreRuns c →
        (s.tokenHeld c 0 = false) →
        (let able := (s.core c).mov.flights.filter fun f => f.ready && !s.behind c f
  able.find? (fun f => able.all fun g => decide (f.order ≤ g.order)) = some f) →
        ((s.descRemote f.desc && s.moduleLost (dModule f.desc)) = false) →
        exec (.descriptorComplete c) s = .next (s.moveData c f)) ∧
    (∀ (c : Fin 8) (s : State) (f : Flying),
        s.coreRuns c →
        (s.tokenHeld c 0 = false) →
        (let able := (s.core c).mov.flights.filter fun f => f.ready && !s.behind c f
  able.find? (fun f => able.all fun g => decide (f.order ≤ g.order)) = some f) →
        (s.descRemote f.desc && s.moduleLost (dModule f.desc)) →
        exec (.descriptorComplete c) s = .next (s.stopMoving c f.place 0x0305)) ∧
    (∀ (c : Fin 8) (s : State) (g : Nat),
        ((s.core c).mov.endedGroup = some g) →
        s.coreRuns c →
        (s.tokenHeld c 0 = false) →
        exec (.transferGroupComplete c) s = .next (
          let mine (s : State) : List GroupRec := ((s.core c).mov.groupDone.filter fun r => r.fl.grp = g).mergeSort fun a b => decide (a.fl.order ≤ b.fl.order)
          let s1 := (mine s).foldl (fun s r => s.padOne c (s.groupData (mine s)) r) s
          if (mine s1).any fun r => !r.padded || r.fl.acksDue ≠ 0 then s1
          else
            (mine s1).foldl (fun s r => match r.fl.dstBuf with
              | none => s
              | some b => if (mine s1).any fun r => r.stopped then s.keepClaim c r.fl else s.sendFill c r.fl b) (s1.modMov c fun m => { m with groupDone := m.groupDone.filter fun r => r.fl.grp ≠ g }))) ∧
    (∀ (c : Fin 8) (s : State) (n : Nat),
        s.coreRuns c →
        ((s.core c).mov.mode = false) →
        (let held := (s.core c).mov.pfSectors.filter fun u => (s.half (addrHalf (u * 32))).tcHas (u * 32)
  (held.length + 1) * 32 ≤ (s.core c).mov.pfBudget.toNat * 2 ^ 18) →
        ((s.prefetchQueue c).findSome? (s.nextPrefetch c) = some n) →
        (n * 32 < 2 ^ 41) →
        (inStore (n * 32) = false) →
        ((if (s.half (addrHalf (n * 32))).tcHas (n * 32) then s else s.passSlot (n * 32)).readSector (n * 32) [] [] false true).1.isOk →
        exec (.prefetchFetch c) s = .next ((((if (s.half (addrHalf (n * 32))).tcHas (n * 32) then s else s.passSlot (n * 32)).readSector (n * 32) [] [] false true).2.carry (coreHalf c) (n * 32) 32 true).modMov c fun m => { m with pfSectors := ((s.core c).mov.pfSectors.filter fun u => (s.half (addrHalf (u * 32))).tcHas (u * 32)) ++ [n] })) ∧
    (∀ (c : Fin 8) (s : State) (n : Nat) (e : BitVec 16) (s1 : State),
        s.coreRuns c →
        ((s.core c).mov.mode = false) →
        (let held := (s.core c).mov.pfSectors.filter fun u => (s.half (addrHalf (u * 32))).tcHas (u * 32)
  (held.length + 1) * 32 ≤ (s.core c).mov.pfBudget.toNat * 2 ^ 18) →
        ((s.prefetchQueue c).findSome? (s.nextPrefetch c) = some n) →
        ((if (s.half (addrHalf (n * 32))).tcHas (n * 32) then s else s.passSlot (n * 32)).readSector (n * 32) [] [] false true = (.error e, s1)) →
        exec (.prefetchFetch c) s = .next (s.modMov c fun m => { m with pfSkip := m.pfSkip ++ [n] })) ∧
    (∀ (c : Fin 8) (s : State) (n : Nat),
        s.coreRuns c →
        ((s.core c).mov.mode = false) →
        (let held := (s.core c).mov.pfSectors.filter fun u => (s.half (addrHalf (u * 32))).tcHas (u * 32)
  (held.length + 1) * 32 ≤ (s.core c).mov.pfBudget.toNat * 2 ^ 18) →
        ((s.prefetchQueue c).findSome? (s.nextPrefetch c) = some n) →
        (2 ^ 41 ≤ n * 32 ∨ inStore (n * 32)) →
        exec (.prefetchFetch c) s = .next (s.modMov c fun m => { m with pfSkip := m.pfSkip ++ [n] })) ∧
    (∀ (c : Fin 8) (s : State),
        s.coreRuns c →
        exec (.tokenQueueDrain c) s = .next (((s.modMov c fun m => { m with fillQ := m.fillQ.drop 4, relQ := m.relQ.drop 4 }.enterTokens).applyTokens c ((s.core c).mov.fillQ.take 4)).applyTokens c ((s.core c).mov.relQ.take 4)))

/-- Reading, fixing up, scrubbing and injecting scratchpad rows. R103 R104 R105 R106 R107 R109 R110 R130
Where the spec leaves a layout, a value or an order open, this is the model's choice: log entries 33, 56, 80. -/
def Obligations.ScratchpadRows : Prop :=
    (∀ (c : Fin 8) (port : Fin 12) (row : Nat) (key : Option Nat) (flips : List (Nat × BitVec 39)) (s : State),
        s.coreRuns c →
        (row < scrRows) →
        (port.val < 3 ∨ 6 < port.val) →
        (s.rowsFree c row 1 port.val) →
        (s.queuesHeld c = false ∨ 10 ≤ port.val) →
        (((s.scrUpset c row flips).useBank c row port.val).scrReadRow c row).1 →
        exec (.scrReadReturn c port row key flips) s = .next (
          let s1 := (((s.scrUpset c row flips).useBank c row port.val).scrReadRow c row).2
          s1.modScr c fun x => { x with portData := tabSet [] x.portData port.val (s1.scrBytes c (row * 512) 512) })) ∧
    (∀ (c : Fin 8) (port : Fin 12) (row : Nat) (key : Nat) (flips : List (Nat × BitVec 39)) (s : State),
        s.coreRuns c →
        (row < scrRows) →
        (port.val < 3 ∨ 6 < port.val) →
        (s.rowsFree c row 1 port.val) →
        (s.queuesHeld c = false ∨ 10 ≤ port.val) →
        ((((s.scrUpset c row flips).useBank c row port.val).scrReadRow c row).1 = false) →
        exec (.scrReadReturn c port row (some key) flips) s = .next ((((s.scrUpset c row flips).useBank c row port.val).scrReadRow c row).2.softFault c key 0x0201 (BitVec.ofNat 32 row))) ∧
    (∀ (c : Fin 8) (port : Fin 12) (row : Nat) (key : Option Nat) (flips : List (Nat × BitVec 39)) (s : State),
        (scrRows ≤ row ∨ (3 ≤ port.val ∧ port.val ≤ 6)) →
        exec (.scrReadReturn c port row key flips) s = .next s) ∧
    (∀ (c : Fin 8) (row : Nat) (s : State),
        s.coreRuns c →
        s.mayRetire c row →
        exec (.fixupRetire c row) s = .next ((s.modScr c fun x => { x.cleanRow row with fixups := removeFirst (fun e => e.row = row) x.fixups }).useBank c row 12)) ∧
    (∀ (c : Fin 8) (row : Nat) (s : State),
        s.coreRuns c →
        (s.mayRetire c row = false) →
        (s.core c).mov.mode →
        ((s.core c).scr.held.any fun e => e.row = row) →
        (s.bankBegun c row = false) →
        exec (.fixupRetire c row) s = .next ((s.modScr c fun x => { x.cleanRow row with held := removeFirst (fun e => e.row = row) x.held }).useBank c row 14)) ∧
    (∀ (c : Fin 8) (s : State) (x : FixEnt) (rest : List FixEnt),
        ((s.core c).scr.held = x :: rest) →
        s.coreRuns c →
        ((s.core c).scr.fixups.length < 16) →
        exec (.fixupHeldEnter c) s = .next (s.modScr c fun y => { y with held := rest, fixups := y.fixups ++ [x], fixHigh := max y.fixHigh (y.fixups.length + 1) })) ∧
    (∀ (c : Fin 8) (flips : List (Nat × BitVec 39)) (s : State),
        s.coreRuns c →
        s.bankIdle c (s.core c).scr.scrubRow →
        (let s1 := (s.scrUpset c (s.core c).scr.scrubRow flips).useBank c (s.core c).scr.scrubRow 13
  (s1.core c).scr.rowErrors (s.core c).scr.scrubRow = ([], [])) →
        exec (.scrubRead c flips) s = .next (((s.scrUpset c (s.core c).scr.scrubRow flips).useBank c (s.core c).scr.scrubRow 13).modScr c fun x => x.scrubAdvance)) ∧
    (∀ (c : Fin 8) (flips : List (Nat × BitVec 39)) (s : State) (s1 : State),
        s.coreRuns c →
        s.bankIdle c (s.core c).scr.scrubRow →
        (s1 = (s.scrUpset c (s.core c).scr.scrubRow flips).useBank c (s.core c).scr.scrubRow 13) →
        ((s1.core c).scr.rowErrors (s.core c).scr.scrubRow).1 ≠ [] →
        (((s1.core c).scr.rowErrors (s.core c).scr.scrubRow).2 = []) →
        ((s1.core c).scr.fixups.length ≤ 12) →
        (((s1.core c).scr.fixups ++ (s1.core c).scr.held).all fun e => e.row ≠ (s.core c).scr.scrubRow) →
        (tabGet false (s1.core c).scr.poison (s.core c).scr.scrubRow = false) →
        exec (.scrubRead c flips) s = .next ((s1.modScr c fun x => { x.addFixup (s.core c).scr.scrubRow (s1.scrBytes c ((s.core c).scr.scrubRow * 512) 512) with ceCount := satAdd 64 x.ceCount ((s1.core c).scr.rowErrors (s.core c).scr.scrubRow).1.length }).modScr c fun x => x.scrubAdvance)) ∧
    (∀ (c : Fin 8) (flips : List (Nat × BitVec 39)) (s : State),
        s.coreRuns c →
        s.bankIdle c (s.core c).scr.scrubRow →
        (let s1 := (s.scrUpset c (s.core c).scr.scrubRow flips).useBank c (s.core c).scr.scrubRow 13
  ((s1.core c).scr.rowErrors (s.core c).scr.scrubRow).2 ≠ []) →
        (let s1 := (s.scrUpset c (s.core c).scr.scrubRow flips).useBank c (s.core c).scr.scrubRow 13
  (s1.core c).scr.fixups = [] ∧ (s1.core c).scr.held = [] ∧ tabGet false (s1.core c).scr.poison (s.core c).scr.scrubRow = false) →
        exec (.scrubRead c flips) s = .next (((((s.scrUpset c (s.core c).scr.scrubRow flips).useBank c (s.core c).scr.scrubRow 13).scrFound c (s.core c).scr.scrubRow).raise 0x0201 (unit := c.val) (detail := BitVec.ofNat 32 (s.core c).scr.scrubRow)).modScr c fun x => x.scrubAdvance)) ∧
    (∀ (c : Fin 8) (s : State),
        s.coreRuns c →
        ((s.core c).scr.scrubLate = false) →
        ((s.core c).scr.scrubMs * 1000000 ≤ (s.core c).scr.scrubNs) →
        exec (.scrubIntervalEnd c) s = .next ((s.modScr c fun x => { x with scrubLate := true }).raise 0x0205 (unit := c.val) (detail := BitVec.ofNat 32 (s.core c).scr.scrubRow))) ∧
    (∀ (c : Fin 8) (v32 : BitVec 32) (s : State),
        s.takesWrite (.core c) →
        s.oz.debugOpen →
        bit v32 31 →
        exec (.scrInject c v32) s = .next (s.modScr c fun x => { x with inject := some ⟨fld v32 16 0, fld v32 23 17, bit v32 24⟩ })) ∧
    (∀ (c : Fin 8) (v32 : BitVec 32) (s : State),
        s.takesWrite (.core c) →
        ((s.oz.debugOpen && bit v32 31) = false) →
        exec (.scrInject c v32) s = .next (s))

/-- Claims, acquisitions, tokens and waits on buffer slots. R118 R119 R121 R122 R123 R195
Where the spec leaves a layout, a value or an order open, this is the model's choice: log entries 57, 74. -/
def Obligations.BufferSlots : Prop :=
    (∀ (c : Fin 8) (slot : Nat) (rq : Requester) (epoch : BitVec 16) (task : Nat) (s : State) (o : Fin 8×Nat) (x : SlotEnt),
        (o = s.slotOwner c slot) →
        (s.specStale epoch = false) →
        s.coreRuns o.1 →
        (s.slotEnt o.1 o.2 = some x) →
        (s.morCfg o.1 o.2 = none) →
        claimable x (s.isReplace o.1 o.2) (s.slotSt o.1 o.2) epoch →
        (s.standsBefore o.1 { acq := false, slot := o.2, rq := rq, epoch := epoch, task := task, sched := s.waitSched o.1 rq } = false) →
        (s.swapRunning = false) →
        exec (.slotClaim c slot rq epoch task) s = .next (
          let g := grantClaim x (s.isReplace o.1 o.2) (s.slotSt o.1 o.2) epoch;
          (s.setSlot o.1 o.2 g.2).deliverGrant o.1 o.2 g.1 false epoch rq)) ∧
    (∀ (c : Fin 8) (slot : Nat) (rq : Requester) (epoch : BitVec 16) (task : Nat) (s : State) (o : Fin 8×Nat) (x : SlotEnt),
        (o = s.slotOwner c slot) →
        (s.specStale epoch = false) →
        s.coreLive o.1 →
        (s.slotEnt o.1 o.2 = some x) →
        (s.morCfg o.1 o.2 = none) →
        (claimable x (s.isReplace o.1 o.2) (s.slotSt o.1 o.2) epoch = false ∨ s.standsBefore o.1 { acq := false, slot := o.2, rq := rq, epoch := epoch, task := task, sched := s.waitSched o.1 rq } ∨ s.coreRuns o.1 = false ∨ s.swapRunning) →
        exec (.slotClaim c slot rq epoch task) s = .next (s.wakeM1.addWait o.1 { acq := false, slot := o.2, rq := rq, epoch := epoch, task := task, sched := s.waitSched o.1 rq })) ∧
    (∀ (c : Fin 8) (slot : Nat) (rq : Requester) (epoch : BitVec 16) (ne : Bool) (task : Nat) (s : State) (o : Fin 8×Nat) (x : SlotEnt),
        (o = s.slotOwner c slot) →
        s.coreRuns o.1 →
        (s.slotEnt o.1 o.2 = some x) →
        (s.morCfg o.1 o.2 = none) →
        acquirable x (s.slotSt o.1 o.2) epoch ne →
        (s.standsBefore o.1 { acq := true, slot := o.2, rq := rq, epoch := epoch, neve := ne, task := task, sched := s.waitSched o.1 rq } = false) →
        (s.swapRunning = false) →
        exec (.slotAcquire c slot rq epoch ne task) s = .next ((s.setSlot o.1 o.2 (grantAcquire x (s.slotSt o.1 o.2) ne).2).deliverGrant o.1 o.2 (grantAcquire x (s.slotSt o.1 o.2) ne).1 true epoch rq)) ∧
    (∀ (c : Fin 8) (slot : Nat) (rq : Requester) (epoch : BitVec 16) (ne : Bool) (task : Nat) (s : State) (o : Fin 8×Nat) (x : SlotEnt),
        (o = s.slotOwner c slot) →
        s.coreLive o.1 →
        (s.slotEnt o.1 o.2 = some x) →
        (s.morCfg o.1 o.2 = none) →
        (acquirable x (s.slotSt o.1 o.2) epoch ne = false ∨ s.standsBefore o.1 { acq := true, slot := o.2, rq := rq, epoch := epoch, neve := ne, task := task, sched := s.waitSched o.1 rq } ∨ s.coreRuns o.1 = false ∨ s.swapRunning) →
        exec (.slotAcquire c slot rq epoch ne task) s = .next (s.addWait o.1 { acq := true, slot := o.2, rq := rq, epoch := epoch, neve := ne, task := task, sched := s.waitSched o.1 rq })) ∧
    (∀ (c : Fin 8) (slot : Nat) (buf : Nat) (epoch : BitVec 16) (poster : Option (Fin 8 × Nat)) (s : State) (s1 : State),
        (s.swapRunning = false) →
        s.coreRuns (s.slotOwner c slot).1 →
        (s.putFill (s.slotOwner c slot).1 (s.slotOwner c slot).2 buf epoch = (true, s1)) →
        exec (.fillToken c slot buf epoch poster) s = .next (s1)) ∧
    (∀ (c : Fin 8) (slot : Nat) (buf : Nat) (epoch : BitVec 16) (poster : Option (Fin 8 × Nat)) (s : State) (s1 : State),
        (s.swapRunning = false) →
        s.coreRuns (s.slotOwner c slot).1 →
        (s.putRelease (s.slotOwner c slot).1 (s.slotOwner c slot).2 buf epoch = (true, s1)) →
        exec (.releaseToken c slot buf epoch poster) s = .next (s1)) ∧
    (∀ (c : Fin 8) (i : Nat) (s : State) (x : SlotWait) (buf : Nat) (s1 : State),
        ((s.core c).scr.waits[i]? = some x) →
        s.coreRuns c →
        ((s.core c).scr.waits.all fun y => !(y.slot = x.slot && y.acq = x.acq && decide (y.rq.number < x.rq.number) && s.waitReady c y)) →
        (x.acq || (s.core c).scr.waits.all fun y => !(y.acq && y.slot = x.slot && s.waitReady c y)) →
        (s.cycle c < x.start + x.limit) →
        (s.waitAnswer c x = (.granted buf, s1)) →
        exec (.slotWaitGrant c i) s = .next ((s1.dropWait c i).deliverGrant c x.slot buf x.acq x.epoch x.rq)) ∧
    (∀ (c : Fin 8) (i : Nat) (s : State) (x : SlotWait),
        ((s.core c).scr.waits[i]? = some x) →
        s.coreRuns c →
        (x.start + x.limit ≤ s.cycle c) →
        x.acq →
        exec (.slotWaitLimit c i) s = .next ((s.dropWait c i).refuseRequest c x.slot x.epoch x.rq x.task 0x0310)) ∧
    (∀ (c : Fin 8) (i : Nat) (s : State) (x : SlotWait),
        ((s.core c).scr.waits[i]? = some x) →
        s.coreRuns c →
        (x.start + x.limit ≤ s.cycle c) →
        (x.acq = false) →
        (outside c x.rq = false) →
        exec (.slotWaitLimit c i) s = .next ((s.dropWait c i).refuseRequest c x.slot x.epoch x.rq x.task 0x0311)) ∧
    (∀ (c : Fin 8) (i : Nat) (s : State) (x : SlotWait),
        ((s.core c).scr.waits[i]? = some x) →
        s.coreRuns c →
        (x.start + x.limit ≤ s.cycle c) →
        (x.acq = false) →
        (outside c x.rq) →
        exec (.slotWaitLimit c i) s = .next (((s.dropWait c i).modScr c fun y => { y with claimRefused := satAdd 32 y.claimRefused 1 }).refuseRequest c x.slot x.epoch x.rq x.task 0x0311))

/-- NOP, BARRIER, WAIT_MARKER and END issue, release and time out. R164 R166 R183 R184 R185 R186 -/
def Obligations.ControlCommands : Prop :=
    (∀ (c : Fin 8) (task : Nat) (s : State) (t : Task) (i : Nat) (w : BitVec 128),
        (s.cmdReady c task 0x03 = some (t, i, w)) →
        exec (.nop c task) s = .next (s.modTask c task fun t => t.issued 3 i)) ∧
    (∀ (c : Fin 8) (task : Nat) (s : State) (t : Task) (i : Nat) (w : BitVec 128),
        (s.cmdReady c task 0x0F = some (t, i, w)) →
        exec (.endTask c task) s = .next (s.modTask c task fun t => { t.issued 3 i with ended := true, st := .ending })) ∧
    (∀ (c : Fin 8) (task : Nat) (s : State) (t : Task) (i : Nat) (w : BitVec 128),
        (s.cmdReady c task 0x07 = some (t, i, w)) →
        s.earlierIssued t i →
        s.taskIdle c t →
        (fld w 41 40 = 0) →
        exec (.barrier c task) s = .next ((s.modTask c task fun t => t.issued 3 i).resumeTask c task)) ∧
    (∀ (c : Fin 8) (task : Nat) (s : State) (t : Task) (i : Nat) (w : BitVec 128),
        (s.cmdReady c task 0x07 = some (t, i, w)) →
        s.earlierIssued t i →
        s.taskIdle c t →
        fld w 41 40 ≠ 0 →
        fld w 41 40 ≠ 3 →
        (bit w 42 = false) →
        exec (.barrier c task) s = .next ((((s.modTask c task fun t => t.issued 3 i).modTask c task fun t => { t with st := .atBarrier, barTick := s.tick, barLimit := (s.core c).seq.barrierLimit.toNat, barId := fld w 39 32, barScope := fld w 41 40, barFiller := false }).modCas fun x => { x with barArr := tabMod 0 x.barArr (s.barrierKey c (fld w 41 40) (fld w 39 32)) (· + 1) }))) ∧
    (∀ (c : Fin 8) (n : Nat) (s : State) (t : Task),
        ((s.core c).seq.tasks.find? (fun t => t.st = .atBarrier && t.barId = n && t.barScope ≠ 3) = some t) →
        s.coreRuns c →
        (s.barrierCount n ≤ tabGet 0 s.cas.barArr (s.barrierKey c t.barScope n)) →
        exec (.barrierRelease c n) s = .next ((s.releaseBarrier (s.barrierCores c t.barScope) t.barScope n).modCas fun x => { x with barArr := tabMod 0 x.barArr (s.barrierKey c t.barScope n) fun a => a - s.barrierCount n })) ∧
    (∀ (c : Fin 8) (task : Nat) (s : State) (t : Task),
        (s.findTask c task = some t) →
        s.coreRuns c →
        (t.st = .atBarrier) →
        (t.barTick + t.barLimit * 1000000 ≤ s.tick) →
        exec (.barrierTimeout c task) s = .next (s.failCmd c task 0x0404 t.barId)) ∧
    (∀ (c : Fin 8) (task : Nat) (s : State) (t : Task) (i : Nat) (w : BitVec 128),
        (s.cmdReady c task 0x0B = some (t, i, w)) →
        exec (.waitMarker c task) s = .next ((s.modTask c task fun t => { t.issued 3 i with st := .waitMarker, barTick := s.tick }).beginFreewheel c t.part)) ∧
    (∀ (c : Fin 8) (task : Nat) (s : State) (t : Task),
        (s.findTask c task = some t) →
        s.coreRuns c →
        (hdrCycles t.hdr ≤ t.clock) →
        exec (.taskCyclesExpire c task) s = .next (s.failCmd c task 0x0402 t.entry.tid)) ∧
    (∀ (c : Fin 8) (task : Nat) (s : State) (t : Task) (i : Nat) (w : BitVec 128),
        (s.cmdReady c task 0x07 = some (t, i, w)) →
        s.earlierIssued t i →
        s.taskIdle c t →
        fld w 41 40 ≠ 0 →
        fld w 41 40 ≠ 3 →
        (bit w 42) →
        exec (.barrier c task) s = .next (((((s.modTask c task fun t => t.issued 3 i).modTask c task fun t => { t with st := .atBarrier, barTick := s.tick, barLimit := (s.core c).seq.barrierLimit.toNat, barId := fld w 39 32, barScope := fld w 41 40, barFiller := true }).beginFreewheel c t.part).modCas fun x => { x with barArr := tabMod 0 x.barArr (s.barrierKey c (fld w 41 40) (fld w 39 32)) (· + 1) }))) ∧
    (∀ (c : Fin 8) (task : Nat) (s : State) (t : Task) (i : Nat) (w : BitVec 128),
        (s.cmdReady c task 0x07 = some (t, i, w)) →
        s.earlierIssued t i →
        s.taskIdle c t →
        (fld w 41 40 = 3) →
        (bit w 42 = false) →
        exec (.barrier c task) s = .next (((s.modTask c task fun t => t.issued 3 i).modTask c task fun t => { t with st := .atBarrier, barTick := s.tick, barLimit := (s.core c).seq.barrierLimit.toNat, barId := fld w 39 32, barScope := fld w 41 40, barFiller := false }).sendMsg s.cas.master.toNat 0x13 vcCtrl (BitVec.ofNat 144 (fld w 39 32)) [] s.cas.term.toNat)) ∧
    (∀ (c : Fin 8) (task : Nat) (s : State) (t : Task) (i : Nat) (w : BitVec 128),
        (s.cmdReady c task 0x07 = some (t, i, w)) →
        s.earlierIssued t i →
        s.taskIdle c t →
        (fld w 41 40 = 3) →
        (bit w 42) →
        exec (.barrier c task) s = .next ((((s.modTask c task fun t => t.issued 3 i).modTask c task fun t => { t with st := .atBarrier, barTick := s.tick, barLimit := (s.core c).seq.barrierLimit.toNat, barId := fld w 39 32, barScope := fld w 41 40, barFiller := true }).beginFreewheel c t.part).sendMsg s.cas.master.toNat 0x13 vcCtrl (BitVec.ofNat 144 (fld w 39 32)) [] s.cas.term.toNat))

/-- Work queues, the completion ring, replay and skip through the host's registers. R176 R178 R188 R434 R464 R468
Where the spec leaves a layout, a value or an order open, this is the model's choice: log entries 15, 41. -/
def Obligations.QueuesAndRings : Prop :=
    (∀ (c : Fin 8) (n : Fin 3) (v64 : BitVec 64) (s : State),
        s.takesDoorbell (.core c) →
        ((v64.truncate 16 - ((s.core c).seq.wqs.get n).head : BitVec 16).toNat ≤ 2 ^ ((s.core c).seq.wqs.get n).log2.toNat) →
        exec (.wqDoorbell c n v64) s = .next (s.wakeM1.modSeq c fun x => { x with wqs := x.wqs.set n { (s.core c).seq.wqs.get n with tail := v64.truncate 16 } })) ∧
    (∀ (c : Fin 8) (n : Fin 3) (v64 : BitVec 64) (s : State),
        s.takesDoorbell (.core c) →
        (2 ^ ((s.core c).seq.wqs.get n).log2.toNat < (v64.truncate 16 - ((s.core c).seq.wqs.get n).head : BitVec 16).toNat) →
        exec (.wqDoorbell c n v64) s = .next (s.wakeM1.raise 0x0401 (unit := c.val) (detail := BitVec.ofNat 32 ((n.val + 1) * 65536 + (v64.truncate 16 : BitVec 16).toNat)))) ∧
    (∀ (c : Fin 8) (n : Fin 3) (v64 : BitVec 64) (s : State),
        s.takesWrite (.core c) →
        (s.core c).seq.queueIdle n →
        exec (.wqReconfigure c n false v64) s = .next (s.modSeq c fun x => { x with wqs := x.wqs.set n { (s.core c).seq.wqs.get n with base := (v64 &&& ~~~31#64).truncate 41 } })) ∧
    (∀ (c : Fin 8) (n : Fin 3) (v64 : BitVec 64) (s : State),
        s.takesWrite (.core c) →
        (s.core c).seq.queueIdle n →
        exec (.wqReconfigure c n true v64) s = .next (if fld v64 3 0 < 4 ∨ 12 < fld v64 3 0 then s else s.modSeq c fun x => { x with wqs := x.wqs.set n { (s.core c).seq.wqs.get n with log2 := v64.truncate 4 } })) ∧
    (∀ (c : Fin 8) (v64 : BitVec 64) (s : State),
        s.takesWrite (.core c) →
        ((s.core c).seq.cqHead = (s.core c).seq.cqTail) →
        ((s.core c).seq.cqHeld = []) →
        exec (.cqReconfigure c false v64) s = .next (s.modSeq c fun x => { x with cqBase := (v64 &&& ~~~15#64).truncate 41 })) ∧
    (∀ (c : Fin 8) (v64 : BitVec 64) (s : State),
        s.takesWrite (.core c) →
        ((s.core c).seq.cqHead = (s.core c).seq.cqTail) →
        ((s.core c).seq.cqHeld = []) →
        exec (.cqReconfigure c true v64) s = .next (if fld v64 3 0 < 4 ∨ 12 < fld v64 3 0 then s else s.modSeq c fun x => { x with cqLog2 := v64.truncate 4 })) ∧
    (∀ (c : Fin 8) (head : BitVec 12) (s : State),
        s.takesWrite (.core c) →
        ((head - (s.core c).seq.cqHead).toNat ≤ ((s.core c).seq.cqTail - (s.core c).seq.cqHead).toNat) →
        exec (.cqHeadWrite c head) s = .next ((s.modSeq c fun q => { q with cqHead := head }).drainHeld c ((s.core c).seq.cqHeld.length + 1))) ∧
    (∀ (c : Fin 8) (head : BitVec 12) (s : State),
        s.takesWrite (.core c) →
        (((s.core c).seq.cqTail - (s.core c).seq.cqHead).toNat < (head - (s.core c).seq.cqHead).toNat) →
        exec (.cqHeadWrite c head) s = .next (s)) ∧
    (∀ (c : Fin 8) (v32 : BitVec 32) (s : State) (t : Task),
        s.takesWrite (.core c) →
        bit v32 31 →
        (bit v32 4 = false) →
        ((s.core c).seq.haltedAt (fld v32 2 0) = some t) →
        exec (.seqReplay c v32) s = .next (s.modSeq c fun x => { x with halted := removeFirst (fun y => y = t) x.halted, retryQ := { t with retries := 0, code := 0 } :: x.retryQ })) ∧
    (∀ (c : Fin 8) (v32 : BitVec 32) (s : State) (t : Task),
        s.takesWrite (.core c) →
        bit v32 31 →
        bit v32 4 →
        ((s.core c).seq.haltedAt (fld v32 2 0) = some t) →
        (t.epoch = 0) →
        exec (.seqSkip c v32) s = .next (((s.modSeq c fun x => { x with halted := removeFirst (fun y => y = t) x.halted }).completeTask c t 3 0).skipHolds c t.holds t.moveHolds))

/-- Tasks are admitted from their queues, retire, and give up waiting for an epoch. R177 R179 R186 R191 R200
Where the spec leaves a layout, a value or an order open, this is the model's choice: log entries 65, 70, 78, 80. -/
def Obligations.TaskAdmission : Prop :=
    (∀ (c : Fin 8) (s : State) (s1 : State),
        s.mayAdmit c →
        (s.stepRerun c = some s1) →
        exec (.taskAdmit c) s = .next (s1.endWaits c)) ∧
    (∀ (c : Fin 8) (s : State) (s1 : State),
        s.mayAdmit c →
        (s.stepRerun c = none) →
        (s.stepQueues c = some s1) →
        exec (.taskAdmit c) s = .next (s1.endWaits c)) ∧
    (∀ (c : Fin 8) (s : State),
        (s.mayAdmit c = false) →
        exec (.taskAdmit c) s = .next s) ∧
    (∀ (c : Fin 8) (task : Nat) (s : State) (t : Task),
        (s.findTask c task = some t) →
        s.coreRuns c →
        t.ended →
        s.taskIdle c t →
        (t.clock < hdrCycles t.hdr) →
        t.queue ≠ 0 →
        (t.ceil = 0 ∨ t.epoch ≠ 0) →
        exec (.taskRetire c task) s = .next (((((s.modSeq c fun x => { x with tasks := x.tasks.filter fun y => y.key ≠ task }).beginFreewheel c t.part).keepRecord c ⟨t.queue, t.pos, t.entry.tid, t.epoch, t.entry.a1, t.entry.a2, t.entry.a3⟩).pushCompletion c (completionWord t.entry.tid 0 0 t.entry.ctag t.clock t.epoch)).replayRetired t.queue t.entry.tid)) ∧
    (∀ (c : Fin 8) (task : Nat) (s : State) (t : Task),
        (s.findTask c task = some t) →
        s.coreRuns c →
        t.ended →
        s.taskIdle c t →
        (t.clock < hdrCycles t.hdr) →
        (t.queue = 0) →
        (t.ceil = 0 ∨ t.epoch ≠ 0) →
        exec (.taskRetire c task) s = .next (((((s.modSeq c fun x => { x with tasks := x.tasks.filter fun y => y.key ≠ task }).beginFreewheel c t.part).keepRecord c ⟨0, t.pos, t.entry.tid, t.epoch, t.entry.a1, t.entry.a2, t.entry.a3⟩).markRetired t.entry.tid t.step).replayRetired 0 t.entry.tid)) ∧
    (∀ (c : Fin 8) (task : Nat) (s : State) (t : Task),
        (s.findTask c task = some t) →
        s.coreRuns c →
        t.ended →
        s.taskIdle c t →
        (hdrCycles t.hdr ≤ t.clock) →
        exec (.taskRetire c task) s = .next (s.failCmd c task 0x0402 t.entry.tid)) ∧
    (∀ (c : Fin 8) (q : Fin 4) (s : State) (n : Nat) (m : Nat) (t : Task),
        (tabGet none (s.core c).seq.specWait q.val = some (n, m)) →
        s.coreRuns c →
        (n + m * 1000000 ≤ s.tick) →
        (s.lackingHead c q.val = some t) →
        ((s.core c).seq.retryQ.all (fun t => t.queue ≠ q.val)) →
        exec (.specWaitLimit c q) s = .next ((s.popHead c q.val).endUnadmitted c t 0x0405)) ∧
    (∀ (c : Fin 8) (q : Fin 4) (s : State) (n : Nat) (m : Nat) (t : Task) (y : Task),
        (tabGet none (s.core c).seq.specWait q.val = some (n, m)) →
        s.coreRuns c →
        (n + m * 1000000 ≤ s.tick) →
        (s.lackingHead c q.val = some t) →
        ((s.core c).seq.retryQ.find? (fun t => t.queue = q.val) = some y) →
        exec (.specWaitLimit c q) s = .next ((s.modSeq c fun x => { x with retryQ := removeFirst (fun z => z = y) x.retryQ, specWait := tabSet none x.specWait q.val none }).endUnadmitted c t 0x0405)) ∧
    (∀ (c : Fin 8) (task : Nat) (s : State) (t : Task),
        (s.findTask c task = some t) →
        s.coreRuns c →
        t.ended →
        s.taskIdle c t →
        (t.clock < hdrCycles t.hdr) →
        t.queue ≠ 0 →
        (t.epoch = 0) →
        (t.ceil ≠ 0) →
        exec (.taskRetire c task) s = .next ((((((((s.modSeq c fun x => { x with tasks := x.tasks.filter fun y => y.key ≠ task }).beginFreewheel c t.part).keepRecord c ⟨t.queue, t.pos, t.entry.tid, t.epoch, t.entry.a1, t.entry.a2, t.entry.a3⟩).pushCompletion c (completionWord t.entry.tid 0 0 t.entry.ctag t.clock t.epoch)).replayRetired t.queue t.entry.tid)).modUpd c fun u => { u with ceilHits := satAdd 32 u.ceilHits t.ceil }).raise 0x0602 (unit := c.val) (detail := BitVec.ofNat 32 t.ceil))) ∧
    (∀ (c : Fin 8) (task : Nat) (s : State) (t : Task),
        (s.findTask c task = some t) →
        s.coreRuns c →
        t.ended →
        s.taskIdle c t →
        (t.clock < hdrCycles t.hdr) →
        (t.queue = 0) →
        (t.epoch = 0) →
        (t.ceil ≠ 0) →
        exec (.taskRetire c task) s = .next ((((((((s.modSeq c fun x => { x with tasks := x.tasks.filter fun y => y.key ≠ task }).beginFreewheel c t.part).keepRecord c ⟨0, t.pos, t.entry.tid, t.epoch, t.entry.a1, t.entry.a2, t.entry.a3⟩).markRetired t.entry.tid t.step).replayRetired 0 t.entry.tid)).modUpd c fun u => { u with ceilHits := satAdd 32 u.ceilHits t.ceil }).raise 0x0602 (unit := c.val) (detail := BitVec.ofNat 32 t.ceil)))

/-- Tokens open, settle and discard epochs; a settle and a discard complete. R191 R196 R197 R198 R199 R200 -/
def Obligations.SpeculationEpochs : Prop :=
    (∀ (c : Fin 8) (v64 : BitVec 64) (s : State),
        s.coreLive c →
        (tokKind v64 = 1) →
        exec (.specOpen c v64) s = .next (s.wakeM1.takeOpen c v64)) ∧
    (∀ (c : Fin 8) (v64 : BitVec 64) (s : State),
        s.coreLive c →
        (tokKind v64 = 2) →
        exec (.specSettle c v64) s = .next (s.wakeM1.takeSettle c v64)) ∧
    (∀ (c : Fin 8) (v64 : BitVec 64) (s : State),
        s.coreLive c →
        (tokKind v64 = 3) →
        exec (.specDiscard c v64) s = .next (s.wakeM1.takeDiscard c v64)) ∧
    (∀ (c : Fin 8) (v64 : BitVec 64) (s : State),
        (s.coreLive c = false) →
        exec (.specOpen c v64) s = .next s ∧ exec (.specSettle c v64) s = .next s ∧ exec (.specDiscard c v64) s = .next s) ∧
    (∀ (c : Fin 8) (v64 : BitVec 64) (s : State),
        (tokKind v64 ≠ 1 → exec (.specOpen c v64) s = .next s) ∧
        (tokKind v64 ≠ 2 → exec (.specSettle c v64) s = .next s) ∧
        (tokKind v64 ≠ 3 → exec (.specDiscard c v64) s = .next s)) ∧
    (∀ (c : Fin 8) (epoch : BitVec 16) (s : State) (b : Fin 2),
        ((s.core c).seq.place epoch = some b) →
        s.coreRuns c →
        (((s.core c).seq.epochs.get b).st = .settling) →
        (s.epochRuns c epoch = false) →
        (((s.core c).seq.epochs.get b).rerunLeft = []) →
        (((s.core c).seq.epochs.get b).rerunOf = 0) →
        (s.epochQueued c epoch = false) →
        s.epochFilled c epoch →
        (((s.core c).seq.epochs.get b).ceil = 0) →
        exec (.settleComplete c epoch) s = .next (
          let s1 := (s.slotsOfEpoch c epoch).foldl (fun s slot => match s.slotEnt c slot with
            | some e => s.setSlot c slot (settleSlot e (s.slotSt c slot))
            | none => s) s;
          (s1.closePlace c b).report .settled (natLe 2 epoch.toNat ++ natLe 4 ((s.core c).seq.epochs.get b).step.toNat ++ natLe 1 c.val ++ natLe 1 (allCores.filter fun k => k ≠ c && s.coreLive k && ((s.core k).seq.place epoch).isSome).length))) ∧
    (∀ (c : Fin 8) (epoch : BitVec 16) (s : State) (b : Fin 2),
        ((s.core c).seq.place epoch = some b) →
        s.coreRuns c →
        (((s.core c).seq.epochs.get b).st = .discarding) →
        (s.epochRuns c epoch = false) →
        (s.epochWrites c epoch = false) →
        exec (.discardComplete c epoch) s = .next (
          let s1 := (s.slotsOfEpoch c epoch).foldl (fun s slot => match s.slotEnt c slot with
            | some e => s.setSlot c slot (discardSlot e (s.isReplace c slot) (s.slotSt c slot))
            | none => s) s
          let s2 := (((s1.core c).seq.inherit ++ (s1.core c).seq.halted).filter fun t => t.epoch = epoch).foldl (fun s t => (s.dropHolds c (t.holds.filter fun h => !h.acq)).dropMoveHolds (t.moveHolds.filter fun h => !h.acq)) s1
          let shed (t : Task) : Task := if t.epoch = epoch then { t with holds := t.holds.filter fun h => h.acq, moveHolds := t.moveHolds.filter fun h => h.acq || h.module.isSome } else t
          let s3a := s2.modSeq c fun x => { x with inherit := x.inherit.map fun t => if t.epoch = epoch then { shed t with epoch := 0 } else t, halted := x.halted.map shed }
          let s3 := if ((s.core c).seq.epochs.get b).unwanted then s3a.releaseKept c else s3a
          let s4 := (s3.modScr c fun x => { x with waits := x.waits.filter fun w => w.acq || w.epoch ≠ epoch }).closePlace c b
          if allCores.any fun k => s4.coreLive k && ((s4.core k).seq.place epoch).isSome then s4 else s4.modCas fun x => { x with discarded := (epoch :: x.discarded).take 16 })) ∧
    (∀ (c : Fin 8) (epoch : BitVec 16) (s : State) (b : Fin 2),
        ((s.core c).seq.place epoch = some b) →
        s.coreRuns c →
        (((s.core c).seq.epochs.get b).st = .settling) →
        (s.epochRuns c epoch = false) →
        (((s.core c).seq.epochs.get b).rerunLeft = []) →
        (((s.core c).seq.epochs.get b).rerunOf = 0) →
        (s.epochQueued c epoch = false) →
        s.epochFilled c epoch →
        (((s.core c).seq.epochs.get b).ceil ≠ 0) →
        exec (.settleComplete c epoch) s = .next (
          let s1 := (s.slotsOfEpoch c epoch).foldl (fun s slot => match s.slotEnt c slot with
            | some e => s.setSlot c slot (settleSlot e (s.slotSt c slot))
            | none => s) s;
          (((s1.modUpd c fun u => { u with ceilHits := satAdd 32 u.ceilHits ((s.core c).seq.epochs.get b).ceil }).raise 0x0602 (unit := c.val) (detail := BitVec.ofNat 32 ((s.core c).seq.epochs.get b).ceil)).closePlace c b).report .settled (natLe 2 epoch.toNat ++ natLe 4 ((s.core c).seq.epochs.get b).step.toNat ++ natLe 1 c.val ++ natLe 1 (allCores.filter fun k => k ≠ c && s.coreLive k && ((s.core k).seq.place epoch).isSome).length)))

/-- Requests enter a stack's ingress, take its slots, are promoted and served. R206 R212 R213 R214 R215 R217 R226 R230
Where the spec leaves a layout, a value or an order open, this is the model's choice: log entries 30, 53, 58, 59, 73, 80. -/
def Obligations.StackIngress : Prop :=
    (∀ (s : State) (r : StkReq),
        r.wellFormed →
        (s.stack (fin32 (stackOf r.addr))).st ≠ .training →
        (s.requesterFenced r = false) →
        (s.crossing r = none) →
        (s.heldBefore { r with id := s.bridgeNext, acted := none } = false) →
        ingressRoom (s.stack (fin32 (stackOf r.addr))).ingress r.cls (bankKey r.addr) →
        (s.stackHeld (fin32 (stackOf r.addr)) = false) →
        exec (.stackRequest r) s = .next (s.modStack (fin32 (stackOf r.addr)) fun y => { y with ingress := y.ingress ++ [{ r with id := y.reqCtr, enter := s.tick, promoted := false, acted := none }], reqCtr := y.reqCtr + 1 })) ∧
    (∀ (s : State) (r : StkReq) (h : Fin 2),
        r.wellFormed →
        (s.stack (fin32 (stackOf r.addr))).st ≠ .training →
        (s.requesterFenced r = false) →
        (s.crossing r = some h) →
        (s.half h).bridgeOpen →
        ((s.half h).bridgeQ = []) →
        ((s.half h).bridgeBytes + r.len ≤ 4096) →
        (s.heldBefore { r with id := s.bridgeNext, acted := none } = false) →
        ingressRoom (s.stack (fin32 (stackOf r.addr))).ingress r.cls (bankKey r.addr) →
        (s.stackHeld (fin32 (stackOf r.addr)) = false) →
        exec (.stackRequest r) s = .next ((s.modHalf h fun y => { y with bridgeBytes := y.bridgeBytes + r.len }).modStack (fin32 (stackOf r.addr)) fun y => { y with ingress := y.ingress ++ [{ r with id := y.reqCtr, enter := s.tick, promoted := false, acted := none }], reqCtr := y.reqCtr + 1 })) ∧
    (∀ (s : State) (r : StkReq) (h : Fin 2),
        r.wellFormed →
        (s.stack (fin32 (stackOf r.addr))).st ≠ .training →
        (s.requesterFenced r = false) →
        (s.crossing r = some h) →
        (s.half h).bridgeOpen →
        ((s.half h).bridgeQ ≠ [] ∨ 4096 < (s.half h).bridgeBytes + r.len ∨ s.heldBefore { r with id := s.bridgeNext, acted := none }) →
        (s.stackHeld (fin32 (stackOf r.addr)) = false) →
        exec (.stackRequest r) s = .next (s.modHalf h fun y => { y with bridgeQ := y.bridgeQ ++ [{ r with id := s.bridgeNext, acted := none }] })) ∧
    (∀ (s : State) (r : StkReq),
        (r.wellFormed = false ∨ s.requesterFenced r ∨ s.stackHeld (fin32 (stackOf r.addr))) →
        exec (.stackRequest r) s = .next s) ∧
    (∀ (k : Fin 32) (s : State) (r : StkReq),
        (s.stackFenced k = false) →
        ((match (s.stack k).ingress.find? (fun r => r.promoted && (s.stack k).admissible r && (s.stack k).inOrder r) with | some r => some r | none => (s.stack k).ingress.find? fun r => (s.stack k).admissible r && (s.stack k).inOrder r) = some r) →
        ((s.stack k).slots.length < 512) →
        ((s.stack k).st = .ready) →
        ((s.stack k).stopped = none) →
        (s.stackHeld k = false) →
        exec (.stackRequestAdmit k) s = .next (
          s.modStack k fun y =>
            let use := ((y.slots ++ [r]).filter fun q => bankKey q.addr = bankKey r.addr).length
            { y with ingress := y.ingress.filter fun q => q.id ≠ r.id, slots := y.slots ++ [r], slotHigh := max y.slotHigh (y.slots ++ [r]).length, quotaFull := if use = y.quota.toNat then BitVec.ofNat 32 (bankKey r.addr / 32 + bankKey r.addr % 32 * 16 + y.quotaCause (bankKey r.addr) s.tick * 512 + 2 ^ 31) else y.quotaFull })) ∧
    (∀ (k : Fin 32) (s : State) (r : StkReq),
        s.stackFenced k →
        (((s.stack k).ingress.find? fun q => (s.stack k).inOrder q && !((s.stack k).slots.any fun y => overlaps y q)) = some r) →
        (s.stackHeld k = false) →
        exec (.stackRequestAdmit k) s = .next ((s.modStack k fun y => { y with ingress := y.ingress.filter fun q => q.id ≠ r.id }).serveRequest k r none)) ∧
    (∀ (k : Fin 32) (n : Nat) (s : State),
        ((s.stack k).ingress.any (fun r => r.id = n && !r.promoted && decide (r.enter + 2000 ≤ s.tick)) || (s.stack k).slots.any fun r => r.id = n && !r.promoted && decide (r.enter + 2000 ≤ s.tick)) →
        (s.stackHeld k = false) →
        exec (.requestPromote k n) s = .next (
          let up (r : StkReq) : StkReq := if r.id = n && !r.promoted && decide (r.enter + 2000 ≤ s.tick) then { r with promoted := true } else r
          s.modStack k fun y => { y with ingress := y.ingress.map up, slots := y.slots.map up, promotedCt := satAdd 64 y.promotedCt 1 })) ∧
    (∀ (k : Fin 32) (n : Nat) (upset : Option SectorUpset) (s : State) (r : StkReq),
        ((s.stack k).slots.find? (fun r => r.id = n) = some r) →
        r.kind ≠ .pannier →
        (((s.stack k).nextOf (bankKey r.addr)).map (·.id) = some n) →
        (s.stackHeld k = false) →
        exec (.stackRequestServe k n upset) s = .next ((s.modStack k fun y => y.served r).serveAdmitted k r upset)) ∧
    (∀ (k : Fin 32) (n : Nat) (s : State) (r : StkReq),
        ((s.stack k).slots.find? (fun r => r.id = n) = some r) →
        (r.kind = .pannier) →
        (((s.stack k).nextOf (bankKey r.addr)).map (·.id) = some n) →
        (s.stackHeld k = false) →
        exec (.pannierOp k n) s = .next ((s.modStack k fun y => y.served r).serveAdmitted k r none)) ∧
    (∀ (k : Fin 32) (n : Nat) (upset : Option SectorUpset) (s : State),
        s.stackHeld k →
        exec (.stackRequestAdmit k) s = .next s ∧ exec (.requestPromote k n) s = .next s ∧
        exec (.stackRequestServe k n upset) s = .next s ∧ exec (.pannierOp k n) s = .next s)

/-- Refresh, patrol, remap copies, page retirement, injection, lost channels and stack fences. R210 R217 R218 R219 R220 R222 R224 R225 R226 R235
Where the spec leaves a layout, a value or an order open, this is the model's choice: log entries 30, 60, 61, 73, 80. -/
def Obligations.StackUpkeep : Prop :=
    (∀ (k : Fin 32) (ch : Nat) (bk : Nat) (s : State),
        (ch < 16) →
        (bk < 32) →
        ((s.stack k).selfRefresh = false) →
        (0 < tabGet 0 (s.stack k).ahead (ch * 32 + bk)) →
        (s.stackHeld k = false) →
        exec (.bankRefresh k ch bk .due) s = .next (s.modStack k fun y => { y with ahead := tabSet 0 y.ahead (ch * 32 + bk) (tabGet 0 (s.stack k).ahead (ch * 32 + bk) - 1) })) ∧
    (∀ (k : Fin 32) (ch : Nat) (bk : Nat) (s : State),
        (ch < 16) →
        (bk < 32) →
        ((s.stack k).selfRefresh = false) →
        (s.stackHeld k = false) →
        (tabGet 0 (s.stack k).ahead (ch * 32 + bk) = 0) →
        ((s.stack k).copying (ch * 32 + bk) = false) →
        ((s.stack k).bankUse (ch * 32 + bk) = 0) →
        exec (.bankRefresh k ch bk .due) s = .next (s.modStack k fun y => { y with openRow := tabSet 0 y.openRow (ch * 32 + bk) 0 })) ∧
    (∀ (k : Fin 32) (ch : Nat) (bk : Nat) (s : State),
        (ch < 16) →
        (bk < 32) →
        ((s.stack k).selfRefresh = false) →
        (s.stackHeld k = false) →
        (tabGet 0 (s.stack k).ahead (ch * 32 + bk) = 0) →
        (s.stack k).copying (ch * 32 + bk) →
        (tabGet 0 (s.stack k).owed (ch * 32 + bk) < 8) →
        exec (.bankRefresh k ch bk .due) s = .next (s.modStack k fun y => { y with owed := tabSet 0 y.owed (ch * 32 + bk) (tabGet 0 (s.stack k).owed (ch * 32 + bk) + 1) })) ∧
    (∀ (k : Fin 32) (ch : Nat) (bk : Nat) (s : State),
        (ch < 16) →
        (bk < 32) →
        ((s.stack k).selfRefresh = false) →
        (s.stackHeld k = false) →
        ((s.stack k).copying (ch * 32 + bk) = false) →
        ((s.stack k).bankUse (ch * 32 + bk) = 0) →
        (0 < tabGet 0 (s.stack k).owed (ch * 32 + bk)) →
        exec (.bankRefresh k ch bk .pulledIn) s = .next (s.modStack k fun y => { y with owed := tabSet 0 y.owed (ch * 32 + bk) (tabGet 0 (s.stack k).owed (ch * 32 + bk) - 1), openRow := tabSet 0 y.openRow (ch * 32 + bk) 0 })) ∧
    (∀ (k : Fin 32) (ch : Nat) (bk : Nat) (s : State),
        (ch < 16) →
        (bk < 32) →
        ((s.stack k).selfRefresh = false) →
        (s.stackHeld k = false) →
        ((s.stack k).copying (ch * 32 + bk) = false) →
        ((s.stack k).bankUse (ch * 32 + bk) = 0) →
        (tabGet 0 (s.stack k).owed (ch * 32 + bk) = 0) →
        (tabGet 0 (s.stack k).ahead (ch * 32 + bk) < 8) →
        exec (.bankRefresh k ch bk .pulledIn) s = .next (s.modStack k fun y => { y with owed := tabSet 0 y.owed (ch * 32 + bk) 0, ahead := tabSet 0 y.ahead (ch * 32 + bk) (tabGet 0 (s.stack k).ahead (ch * 32 + bk) + 1), openRow := tabSet 0 y.openRow (ch * 32 + bk) 0 })) ∧
    (∀ (k : Fin 32) (ch : Nat) (bk : Nat) (d : RefreshKind) (s : State),
        (s.stackHeld k ∨ (s.stack k).selfRefresh ∨ 16 ≤ ch ∨ 32 ≤ bk) →
        exec (.bankRefresh k ch bk d) s = .next s) ∧
    (∀ (k : Fin 32) (ch : Nat) (bk : Nat) (s : State),
        (ch < 16) →
        (bk < 32) →
        ((s.stack k).selfRefresh = false) →
        (0 < (s.stack k).bankUse (ch * 32 + bk) ∨ (s.stack k).copying (ch * 32 + bk)) →
        (tabGet 0 (s.stack k).owed (ch * 32 + bk) < 8) →
        (s.stackHeld k = false) →
        exec (.bankRefresh k ch bk .postponed) s = .next (s.modStack k fun y => { y with owed := tabSet 0 y.owed (ch * 32 + bk) (tabGet 0 (s.stack k).owed (ch * 32 + bk) + 1) })) ∧
    (∀ (k : Fin 32) (ch : Nat) (bk : Nat) (s : State),
        (ch < 16) →
        (bk < 32) →
        ((s.stack k).selfRefresh = false) →
        ((s.stack k).copying (ch * 32 + bk) = false) →
        (tabGet 0 (s.stack k).owed (ch * 32 + bk) = 8) →
        (s.stackHeld k = false) →
        exec (.bankRefresh k ch bk .forced) s = .next (s.modStack k fun y => { y with owed := tabSet 0 y.owed (ch * 32 + bk) 7, openRow := tabSet 0 y.openRow (ch * 32 + bk) 0 })) ∧
    (∀ (k : Fin 32) (s : State),
        ((s.stack k).st = .ready) →
        ((s.stack k).copying ((s.stack k).patrolPos / 64 / 65536) = false) →
        (s.stackHeld k = false) →
        exec (.patrolRead k none) s = .next ((match s.decodeRead k (rowAddr k ((s.stack k).patrolPos / 64) ((s.stack k).patrolPos % 64) / 32) [] with | (true, s1) => s1 | (false, s1) => s1.poisonSector k (rowAddr k ((s.stack k).patrolPos / 64) ((s.stack k).patrolPos % 64) / 32)).modStack k fun y => if (s.stack k).patrolPos + 1 < sectorsOfStack then { y with patrolPos := (s.stack k).patrolPos + 1 } else { y with patrolPos := 0, patrolSweeps := y.patrolSweeps + 1, patrolNow := y.patrol.toNat })) ∧
    (∀ (k : Fin 32) (s : State) (n : Nat),
        ((s.stack k).nextCopy = some n) →
        ((s.stack k).st = .ready) →
        ((s.stack k).copies.length < 16) →
        ((s.stack k).freeSpare (n / 65536)).isSome →
        (s.stackHeld k = false) →
        exec (.remapCopyBegin k) s = .next ((s.modStack k fun y => { y with copyQ := y.copyQ.filter fun r => r ≠ n }).modStack k fun y => { y.setRow n { y.row n with st := .copying } with copies := (y.setRow n { y.row n with st := .copying }).copies ++ [n] })) ∧
    (∀ (k : Fin 32) (s : State) (n : Nat),
        ((s.stack k).nextCopy = some n) →
        ((s.stack k).st = .ready) →
        ((s.stack k).copies.length < 16) →
        ((s.stack k).freeSpare (n / 65536) = none) →
        (s.stackHeld k = false) →
        exec (.remapCopyBegin k) s = .next ((s.modStack k fun y => { y with copyQ := y.copyQ.filter fun r => r ≠ n }).retirePage k n 1)) ∧
    (∀ (k : Fin 32) (n : Nat) (s : State) (i : Nat),
        ((s.stack k).freeSpare (n / 65536) = some i) →
        (s.stack k).copies.contains n →
        (s.stackHeld k = false) →
        exec (.remapCopyFlip k n) s = .next (
          ((s.copySectors k n).modStack k fun y =>
            let z := y.setRow n { st := if ((s.stack k).row n).depth = 0 then .remapped1 else .remapped2, depth := ((s.stack k).row n).depth + 1, spares := ((s.stack k).row n).spares ++ [i] }
            { z with copies := z.copies.filter fun c => c ≠ n, spareUsed := tabSet 0 z.spareUsed (n / 65536) (i + 1), tracker := tabSet [] z.tracker (n / 65536 / 32) ((tabGet [] z.tracker (n / 65536 / 32)).filter fun e => e.row ≠ n % (32 * 65536)) }).recordRemap k n)) ∧
    (∀ (k : Fin 32) (page : BitVec 24) (s : State),
        s.takesWrite (.half (stackHalf k)) →
        ((s.stack k).retiring.any fun y => y.1 = page.toNat) →
        exec (.stkRetireAck k page) s = .next (s.modStack k fun y => { y with retiring := y.retiring.filter fun z => z.1 ≠ page.toNat, retired := y.retired ++ [page.toNat], rows := y.rows.map fun z => if pageOfRow k z.1 = page.toNat && z.2.st = .retiring then (z.1, { z.2 with st := .retired }) else z })) ∧
    (∀ (k : Fin 32) (page : BitVec 24) (s : State),
        s.takesWrite (.half (stackHalf k)) →
        ((s.stack k).retiring.all fun y => y.1 ≠ page.toNat) →
        exec (.stkRetireAck k page) s = .next (s)) ∧
    (∀ (k : Fin 32) (v64 : BitVec 64) (s : State),
        s.takesWrite (.half (stackHalf k)) →
        s.oz.debugOpen →
        bit v64 63 →
        exec (.stkInject k v64) s = .next (s.modStack k fun y => { y with inject := some (fld v64 40 5 * 32, bit v64 41) })) ∧
    (∀ (k : Fin 32) (v64 : BitVec 64) (s : State),
        s.takesWrite (.half (stackHalf k)) →
        ((s.oz.debugOpen && bit v64 63) = false) →
        exec (.stkInject k v64) s = .next (s)) ∧
    (∀ (k : Fin 32) (n : Nat) (s : State),
        (s.stackFenced k = false) →
        ((s.stack k).stopped = none) →
        exec (.stkChannelFailed k n) s = .next ((s.modStack k fun x => { x with stopped := some n }).raise 0x0506 (unit := k.val) (detail := BitVec.ofNat 32 n))) ∧
    (∀ (k : Fin 32) (n : Nat) (s : State),
        (s.stackFenced k ∨ (s.stack k).stopped ≠ none) →
        exec (.stkChannelFailed k n) s = .next s) ∧
    (∀ (k : Fin 32) (code : BitVec 16) (s : State),
        s.decidesFences →
        stackFenceCauses.contains code →
        exec (.stackFence k code) s = .next ((s.fenceStack k code (BitVec.ofNat 32 ((s.stack k).stopped.getD 0))).failSharesOn k)) ∧
    (∀ (k : Fin 32) (code : BitVec 16) (s : State),
        (stackFenceCauses.contains code = false) →
        exec (.stackFence k code) s = .next s) ∧
    (∀ (k : Fin 32) (ch bk : Nat) (s : State),
        (ch < 16) →
        (bk < 32) →
        ((s.stack k).selfRefresh = false) →
        (s.stackHeld k = false) →
        (tabGet 0 (s.stack k).ahead (ch * 32 + bk) = 0) →
        ((s.stack k).copying (ch * 32 + bk) = false) →
        (0 < (s.stack k).bankUse (ch * 32 + bk)) →
        exec (.bankRefresh k ch bk .due) s = .next s)

/-- Sending a bucket, opening a share, admitting units and the deadline. R275 R276 R286 R287 R294 R297
Where the spec leaves a layout, a value or an order open, this is the model's choice: log entries 38, 73, 75. -/
def Obligations.SharesAndUnits : Prop :=
    (∀ (n : BitVec 32) (s : State) (x : Bucket) (buf : Nat) (s1 : State),
        (s.bucket n.toNat = some x) →
        (s.red.senders.all fun y => y.bucket ≠ n) →
        s.stewardUp x.half →
        s.coreRuns (s.srcSlot x).1 →
        (s.ask (s.srcSlot x).1 { acq := true, slot := (s.srcSlot x).2, rq := .sender x.id } = (.granted buf, s1)) →
        exec (.bucketBegin n) s = .next (
          let s2 := s1.modRed fun r => { r with senders := r.senders ++ [{ bucket := n, buf := buf }] }
          let s3 := if s.selfSpot.rank < x.members then s2.startShare x else s2
          (List.range x.members).foldl (fun s i => s.sendUnits x buf ((s.selfSpot.rank + 1 + i) % x.members) 0 false (List.range x.blocks)) s3)) ∧
    (∀ (n : BitVec 32) (s : State) (x : Bucket) (y : Share) (e : Option (BitVec 16)) (s2 : State),
        (s.bucket n.toNat = some x) →
        (s.share n.toNat = some y) →
        (y.st = .opening) →
        (s.red.shares.all fun z => z.bucket = n || z.st = .opening || (match s.bucket z.bucket.toNat with | some c => !regionsMeet x c | none => true)) →
        s.stewardUp x.half →
        (s.checkExtent x.anchorBase (16 + 4 * x.blocks) = (e, s2)) →
        exec (.shareOpen n) s = .next (
          let fresh := e = none && (leNat (s2.regionBytes x.anchorBase 4) + 1) % 2 ^ 32 = y.step.toNat && !s.red.anchorReset.contains (x.id, y.share)
          (s2.zeroShare x).modShare x.id fun z => { z with st := .collecting, anchors := (List.range x.blocks).foldl (fun t k => tabSet 0 t k (s2.pickAnchor x fresh k)) [] })) ∧
    (∀ (pt : Fin 18) (hdr : BitVec 128) (bs : List (BitVec 8)) (n : Nat) (s : State) (x : Bucket) (y : Share),
        (s.bucket (unitHdr hdr).bucket = some x) →
        s.unitExpected x (unitHdr hdr) →
        (bs.length = 512 * redBytes x.cfmt) →
        s.stewardUp x.half →
        (s.swapRunning = false) →
        ((unitHdr hdr).step = s.red.step.toNat) →
        (s.red.finished.all fun f => f.1 ≠ x.id) →
        (s.share x.id = some y) →
        y.st ≠ .opening →
        exec (.unit pt hdr bs n) s = .next (s.gateUnit x y (unitHdr hdr) ((List.range 512).map fun i => leAt bs (redBytes x.cfmt * i) (redBytes x.cfmt)) (min n s.tick))) ∧
    (∀ (pt : Fin 18) (hdr : BitVec 128) (bs : List (BitVec 8)) (n : Nat) (s : State) (x : Bucket),
        (s.bucket (unitHdr hdr).bucket = some x) →
        s.unitExpected x (unitHdr hdr) →
        (bs.length = 512 * redBytes x.cfmt) →
        s.stewardUp x.half →
        (s.swapRunning = false) →
        (unitHdr hdr).step ≠ s.red.step.toNat →
        exec (.unit pt hdr bs n) s = .next (s.modRed fun r => { r with stale := satAdd 64 r.stale 1 })) ∧
    (∀ (pt : Fin 18) (hdr : BitVec 128) (bs : List (BitVec 8)) (n : Nat) (s : State),
        (s.bucket (unitHdr hdr).bucket = none) →
        exec (.unit pt hdr bs n) s = .next ((s.raise 0x070A (unit := pt.val) (detail := BitVec.ofNat 32 (unitHdr hdr).bucket)).noteBlock (unitHdr hdr).bucket s.selfSpot.rank (unitHdr hdr).block 0x070A)) ∧
    (∀ (n : BitVec 32) (s : State) (x : Bucket) (y : Share),
        (s.bucket n.toNat = some x) →
        (s.share n.toNat = some y) →
        (y.st = .collecting) →
        s.timeTrusted →
        (s.red.deadline x ≤ s.tick) →
        exec (.shareDeadline n) s = .next ((s.modShare x.id fun z => { z with deadlinePassed := true }).tryClose x))

/-- Partial records, the partial limit, finishing a share, and fingerprints. R285 R290 R292 R295 R298 R304
Where the spec leaves a layout, a value or an order open, this is the model's choice: log entries 62, 73. -/
def Obligations.RecordsAndResults : Prop :=
    (∀ (pt : Fin 18) (src : BitVec 13) (bs : List (BitVec 8)) (s : State) (r : Rec) (x : Bucket) (y : Share),
        (parseRecord bs = some (r, [])) →
        (s.bucket r.bucket.toNat = some x) →
        s.stewardUp x.half →
        (s.swapRunning = false) →
        (r.step = s.red.step) →
        (s.red.finished.all fun f => f.1 ≠ r.bucket.toNat) →
        (s.share r.bucket.toNat = some y) →
        y.st ≠ .opening →
        (y.round = r.round) →
        ((s.viaTree x && s.combinePorts.contains pt && decide (256 ≤ (s.port pt).bridge.length)) = false) →
        (s.waitExpired x y = false) →
        exec (.record pt src bs) s = .next (s.checkRecord x y pt src.toNat r)) ∧
    (∀ (pt : Fin 18) (src : BitVec 13) (bs : List (BitVec 8)) (s : State) (r : Rec) (x : Bucket) (y : Share),
        (parseRecord bs = some (r, [])) →
        (s.bucket r.bucket.toNat = some x) →
        s.stewardUp x.half →
        (s.swapRunning = false) →
        (r.step = s.red.step) →
        (s.red.finished.all fun f => f.1 ≠ r.bucket.toNat) →
        (s.share r.bucket.toNat = some y) →
        y.st ≠ .opening →
        (y.round = r.round) →
        ((s.viaTree x && s.combinePorts.contains pt && decide (256 ≤ (s.port pt).bridge.length)) = false) →
        (s.waitExpired x y) →
        exec (.record pt src bs) s = .next (s.failShare x 0x0706)) ∧
    (∀ (pt : Fin 18) (src : BitVec 13) (bs : List (BitVec 8)) (s : State),
        (parseRecord bs = none) →
        exec (.record pt src bs) s = .next (s.badRecord pt.val (leAt bs 0 4) (leAt bs 8 3))) ∧
    (∀ (pt : Fin 18) (src : BitVec 13) (bs : List (BitVec 8)) (s : State) (r : Rec) (x : Bucket),
        (parseRecord bs = some (r, [])) →
        (s.bucket r.bucket.toNat = some x) →
        s.stewardUp x.half →
        (s.swapRunning = false) →
        (r.step ≠ s.red.step ∨ (s.red.finished.any fun f => f.1 = r.bucket.toNat)) →
        exec (.record pt src bs) s = .next (s.badRecord pt.val r.bucket.toNat r.block)) ∧
    (∀ (pt : Fin 18) (src : BitVec 13) (bs : List (BitVec 8)) (s : State) (r : Rec),
        (parseRecord bs = some (r, [])) →
        (s.bucket r.bucket.toNat = none) →
        exec (.record pt src bs) s = .next (s.badRecord pt.val r.bucket.toNat r.block)) ∧
    (∀ (pt : Fin 18) (src : BitVec 13) (bs : List (BitVec 8)) (s : State) (r : Rec) (x : Bucket),
        (parseRecord bs = some (r, [])) →
        (s.bucket r.bucket.toNat = some x) →
        s.stewardUp x.half →
        (s.swapRunning = false) →
        (r.step = s.red.step) →
        (s.red.finished.all fun f => f.1 ≠ r.bucket.toNat) →
        (s.share r.bucket.toNat = none) →
        exec (.record pt src bs) s = .next (s.startShare x)) ∧
    (∀ (pt : Fin 18) (src : BitVec 13) (bs : List (BitVec 8)) (s : State) (r : Rec) (x : Bucket) (y : Share),
        (parseRecord bs = some (r, [])) →
        (s.bucket r.bucket.toNat = some x) →
        s.stewardUp x.half →
        (s.swapRunning = false) →
        (r.step = s.red.step) →
        (s.red.finished.all fun f => f.1 ≠ r.bucket.toNat) →
        (s.share r.bucket.toNat = some y) →
        y.st ≠ .opening →
        (r.round < y.round) →
        ((s.viaTree x && s.combinePorts.contains pt && decide (256 ≤ (s.port pt).bridge.length)) = false) →
        exec (.record pt src bs) s = .next s) ∧
    (∀ (pt : Fin 18) (src : BitVec 13) (bs : List (BitVec 8)) (s : State) (r : Rec) (x : Bucket) (y : Share),
        (parseRecord bs = some (r, [])) →
        (s.bucket r.bucket.toNat = some x) →
        s.stewardUp x.half →
        (s.swapRunning = false) →
        (r.step = s.red.step) →
        (s.red.finished.all fun f => f.1 ≠ r.bucket.toNat) →
        (s.share r.bucket.toNat = some y) →
        (y.st = .opening ∨ y.round < r.round ∨ (s.viaTree x && s.combinePorts.contains pt && decide (256 ≤ (s.port pt).bridge.length))) →
        exec (.record pt src bs) s = .next s) ∧
    (∀ (n : BitVec 32) (s : State) (x : Bucket) (y : Share),
        (s.bucket n.toNat = some x) →
        (s.share n.toNat = some y) →
        s.waitExpired x y →
        exec (.partialLimitExpire n) s = .next (s.failShare x 0x0706)) ∧
    (∀ (n : BitVec 32) (s : State) (x : Bucket) (y : Share) (l : List (Fin 8 × Nat × Nat)) (s1 : State) (s0 : State) (s2 : State) (s3 : State),
        (s.bucket n.toNat = some x) →
        (s.share n.toNat = some y) →
        (y.st = .finishing) →
        s.stewardUp x.half →
        (s.checkGates x = (none, s0)) →
        (s0.unreadBlocks x.localBase (List.range x.blocks) = ([], s2)) →
        (s2.unreadBlocks x.treeBase (List.range x.blocks) = ([], s3)) →
        (((List.range x.blocks).map (s3.blockSum x)).all fun z => z.ok && decide (0 < z.count)) →
        (s3.overBlocks x = []) →
        (s3.claimResults x x.cores = (.ok l, s1)) →
        exec (.shareFinish n) s = .next (s1.finishShare x y ((List.range x.blocks).map (s3.blockSum x)) l)) ∧
    (∀ (n : BitVec 32) (s : State) (x : Bucket) (y : Share) (e : BitVec 16) (s1 : State),
        (s.bucket n.toNat = some x) →
        (s.share n.toNat = some y) →
        (y.st = .finishing) →
        s.stewardUp x.half →
        (s.checkGates x = (some e, s1)) →
        exec (.shareFinish n) s = .next (s1.dropShare x e)) ∧
    (∀ (m : MsgHead) (n : BitVec 32) (share : Fin 256) (s : State) (s1 : State),
        (s.acceptId m.port m.src m.id vcCtrl = (true, s1)) →
        exec (.shareFinal m n share) s = .next (s1.shareEnded n share.val false)) ∧
    (∀ (m : MsgHead) (n : BitVec 32) (share : Fin 256) (s : State) (s1 : State),
        (s.acceptId m.port m.src m.id vcCtrl = (true, s1)) →
        exec (.shareFailed m n share) s = .next (s1.shareEnded n share.val true)) ∧
    (∀ (h : Fin 2) (s : State),
        s.takesWrite (.half h) →
        ((s.half h).fpBusy = false) →
        ((s.half h).fpSrc.toNat % 65536 = 0) →
        ((s.half h).fpLen.toNat % 65536 = 0) →
        (addrHalf (s.half h).fpSrc.toNat = h) →
        ((s.half h).fpLen.toNat = 0 ∨ addrHalf ((s.half h).fpSrc.toNat + (s.half h).fpLen.toNat - 1) = h) →
        exec (.fpStart h) s = .next (s.modHalf h fun y => { y with fpBusy := true, fpRefused := false, fpPage := 0 })) ∧
    (∀ (h : Fin 2) (s : State),
        s.takesWrite (.half h) →
        (s.half h).fpBusy →
        exec (.fpStart h) s = .next (s)) ∧
    (∀ (h : Fin 2) (s : State),
        (s.half h).fpBusy →
        s.stewardUp h →
        exec (.fpComplete h) s = .next ((s.fingerprints h (s.half h).fpSrc.toNat (s.half h).fpDst.toNat 0 ((s.half h).fpLen.toNat / 65536)).modHalf h fun y => { y with fpBusy := false }))

/-- The exclusion set, withdraw, rerun and resend orders. R297 R298 R318 R328
Where the spec leaves a layout, a value or an order open, this is the model's choice: log entries 38, 62, 73. -/
def Obligations.ReductionOrders : Prop :=
    (∀ (m : MsgHead) (n : BitVec 32) (ranks : List Nat) (s : State) (s1 : State) (s2 : State) (s3 : State) (x : Bucket) (y : Share),
        (s.acceptId m.port m.src m.id vcCtrl = (true, s1)) →
        (s1.acceptTerm m.term = (true, s2)) →
        (s2.bucket n.toNat = some x) →
        (s2.share n.toNat = some y) →
        (y.st = .collecting ∨ y.st = .rerunning) →
        (x.nfPolicy = 1) →
        (y.exclSet = false) →
        (s2.checkGates x = (none, s3)) →
        exec (.exclusionSet m n ranks) s = .next (
          let ms := ranks.map (· % x.members);
          let rank (k : Nat) : Nat := s2.selfSpot.channel * x.members + k;
          let s4 := s3.modShare x.id fun z => { z with exclSet := true, excluded := ms, withdrawing := ms.flatMap fun k => (s3.blocksWith x k).map fun e => (e, rank k), waitTick := s2.tick, waitLimit := s2.red.partialLimit.toNat, expected := z.expected.filter fun e => !(ms.map rank).contains e.2 };
          (((ms.foldl (fun s' k => s'.askUnits x y.share .withdraw k (s3.blocksWith x k)) s4).failIfLost x).tryClose x).tryRerunClose x)) ∧
    (∀ (m : MsgHead) (n : BitVec 32) (ranks : List Nat) (s : State) (s1 : State) (s2 : State) (s3 : State) (x : Bucket) (y : Share) (e : BitVec 16),
        (s.acceptId m.port m.src m.id vcCtrl = (true, s1)) →
        (s1.acceptTerm m.term = (true, s2)) →
        (s2.bucket n.toNat = some x) →
        (s2.share n.toNat = some y) →
        (y.st = .collecting ∨ y.st = .rerunning) →
        (x.nfPolicy = 1) →
        (y.exclSet = false) →
        (s2.checkGates x = (some e, s3)) →
        exec (.exclusionSet m n ranks) s = .next (s3.dropShare x e)) ∧
    (∀ (m : MsgHead) (n : BitVec 32) (share : Fin 256) (blocks : List Nat) (s : State) (s1 : State),
        (s.acceptId m.port m.src m.id vcCtrl = (true, s1)) →
        exec (.withdrawOrder m n share blocks) s = .next (s1.sendAgain n share.val 0 true blocks)) ∧
    (∀ (m : MsgHead) (n : BitVec 32) (share : Fin 256) (blocks : List Nat) (s : State) (s1 : State),
        (s.acceptId m.port m.src m.id vcCtrl = (true, s1)) →
        exec (.resendOrder m n share blocks) s = .next (s1.sendAgain n share.val 1 false blocks)) ∧
    (∀ (m : MsgHead) (n : BitVec 32) (anchors : List (Nat × Int)) (s : State) (s1 : State) (s2 : State) (s0 : State) (x : Bucket) (y : Share),
        (s.acceptId m.port m.src m.id vcCtrl = (true, s1)) →
        (s1.acceptTerm m.term = (true, s2)) →
        (s2.bucket n.toNat = some x) →
        (s2.share n.toNat = some y) →
        y.st ≠ .opening →
        (y.round = 0) →
        (s2.checkGates x = (none, s0)) →
        exec (.rerunOrder m n anchors) s = .next (
          let held := (List.range x.members).map fun k => (k, (List.range x.blocks).filter fun b => bit (s0.gate x b).bitmap k || y.expected.contains (b, s0.selfSpot.channel * x.members + k))
          let s3 := (s0.zeroShare x).modShare x.id fun z => { z with st := .rerunning, round := 1, awaitRerun := false, chans := [], gotFrom := [], recvM := [], withdrawing := [], anchors := anchors.foldl (fun t a => tabSet 0 t a.1 (clampAnchor a.2)) z.anchors, expected := held.flatMap fun k => k.2.map fun e => (e, s0.selfSpot.channel * x.members + k.1), waitTick := s0.tick, waitLimit := s0.red.partialLimit.toNat }
          let s4 := s3.modRed fun r => { r with reruns := satAdd 32 r.reruns 1, orders := r.orders.filter fun o => o.1 ≠ x.id };
          ((held.foldl (fun s k => s.askUnits x y.share .resend k.1 k.2) s4).failIfLost x).tryRerunClose x)) ∧
    (∀ (m : MsgHead) (n : BitVec 32) (anchors : List (Nat × Int)) (s : State) (s1 : State) (s2 : State) (x : Bucket) (y : Share),
        (s.acceptId m.port m.src m.id vcCtrl = (true, s1)) →
        (s1.acceptTerm m.term = (true, s2)) →
        (s2.bucket n.toNat = some x) →
        (s2.share n.toNat = some y) →
        (y.st = .opening) →
        exec (.rerunOrder m n anchors) s = .next (s2.modRed fun r => { r with orders := (r.orders.filter fun o => o.1 ≠ n.toNat) ++ [(n.toNat, anchors)] })) ∧
    (∀ (m : MsgHead) (n : BitVec 32) (ranks : List Nat) (s : State) (s1 : State),
        (s.acceptId m.port m.src m.id vcCtrl = (false, s1)) →
        exec (.exclusionSet m n ranks) s = .next (s1))

/-- The master keeps the reports of the step and acts on them. R197 R259 R289 R297 R298 R299 R302 R303 R329 R336
Where the spec leaves a layout, a value or an order open, this is the model's choice: log entries 19, 48, 62, 80. -/
def Obligations.ReportsToTheMaster : Prop :=
    (∀ (m : MsgHead) (n : BitVec 32) (channel : Nat) (share : Nat) (ranks : List Nat) (s : State) (s1 : State),
        (s.cas.role = .deputy) →
        s.holdsReports →
        (s.acceptId m.port m.src m.id vcCtrl = (true, s1)) →
        (s1.isMaster = false) →
        exec (.nonfiniteRankReport m n channel share ranks) s = .next (s1.modMst fun x => { x with nfReps := x.nfReps.filter (fun y => !(y.bucket = n.toNat && y.channel = channel && y.share = share)) ++ [{ bucket := n.toNat, channel := channel, share := share, ranks := ranks }] })) ∧
    (∀ (m : MsgHead) (n : BitVec 32) (share : Fin 256) (blocks : List (Nat × Option Int)) (s : State) (s1 : State),
        (s.cas.role = .deputy) →
        s.holdsReports →
        (s.acceptId m.port m.src m.id vcCtrl = (true, s1)) →
        (s1.isMaster = false) →
        exec (.saturationReport m n share blocks) s = .next (s1.modMst fun x => { x with overReps := x.overReps ++ blocks.map fun y => (n.toNat, share.val, y.1, y.2.getD (-(2 ^ 15))) })) ∧
    (∀ (m : MsgHead) (n : BitVec 32) (share : Fin 256) (blocks : List (Nat × Option Int)) (s : State) (s1 : State),
        s.isMaster →
        (s.acceptId m.port m.src m.id vcCtrl = (true, s1)) →
        exec (.saturationReport m n share blocks) s = .next (
          let s2 := s1.modMst fun x => { x with overReps := x.overReps ++ blocks.map fun y => (n.toNat, share.val, y.1, y.2.getD (-(2 ^ 15))) }
          let k := match s2.bucket n.toNat with
            | some b => b.k
            | none => if s2.topo.members * s2.topo.channels ≤ 1 then 0 else (s2.topo.members * s2.topo.channels - 1).log2 + 1
          let anchors := (blockMax (s2.cas.mst.overReps.filter fun x => x.1 = n.toNat && x.2.1 = share.val)).map fun x => (x.1, clampAnchor (x.2 + k + 2))
          let stage := match s2.spotOf m.src with
            | some x => x.stage
            | none => s2.selfSpot.stage
          let owners := (List.range s2.topo.channels).filterMap fun c => s2.moduleAt ⟨stage, c, share.val⟩
          if s1.isMaster then s2.decideTo (owners.flatMap fun o => ctrlMsgs o .rerun n.toNat share.val (anchors.flatMap fun a => natLe 4 a.1 ++ natLe 2 (wrap 16 a.2))) else s2)) ∧
    (∀ (m : MsgHead) (n : BitVec 32) (flags : BitVec 3) (lanes : List Int) (rime : BitVec 16) (amax : List (Nat × Int)) (fails : List (Nat × Nat)) (s : State) (s1 : State),
        s.holdsReports →
        (s.acceptId m.port m.src m.id vcCtrl = (true, s1)) →
        (n = s1.cas.mst.step) →
        (s1.stepBegun = false ∨ s1.tick < s1.lastDeadline + 100000000) →
        (s1.cas.mst.dones.all fun d => d.module ≠ m.src) →
        exec (.doneReport m n flags lanes rime amax fails) s = .next (
          let x := (s1.spotOf m.src).getD ⟨0, 0, 0⟩
          s1.modMst fun y => { y with dones := y.dones ++ [{ module := m.src, rank := x.rank, channel := x.channel, stage := x.stage, poisoned := bit flags 0, failed := bit flags 1, normOver := bit flags 2, lanes := lanes, rime := rime, amax := amax, failures := fails }] })) ∧
    (∀ (s : State),
        s.isMaster →
        s.cas.mst.placed →
        ((s.cas.mst.decided || s.cas.mst.evalHold || s.cas.mst.stopped) = false) →
        s.allDone →
        exec (.normDecision) s = .next (s.decideStep false)) ∧
    (∀ (s : State),
        s.isMaster →
        s.cas.mst.placed →
        ((s.cas.mst.decided || s.cas.mst.evalHold || s.cas.mst.stopped) = false) →
        (s.allDone = false) →
        (s.lastDeadline + 100000000 ≤ s.tick) →
        exec (.doneReportTimeout) s = .next (s.decideStep true)) ∧
    (∀ (m : MsgHead) (n : BitVec 32) (s : State) (s1 : State),
        s.holdsReports →
        (s.acceptId m.port m.src m.id vcCtrl = (true, s1)) →
        (n = s1.cas.mst.step) →
        exec (.settleReport m n 0) s = .next (s1.noteSettled m.src)) ∧
    (∀ (m : MsgHead) (n : BitVec 32) (left : Nat) (s : State) (s1 : State),
        s.holdsReports →
        (s.acceptId m.port m.src m.id vcCtrl = (true, s1)) →
        left ≠ 0 →
        exec (.settleReport m n left) s = .next (s1)) ∧
    (∀ (m : MsgHead) (n : BitVec 32) (s : State) (s1 : State),
        s.holdsReports →
        (s.acceptId m.port m.src m.id vcCtrl = (true, s1)) →
        (n = s1.cas.mst.step) →
        exec (.settleRefusalReport m n) s = .next (
          let s2 := s1.modMst fun x => { x with held := true, repair := if x.repair.contains m.src then x.repair else x.repair ++ [m.src] }
          if s1.isMaster then
            (if s2.noReplica then (s2.raise 0x070B (detail := BitVec.ofNat 32 m.src)).stopRun m.src 0x070B
             else s2.decideTo ((s2.repairSources m.src).flatMap fun o => ctrlMsgs o.1 .repair m.src (b2n o.2) []))
          else s2)) ∧
    (∀ (n : BitVec 13) (l : List (BitVec 64)) (l2 : List (BitVec 64)) (s : State) (s1 : State),
        n.toNat ≠ s.selfId →
        s.isMaster →
        s.cas.mst.repair.contains n.toNat →
        (s.sourcePrints n.toNat l2 = (l, s1)) →
        exec (.repairCompare n l l2) s = .next ((s1.modMst fun x => { x with held := x.held && (x.repair.filter fun y => y ≠ n.toNat) ≠ [], repair := x.repair.filter fun y => y ≠ n.toNat }).noteSettled n.toNat)) ∧
    (∀ (n : BitVec 13) (l : List (BitVec 64)) (l2 : List (BitVec 64)) (l3 : List (BitVec 64)) (s : State) (s1 : State),
        n.toNat ≠ s.selfId →
        s.isMaster →
        s.cas.mst.repair.contains n.toNat →
        (s.sourcePrints n.toNat l2 = (l3, s1)) →
        l ≠ l3 →
        exec (.repairCompare n l l2) s = .next ((s1.raise 0x070B (detail := BitVec.ofNat 32 n.toNat)).stopRun n.toNat 0x070B)) ∧
    (∀ (n : BitVec 13) (l : List (BitVec 64)) (l2 : List (BitVec 64)) (a : List (BitVec 64)) (b : List (BitVec 64)) (s : State) (s1 : State) (s2 : State) (s3 : State) (w : List (BitVec 64)),
        (n.toNat = s.selfId) →
        (s.isMaster = false) →
        (s.regionPrints false = (a, s1)) →
        (s1.regionPrints true = (w, s2)) →
        (s2.sourcePrints n.toNat l2 = (b, s3)) →
        exec (.repairCompare n l l2) s = .next (if a ++ w = b then s3.report .settled (natLe 2 0 ++ natLe 4 s.red.step.toNat ++ natLe 1 0 ++ natLe 1 0) else (s3.raise 0x070B (detail := BitVec.ofNat 32 n.toNat)).report .repaired)) ∧
    (∀ (m : MsgHead) (s : State) (s1 : State),
        s.isMaster →
        (s.acceptId m.port m.src m.id vcCtrl = (true, s1)) →
        s1.isMaster →
        exec (.fenceReport m) s = .next (if m.whole then (s1.decideAll 0x0E (memberArgs .shift 1000000) []).declareLost m.src else s1.decideAll 0x0E (memberArgs .shift 1000000) [])) ∧
    (∀ (m : MsgHead) (s : State) (s1 : State),
        s.isMaster →
        (s.acceptId m.port m.src m.id vcCtrl = (true, s1)) →
        s1.isMaster →
        exec (.moraineReport m) s = .next ((s1.discardEpoch.modMst fun m => { m with decided := true }).stopRun m.src 0x0610)) ∧
    (∀ (m : MsgHead) (s : State) (s1 : State),
        s.isMaster →
        (s.acceptId m.port m.src m.id vcCtrl = (true, s1)) →
        s1.isMaster →
        exec (.timeUnlockedReport m) s = .next (s1.declareLost m.src)) ∧
    (∀ (m : MsgHead) (n : BitVec 32) (channel : Nat) (share : Nat) (ranks : List Nat) (s : State) (s1 : State) (s2 : State) (owners : List (Nat × Nat)),
        s.isMaster →
        (s.acceptId m.port m.src m.id vcCtrl = (true, s1)) →
        s1.isMaster →
        (s2 = s1.modMst fun x => { x with nfReps := x.nfReps.filter (fun y => !(y.bucket = n.toNat && y.channel = channel && y.share = share)) ++ [{ bucket := n.toNat, channel := channel, share := share, ranks := ranks }] }) →
        (owners = s2.ownersIn (match s2.spotOf m.src with | some x => x.stage | none => s2.selfSpot.stage) channel (s2.bucketMembers n.toNat)) →
        exec (.nonfiniteRankReport m n channel share ranks) s = .next (
          let reps := s2.cas.mst.nfReps.filter fun y => y.bucket = n.toNat && y.channel = channel
          if owners.all fun o => s2.isLost o.2 || reps.any fun y => y.share = o.1 then
            (s2.decideTo (owners.flatMap fun o => ctrlMsgs o.2 .exclusion n.toNat o.1 (words4 ((reps.flatMap (·.ranks)).eraseDups)))).modMst fun x => { x with nfReps := x.nfReps.filter fun y => !(y.bucket = n.toNat && y.channel = channel) }
          else s2)) ∧
    (∀ (m : MsgHead) (n : BitVec 32) (channel : Nat) (share : Nat) (sh : Fin 256) (ranks : List Nat) (blocks : List (Nat × Option Int)) (flags : BitVec 3) (lanes : List Int) (rime : BitVec 16) (amax : List (Nat × Int)) (fails : List (Nat × Nat)) (left : Nat) (s : State),
        (s.holdsReports = false) →
        exec (.nonfiniteRankReport m n channel share ranks) s = .next s ∧ exec (.saturationReport m n sh blocks) s = .next s ∧
        exec (.doneReport m n flags lanes rime amax fails) s = .next s ∧ exec (.settleReport m n left) s = .next s ∧
        exec (.settleRefusalReport m n) s = .next s ∧ exec (.fenceReport m) s = .next s ∧ exec (.moraineReport m) s = .next s ∧
        exec (.timeUnlockedReport m) s = .next s)

/-- The master places the next marker, repeats or resumes on request; the lead completes. R196 R241 R243 R303 R336 R367
Where the spec leaves a layout, a value or an order open, this is the model's choice: log entries 19, 76. -/
def Obligations.MasterMarkers : Prop :=
    (∀ (n : BitVec 64) (s : State) (t : BitVec 32),
        (s.tick + s.topo.markerLead ≤ n.toNat) →
        (s.nextMarkerKind = .step t) →
        exec (.markerPlace n) s = .next (
          let e := s.renewEpoch
          let s1 := e.2.sendPackage t n.toNat false e.1
          let s2 := if s.cas.mst.placed && s.cas.mst.skipped then s1 else s1.openNext false 0x3F800000
          s2.modMst fun x => { x with dones := [], settled := [], decided := false, skipped := false, skipNorm := false, rerun := false, evalHold := false, resume := false, stopped := false, held := false })) ∧
    (∀ (n : BitVec 64) (s : State) (b : Bool),
        (s.tick + s.topo.markerLead ≤ n.toNat) →
        (s.nextMarkerKind = .repeat_ b) →
        exec (.markerPlace n) s = .next (
          let s1 := s.sendPackage s.cas.mst.step n.toNat true s.epochNumber
          let s2 := if b then s1 else s1.openNext false 0x3F800000
          s2.modMst fun x => { x with stopped := false, held := false, resume := false, evalHold := b, repeatReq := false, repair := [], dones := if b then x.dones else [], settled := if b then x.settled else [], decided := b, skipped := x.skipped && b })) ∧
    (∀ (n : BitVec 64) (s : State),
        (n.toNat < s.tick + s.topo.markerLead) →
        exec (.markerPlace n) s = .next (s)) ∧
    (∀ (s : State),
        s.takesWrite .cascade →
        s.isMaster →
        exec (.markerReqRepeat) s = .next (s.modMst fun m => { m with repeatReq := true })) ∧
    (∀ (s : State),
        s.takesWrite .cascade →
        s.isMaster →
        s.cas.mst.stopped || s.cas.mst.evalHold →
        exec (.markerReqResume) s = .next (s.modMst fun m => { m with resume := true })) ∧
    (∀ (s : State) (n : Nat) (g : ImgCfg),
        (s.img.leadDue = none) →
        ((s.half s.leadHalf).leadDone = some n) →
        (s.cfg = some g) →
        exec (.leadComplete) s = .next ((s.copyTables g).modHalf s.leadHalf fun y => { y with leadDone := none, leadUs := (s.tick - y.leadTick) / 1000 }))

/-- Moraine claims, lending, return, and loans for another module. R262 R263 R265 R266
Where the spec leaves a layout, a value or an order open, this is the model's choice: log entries 12, 38, 68. -/
def Obligations.MoraineManager : Prop :=
    (∀ (s : State) (x : MorWait),
        (s.morOldestWait = some x) →
        s.placeable x →
        exec (.morainePlace) s = .next (s.workMoraine x)) ∧
    (∀ (s : State) (x : MorEntry),
        (s.morEntries.find? (fun e => e.lend = .copying && e.acksDue = 0) = some x) →
        x.asker ≠ none →
        exec (.moraineLendComplete) s = .next ((s.setMorEntry { x with st := .lent, lend := .none, asker := none }).modMor fun h => { h with morLends := satAdd 32 h.morLends 1 })) ∧
    (∀ (s : State) (x : MorEntry),
        (s.morEntries.find? (fun e => e.lend = .copying && e.acksDue = 0) = some x) →
        (x.asker = none) →
        exec (.moraineLendComplete) s = .next (s.setMorEntry { x with lend := .none })) ∧
    (∀ (s : State) (x : MorEntry) (a : Nat),
        (s.nextReturn = some x) →
        (s.morSpan x.size = some a) →
        exec (.moraineReturn) s = .next (((s.setMorEntry { x with st := .returning, lend := .returning, addr := a, acksDue := x.size }).noteMorHigh.sendMsg x.lender 0x08 vcCtrl (loanArgs s.morHalf.val 0 x.far loanTagSpan) (natLe 8 a)))) ∧
    (∀ (n : Nat) (m : Nat) (b : Fin 2) (desc : Fin 16) (s : State) (l : LoanCfg) (a : Nat),
        (s.loanRange n = some l) →
        (lowestSpan [(l.base, l.mib)] (((s.half (addrHalf l.base)).loans.filter fun x => x.borrower = n).map fun x => (x.base, x.mib)) m = some a) →
        exec (.loanClaim n m b desc) s = .next ((s.modHalf (addrHalf l.base) fun y => { y with loans := y.loans ++ [{ borrower := n, base := a, mib := m }] }).sendMsg n 0x05 vcCtrl (loanArgs b.val 0 a + BitVec.ofNat 144 (desc.val % 16 * 2 ^ 29)) [])) ∧
    (∀ (n : Nat) (m : Nat) (b : Fin 2) (desc : Fin 16) (s : State),
        (s.loanRange n = none) →
        exec (.loanClaim n m b desc) s = .next (s.draw.sendMsg n 0x06 vcCtrl (loanArgs b.val 0 (Config.freeBits 16 s.freeCtr).toNat + BitVec.ofNat 144 (desc.val % 16 * 2 ^ 29)) [])) ∧
    (∀ (n : Nat) (m : Nat) (b : Fin 2) (desc : Fin 16) (s : State) (l : LoanCfg),
        (s.loanRange n = some l) →
        (lowestSpan [(l.base, l.mib)] (((s.half (addrHalf l.base)).loans.filter fun x => x.borrower = n).map fun x => (x.base, x.mib)) m = none) →
        exec (.loanClaim n m b desc) s = .next (s.draw.sendMsg n 0x06 vcCtrl (loanArgs b.val 0 (Config.freeBits 16 s.freeCtr).toNat + BitVec.ofNat 144 (desc.val % 16 * 2 ^ 29)) []))

/-- Register writes from the host, and writes of ones to fault flags. R11 R12 R382 R387 R430 R433 R458 R459 R461 R462 R464 -/
def Obligations.RegisterAndFlagWrites : Prop :=
    (∀ (b : Bool) (off : BitVec 27) (n : Nat) (v : BitVec 64) (s : State),
        (alignedAccess off.toNat n = false) →
        exec (.registerWrite b off n v) s = .next (s)) ∧
    (∀ (off : BitVec 27) (n : Nat) (v : BitVec 64) (s : State),
        (alignedAccess off.toNat n) →
        ((blockOf off.toNat).1 ≠ .none) →
        (s.takesWrite (regOwner (blockOf off.toNat).1 (blockOf off.toNat).2)) →
        exec (.registerWrite false off n v) s = .next ((s.writeBlock (blockOf off.toNat).1 ⟨(blockOf off.toNat).2, n, v⟩).w1cBlock (blockOf off.toNat).1 (blockOf off.toNat).2 n v)) ∧
    (∀ (v : BitVec 64) (s : State),
        (s.takesWrite .oz) →
        exec (.registerWrite false 0x05000008 4 v) s = .next (s.modPwr fun p => { p with cap := BitVec.ofNat 11 (if v.toNat % 2 ^ 11 < 600 then 600 else if 1500 < v.toNat % 2 ^ 11 then 1500 else v.toNat % 2 ^ 11) })) ∧
    (∀ (v : BitVec 64) (s : State),
        (s.takesWrite .oz) →
        exec (.registerWrite false 0x0500000C 4 v) s = .next (s.modPwr fun p => { p with ramp := BitVec.ofNat 7 (if v.toNat % 2 ^ 7 < 15 then 15 else if 75 < v.toNat % 2 ^ 7 then 75 else v.toNat % 2 ^ 7) })) ∧
    (∀ (v : BitVec 64) (s : State),
        (s.takesWrite (.half 1)) →
        exec (.registerWrite false 0x05020004 4 v) s = .next (s.modHalf 1 fun x => { x with opLimit := v.truncate 3 })) ∧
    (∀ (v : BitVec 64) (s : State),
        (s.host.linkUp) →
        (s.oz.up) →
        exec (.registerWrite false 0x00100040 4 v) s = .next (s.modOz fun o => { o with led := bit v 0 })) ∧
    (∀ (off : BitVec 27) (n : Nat) (v : BitVec 64) (s : State),
        (alignedAccess off.toNat n) →
        (0x03F00000 ≤ off.toNat ∧ off.toNat < 0x03F00400) →
        (s.takesDoorbell .oz) →
        exec (.registerWrite true off n v) s = .next ((s.writeMsix ⟨off.toNat - 0x03F00000, n, v⟩).msixFlush)) ∧
    (∀ (off : BitVec 27) (v : BitVec 64) (s : State),
        ((blockOf off.toNat).1 ≠ .none) →
        (s.takesWrite (blockOf off.toNat).1.owner) →
        exec (.w1cClear off v) s = .next (s.w1cBlock (blockOf off.toNat).1 (blockOf off.toNat).2 (if (blockOf off.toNat).2 % 8 = 0 then 8 else 4) v)) ∧
    (∀ (v : BitVec 64) (s : State),
        (s.host.linkUp) →
        (s.oz.up) →
        exec (.w1cClear 0x00000078 v) s = .next (s.modGlb fun g => { g with faultFlags := g.faultFlags &&& ~~~(v.truncate 32) })) ∧
    (∀ (v : BitVec 64) (s : State),
        (s.takesWrite .oz) →
        exec (.w1cClear 0x05000038 v) s = .next (s.modPwr fun p => { p with fault := p.fault &&& ~~~(v.truncate 6) })) ∧
    (∀ (v : BitVec 64) (s : State),
        (s.takesWrite (.core 0)) →
        exec (.w1cClear 0x01008030 v) s = .next (forAllOf allParts (fun p s => if v.extractLsb' (16 * p.val) 16 ≠ 0 then s.modPart 0 p fun x => { x with pfault := 0 } else s) s))

/-- The step-boundary marker of a complete package. R185 R335 R336
Where the spec leaves a layout, a value or an order open, this is the model's choice: log entry 76. -/
def Obligations.StepMarkerTaken : Prop :=
    (∀ (s : State) (p : Pkg),
        (s.cas.pkg = some p) →
        (s.ownerUp .cascade) →
        (p.complete) →
        (p.taken = false) →
        (p.tick ≤ s.tick) →
        exec (.stepMarker) s = .next (
          let s1 := (s.enterEpoch p.epoch).modCas fun c => { c with pkg := some { p with taken := true }, markerStep := p.step, markerSeen := true }
          let s2 := forAllOf allPorts (fun q s => if (s.port q).bridge = [] then s else s.modPort q fun x => { x with bridge := [] }) (s1.modRed fun r => r.beginStep p s1.keptWords)
          let s3 := forAllOf allHalves (fun h s => s.modHalf h fun y => { y with retSets := y.retSets.set (fin2 (p.step.toNat % 2)) [] }) s2
          let s4 := ((forAllOf allCores (fun c s => s.coreMarker p.step c) s3).swapMarker p.tick).leadAtMarker p.step.toNat
          (if s.cas.markerSeen && s.cas.markerStep = p.step then s4 else s4.newMoraineStep).tryDone)) ∧
    (∀ (s : State) (p : Pkg),
        (s.cas.pkg = some p) →
        (s.tick < p.tick) →
        exec (.stepMarker) s = .next (s)) ∧
    (∀ (s : State),
        (s.cas.pkg = none) →
        exec (.stepMarker) s = .next (s)) ∧
    (∀ (s : State) (p : Pkg),
        (s.cas.pkg = some p) →
        (p.complete = false ∨ p.taken ∨ s.ownerUp .cascade = false) →
        exec (.stepMarker) s = .next (s))

/-- The link of a Prifa port: training, retrains, retry, idle flits and loss. R308 R309 R311 R313 R315 R316 R327 R463
Where the spec leaves a layout, a value or an order open, this is the model's choice: log entries 7, 17, 69, 80. -/
def Obligations.PortLink : Prop :=
    (∀ (p : Fin 18) (peer : BitVec 13) (pp : BitVec 5) (nonce : BitVec 256) (lanes : BitVec 8) (s : State) (e : BitVec 128) (k : BitVec 256),
        (s.portCfg p = some e) →
        ((s.port p).st ≠ .up ∧ (s.port p).st ≠ .fenced) →
        ((s.port p).calibrated) →
        (prfRole e ≠ 0) →
        (s.stewardUp (portHalf p)) →
        (s.retrainExpired p = false) →
        (prfPeer e = peer.toNat ∧ prfPeerPort e = pp.toNat) →
        (s.flash.cascadeKey = some k) →
        (lanes ≠ 0) →
        exec (.linkTrain p peer pp nonce lanes true) s = .next (
          let mine := Config.freeBits 256 s.freeCtr
          let s1 := ((s.modPort p fun x => { x with peerModule := peer, peerPort := pp, lanes := lanes }).draw).modPort p fun x => { x with keyEpoch := satAdd 32 x.keyEpoch 1 }
          s1.linkUp p (Config.linkKey k (s.selfId, p.val, peer.toNat, pp.toNat) true mine nonce) (Config.linkKey k (peer.toNat, pp.toNat, s.selfId, p.val) true nonce mine))) ∧
    (∀ (p : Fin 18) (peer : BitVec 13) (pp : BitVec 5) (nonce : BitVec 256) (lanes : BitVec 8) (ok : Bool) (s : State) (e : BitVec 128),
        (s.portCfg p = some e) →
        ((s.port p).st ≠ .up ∧ (s.port p).st ≠ .fenced) →
        ((s.port p).calibrated) →
        (prfRole e ≠ 0) →
        (s.stewardUp (portHalf p)) →
        (s.retrainExpired p = false) →
        (prfPeer e ≠ peer.toNat ∨ prfPeerPort e ≠ pp.toNat) →
        (lanes ≠ 0) →
        exec (.linkTrain p peer pp nonce lanes ok) s = .next (((s.modPort p fun x => { x with peerModule := peer, peerPort := pp, lanes := lanes }).raise 0x0805 (unit := p.val)).modPort p fun x => { x with st := if x.retraining then .training else .down, txKey := none, rxKey := none })) ∧
    (∀ (p : Fin 18) (peer : BitVec 13) (pp : BitVec 5) (nonce : BitVec 256) (lanes : BitVec 8) (s : State) (e : BitVec 128) (k : BitVec 256),
        (s.portCfg p = some e) →
        ((s.port p).st ≠ .up ∧ (s.port p).st ≠ .fenced) →
        ((s.port p).calibrated) →
        (prfRole e ≠ 0) →
        (s.stewardUp (portHalf p)) →
        (s.retrainExpired p = false) →
        (lanes ≠ 0) →
        (prfPeer e = peer.toNat ∧ prfPeerPort e = pp.toNat) →
        (s.flash.cascadeKey = some k) →
        exec (.linkTrain p peer pp nonce lanes false) s = .next ((((((s.modPort p fun x => { x with peerModule := peer, peerPort := pp, lanes := lanes }).draw).modPort p fun x => { x with keyEpoch := satAdd 32 x.keyEpoch 1 }).raise 0x0803 (unit := p.val)).modPort p fun x => { x with st := if x.retraining then .training else .down, txKey := none, rxKey := none }))) ∧
    (∀ (p : Fin 18) (peer : BitVec 13) (pp : BitVec 5) (nonce : BitVec 256) (lanes : BitVec 8) (ok : Bool) (s : State) (e : BitVec 128),
        (s.portCfg p = some e) →
        ((s.port p).st ≠ .up ∧ (s.port p).st ≠ .fenced) →
        ((s.port p).calibrated) →
        (prfRole e ≠ 0) →
        (s.stewardUp (portHalf p)) →
        (s.retrainExpired p = false) →
        (lanes ≠ 0) →
        (prfPeer e = peer.toNat ∧ prfPeerPort e = pp.toNat) →
        (s.flash.cascadeKey = none) →
        exec (.linkTrain p peer pp nonce lanes ok) s = .next (((s.modPort p fun x => { x with peerModule := peer, peerPort := pp, lanes := lanes }).raise 0x0803 (unit := p.val)).modPort p fun x => { x with st := if x.retraining then .training else .down, txKey := none, rxKey := none })) ∧
    (∀ (p : Fin 18) (peer : BitVec 13) (pp : BitVec 5) (nonce : BitVec 256) (ok : Bool) (s : State) (e : BitVec 128),
        (s.portCfg p = some e) →
        ((s.port p).st ≠ .up ∧ (s.port p).st ≠ .fenced) →
        ((s.port p).calibrated) →
        (prfRole e ≠ 0) →
        (s.stewardUp (portHalf p)) →
        (s.retrainExpired p = false) →
        ((s.port p).retraining = false) →
        exec (.linkTrain p peer pp nonce 0 ok) s = .next ((s.fencePort p 0x0801).modPort p fun x => { x with retraining := false })) ∧
    (∀ (p : Fin 18) (peer : BitVec 13) (pp : BitVec 5) (nonce : BitVec 256) (lanes : BitVec 8) (ok : Bool) (s : State) (e : BitVec 128),
        (s.portCfg p = some e) →
        ((s.port p).calibrated) →
        (prfRole e ≠ 0) →
        (s.stewardUp (portHalf p)) →
        (s.retrainExpired p) →
        exec (.linkTrain p peer pp nonce lanes ok) s = .next ((s.fencePort p 0x0801).modPort p fun x => { x with retraining := false })) ∧
    (∀ (p : Fin 18) (s : State),
        ((s.port p).st = .up) →
        exec (.prifaRetrain p false) s = .next ((s.raise 0x0802 (unit := p.val)).startRetrain p)) ∧
    (∀ (p : Fin 18) (s : State),
        (s.takesWrite (.half (portHalf p))) →
        ((s.port p).st = .up) →
        (s.portFenced p = false) →
        exec (.prifaRetrain p true) s = .next (s.startRetrain p)) ∧
    (∀ (p : Fin 18) (h : Bool) (s : State),
        (s.takesWrite (.half (portHalf p))) →
        ((s.port p).st ≠ .up) →
        (h = false ∨ s.portFenced p = false) →
        exec (.prifaRetrain p h) s = .next (s)) ∧
    (∀ (p : Fin 18) (s : State),
        (s.takesWrite (.half (portHalf p))) →
        (s.portFenced p) →
        exec (.prifaRetrain p true) s = .next (s.ownershipError (BitVec.ofNat 27 (0x04000048 + 0x10000 * p.val)) false)) ∧
    (∀ (p : Fin 18) (s : State),
        ((s.port p).retraining) →
        ((s.port p).st = .training) →
        ((s.port p).retrainTick + 50000 ≤ s.tick) →
        exec (.retrainTimeout p) s = .next ((s.fencePort p 0x0801).modPort p fun x => { x with retraining := false })) ∧
    (∀ (p : Fin 18) (s : State),
        (s.tick < (s.port p).retrainTick + 50000) →
        exec (.retrainTimeout p) s = .next (s)) ∧
    (∀ (p : Fin 18) (s : State),
        (s.portLost p) →
        exec (.portFence p) s = .next (s.reroute p)) ∧
    (∀ (p : Fin 18) (h : BitVec 64) (n : BitVec 16) (a : FlitAt) (s : State),
        ((s.port p).st = .up) →
        (a.lost = false) →
        (flType h = 2) →
        exec (.retry p { hdr := h, frame := n, at_ := a }) s = .next (
          let s1 := ((s.takeFrame p n a).takeHeader p h).modPort p fun x => { x with retries := satAdd 32 x.retries 1 }
          (s1.port p).replay.foldl (fun s f => s.wire p f.hdr f.payload) s1)) ∧
    (∀ (p : Fin 18) (h : BitVec 64) (n : BitVec 16) (a : FlitAt) (s : State),
        ((s.port p).st = .up) →
        (a.lost = false) →
        (flType h = 3) →
        exec (.idle p { hdr := h, frame := n, at_ := a }) s = .next ((s.takeFrame p n a).takeHeader p h)) ∧
    (∀ (p : Fin 18) (h : BitVec 64) (n : BitVec 16) (a : FlitAt) (s : State),
        ((s.port p).st = .up) →
        (a.lost) →
        exec (.retry p { hdr := h, frame := n, at_ := a }) s = .next ((s.takeFrame p n a).askRetry p) ∧ exec (.idle p { hdr := h, frame := n, at_ := a }) s = .next ((s.takeFrame p n a).askRetry p))

/-- DATA and SEAL flits at a port. R308 R309 R310 R312 R313 R315
Where the spec leaves a layout, a value or an order open, this is the model's choice: log entries 17, 69. -/
def Obligations.SealedFlits : Prop :=
    (∀ (p : Fin 18) (h : BitVec 64) (bs : List (BitVec 8)) (n : BitVec 16) (a : FlitAt) (s : State),
        ((s.port p).st = .up) →
        (a.lost) →
        exec (.dataFlit p h bs n a) s = .next ((s.takeFrame p n a).lostFlit p)) ∧
    (∀ (p : Fin 18) (h : BitVec 64) (bs : List (BitVec 8)) (n : BitVec 16) (a : FlitAt) (s : State),
        ((s.port p).st = .up) →
        (a.lost = false) →
        (flType h = 0) →
        ((((s.takeFrame p n a).takeHeader p h).port p).seqAns h = .take) →
        ((((s.takeFrame p n a).takeHeader p h).port p).rxUsed.get (flVc h) + seqDist ((((s.takeFrame p n a).takeHeader p h).port p).toldFreed.get (flVc h)) ((((s.takeFrame p n a).takeHeader p h).port p).freed.get (flVc h)) < vcBuffer (flVc h).val) →
        exec (.dataFlit p h bs n a) s = .next (
          ((s.takeFrame p n a).takeHeader p h).modPort p fun x => { x with waitRetry := false, rxSeq := (x.rxSeq + 1) % 4096, rxUsed := x.rxUsed.set (flVc h) (x.rxUsed.get (flVc h) + 1), rxGroup := x.rxGroup ++ [{ hdr := h, payload := bs.take 248 }] })) ∧
    (∀ (p : Fin 18) (h : BitVec 64) (bs : List (BitVec 8)) (n : BitVec 16) (a : FlitAt) (s : State),
        ((s.port p).st = .up) →
        (a.lost = false) →
        (flType h = 0) →
        ((((s.takeFrame p n a).takeHeader p h).port p).seqAns h = .take) →
        (vcBuffer (flVc h).val ≤ (((s.takeFrame p n a).takeHeader p h).port p).rxUsed.get (flVc h) + seqDist ((((s.takeFrame p n a).takeHeader p h).port p).toldFreed.get (flVc h)) ((((s.takeFrame p n a).takeHeader p h).port p).freed.get (flVc h))) →
        exec (.dataFlit p h bs n a) s = .next (((s.takeFrame p n a).takeHeader p h).fencePort p 0x0804)) ∧
    (∀ (p : Fin 18) (h : BitVec 64) (bs : List (BitVec 8)) (n : BitVec 16) (a : FlitAt) (s : State),
        ((s.port p).st = .up) →
        (a.lost = false) →
        (flType h = 0) →
        ((((s.takeFrame p n a).takeHeader p h).port p).seqAns h = .ask) →
        exec (.dataFlit p h bs n a) s = .next (((s.takeFrame p n a).takeHeader p h).askRetry p)) ∧
    (∀ (p : Fin 18) (h : BitVec 64) (bs : List (BitVec 8)) (n : BitVec 16) (a : FlitAt) (s : State),
        ((s.port p).st = .up) →
        (a.lost = false) →
        (flType h = 0) →
        ((((s.takeFrame p n a).takeHeader p h).port p).seqAns h = .discard) →
        exec (.dataFlit p h bs n a) s = .next ((s.takeFrame p n a).takeHeader p h)) ∧
    (∀ (p : Fin 18) (h : BitVec 64) (bs : List (BitVec 8)) (n : BitVec 16) (a : FlitAt) (s : State),
        ((s.port p).st = .up) →
        (a.lost) →
        exec (.sealFlit p h bs n a) s = .next ((s.takeFrame p n a).lostFlit p)) ∧
    (∀ (p : Fin 18) (h : BitVec 64) (bs : List (BitVec 8)) (n : BitVec 16) (a : FlitAt) (s : State) (x : Port) (key : BitVec 256),
        ((s.port p).st = .up) →
        (a.lost = false) →
        (flType h = 1) →
        (x = ((s.takeFrame p n a).takeHeader p h).port p) →
        (x.seqAns h = .take) →
        (x.rxKey = some key) →
        exec (.sealFlit p h bs n a) s = .next (
          let s1 := (s.takeFrame p n a).takeHeader p h
          let ctr := if x.rxOld then max x.rxGroupCtr (leAt bs 16 8) else x.rxGroupCtr
          let tag := Config.gcmTag key (groupIv x.rxSalt ctr) (x.rxGroup.flatMap fun f => hdrBytes f.hdr) (x.rxGroup.flatMap (·.payload))
          if leAt bs 0 16 = tag.toNat && leAt bs 16 8 = ctr then
            s1.modPort p fun y =>
              let z := (y.openGroup key ctr).foldl (fun y f => y.deliverFlit s1.tick f) y
              { z with rxGroup := [], rxGood := flSeq h, rxSeq := (flSeq h + 1) % 4096, rxGroupCtr := ctr + 1, waitRetry := false, tagFail := false, rxOld := false, owes := z.owes ||| 1 }
          else if x.tagFail then s1.fencePort p 0x0803
          else (s1.modPort p fun x => { x with tagFail := true }).askRetry p))

/-- Messages at the module they are for. R119 R122 R149 R150 R196 R199 R229 R266 R318 R319 R338 R498
Where the spec leaves a layout, a value or an order open, this is the model's choice: log entries 47, 62, 68, 75. -/
def Obligations.MessagesForModule : Prop :=
    (∀ (p : Fin 18) (m : Msg) (s : State) (s1 : State),
        (m.kind = 0x01) →
        (m.dst = s.selfId) →
        (s.stewardUp 0 || s.stewardUp 1) →
        (m.vc = vcBulk) →
        (s.acceptId p.val m.src m.id m.vc = (true, s1)) →
        (s1.specStale (wSpec m.args) = false) →
        exec (.write p m) s = .next (
          match (s1.carry (portHalf p) (wAddr m.args) m.data.length false).stackWrite (wAddr m.args) m.data with
          | (some e, s2) => s2.ackTo m e
          | (none, s2) => (if wUnit m.args = 2 then s2.returnedBytes m.src (wAddr m.args) m.data.length else s2).ackTo m 0)) ∧
    (∀ (p : Fin 18) (m : Msg) (s : State) (s1 : State),
        (m.kind = 0x01) →
        (m.dst = s.selfId) →
        (s.stewardUp 0 || s.stewardUp 1) →
        (m.vc = vcBulk) →
        (s.acceptId p.val m.src m.id m.vc = (true, s1)) →
        (s1.specStale (wSpec m.args)) →
        exec (.write p m) s = .next ((s1.dropStaleWrite (wAddr m.args)).ackTo m 0)) ∧
    (∀ (p : Fin 18) (m : Msg) (s : State) (s1 : State),
        (m.kind = 0x02) →
        (m.dst = s.selfId) →
        (s.stewardUp 0 || s.stewardUp 1) →
        (m.vc = vcBulk) →
        (s.acceptId p.val m.src m.id m.vc = (true, s1)) →
        (s1.specStale (wSpec m.args)) →
        exec (.pannier p m) s = .next ((s1.dropStaleWrite (wAddr m.args)).ackTo m 0)) ∧
    (∀ (p : Fin 18) (m : Msg) (s : State) (s1 : State),
        (m.kind = 0x16) →
        (m.dst = s.selfId) →
        (s.stewardUp 0 || s.stewardUp 1) →
        (m.vc = vcBulk) →
        (s.acceptId p.val m.src m.id m.vc = (true, s1)) →
        (s1.specStale (wSpec m.args)) →
        exec (.ring p m) s = .next ((s1.dropStaleWrite (wAddr m.args)).ackTo m 0)) ∧
    (∀ (p : Fin 18) (m : Msg) (s : State) (s1 : State),
        (m.kind = 0x02) →
        (m.dst = s.selfId) →
        (s.stewardUp 0 || s.stewardUp 1) →
        (m.vc = vcBulk) →
        (s.acceptId p.val m.src m.id m.vc = (true, s1)) →
        (s1.specStale (wSpec m.args) = false) →
        exec (.pannier p m) s = .next (
          match (s1.carry (portHalf p) (wAddr m.args) m.data.length false).panApply (wPan m.args) (wOvf m.args) (wAddr m.args) m.data with
          | (some e, s2) => s2.ackTo m e
          | (none, s2) => (if wUnit m.args = 2 then s2.returnedBytes m.src (wAddr m.args) m.data.length else s2).ackTo m 0)) ∧
    (∀ (p : Fin 18) (m : Msg) (s : State) (s1 : State),
        (m.kind = 0x16) →
        (m.dst = s.selfId) →
        (s.stewardUp 0 || s.stewardUp 1) →
        (m.vc = vcBulk) →
        (s.acceptId p.val m.src m.id m.vc = (true, s1)) →
        (s1.specStale (wSpec m.args) = false) →
        exec (.ring p m) s = .next (
          match (s1.carry (portHalf p) (wAddr m.args) m.data.length false).stackWrite (wAddr m.args) m.data with
          | (some e, s2) => s2.ackTo m e
          | (none, s2) => ((if wUnit m.args = 2 then s2.returnedBytes m.src (wAddr m.args) m.data.length else s2).noteHop (wAddr m.args) (wHop m.args)).ackTo m 0)) ∧
    (∀ (p : Fin 18) (m : Msg) (s : State) (s1 : State),
        (m.kind = 0x03) →
        (m.dst = s.selfId) →
        (s.stewardUp 0 || s.stewardUp 1) →
        (m.vc = vcCtrl) →
        (s.acceptId p.val m.src m.id m.vc = (true, s1)) →
        exec (.writeAck p m) s = .next (s1.takeAck m.args)) ∧
    (∀ (p : Fin 18) (m : Msg) (s : State) (s1 : State),
        (m.kind = 0x04) →
        (m.dst = s.selfId) →
        (s.stewardUp 0 || s.stewardUp 1) →
        (m.vc = vcCtrl) →
        (s.acceptId p.val m.src m.id m.vc = (true, s1)) →
        exec (.claim p m) s = .next (s1.takeClaim m)) ∧
    (∀ (p : Fin 18) (m : Msg) (s : State) (s1 : State),
        (m.kind = 0x05) →
        (m.dst = s.selfId) →
        (s.stewardUp 0 || s.stewardUp 1) →
        (m.vc = vcCtrl) →
        (s.acceptId p.val m.src m.id m.vc = (true, s1)) →
        exec (.grant p m) s = .next (s1.takeGrant m)) ∧
    (∀ (p : Fin 18) (m : Msg) (s : State) (s1 : State),
        (m.kind = 0x06) →
        (m.dst = s.selfId) →
        (s.stewardUp 0 || s.stewardUp 1) →
        (m.vc = vcCtrl) →
        (s.acceptId p.val m.src m.id m.vc = (true, s1)) →
        exec (.refuse p m) s = .next (s1.takeRefuse m)) ∧
    (∀ (p : Fin 18) (m : Msg) (s : State) (s1 : State),
        (m.kind = 0x07) →
        (m.dst = s.selfId) →
        (s.stewardUp 0 || s.stewardUp 1) →
        (m.vc = vcCtrl) →
        (s.acceptId p.val m.src m.id m.vc = (true, s1)) →
        (aLoan m.args = false) →
        exec (.fill p m) s = .next (s1.takeToken (aSlotCore m.args) (aSlot m.args) (aBuf m.args) true (aSpec m.args) none)) ∧
    (∀ (p : Fin 18) (m : Msg) (s : State) (s1 : State),
        (m.kind = 0x08) →
        (m.dst = s.selfId) →
        (s.stewardUp 0 || s.stewardUp 1) →
        (m.vc = vcCtrl) →
        (s.acceptId p.val m.src m.id m.vc = (true, s1)) →
        (aLoan m.args = false) →
        exec (.release p m) s = .next (s1.takeToken (aSlotCore m.args) (aSlot m.args) (aBuf m.args) false (aSpec m.args) none)) ∧
    (∀ (p : Fin 18) (m : Msg) (s : State) (s1 : State),
        (m.kind = 0x08) →
        (m.dst = s.selfId) →
        (s.stewardUp 0 || s.stewardUp 1) →
        (m.vc = vcCtrl) →
        (s.acceptId p.val m.src m.id m.vc = (true, s1)) →
        (aLoan m.args) →
        exec (.release p m) s = .next (s1.loanRelease m.src (aBase m.args) (leNat m.data))) ∧
    (∀ (p : Fin 18) (m : Msg) (s : State) (s1 : State),
        (m.kind = 0x07) →
        (m.dst = s.selfId) →
        (s.stewardUp 0 || s.stewardUp 1) →
        (m.vc = vcCtrl) →
        (s.acceptId p.val m.src m.id m.vc = (true, s1)) →
        (aLoan m.args) →
        exec (.fill p m) s = .next (s1.loanRelease m.src (aBase m.args) (leNat m.data))) ∧
    (∀ (p : Fin 18) (m : Msg) (s : State) (s1 : State) (s2 : State),
        (m.kind = 0x09) →
        (m.dst = s.selfId) →
        (s.stewardUp 0 || s.stewardUp 1) →
        (m.vc = vcCtrl) →
        (s.acceptId p.val m.src m.id m.vc = (true, s1)) →
        (s1.acceptTerm (BitVec.ofNat 16 m.term) = (true, s2)) →
        exec (.specToken p m) s = .next (s2.spreadToken (m.args.truncate 64))) ∧
    (∀ (p : Fin 18) (m : Msg) (s : State) (s1 : State) (s2 : State),
        (m.kind = 0x09) →
        (m.dst = s.selfId) →
        (s.stewardUp 0 || s.stewardUp 1) →
        (m.vc = vcCtrl) →
        (s.acceptId p.val m.src m.id m.vc = (true, s1)) →
        (s1.acceptTerm (BitVec.ofNat 16 m.term) = (false, s2)) →
        exec (.specToken p m) s = .next (s2)) ∧
    (∀ (p : Fin 18) (m : Msg) (s : State) (s1 : State),
        (m.dst = s.selfId) →
        (s.stewardUp 0 || s.stewardUp 1) →
        ((kindVcs m.kind).contains m.vc) →
        (s.acceptId p.val m.src m.id m.vc = (false, s1)) →
        (m.kind = 0x01 → exec (.write p m) s = .next s1) ∧
        (m.kind = 0x02 → exec (.pannier p m) s = .next s1) ∧
        (m.kind = 0x03 → exec (.writeAck p m) s = .next s1) ∧
        (m.kind = 0x04 → exec (.claim p m) s = .next s1) ∧
        (m.kind = 0x05 → exec (.grant p m) s = .next s1) ∧
        (m.kind = 0x06 → exec (.refuse p m) s = .next s1) ∧
        (m.kind = 0x07 → exec (.fill p m) s = .next s1) ∧
        (m.kind = 0x08 → exec (.release p m) s = .next s1) ∧
        (m.kind = 0x09 → exec (.specToken p m) s = .next s1) ∧
        (m.kind = 0x16 → exec (.ring p m) s = .next s1)) ∧
    (∀ (p : Fin 18) (m : Msg) (s : State),
        (m.dst ≠ s.selfId ∨ (s.stewardUp 0 || s.stewardUp 1) = false) →
        exec (.write p m) s = .next s ∧
        exec (.pannier p m) s = .next s ∧
        exec (.writeAck p m) s = .next s ∧
        exec (.claim p m) s = .next s ∧
        exec (.grant p m) s = .next s ∧
        exec (.refuse p m) s = .next s ∧
        exec (.fill p m) s = .next s ∧
        exec (.release p m) s = .next s ∧
        exec (.specToken p m) s = .next s ∧
        exec (.ring p m) s = .next s)

/-- A message in passing, and the ring relay. R317 R318 R320 R325 R338
Where the spec leaves a layout, a value or an order open, this is the model's choice: log entries 16, 38, 68, 75. -/
def Obligations.ForwardingAndRings : Prop :=
    (∀ (p : Fin 18) (vc : Fin 4) (s : State) (m : Msg),
        ((s.port p).inMsgs.find? (fun m => m.vc = vc.val) = some m) →
        (s.stewardUp (portHalf p)) →
        (m.dst ≠ s.selfId) →
        ((kindVcs m.kind).contains m.vc) →
        (1 < m.ttl) →
        exec (.messageForward p vc) s = .next (
          let s1 := (s.modPort p fun x => { x with inMsgs := removeFirst (fun y => y = m) x.inMsgs }).freeMsg p vc m
          match s.outPort m with
          | none => s1.dropLost m
          | some q => (s1.passBridge (portHalf p) (portHalf q) m).enqueue q { m with ttl := m.ttl - 1, held := 0 } (some p))) ∧
    (∀ (p : Fin 18) (vc : Fin 4) (s : State) (m : Msg),
        ((s.port p).inMsgs.find? (fun m => m.vc = vc.val) = some m) →
        (s.stewardUp (portHalf p)) →
        (m.dst ≠ s.selfId) →
        ((kindVcs m.kind).contains m.vc) →
        (m.ttl ≤ 1) →
        exec (.messageForward p vc) s = .next ((((s.modPort p fun x => { x with inMsgs := removeFirst (fun y => y = m) x.inMsgs }).freeMsg p vc m).raise 0x080C (detail := BitVec.ofNat 32 m.dst)).dropLost m)) ∧
    (∀ (p : Fin 18) (vc : Fin 4) (s : State) (m : Msg) (s1 : State),
        ((s.port p).inMsgs.find? (fun m => m.vc = vc.val) = some m) →
        (s.stewardUp (portHalf p)) →
        (m.dst = s.selfId) →
        (s.deliver p m = (none, s1)) →
        exec (.messageForward p vc) s = .next (((s1.modPort p fun x => { x with inMsgs := removeFirst (fun y => y = m) x.inMsgs }).freeMsg p vc m).closeDue)) ∧
    (∀ (n : Nat) (s : State) (r : RingCfg) (b tag : Nat) (s0 : State),
        (s.ringCfg n = some r) →
        (s.cas.relayTag = some tag) →
        (s.coreRuns (s.slotOwner (fin8 r.core) r.slot).1) →
        (s.stewardUp (s.ringHalf r)) →
        (s.cas.relays.all fun x => x.ring ≠ n) →
        (s.relayTaken (s.slotOwner (fin8 r.core) r.slot).1 (s.slotOwner (fin8 r.core) r.slot).2 = false) →
        (s.ask (s.slotOwner (fin8 r.core) r.slot).1 { acq := true, slot := (s.slotOwner (fin8 r.core) r.slot).2, rq := .relay n } = (.granted b, s0)) →
        (r.hops ≤ ((s.slotSt (s.slotOwner (fin8 r.core) r.slot).1 (s.slotOwner (fin8 r.core) r.slot).2).bufs.get (fin4 b)).hop) →
        exec (.ringRelay n) s = .next ((s0.markRelayed (s.slotOwner (fin8 r.core) r.slot).1 (s.slotOwner (fin8 r.core) r.slot).2 b).relayRelease r b)) ∧
    (∀ (n : Nat) (s : State) (r : RingCfg) (b tag : Nat) (s0 : State),
        (s.ringCfg n = some r) →
        (s.cas.relayTag = some tag) →
        (s.coreRuns (s.slotOwner (fin8 r.core) r.slot).1) →
        (s.stewardUp (s.ringHalf r)) →
        (s.cas.relays.all fun x => x.ring ≠ n) →
        (s.relayTaken (s.slotOwner (fin8 r.core) r.slot).1 (s.slotOwner (fin8 r.core) r.slot).2 = false) →
        (s.ask (s.slotOwner (fin8 r.core) r.slot).1 { acq := true, slot := (s.slotOwner (fin8 r.core) r.slot).2, rq := .relay n } = (.granted b, s0)) →
        (((s.slotSt (s.slotOwner (fin8 r.core) r.slot).1 (s.slotOwner (fin8 r.core) r.slot).2).bufs.get (fin4 b)).hop < r.hops) →
        exec (.ringRelay n) s = .next (
          let o := s.slotOwner (fin8 r.core) r.slot
          let s1 := s0.markRelayed o.1 o.2 b
          let size := match s1.slotEnt o.1 o.2 with | some e => e.size | none => 0
          (s1.modCas fun c => { c with relays := c.relays ++ [{ ring := n, buf := b, hop := ((s.slotSt o.1 o.2).bufs.get (fin4 b)).hop, tag := tag }] }).sendMsg r.successor 0x04 vcCtrl (slotArgs r.slot r.core 0 tag (s.ringHalf r).val 1 0 0 + BitVec.ofNat 144 (size % 2 ^ 34 * 2 ^ 41)) []))

/-- What the cascade master sends and a module does on it. R183 R265 R275 R289 R299 R318 R319 R328 R329 R330 R335
Where the spec leaves a layout, a value or an order open, this is the model's choice: log entries 19, 62, 75, 76. -/
def Obligations.MasterMessages : Prop :=
    (∀ (h : MsgHead) (k : Nat) (n : Nat) (p : PkgPart) (s : State) (s1 : State) (s2 : State) (x : Pkg),
        (s.acceptId h.port h.src h.id vcCtrl 1 = (true, s1)) →
        (s1.acceptTerm h.term = (true, s2)) →
        (s2.cas.pkgFor h.term n p = some x) →
        ((x.addPart k p).complete = false) →
        exec (.package h k n p) s = .next (s2.modCas fun c => { c with pkg := some (x.addPart k p) })) ∧
    (∀ (h : MsgHead) (k : Nat) (n : Nat) (p : PkgPart) (s : State) (s1 : State) (s2 : State) (x : Pkg),
        (s.acceptId h.port h.src h.id vcCtrl 1 = (true, s1)) →
        (s1.acceptTerm h.term = (true, s2)) →
        (s2.cas.pkgFor h.term n p = some x) →
        ((x.addPart k p).complete) →
        exec (.package h k n p) s = .next (
          let y := x.addPart k p
          let s3 := forAllOf allCores (fun c s => s.modSeq c fun q => { q with nextMarker := y.tick }) (s2.modCas fun c => { c with pkg := some y })
          let s4 := if y.tick ≤ s2.tick then s3.raise 0x080A (detail := y.step) else s3
          if s2.red.step < y.step then s4.endSenders else s4)) ∧
    (∀ (h : MsgHead) (e : Nat) (l : List (Nat × Nat × Nat × Nat)) (s : State) (s1 : State) (s2 : State),
        (s.acceptId h.port h.src h.id vcCtrl = (true, s1)) →
        (s1.acceptTerm h.term = (true, s2)) →
        (s2.cas.epoch.toNat < e ∨ s2.cas.members = []) →
        exec (.membershipEpoch h e l) s = .next (s2.modCas fun c => { c with nextEpoch := some (e, l) })) ∧
    (∀ (h : MsgHead) (e : Nat) (l : List (Nat × Nat × Nat × Nat)) (s : State) (s1 : State) (s2 : State),
        (s.acceptId h.port h.src h.id vcCtrl = (true, s1)) →
        (s1.acceptTerm h.term = (true, s2)) →
        (e ≤ s2.cas.epoch.toNat) →
        (s2.cas.members ≠ []) →
        exec (.membershipEpoch h e l) s = .next (s2)) ∧
    (∀ (h : MsgHead) (m : Nat) (s : State) (s1 : State) (s2 : State),
        (s.acceptId h.port h.src h.id vcCtrl = (true, s1)) →
        (s1.acceptTerm h.term = (true, s2)) →
        (s2.isLost m = false) →
        exec (.lostDeclaration h m) s = .next (
          let s3 := ((((s2.modCas fun c => { c with lost := c.lost ++ [m] }).sharesLose m).loseLender m).endLoans m).endRemote m
          let s4 := (s3.cas.barMods.map (·.1)).eraseDups.foldl State.tryCascadeBarrier s3
          let s5 := if s4.cas.deputies.contains m then s4.setDeputies (s4.cas.deputies.filter (· ≠ m)) else s4
          let s6 := if s2.cas.deputyValid && s2.cas.deputy.toNat = m && s2.isMaster then s5.redecide else s5
          (s6.runEvent 4 s2.cas.markerStep.toNat m 0).checkDeputies)) ∧
    (∀ (h : MsgHead) (m : Nat) (s : State) (s1 : State) (s2 : State),
        (s.acceptId h.port h.src h.id vcCtrl = (true, s1)) →
        (s1.acceptTerm h.term = (true, s2)) →
        (s2.isLost m) →
        exec (.lostDeclaration h m) s = .next (s2)) ∧
    (∀ (h : MsgHead) (n : Nat) (s : State) (s1 : State) (s2 : State),
        (s.acceptId h.port h.src h.id vcCtrl = (true, s1)) →
        (s1.acceptTerm h.term = (true, s2)) →
        exec (.deadlineShift h n) s = .next (s2.modRed fun r => { r with shifts := r.shifts ++ [(s2.tick, n)] })) ∧
    (∀ (h : MsgHead) (s : State) (s1 : State) (s2 : State),
        (s.acceptId h.port h.src h.id vcCtrl 2 = (true, s1)) →
        (s1.acceptTerm h.term = (true, s2)) →
        (s2.takeoverDue = false) →
        exec (.heartbeat h) s = .next (s2.modCas fun c => { c with lastHeartbeat := s2.tick })) ∧
    (∀ (h : MsgHead) (s : State) (s1 : State) (s2 : State),
        (s.acceptId h.port h.src h.id vcCtrl 2 = (true, s1)) →
        (s1.acceptTerm h.term = (true, s2)) →
        s2.takeoverDue →
        exec (.heartbeat h) s = .next (s2.takeOver)) ∧
    (∀ (h : MsgHead) (s : State) (s1 : State) (s2 : State),
        (s.acceptId h.port h.src h.id vcCtrl 1 = (true, s1)) →
        (s1.acceptTerm h.term = (true, s2)) →
        exec (.takeover h) s = .next (
          let rest := (s2.cas.deputies.dropWhile (· ≠ h.src)).drop 1
          let s3 := (s2.modCas fun c => { c with role := if rest.contains s2.selfId then .deputy else .member, master := BitVec.ofNat 13 h.src, parent := h.port, lastHeartbeat := s2.tick }).setDeputies rest
          (s3.runEvent 5 s2.cas.markerStep.toNat h.src 0).checkDeputies)) ∧
    (∀ (h : MsgHead) (d : Decision) (s : State) (s1 : State) (s2 : State),
        (s.acceptId h.port h.src h.id vcCtrl = (true, s1)) →
        (s1.acceptTerm h.term = (true, s2)) →
        (s2.cas.role = .deputy) →
        exec (.log h false (some d)) s = .next (
          (s2.modCas fun c => { c with logged := c.logged ++ [d], mst := c.mst.learn d }).sendMsg h.src 0x12 vcCtrl (BitVec.ofNat 144 256) [] s2.cas.term.toNat)) ∧
    (∀ (h : MsgHead) (d : Option Decision) (s : State) (s1 : State),
        (s.acceptId h.port h.src h.id vcCtrl = (true, s1)) →
        (s1.isMaster) →
        exec (.log h true d) s = .next (s1.releaseDecision)) ∧
    (∀ (h : MsgHead) (n : Fin 256) (s : State) (s1 : State),
        (s.acceptId h.port h.src h.id vcCtrl = (true, s1)) →
        (s1.isMaster) →
        exec (.cascadeBarrier h n false) s = .next ((s1.modCas fun c => { c with barMods := c.barMods ++ [(n.val, h.src)] }).tryCascadeBarrier n.val)) ∧
    (∀ (h : MsgHead) (n : Fin 256) (s : State) (s1 : State) (s2 : State),
        (s.acceptId h.port h.src h.id vcCtrl = (true, s1)) →
        (s1.acceptTerm h.term = (true, s2)) →
        exec (.cascadeBarrier h n true) s = .next (s2.releaseBarrier (allCores.filter fun c => s2.coreLive c) 3 n.val)) ∧
    (∀ (h : MsgHead) (k : Nat) (n : Nat) (p : PkgPart) (e : Nat) (m : Nat) (l : List (Nat × Nat × Nat × Nat)) (s : State) (s1 : State) (s2 : State) (path : Nat),
        (s.acceptId h.port h.src h.id vcCtrl path = (true, s1)) →
        (s1.acceptTerm h.term = (false, s2)) →
        (path = 0 → exec (.membershipEpoch h e l) s = .next s2 ∧ exec (.lostDeclaration h m) s = .next s2 ∧ exec (.deadlineShift h n) s = .next s2) ∧
        (path = 1 → exec (.package h k n p) s = .next s2 ∧ exec (.takeover h) s = .next s2) ∧
        (path = 2 → exec (.heartbeat h) s = .next s2)) ∧
    (∀ (m : MsgHead) (n : BitVec 32) (channel : Nat) (share : Nat) (ranks : List Nat) (sh : Fin 256) (blocks : List (Nat × Option Int)) (flags : BitVec 3) (lanes : List Int) (rime : BitVec 16) (amax : List (Nat × Int)) (fails : List (Nat × Nat)) (s : State) (s1 : State),
        (s.cas.role = .deputy) →
        s.holdsReports →
        (s.acceptId m.port m.src m.id vcCtrl = (true, s1)) →
        (s1.isMaster = false) →
        (∃ t, exec (.nonfiniteRankReport m n channel share ranks) s = .next t ∧ (t.cas.mst.nfReps.any fun y => y.bucket = n.toNat && y.channel = channel && y.share = share)) ∧
        (∃ t, exec (.saturationReport m n sh blocks) s = .next t ∧ t.cas.mst.overReps.length = s1.cas.mst.overReps.length + blocks.length) ∧
        (n = s1.cas.mst.step → (s1.stepBegun = false ∨ s1.tick < s1.lastDeadline + 100000000) → ∃ t, exec (.doneReport m n flags lanes rime amax fails) s = .next t ∧ (t.cas.mst.dones.any fun d => d.module = m.src)) ∧
        (n = s1.cas.mst.step → ∃ t, exec (.settleReport m n 0) s = .next t ∧ t.cas.mst.settled.contains m.src) ∧
        (n = s1.cas.mst.step → ∃ t, exec (.settleRefusalReport m n) s = .next t ∧ t.cas.mst.held ∧ t.cas.mst.repair.contains m.src)) ∧
    (∀ (m : MsgHead) (s : State) (s1 : State),
        s.isMaster →
        (s.acceptId m.port m.src m.id vcCtrl = (true, s1)) →
        s1.isMaster →
        (∃ t, exec (.fenceReport m) s = .next t ∧ t = (if m.whole then (s1.decideAll 0x0E (memberArgs .shift 1000000) []).declareLost m.src else s1.decideAll 0x0E (memberArgs .shift 1000000) [])) ∧
        (∃ t, exec (.moraineReport m) s = .next t ∧ t = (s1.discardEpoch.modMst fun m => { m with decided := true }).stopRun m.src 0x0610) ∧
        (∃ t, exec (.timeUnlockedReport m) s = .next t ∧ t = s1.declareLost m.src)) ∧
    (∀ (n : BitVec 13) (l : List (BitVec 64)) (s : State),
        s.isMaster →
        ((s.repairSources n.toNat).all fun x => x.1 ≠ s.selfId) →
        n.toNat ≠ s.selfId →
        s.cas.mst.repair.contains n.toNat →
        (s.cas.mst.placed) →
        ((s.cas.mst.decided || s.cas.mst.evalHold || s.cas.mst.stopped) = false) →
        (s.allDone → ∃ t, exec (.normDecision) s = .next t ∧ t = s.decideStep false) ∧
        (s.allDone = false → s.stepBegun → s.lastDeadline + 100000000 ≤ s.tick → ∃ t, exec (.doneReportTimeout) s = .next t ∧ t = s.decideStep true) ∧
        (∃ t, exec (.repairCompare n l l) s = .next t ∧ t = (s.modMst fun x => { x with held := x.held && (x.repair.filter fun y => y ≠ n.toNat) ≠ [], repair := x.repair.filter fun y => y ≠ n.toNat }).noteSettled n.toNat))

/-- Heartbeats, takeover, the timebase and PTP. R329 R330 R331 R332 R333 R334
Where the spec leaves a layout, a value or an order open, this is the model's choice: log entries 8, 19, 75. -/
def Obligations.CascadeTimers : Prop :=
    (∀ (s : State),
        (s.cas.role = .deputy) →
        (s.ownerUp .cascade) →
        (s.cas.lastHeartbeat + 100000 + 200000 * s.cas.deputyRank ≤ s.tick) →
        exec (.heartbeatTimeout) s = .next (s.takeOver)) ∧
    (∀ (s : State),
        (s.cas.role ≠ .deputy ∨ s.tick < s.cas.lastHeartbeat + 100000 + 200000 * s.cas.deputyRank) →
        exec (.heartbeatTimeout) s = .next (s)) ∧
    (∀ (s : State),
        (s.isMaster) →
        (s.ownerUp .cascade) →
        (s.hasDeputy) →
        exec (.heartbeatInterval) s = .next ((s.cas.deputies.filter (· ≠ s.selfId)).foldl State.sendHeartbeat s)) ∧
    (∀ (s : State),
        (s.isMaster) →
        (s.ownerUp .cascade) →
        (s.hasDeputy = false) →
        exec (.heartbeatInterval) s = .next (s.checkDeputies)) ∧
    (∀ (p : Fin 18) (a : Nat) (b : Nat) (s : State) (s0 : State),
        (s.isParent p) →
        ((s.port p).st = .up) →
        (s.ownerUp .cascade) →
        (s.endHoldover = s0) →
        (s0.cas.joined = false ∧ s0.cas.stepped = false) →
        exec (.timeSync p a b) s = .next (
          let off : Int := (b : Int) - a - (s.port p).delayPs.toNat
          let s1 := (s0.modPort p fun x => { x with syncT := some b }).modCas fun c => { c with syncTx := some (a, b) }
          let t := max s0.tick ((s0.tick : Int) - off / 1000).toNat
          { s1 with tick := t }.modCas fun c => { c with stepped := true, locked := true, holdover := false, offsetPs := 0, lockTick := t, slewAcc := 0 })) ∧
    (∀ (p : Fin 18) (a : Nat) (b : Nat) (s : State) (s0 : State),
        (s.isParent p) →
        ((s.port p).st = .up) →
        (s.ownerUp .cascade) →
        (s.endHoldover = s0) →
        (s0.cas.joined ∨ s0.cas.stepped) →
        exec (.timeSync p a b) s = .next (
          let off : Int := (b : Int) - a - (s.port p).delayPs.toNat
          let s1 := (s0.modPort p fun x => { x with syncT := some b }).modCas fun c => { c with syncTx := some (a, b) }
          s1.draw.modCas fun c => { c with rateppm := (Config.freeNat s0.freeCtr % 401 : Nat) - 200, offsetPs := BitVec.ofInt 32 off, lockTick := if decide (off.natAbs ≤ 600) && !c.locked then s0.tick else c.lockTick, locked := decide (off.natAbs ≤ 600), holdover := c.holdover && !decide (off.natAbs ≤ 600) })) ∧
    (∀ (p : Fin 18) (a : Nat) (b : Nat) (d : Nat) (e : Nat) (s : State),
        (s.cas.syncTx = some (d, e)) →
        (s.isParent p) →
        ((s.port p).st = .up) →
        (s.ownerUp .cascade) →
        exec (.timeDelay p a b) s = .next (s.modPort p fun x => { x with delayPs := BitVec.ofInt 32 ((((e : Int) - d) + ((b : Int) - a)) / 2) })) ∧
    (∀ (s : State),
        (s.ownerUp .cascade) →
        exec (.timeSyncInterval) s = .next (
          forAllOf (allPorts.filter fun p => (s.port p).st = .up) (fun p s =>
            match s.portCfg p with
            | some e => if prfTree e = 0 then s else s.sendOn p (prfPeer e) (if s.isParent p then 0x15 else 0x14) vcTime 0 (natLe 8 s.tick)
            | none => s) s)) ∧
    (∀ (s : State),
        (s.cas.holdover) →
        (s.cas.holdTick + 10000000 ≤ s.tick) →
        exec (.timeHoldoverExpire) s = .next (((s.modCas fun c => { c with holdover := false, locked := false }).raise 0x0807).report .timeUnlocked)) ∧
    (∀ (s : State),
        (s.cas.holdover = false ∨ s.tick < s.cas.holdTick + 10000000) →
        exec (.timeHoldoverExpire) s = .next (s)) ∧
    (∀ (e : Fin 2) (d : BitVec 7) (l2 : Bool) (t : BitVec 64) (s : State),
        (s.isMaster) →
        (s.ownerUp .cascade) →
        ((s.eth e).takesPtp d l2) →
        (s.cas.mst.placed = false) →
        exec (.ptpMessage e d l2 t) s = .next (
          let s1 := s.ethSend e framePtp [d.toNat, b2n l2] [] 64
          { s1 with tick := max s.tick t.toNat }.modCas fun c => { c with ptpTick := some (max s.tick t.toNat), ptpLost := false })) ∧
    (∀ (e : Fin 2) (d : BitVec 7) (l2 : Bool) (t : BitVec 64) (s : State),
        (s.isMaster) →
        (s.ownerUp .cascade) →
        ((s.eth e).takesPtp d l2) →
        (s.cas.mst.placed) →
        exec (.ptpMessage e d l2 t) s = .next ((s.ethSend e framePtp [d.toNat, b2n l2] [] 64).draw.modCas fun c => { c with ptpTick := some s.tick, ptpLost := false, rateppm := (Config.freeNat s.freeCtr % 201 : Nat) - 100 })) ∧
    (∀ (s : State),
        (s.isMaster) →
        (s.cas.ptpLost = false) →
        ((s.eth 0).ptpEn || (s.eth 1).ptpEn) →
        (s.ptpGone) →
        exec (.ptpLoss) s = .next ((s.modCas fun c => { c with ptpLost := true }).raise 0x080B))

/-- Frames, address answers and the link of an Ethernet port. R339 R340 R343 R348 R471
Where the spec leaves a layout, a value or an order open, this is the model's choice: log entries 24, 77. -/
def Obligations.EthernetFrames : Prop :=
    (∀ (e : Fin 2) (k : FrameKind) (n : Nat) (t : Nat) (sym : Nat) (ok : Bool) (s : State),
        (s.ethUp e) →
        (ok) →
        (64 ≤ n ∧ n ≤ 9216) →
        (t ≤ 1) →
        (k.accepted) →
        (∀ m l, k ≠ .pfc m l) →
        exec (.ethFrame e k n t ok sym) s = .next (s.modEth e fun x => { x with rxBytes := satAdd 64 x.rxBytes n, fecErr := satAdd 32 x.fecErr sym })) ∧
    (∀ (e : Fin 2) (m : BitVec 8) (l : List (BitVec 16)) (n : Nat) (t : Nat) (sym : Nat) (s : State),
        (s.ethUp e) →
        (64 ≤ n ∧ n ≤ 9216) →
        (t ≤ 1) →
        exec (.ethFrame e (.pfc m l) n t true sym) s = .next (((s.modEth e fun x => { x with rxBytes := satAdd 64 x.rxBytes n, fecErr := satAdd 32 x.fecErr sym }).modEth e fun x => x.takePause s.tick m l).resumeQps e)) ∧
    (∀ (e : Fin 2) (k : FrameKind) (n : Nat) (t : Nat) (sym : Nat) (ok : Bool) (s : State),
        (s.ethUp e) →
        (ok = false ∨ n < 64 ∨ 9216 < n ∨ 1 < t ∨ k.accepted = false) →
        exec (.ethFrame e k n t ok sym) s = .next ((s.modEth e fun x => { x with rxBytes := satAdd 64 x.rxBytes n, fecErr := satAdd 32 x.fecErr sym }).modEth e fun x => { x with rxDropped := satAdd 32 x.rxDropped 1 })) ∧
    (∀ (e : Fin 2) (v6 : Bool) (a : BitVec 128) (s : State),
        (s.ethUp e) →
        (s.oz.up) →
        ((s.eth e).hasAddress v6 a) →
        exec (.arpRequest e v6 a) s = .next (s.ethSend e 2 [b2n v6, a.toNat, (s.eth e).macLive.toNat] [] (if v6 then 90 else 64))) ∧
    (∀ (e : Fin 2) (v6 : Bool) (a : BitVec 128) (s : State),
        ((s.eth e).hasAddress v6 a = false) →
        exec (.arpRequest e v6 a) s = .next (s)) ∧
    (∀ (e : Fin 2) (s : State),
        ((s.eth e).link) →
        exec (.ethLinkDown e) s = .next ((s.modEth e fun x => { x with link := false, paused := 0, pauseEnd := [], pausing := 0, txHeld := [] }).raise 0x0810 (site := e.val))) ∧
    (∀ (e : Fin 2) (p : Fin 3) (s : State),
        ((s.eth e).link = false) →
        (s.stewardUp e) →
        (bit s.glb.fencedEths e.val = false) →
        (s.deepSleep = false) →
        exec (.ethLinkUp e p) s = .next (s.modEth e fun x => { x with link := true, phy := BitVec.ofNat 2 p.val, macLive := x.mac }))

/-- Queue pairs: doorbells, state changes, packets and timers. R341 R342 R344 R434 R463
Where the spec leaves a layout, a value or an order open, this is the model's choice: log entries 13, 23, 35, 69, 77. -/
def Obligations.RoceQueuePairs : Prop :=
    (∀ (e : Fin 2) (q : Fin 4096) (v : BitVec 64) (s : State),
        (s.takesDoorbell (.half e)) →
        (((v.truncate 16 : BitVec 16) - (s.qp e q.val).sqHead).toNat ≤ 2 ^ (s.qp e q.val).sqLog2) →
        exec (.sqTail e q v) s = .next ((s.modQp e q.val fun x => { x with sqTail := v.truncate 16 }).pumpQp e q.val)) ∧
    (∀ (e : Fin 2) (q : Fin 4096) (v : BitVec 64) (s : State),
        (s.takesDoorbell (.half e)) →
        (2 ^ (s.qp e q.val).sqLog2 < ((v.truncate 16 : BitVec 16) - (s.qp e q.val).sqHead).toNat) →
        exec (.sqTail e q v) s = .next (s.qpError e q.val)) ∧
    (∀ (e : Fin 2) (q : Fin 4096) (v : BitVec 64) (s : State),
        (s.takesDoorbell (.half e)) →
        (((v.truncate 16 : BitVec 16) - (s.qp e q.val).rqHead).toNat ≤ 2 ^ (s.qp e q.val).rqLog2) →
        exec (.rqTail e q v) s = .next (s.modQp e q.val fun x => { x with rqTail := v.truncate 16 })) ∧
    (∀ (e : Fin 2) (q : Fin 4096) (v : BitVec 64) (s : State),
        (s.takesDoorbell (.half e)) →
        (2 ^ (s.qp e q.val).rqLog2 < ((v.truncate 16 : BitVec 16) - (s.qp e q.val).rqHead).toNat) →
        exec (.rqTail e q v) s = .next (s.qpError e q.val)) ∧
    (∀ (e : Fin 2) (q : Fin 4096) (v : BitVec 64) (s : State),
        (s.takesDoorbell (.half e)) →
        exec (.cqHead e q v) s = .next (
          let s1 := s.modQp e q.val fun x => { x with cqHead := v.truncate 16 }
          ((s1.drainCqes e q.val (s1.qp e q.val).blocked.length).freePeer e q.val).pumpQp e q.val)) ∧
    (∀ (e : Fin 2) (q : Fin 4096) (v : BitVec 64) (s : State) (n : Nat) (s1 : State),
        (s.takesDoorbell (.half e)) →
        (s.readWqe ((s.eth e).qpBase.toNat + 128 * q.val) 128 = (n, s1)) →
        (fld v 2 0 = 0 → exec (.modify e q v) s = .next ((s1.modQp e q.val fun _ => { ctx := BitVec.ofNat 1024 n }).qpState e q.val .reset)) ∧
        (fld v 2 0 = 1 → (s.qp e q.val).st = .reset → exec (.modify e q v) s = .next ((s1.modQp e q.val fun x => { x with ctx := BitVec.ofNat 1024 n }).qpState e q.val .init)) ∧
        (fld v 2 0 = 2 → (s.qp e q.val).st = .init → exec (.modify e q v) s = .next ((s1.modQp e q.val fun x => { x with ctx := BitVec.ofNat 1024 n, rqPsn := BitVec.ofNat 24 (({ x with ctx := BitVec.ofNat 1024 n } : QpRun).ctxAt 0x10 4) }).qpState e q.val .rtr)) ∧
        (fld v 2 0 = 3 → (s.qp e q.val).st = .rtr → exec (.modify e q v) s = .next (((s1.modQp e q.val fun x => { x with ctx := BitVec.ofNat 1024 n, sqPsn := BitVec.ofNat 24 (({ x with ctx := BitVec.ofNat 1024 n } : QpRun).ctxAt 0x0C 4), ackPsn := BitVec.ofNat 24 (({ x with ctx := BitVec.ofNat 1024 n } : QpRun).ctxAt 0x0C 4) }).qpState e q.val .rts).pumpQp e q.val)) ∧
        (((fld v 2 0 = 1 ∧ (s.qp e q.val).st ≠ .reset) ∨ (fld v 2 0 = 2 ∧ (s.qp e q.val).st ≠ .init) ∨ (fld v 2 0 = 3 ∧ (s.qp e q.val).st ≠ .rtr)) → exec (.modify e q v) s = .next s) ∧
        (fld v 2 0 = 4 → exec (.modify e q v) s = .next ((s1.modQp e q.val fun x => { x with ctx := BitVec.ofNat 1024 n }).toError e q.val)) ∧
        (4 < fld v 2 0 → exec (.modify e q v) s = .next s)) ∧
    (∀ (e : Fin 2) (q : Fin 4096) (p : RocePkt) (s : State),
        (s.ethUp e) →
        (p.icrcOk) →
        ((s.qp e q.val).st = .rtr ∨ (s.qp e q.val).st = .rts) →
        (p.op = 0x81) →
        exec (.rocePacket e q p) s = .next ((s.modQp e q.val fun x => { x with rateMbps := max (x.rateMbps / 2) 1000, lastCnpRx := some s.tick }).modEth e fun x => { x with cnpRecv := satAdd 16 x.cnpRecv 1 })) ∧
    (∀ (e : Fin 2) (q : Fin 4096) (p : RocePkt) (s : State),
        (s.ethUp e) →
        (p.icrcOk) →
        ((s.qp e q.val).st = .rtr ∨ (s.qp e q.val).st = .rts) →
        (p.op.toNat ≤ 0x0C) →
        (p.options = false) →
        (p.payload.length ≤ (s.qp e q.val).pmtu) →
        ((s.qp e q.val).cqFull = false) →
        ((s.qp e q.val).blocked = []) →
        exec (.rocePacket e q p) s = .next ((s.noteCe e q.val p.ce).recvRequest e q.val p)) ∧
    (∀ (e : Fin 2) (q : Fin 4096) (p : RocePkt) (s : State) (s1 : State),
        (s.ethUp e) →
        (p.icrcOk) →
        ((s.qp e q.val).st = .rts) →
        (p.op = 0x11) →
        (p.options = false) →
        (p.payload.length ≤ (s.qp e q.val).pmtu) →
        ((s.qp e q.val).cqFull = false) →
        ((s.qp e q.val).blocked = []) →
        ((s.noteCe e q.val p.ce).expireAck e q.val = s1) →
        ((s1.qp e q.val).st = .rts) →
        exec (.rocePacket e q p) s = .next (s1.recvAck e q.val p)) ∧
    (∀ (e : Fin 2) (q : Fin 4096) (p : RocePkt) (s : State) (s1 : State),
        (s.ethUp e) →
        (p.icrcOk) →
        ((s.qp e q.val).st = .rts) →
        (0x0D ≤ p.op.toNat ∧ p.op.toNat ≤ 0x10) →
        (p.options = false) →
        (p.payload.length ≤ (s.qp e q.val).pmtu) →
        ((s.qp e q.val).cqFull = false) →
        ((s.qp e q.val).blocked = []) →
        ((s.noteCe e q.val p.ce).expireAck e q.val = s1) →
        ((s1.qp e q.val).st = .rts) →
        exec (.rocePacket e q p) s = .next (s1.recvResponse e q.val p)) ∧
    (∀ (e : Fin 2) (q : Fin 4096) (p : RocePkt) (s : State) (s1 : State),
        (s.ethUp e) →
        (p.icrcOk) →
        ((s.qp e q.val).st = .rts) →
        (0x0D ≤ p.op.toNat ∧ p.op.toNat ≤ 0x11) →
        (p.options = false) →
        (p.payload.length ≤ (s.qp e q.val).pmtu) →
        ((s.qp e q.val).cqFull = false) →
        ((s.qp e q.val).blocked = []) →
        ((s.noteCe e q.val p.ce).expireAck e q.val = s1) →
        ((s1.qp e q.val).st ≠ .rts) →
        exec (.rocePacket e q p) s = .next s1) ∧
    (∀ (e : Fin 2) (q : Fin 4096) (p : RocePkt) (s : State),
        (s.ethUp e) →
        (p.icrcOk) →
        ((s.qp e q.val).st = .rtr ∨ (s.qp e q.val).st = .rts) →
        (p.op ≠ 0x81) →
        (p.options ∨ 0x11 < p.op.toNat ∨ (s.qp e q.val).pmtu < p.payload.length) →
        exec (.rocePacket e q p) s = .next ((if 0x0D ≤ p.op.toNat ∧ p.op.toNat ≤ 0x11 then s.noteCe e q.val p.ce else (s.noteCe e q.val p.ce).answer e q.val p.psn nakInvalid).qpError e q.val)) ∧
    (∀ (e : Fin 2) (q : Fin 4096) (p : RocePkt) (s : State),
        (p.icrcOk = false) →
        exec (.rocePacket e q p) s = .next (s)) ∧
    (∀ (e : Fin 2) (q : Fin 4096) (s : State),
        (s.stewardUp e) →
        ((s.qp e q.val).st = .rts) →
        ((s.qp e q.val).unacked ≠ []) →
        ((s.qp e q.val).sentTick + (s.qp e q.val).timeoutNs ≤ s.tick) →
        ((s.qp e q.val).cqFull = false) →
        ((s.qp e q.val).blocked = []) →
        exec (.roceAckTimeout e q) s = .next (s.retryQp e q.val)) ∧
    (∀ (e : Fin 2) (q : Fin 4096) (s : State),
        ((s.qp e q.val).cqFull ∨ (s.qp e q.val).blocked ≠ [] ∨ s.tick < (s.qp e q.val).sentTick + (s.qp e q.val).timeoutNs) →
        exec (.roceAckTimeout e q) s = .next s) ∧
    (∀ (e : Fin 2) (q : Fin 4096) (s : State) (t : Nat),
        ((s.qp e q.val).lastCnpRx = some t) →
        (t + 55000 ≤ s.tick) →
        (s.stewardUp e) →
        exec (.roceRateIncrease e q) s = .next (
          let r := min ((s.qp e q.val).rateMbps + 8000) 800000
          s.modQp e q.val fun x => { x with rateMbps := r, lastCnpRx := if r = 800000 then none else some s.tick }))

/-- Loading, verifying and staging structure images. R351 R354 R355 R357 R358 R359 R369 R406
Where the spec leaves a layout, a value or an order open, this is the model's choice: log entries 17, 18, 19, 34, 70, 73. -/
def Obligations.ImageStore : Prop :=
    (∀ (n : Fin 16) (s : State) (bs : List (BitVec 8)) (s1 : State),
        (s.takesWrite .oz) →
        (s.loadable n.val) →
        (s.stackRead s.img.loadSrc.toNat (min s.img.loadLen.toNat placeBytes) = (.ok bs, s1)) →
        exec (.imgLoadLocal n) s = .next (s1.placeLoaded n.val bs false)) ∧
    (∀ (n : Fin 16) (s : State) (e : BitVec 16) (s1 : State),
        (s.takesWrite .oz) →
        (s.loadable n.val) →
        (s.stackRead s.img.loadSrc.toNat (min s.img.loadLen.toNat placeBytes) = (.error e, s1)) →
        exec (.imgLoadLocal n) s = .next (s1.markRejected n.val e 0 0)) ∧
    (∀ (n : Fin 16) (s : State),
        (s.takesWrite .oz) →
        (s.loadable n.val = false) →
        exec (.imgLoadLocal n) s = .next (s.raise 0x0907 (detail := BitVec.ofNat 32 n.val))) ∧
    (∀ (n : Fin 16) (peer : BitVec 13) (m : Fin 16) (bs : List (BitVec 8)) (s : State),
        (s.takesWrite .oz) →
        (s.loadable n.val) →
        exec (.imgLoadPeer n peer m (some bs)) s = .next ((s.sendMsg peer.toNat loaderKind vcBulk (BitVec.ofNat 144 m.val) []).placeLoaded n.val (bs.take placeBytes) true)) ∧
    (∀ (n : Fin 16) (peer : BitVec 13) (m : Fin 16) (s : State),
        (s.takesWrite .oz) →
        (s.loadable n.val) →
        exec (.imgLoadPeer n peer m none) s = .next ((s.sendMsg peer.toNat loaderKind vcBulk (BitVec.ofNat 144 m.val) []).rejectPlace n.val 0x0901 0 0)) ∧
    (∀ (src : BitVec 13) (n : Fin 16) (s : State),
        (s.oz.up) →
        ((s.imgPlace n.val).st ≠ .verified) →
        exec (.peerLoadRequest src n) s = .next (s.sendMsg src.toNat loaderKind vcBulk (BitVec.ofNat 144 (n.val + 2 ^ 5)) [])) ∧
    (∀ (src : BitVec 13) (n : Fin 16) (s : State) (s1 : State),
        (s.oz.up) →
        ((s.imgPlace n.val).st = .verified) →
        (s.checkImage n.val = (none, s1)) →
        exec (.peerLoadRequest src n) s = .next (
          (cutMessages 0 ((List.range (rdNum (s1.storeByte n.val) 0x1C 4)).map (s1.storeByte n.val))).foldl (fun s m => s.sendMsg src.toNat loaderKind vcBulk (BitVec.ofNat 144 (n.val + 2 ^ 4 + m.1 * 2 ^ 8)) m.2) s1)) ∧
    (∀ (src : BitVec 13) (n : Fin 16) (s : State) (e : BitVec 16) (s1 : State),
        (s.oz.up) →
        ((s.imgPlace n.val).st = .verified) →
        (s.checkImage n.val = (some e, s1)) →
        exec (.peerLoadRequest src n) s = .next (s1.sendMsg src.toNat loaderKind vcBulk (BitVec.ofNat 144 (n.val + 2 ^ 5)) [])) ∧
    (∀ (n : Fin 16) (s : State) (e : Option (BitVec 16)) (s0 : State),
        (s.oz.up) →
        ((s.imgPlace n.val).st = .verifying) →
        (s.checkImage n.val = (e, s0)) →
        exec (.imageVerify n) s = .next (
          let x := s.imgPlace n.val
          let rd := s0.storeByte n.val
          let s1 := s0.modImgPlace n.val fun y => { y with imageId := BitVec.ofNat 64 (rdNum rd 8 8), eval := rdNum rd 0x18 1 = 1, omit_ := rd 0x19 }
          match e, verifyImage rd { maxLen := if x.fromPeer then none else some x.loadLen, fx8 := !s.fuses.isFx7, taken := s.takenIds n.val, keys := fun k => tabGet none s.flash.imageKeys k, floor := fun k => tabGet 0 s.flash.imageFloors k, firmware := s.oz.fwVersion } with
          | some c, _ => s1.markRejected n.val c 0 0
          | none, .error r => s1.rejectPlace n.val r.code r.sect r.offset
          | none, .ok g =>
            match (s.img.active.bind fun a => if a.2.familyId = g.familyId then familyDiffers a.2 g else none) with
            | some d => s1.rejectPlace n.val 0x0906 d.1 d.2
            | none => (s1.modImgPlace n.val fun y => { y with st := .verified, code := 0, sect := 0, offset := 0, cfg := some g }).msix 2)) ∧
    (∀ (n : Fin 16) (s : State),
        (s.takesWrite .oz) →
        (s.img.staging = none) →
        (s.img.swap.phase = .idle) →
        (s.stageable n.val) →
        exec (.imgStage n) s = .next (s.dropShadow.modImg fun i => { i with staging := some (n.val, s.tick) })) ∧
    (∀ (n : Fin 16) (s : State),
        (s.takesWrite .oz) →
        (s.stageable n.val = false) →
        exec (.imgStage n) s = .next (s.raise 0x0907 (detail := BitVec.ofNat 32 n.val))) ∧
    (∀ (v : BitVec 13) (s : State),
        (s.takesWrite .oz) →
        ((List.range 16).all fun p => (s.imgPlace p).st = .empty) →
        exec (.imgModuleId v) s = .next (s.modImg fun i => { i with moduleId := v })) ∧
    (∀ (v : BitVec 13) (n : Fin 16) (s : State),
        (s.takesWrite .oz) →
        ((s.imgPlace n.val).st ≠ .empty) →
        exec (.imgModuleId v) s = .next (s))

/-- Arming, starting and completing a swap of the active and shadow images. R59 R128 R357 R360 R361 R362 R363 R364 R366 R410 R411 R416
Where the spec leaves a layout, a value or an order open, this is the model's choice: log entries 42, 44, 45, 46, 70, 78, 80. -/
def Obligations.ImageSwap : Prop :=
    (∀ (s : State),
        (s.takesWrite .oz) →
        (s.img.shadow.isSome) →
        (s.img.swap.phase = .idle) →
        exec (.imgSwapArmStep) s = .next (s.modImg fun i => { i with swap := { mode := 0, phase := .armed, tick := s.tick, limit := i.drainLimit.toNat } })) ∧
    (∀ (s : State),
        (s.takesWrite .oz) →
        (s.img.shadow.isSome) →
        (s.img.swap.phase = .idle) →
        exec (.imgSwapArmImmediate) s = .next (s.modImg fun i => { i with stopAdmit := true, swap := { mode := 1, phase := .draining, tick := s.tick, limit := i.drainLimit.toNat } })) ∧
    (∀ (s : State),
        (s.takesWrite .oz) →
        (s.img.shadow = none ∨ s.img.swap.phase ≠ .idle) →
        exec .imgSwapArmStep s = .next s ∧ exec .imgSwapArmImmediate s = .next s) ∧
    (∀ (s : State),
        (s.takesWrite .oz) →
        (s.img.swap.mode ≠ 2) →
        (s.img.swap.phase = .armed ∨ s.img.swap.phase = .draining) →
        exec (.imgSwapCancel) s = .next (s.modImg fun i => { i with swap := {}, stopAdmit := false })) ∧
    (∀ (s : State),
        (s.takesWrite .oz) →
        (s.img.swap.mode = 2 ∨ s.img.swap.phase = .idle ∨ s.img.swap.phase = .preparing ∨ s.img.swap.phase = .switching) →
        exec (.imgSwapCancel) s = .next (s)) ∧
    (∀ (s : State) (p : Nat) (g : ImgCfg),
        (s.img.shadow = some (p, g)) →
        (s.img.swap.phase = .draining) →
        (s.tick < s.img.swap.tick + 1000 * s.img.swap.limit) →
        (s.quiescent g) →
        exec (.swapStart) s = .next (s.modImg fun i => { i with swap := { i.swap with phase := .preparing, tick := s.tick } })) ∧
    (∀ (s : State) (p : Nat) (g : ImgCfg),
        (s.img.shadow = some (p, g)) →
        (s.quiescent g = false) →
        exec (.swapStart) s = .next (s)) ∧
    (∀ (s : State),
        (s.img.swap.phase = .draining) →
        (s.img.swap.tick + 1000 * s.img.swap.limit ≤ s.tick) →
        exec (.swapDrainLimit) s = .next (s.abortSwap 0x0908)) ∧
    (∀ (s : State) (p : Nat) (g : ImgCfg),
        (s.img.shadow = some (p, g)) →
        (s.img.swap.phase = .preparing) →
        (s.tick ≤ s.img.swap.tick + 22000) →
        exec (.swapCommit) s = .next (
          let s1 := match s.img.active with
            | some a => s.modImgPlace a.1 fun x => if x.st = PlaceSt.active then { x with st := .staged } else x
            | none => s
          let s2 := (s1.modImgPlace p fun x => { x with st := .active }).modImg fun i => { i with active := some (p, g), shadow := s.img.active, swap := { i.swap with phase := .switching } }
          forAllOf allCores (fun c s => if s.coreFenced c then s else s.modArr c fun a => { a with parts := a.parts.map Part.emptied, tileBuf := a.tileBuf.map fun l => (l.filter fun t => t.loading).map fun t => { t with dropped := true }, flights := [] }) s2)) ∧
    (∀ (s : State),
        (s.img.swap.phase = .preparing) →
        (s.img.swap.tick + 20000 ≤ s.tick) →
        (s.img.swap.mode ≠ 2) →
        exec (.swapReadyTimeout) s = .next (s.abortSwap 0x0908)) ∧
    (∀ (s : State),
        (s.img.swap.phase = .preparing) →
        (s.img.swap.tick + 20000 ≤ s.tick) →
        (s.img.swap.mode = 2) →
        exec (.swapReadyTimeout) s = .next (
          let s1 := s.abortSwap 0x0908
          ((match s.img.active with | some a => s1.restartAll a.2 | none => s1).modGlb fun g => { g with fencePath := none }).nextFence)) ∧
    (∀ (s : State) (p : Nat) (g : ImgCfg),
        (s.img.active = some (p, g)) →
        (s.img.swap.phase = .switching) →
        (s.img.shadow = none) →
        (s.glb.fencePath = none) →
        exec (.swapComplete) s = .next (
          let s1 := forAllOf (allCores.filter fun c => !s.coreFenced c) (fun c s' => s'.switchCore c none g false (s.img.swap.mode = 0 && s'.cas.markerSeen)) (if s.img.swap.mode = 0 then (s.switchCensus g).runDueLead else s.switchCensus g)
          let s2 := (((s1.switchRoles g).switchLinks).switchPorts none).switchLoans none g
          let s3 := forAllOf allHalves (fun h s => s.modHalf h fun y => { y with retSets := Vector.replicate 2 [] }) (s2.modRed fun r => { r with finished := [], lateShares := [], senders := [], shifts := [], orders := [], notes := [], fallback := [], anchorReset := [] })
          let s4 := ((forAllOf allHalves (fun h s => s.modHalf h fun y => { y with morHigh := 0 }) s3).noteMorHigh).modImg fun i => { i with swap := {}, stopAdmit := false, moraineStop := false, variantMissing := false, redirects := [], swapCount := satAdd 32 i.swapCount 1, lastSwap := lastSwapWord s.img.swap.mode false ((s.tick - s.img.swap.tick) / 1000) 0 }
          let s5 := (if s4.omitsFenced g || s4.glb.fencePending ≠ [] then s4 else s4.missVariant).compareFamily g
          (s5.deliverHeld.msix 2).nextFence)) ∧
    (∀ (s : State) (p : Nat) (g : ImgCfg),
        (s.img.active = some (p, g)) →
        (s.img.swap.phase = .switching) →
        exec (.swapComplete) s = .next (
          let w := s.img.swap
          let old := s.img.shadow.map (·.2)
          let family := old.any fun x => x.familyId = g.familyId
          let link := old.any fun x => x.secCrcs[6]? = g.secCrcs[6]?
          let path := if w.mode = 2 then s.glb.fencePath else none
          let s1 := forAllOf (allCores.filter fun c => !s.coreFenced c) (fun c s' => s'.switchCore c old g family (w.mode = 0 && s'.cas.markerSeen)) (if w.mode = 0 then (s.switchCensus g).runDueLead else s.switchCensus g)
          let s2 := ((if link then s1 else (s1.switchRoles g).switchLinks).switchPorts old).switchLoans old g
          let s3 := if family then s2 else forAllOf allHalves (fun h s => s.modHalf h fun y => { y with retSets := Vector.replicate 2 [] }) (s2.modRed fun r => { r with finished := [], lateShares := [], senders := [], shifts := [], orders := [], notes := [], fallback := [], anchorReset := [] })
          let s4 := ((forAllOf allHalves (fun h s => s.modHalf h fun y => { y with morHigh := 0 }) s3).noteMorHigh).modImg fun i => { i with swap := {}, stopAdmit := false, moraineStop := false, variantMissing := false, redirects := if family then i.redirects else [], swapCount := satAdd 32 i.swapCount 1, lastSwap := lastSwapWord w.mode false ((s.tick - w.tick) / 1000) ((path.map fun f => f.cause).getD 0) }
          let s5 := match path with | some f => s4.fenceSwapped f old g | none => s4
          let s6 := (if s5.omitsFenced g || s5.glb.fencePending ≠ [] then s5 else s5.missVariant).compareFamily g
          (s6.deliverHeld.msix 2).nextFence)) ∧
    (∀ (s : State),
        (s.img.swap.phase ≠ .switching) →
        exec (.swapComplete) s = .next s) ∧
    (∀ (s : State) (p : Nat) (t : Nat) (g : ImgCfg),
        (s.img.staging = some (p, t)) →
        ((s.imgPlace p).cfg = some g) →
        (s.glb.fencePath = none) →
        (s.stagingFit p) →
        exec (.stagingComplete) s = .next (((s.modImg fun i => { i with staging := none }).modImgPlace p fun x => { x with st := .staged }).modImg fun i => { i with shadow := some (p, g) }))

/-- CORE_FENCE, HALF_FENCE and MODULE_FENCE. R14 R22 R24 R403 R404 R409 R410 R411 R421 R424 R466
Where the spec leaves a layout, a value or an order open, this is the model's choice: log entries 30, 60, 79. -/
def Obligations.FencesByOztas : Prop :=
    (∀ (c : Fin 8) (a : BitVec 16) (d : BitVec 32) (s : State),
        s.decidesFences →
        coreFenceCauses.contains a →
        (s.coreFenced c = false) →
        (s.glb.mode ≠ .service) →
        exec (.coreFence c a d) s = .next (
          let s1 := ((s.raise a (unit := c.val) (detail := d) (fenced := true)).recordFence 0 c.val).noteFence 0 c.val a
          let s2 := (s1.report .fence (natLe 1 0 ++ natLe 1 c.val ++ natLe 2 a.toNat)).isolateCore c a
          (if s2.glb.mode ≠ .service then s2 else if s2.fenceMustWait then s2.modGlb fun g => { g with fencePending := g.fencePending ++ [⟨c.val, a, false⟩] } else s2.beginFencePath c a).checkMinimum)) ∧
    (∀ (c : Fin 8) (a : BitVec 16) (d : BitVec 32) (s : State),
        s.decidesFences →
        coreFenceCauses.contains a →
        exec (.coreFence c a d) s = .next (s.fenceCore c a d)) ∧
    (∀ (c : Fin 8) (h : Fin 2) (a : BitVec 16) (d : BitVec 32) (s : State),
        (coreFenceCauses ++ halfFenceCauses ++ moduleFenceCauses).contains a = false →
        exec (.coreFence c a d) s = .next s ∧ exec (.halfFence h a d) s = .next s ∧ exec (.moduleFence a d) s = .next s) ∧
    (∀ (c : Fin 8) (a : BitVec 16) (d : BitVec 32) (s : State),
        (s.coreFenced c) →
        exec (.coreFence c a d) s = .next (s)) ∧
    (∀ (h : Fin 2) (a : BitVec 16) (d : BitVec 32) (s : State),
        s.decidesFences →
        halfFenceCauses.contains a →
        exec (.halfFence h a d) s = .next (forAllOf (allStacks.filter fun k => stackHalf k = h) (fun k s => s.failSharesOn k) (s.fenceHalf h a d))) ∧
    (∀ (a : BitVec 16) (d : BitVec 32) (s : State),
        (s.oz.up) →
        moduleFenceCauses.contains a →
        (s.glb.moduleFenced = false) →
        exec (.moduleFence a d) s = .next ((((((s.raise a (detail := d) (fenced := true)).noteFence 4 0 a).report .fence (natLe 1 4 ++ natLe 1 0 ++ natLe 2 a.toNat)).modGlb fun g => { g with moduleFenced := true }).toManagement))) ∧
    (∀ (a : BitVec 16) (d : BitVec 32) (s : State),
        (s.glb.moduleFenced) →
        exec (.moduleFence a d) s = .next s ∧ ∀ (c : Fin 8) (h : Fin 2), exec (.coreFence c a d) s = .next s ∧ exec (.halfFence h a d) s = .next s)

/-- Grants, switches, a lost PLL and droop. R372 R374 R375 R376 R378 R379 R380 R391
Where the spec leaves a layout, a value or an order open, this is the model's choice: log entry 74. -/
def Obligations.OperatingPoints : Prop :=
    (∀ (h : Fin 2) (s : State),
        (s.clocked h) →
        (s.pwr.state = 0) →
        s.awake →
        exec (.grantRecompute h) s = .next (s.recompute h)) ∧
    (∀ (h : Fin 2) (s : State),
        (s.pwr.state ≠ 0 ∨ s.awake = false ∨ s.clocked h = false) →
        exec (.grantRecompute h) s = .next (s)) ∧
    (∀ (h : Fin 2) (s : State),
        (s.clocked h) →
        ((s.half h).switch ≠ .idle ∧ (s.half h).switch ≠ .switching) →
        ((s.half h).droopHolds) →
        exec (.opSwitchCommit h) s = .next (s.modHalf h fun y => { y with switch := .heldByDroop, heldCounted := true, droopHeld := if y.heldCounted then y.droopHeld else satAdd 32 y.droopHeld 1 })) ∧
    (∀ (h : Fin 2) (s : State),
        (s.clocked h) →
        ((s.half h).switch ≠ .idle ∧ (s.half h).switch ≠ .switching) →
        ((s.half h).droopHolds = false) →
        ((s.half h).swPhase = false ∨ (s.half h).fallTo (s.half h).target ≤ (s.half h).fallLeft) →
        exec (.opSwitchCommit h) s = .next (s.modHalf h fun y => { y with switch := .switching, pll := 1 - y.pll, switchTick := s.tick, fallLeft := if y.swPhase then y.fallLeft - y.fallTo y.target else y.fallLeft })) ∧
    (∀ (h : Fin 2) (s : State),
        (s.clocked h) →
        ((s.half h).droopHolds = false) →
        ((s.half h).swPhase) →
        ((s.half h).fallLeft < (s.half h).fallTo (s.half h).target) →
        exec (.opSwitchCommit h) s = .next (s)) ∧
    (∀ (h : Fin 2) (s : State),
        (s.clocked h) →
        ((s.half h).switch = .switching) →
        exec (.opSwitchComplete h) s = .next (s.modHalf h fun y => { y with running := y.target, switch := .idle, swPhase := false, switches := satAdd 32 y.switches 1, railMv := opRail y.target, emergN := if y.emergN = 0 || y.target = 7 || !s.pwr.alertLow then 0 else emergencyN y.target })) ∧
    (∀ (h : Fin 2) (s : State),
        (s.clocked h) →
        exec (.pllUnlock h) s = .next (s.modHalf h fun y => { y with pllLost := true, pllLostTick := s.tick, switch := .idle, swPhase := false })) ∧
    (∀ (h : Fin 2) (s : State),
        (s.stewardUp h) →
        ((s.half h).pllLost) →
        (s.tick < (s.half h).pllLostTick + 100000) →
        exec (.pllRelock h) s = .next ((s.modHalf h fun y => { y with pllLost := false, forced7 := true, lockTick := s.tick, pll := 1 - y.pll, granted := 7, running := 7, target := 7, railMv := 550, emergN := 0 }).raise 0x0A06 (unit := h.val))) ∧
    (∀ (h : Fin 2) (s : State),
        (s.stewardUp h) →
        (s.oz.up) →
        (s.glb.moduleFenced = false) →
        ((s.half h).pllLost) →
        ((s.half h).pllLostTick + 100000 ≤ s.tick) →
        exec (.pllRelockTimeout h) s = .next (forAllOf (allStacks.filter fun k => stackHalf k = h) (fun k s => s.failSharesOn k) (s.fenceHalf h 0x0A07))) ∧
    (∀ (h : Fin 2) (s : State),
        ((s.half h).pllLost = false ∨ s.tick < (s.half h).pllLostTick + 100000) →
        exec (.pllRelockTimeout h) s = .next (s)) ∧
    (∀ (h : Fin 2) (s : State),
        ((s.half h).forced7) →
        ((s.half h).lockTick + 1000000 ≤ s.tick) →
        exec (.pllLockCheckPass h) s = .next (s.modHalf h fun y => { y with forced7 := false })) ∧
    (∀ (h : Fin 2) (s : State),
        (s.clocked h) →
        exec (.droopDetect h) s = .next (s.modHalf h fun y =>
          let z := if y.switch = .switching && y.switchTick = s.tick then y.undoCommit else y
          { z with droops := satAdd 64 z.droops 1, gear4 := true, droopUntil := z.arrCycle + 256 })) ∧
    (∀ (h : Fin 2) (s : State),
        ((s.half h).gear4) →
        ((s.half h).droopUntil ≤ (s.half h).arrCycle) →
        exec (.droopWindowEnd h) s = .next (s.modHalf h fun y => { y with gear4 := false, commitAfter := y.arrCycle + 64 })) ∧
    (∀ (h : Fin 2) (s : State),
        ((s.half h).gear4 = false ∨ (s.half h).arrCycle < (s.half h).droopUntil) →
        exec (.droopWindowEnd h) s = .next (s))

/-- The power cap, its sensors, freewheel budgets and heat. R381 R382 R383 R384 R385 R390 R391 R392
Where the spec leaves a layout, a value or an order open, this is the model's choice: log entries 49, 74. -/
def Obligations.PowerCapAndHeat : Prop :=
    (∀ (a : Nat) (e : Nat) (o : Nat) (r : Nat) (s : State),
        (s.awake) →
        (s.oz.up) →
        (s.pwr.distrusted = false) →
        (s.pwr.implausible r = false) →
        (s.pwr.cap.toNat < max (gainTimes s.pwr.gain a + gainTimes s.pwr.gain e + o + 30) (s.pwr.inputW + r - s.pwr.railsAt)) →
        exec (.capStep a e o r) s = .next (
          let dw := gainTimes s.pwr.gain a
          let de := gainTimes s.pwr.gain e
          let est := dw + de + o + 30
          let m := s.pwr.inputW + r - s.pwr.railsAt
          let p := max est m
          let s1 := (s.modHalf 0 fun y => { y with scalingW := dw }).modHalf 1 fun y => { y with scalingW := de }
          let s2 := s1.modPwr fun x => { x with readP := min p 65535, readE := min est 65535, readM := min m 65535, rails := r, estSum := x.estSum + est, estCount := x.estCount + 1, overSince := if (s.half 0).capLimit = 7 ∧ (s.half 1).capLimit = 7 then some (x.overSince.getD s.tick) else none, calm := 0 }
          s2.capCut (s.pwr.cap.toNat * 1000) (if de ≤ dw then [0, 1] else [1, 0]) (p * 1000))) ∧
    (∀ (a : Nat) (e : Nat) (o : Nat) (r : Nat) (s : State),
        (s.awake) →
        (s.oz.up) →
        (s.pwr.distrusted = false) →
        (s.pwr.implausible r = false) →
        (100 * max (gainTimes s.pwr.gain a + gainTimes s.pwr.gain e + o + 30) (s.pwr.inputW + r - s.pwr.railsAt) ≤ 95 * s.pwr.cap.toNat) →
        exec (.capStep a e o r) s = .next (
          let dw := gainTimes s.pwr.gain a
          let de := gainTimes s.pwr.gain e
          let est := dw + de + o + 30
          let m := s.pwr.inputW + r - s.pwr.railsAt
          let p := max est m
          let s1 := (s.modHalf 0 fun y => { y with scalingW := dw }).modHalf 1 fun y => { y with scalingW := de }
          (s1.modPwr fun x => { x with readP := min p 65535, readE := min est 65535, readM := min m 65535, rails := r, estSum := x.estSum + est, estCount := x.estCount + 1, capUnmet := false, overSince := none }).capCalm (s.pwr.cap.toNat * 1000) (p * 1000))) ∧
    (∀ (a : Nat) (e : Nat) (o : Nat) (r : Nat) (s : State),
        (s.awake) →
        (s.oz.up) →
        (s.pwr.distrusted = false) →
        (s.pwr.implausible r = false) →
        (max (gainTimes s.pwr.gain a + gainTimes s.pwr.gain e + o + 30) (s.pwr.inputW + r - s.pwr.railsAt) ≤ s.pwr.cap.toNat) →
        (95 * s.pwr.cap.toNat < 100 * max (gainTimes s.pwr.gain a + gainTimes s.pwr.gain e + o + 30) (s.pwr.inputW + r - s.pwr.railsAt)) →
        exec (.capStep a e o r) s = .next (
          let dw := gainTimes s.pwr.gain a
          let de := gainTimes s.pwr.gain e
          let est := dw + de + o + 30
          let m := s.pwr.inputW + r - s.pwr.railsAt
          let p := max est m
          let s1 := (s.modHalf 0 fun y => { y with scalingW := dw }).modHalf 1 fun y => { y with scalingW := de }
          s1.modPwr fun x => { x with readP := min p 65535, readE := min est 65535, readM := min m 65535, rails := r, estSum := x.estSum + est, estCount := x.estCount + 1, capUnmet := false, overSince := none, calm := 0 })) ∧
    (∀ (a : Nat) (e : Nat) (o : Nat) (r : Nat) (s : State) (s0 : State),
        (s.awake) →
        (s.oz.up) →
        ((if s.pwr.implausible r && !s.pwr.distrusted then s.distrust else s) = s0) →
        s0.pwr.distrusted →
        exec (.capStep a e o r) s = .next (
          let dw := gainTimes s.pwr.gain a
          let de := gainTimes s.pwr.gain e
          let est := dw + de + o + 30
          let p := 11 * est / 10
          let cap := s.pwr.cap.toNat
          let s1 := (s0.modHalf 0 fun y => { y with scalingW := dw }).modHalf 1 fun y => { y with scalingW := de }
          let s2 := s1.modPwr fun x => { x with readP := min p 65535, readE := min est 65535, readM := min (s.pwr.inputW + r - s.pwr.railsAt) 65535, rails := r, estSum := x.estSum + est, estCount := x.estCount + 1, capUnmet := x.capUnmet && decide (cap < p), overSince := if cap < p ∧ (s.half 0).capLimit = 7 ∧ (s.half 1).capLimit = 7 then some (x.overSince.getD s.tick) else none }
          if cap < p then (s2.modPwr fun x => { x with calm := 0 }).capCut (cap * 1000) (if de ≤ dw then [0, 1] else [1, 0]) (p * 1000)
          else if 100 * p ≤ 95 * cap then s2.capCalm (cap * 1000) (p * 1000)
          else s2.modPwr fun x => { x with calm := 0 })) ∧
    (∀ (s : State) (t : Nat),
        (s.pwr.overSince = some t) →
        (s.pwr.capUnmet = false) →
        (t + 1000000 ≤ s.tick) →
        s.awake →
        exec (.capUnmet) s = .next ((s.modPwr fun p => { p with capUnmet := true }).raise 0x0A05)) ∧
    (∀ (s : State),
        (s.pwr.overSince = none ∨ s.awake = false) →
        exec (.capUnmet) s = .next (s)) ∧
    (∀ (r : Nat) (s : State),
        (s.awake) →
        (s.oz.up) →
        (s.pwr.implausible r) →
        (s.pwr.distrusted = false) →
        exec (.inputPowerWindow r) s = .next (((s.modPwr fun p => { p with distrusted := true, plausible := 0, diverging := 0, divSumM := 0, divSumE := 0 }).raise 0x0A04).modPwr fun x => { x with inputW := r, railsAt := x.rails, estSum := 0, estCount := 0 })) ∧
    (∀ (r : Nat) (s : State),
        (s.awake) →
        (s.oz.up) →
        (s.pwr.implausible r = false) →
        (s.pwr.distrusted = false) →
        (gap s.pwr.meanE r ≤ 225) →
        exec (.inputPowerWindow r) s = .next (s.modPwr fun x => { x with diverging := 0, divSumM := 0, divSumE := 0, inputW := r, railsAt := x.rails, estSum := 0, estCount := 0 })) ∧
    (∀ (r : Nat) (s : State),
        (s.awake) →
        (s.oz.up) →
        (s.pwr.implausible r = false) →
        s.pwr.distrusted →
        exec (.inputPowerWindow r) s = .next (
          let n := if gap s.pwr.meanE r ≤ 225 then s.pwr.plausible + 1 else 0
          (s.modPwr fun x => { x with plausible := if n = 16 then 0 else n, distrusted := n ≠ 16 }).modPwr fun x => { x with inputW := r, railsAt := x.rails, estSum := 0, estCount := 0 })) ∧
    (∀ (h : Fin 2) (f : Nat) (e : Nat) (s : State),
        (s.clocked h) →
        (s.pwr.state = 0) →
        (s.knownMarker = none) →
        exec (.freewheelBudget h f e) s = .next (
          let d := s.densityPasses false f e (fun s => (halfParts h).filter fun x => 0 < (s.part x.1 x.2).density && !(s.part x.1 x.2).ramp) 64 (s.pwr.ramp.toNat * 500)
          d.2.modHalf h fun y => { y with fallLeft := d.1 })) ∧
    (∀ (h : Fin 2) (j : Nat) (l : List Nat) (s : State),
        (s.awake) →
        ((s.half h).thermEpisode = false) →
        (400 ≤ j ∨ 380 ≤ l.foldl max 0) →
        exec (.thermalRead h j l) s = .next (
          let s0 := forAllOf (allStacks.filter fun k => stackHalf k = h) (fun k s => s.modStack k fun x => { x with hot := decide (340 < l.getD (k.val % 16) 0) }) s
          let s1 := s0.modHalf h fun y => { y with hotJunction := BitVec.ofNat 12 (min 4095 j), hotStack := BitVec.ofNat 12 (min 4095 (l.foldl max 0)) }
          ((s1.modHalf h fun y => { y with thermEpisode := true, thermEasing := false, thermLimit := min 7 (y.granted + 1), thermTick := s.tick, episodes := satAdd 5 y.episodes 1 }).raise 0x0A01 (unit := h.val)).msix 3)) ∧
    (∀ (h : Fin 2) (s : State),
        (s.awake) →
        ((s.half h).thermEasing) →
        ((s.half h).thermTick + 1000000 ≤ s.tick) →
        exec (.thermalEase h) s = .next (
          s.modHalf h fun y => { y with thermLimit := y.thermLimit - 1, thermTick := s.tick, thermEpisode := decide (y.thermLimit - 1 ≠ 0), thermEasing := decide (y.thermLimit - 1 ≠ 0) })) ∧
    (∀ (s : State),
        (s.pwr.convAlert = false) →
        (s.awake) →
        exec (.alertAssert) s = .next (
          ((forAllOf allHalves (fun h s => if s.clocked h then (s.modHalf h fun y => { y with emergN := emergencyN y.running }).recompute h else s) (s.modPwr fun p => { p with alertLow := true, alertLimit := 7, alertFall := s.tick })).raise 0x0A02).msix 3)) ∧
    (∀ (s : State),
        (s.pwr.convAlert ∨ s.awake = false) →
        exec (.alertAssert) s = .next (s)) ∧
    (∀ (s : State),
        (s.pwr.alertLow) →
        (s.pwr.convAlert = false) →
        (s.pwr.alertHighTick + 1000000 ≤ s.tick) →
        (s.pwr.alertFall + 1000000 ≤ s.tick) →
        exec (.alertRelease) s = .next (forAllOf allHalves (fun h s => s.modHalf h fun y => { y with emergN := 0 }) (s.modPwr fun p => { p with alertLow := false, alertLimit := 0 }))) ∧
    (∀ (n : Fin 64) (s : State),
        (s.pwr.tripped = false) →
        (s.pwr.off = false) →
        exec (.thermalTrip n) s = .next (((s.haltUnits.modHost fun h => { h with linkUp := false }).modPwr fun p => { p with tripped := true }).modFlash fun f => { f with tripTick := BitVec.ofNat 56 s.tick, tripSensor := BitVec.ofNat 7 n.val, tripValid := true, tripReport := true })) ∧
    (∀ (n : Fin 64) (s : State),
        (s.pwr.tripped = false) →
        s.pwr.off →
        exec (.thermalTrip n) s = .next (s.modPwr fun p => { p with tripped := true }))

/-- The five power states, by request and by wake. R393 R394 R396 R435 -/
def Obligations.PowerStates : Prop :=
    (∀ (s : State),
        (s.takesWrite .oz) →
        (s.glb.mode = .service) →
        (s.pwr.tripped = false) →
        (s.pwr.railsLatched = false) →
        (s.pwr.state = 1) →
        exec (.pwrStateM0) s = .next (((s.modPwr fun p => { p with request := 0 }).modPwr fun p => { p with state := 0, m1Wake := none }).msix 3)) ∧
    (∀ (s : State),
        (s.takesWrite .oz) →
        (s.pwr.tripped = false) →
        (s.pwr.railsLatched = false) →
        (s.pwr.state = 2) →
        exec (.pwrStateM0) s = .next ((((s.modPwr fun p => { p with request := 0 }).leaveM2.powerState 1).powerState 0))) ∧
    (∀ (s : State),
        (s.takesWrite .oz) →
        (s.pwr.tripped = false) →
        (s.pwr.railsLatched = false) →
        (s.pwr.state = 3) →
        exec (.pwrStateM0) s = .next ((s.modPwr fun p => { p with request := 0 }).leaveM3)) ∧
    (∀ (s : State),
        (s.takesWrite .oz) →
        (s.pwr.tripped ∨ s.pwr.railsLatched ∨ (s.pwr.state = 0 ∧ s.glb.mode = .starting)) →
        exec (.pwrStateM0) s = .next ((s.modPwr fun p => { p with request := 0 }).raise 0x0A09)) ∧
    (∀ (s : State),
        (s.takesWrite .oz) →
        (s.glb.mode = .service) →
        (s.pwr.tripped = false) →
        (s.pwr.railsLatched = false) →
        (s.pwr.state = 0) →
        (s.quiet) →
        exec (.pwrStateM1) s = .next (((s.modPwr fun p => { p with request := 1 }).modPwr fun p => { p with state := 1, m1Wake := none }).msix 3)) ∧
    (∀ (s : State),
        (s.takesWrite .oz) →
        (s.glb.mode = .service) →
        (s.pwr.tripped = false) →
        (s.pwr.railsLatched = false) →
        (s.pwr.state = 0) →
        (s.quiet = false) →
        exec (.pwrStateM1) s = .next ((s.modPwr fun p => { p with request := 1 }).raise 0x0A09 (detail := 1))) ∧
    (∀ (s : State),
        (s.takesWrite .oz) →
        (2 ≤ s.pwr.state) →
        exec (.pwrStateM1) s = .next ((s.modPwr fun p => { p with request := 1 }).raise 0x0A09 (detail := 1))) ∧
    (∀ (s : State),
        (s.takesWrite .oz) →
        (s.glb.mode = .service) →
        (s.pwr.tripped = false) →
        (s.pwr.railsLatched = false) →
        (s.pwr.state = 1) →
        (s.listed = false) →
        (s.portsUnused) →
        exec (.pwrStateM2) s = .next ((s.modPwr fun p => { p with request := 2 }).enterM2)) ∧
    (∀ (s : State),
        (s.takesWrite .oz) →
        ((s.glb.mode = .service ∧ s.pwr.state = 2) = False) →
        ((s.glb.mode = .service ∧ s.pwr.state = 1 ∧ s.listed = false ∧ s.portsUnused ∧ s.pwr.tripped = false ∧ s.pwr.railsLatched = false) = False) →
        exec (.pwrStateM2) s = .next ((s.modPwr fun p => { p with request := 2 }).raise 0x0A09 (detail := 2))) ∧
    (∀ (s : State),
        (s.takesWrite .oz) →
        (s.pwr.state ≠ 3) →
        exec (.pwrStateM3) s = .next ((s.modPwr fun p => { p with request := 3 }).enterM3)) ∧
    (∀ (s : State),
        (s.takesWrite .oz) →
        exec (.pwrStateM4) s = .next ((s.modPwr fun p => { p with request := 4 }).enterM4 true)) ∧
    (∀ (s : State) (t : Nat),
        (s.pwr.state = 1) →
        (s.pwr.m1Wake = some t ∨ (s.knownMarker = some t ∧ t ≤ s.tick + 2000)) →
        exec (.m1Wake) s = .next ((s.modPwr fun p => { p with state := 0, m1Wake := none }).msix 3)) ∧
    (∀ (s : State),
        (s.pwr.state ≠ 1 ∨ (s.pwr.m1Wake = none ∧ (s.knownMarker.all fun t => decide (s.tick + 2000 < t)))) →
        exec (.m1Wake) s = .next (s))

/-- The 48 V input, MOD_EN, PERST_N, resets and the start-up steps. R391 R398 R399 R405 R422 R454 R480 R481 R483 R484
Where the spec leaves a layout, a value or an order open, this is the model's choice: log entries 30, 36, 40, 74, 79. -/
def Obligations.SupplyAndStartUp : Prop :=
    (∀ (mv : Nat) (b : Bool) (x : BitVec 2) (s : State),
        (s.pwr.on_ = false) →
        (38000 ≤ mv) →
        exec (.powerOn mv b x) s = .next (
          let t := ({ s with oz := { s.oz with addrSel := x } }).coldStart
          { t with tap := {}, pwr := { t.pwr with inputMv := mv, modEn := b, off := !b, state := if b then 0 else 4 } })) ∧
    (∀ (mv : Nat) (b : Bool) (x : BitVec 2) (s : State),
        (s.pwr.on_ ∨ mv < 38000) →
        exec (.powerOn mv b x) s = .next (s)) ∧
    (∀ (mv : Nat) (s : State),
        (s.pwr.on_) →
        (mv < 35000) →
        exec (.inputTurnOff mv) s = .next ({ s.coldStart with tap := {}, pwr := { State.reset.pwr with on_ := false, inputMv := mv } })) ∧
    (∀ (mv : Nat) (s : State),
        (s.pwr.on_) →
        (s.pwr.convAlert = false) →
        (mv < 40000) →
        exec (.inputDip mv) s = .next ((s.modPwr fun p => { p with convAlert := true, inputMv := mv }).alert)) ∧
    (∀ (mv : Nat) (s : State),
        (s.pwr.on_) →
        (s.pwr.convAlert) →
        (40000 ≤ mv) →
        exec (.inputRecover mv) s = .next (s.modPwr fun p => { p with convAlert := false, inputMv := mv, alertHighTick := s.tick })) ∧
    (∀ (ma : Nat) (s : State),
        (s.pwr.on_) →
        (s.pwr.off = false) →
        (s.pwr.railsLatched = false) →
        (46000 < ma) →
        exec (.overcurrentTrip ma) s = .next (s.haltUnits.modPwr fun p => { p with railsLatched := true, statusCause := 1, inputMa := ma })) ∧
    (∀ (mv : Nat) (s : State),
        (s.pwr.on_) →
        (s.pwr.off = false) →
        (s.pwr.railsLatched = false) →
        (62000 < mv) →
        exec (.overvoltageTrip mv) s = .next (s.haltUnits.modPwr fun p => { p with railsLatched := true, statusCause := 2, inputMv := mv })) ∧
    (∀ (s : State),
        (s.pwr.on_) →
        exec (.modEnLow) s = .next (s.enterM4 false)) ∧
    (∀ (x : BitVec 2) (s : State),
        (s.pwr.on_) →
        (s.pwr.modEn = false) →
        exec (.modEnRise x) s = .next (({ s with oz := { s.oz with addrSel := x } }).coldStart)) ∧
    (∀ (s : State),
        (s.host.perst) →
        (s.host.configUp) →
        exec (.perstFall) s = .next ((s.dropHostLink.warmReset).modHost fun h => { h with perst := false, configUp := false, linkUp := false })) ∧
    (∀ (s : State),
        (s.host.perst = false) →
        exec (.perstFall) s = .next (s)) ∧
    (∀ (l : HostLink) (s : State),
        (s.host.perst = false) →
        (s.oz.up) →
        (4 ≤ s.glb.step) →
        exec (.perstRise l) s = .next ((s.modHost fun h => { h with perst := true, perstRisen := true, configUp := true }).hostLinkUp l)) ∧
    (∀ (s : State),
        (s.host.linkUp) →
        (s.oz.up) →
        (s.glb.mode = .service) →
        (s.glb.bootStop = 0) →
        (s.pwr.tripped = false) →
        (s.pwr.railsLatched = false) →
        (4 ≤ s.glb.step) →
        exec (.warmReset true) s = .next (s.warmStart)) ∧
    (∀ (f : BootFound) (s : State),
        (s.booting) →
        (s.tick < s.glb.startTick + s.latestNs s.glb.step ∨ s.glb.step = 3 ∨ s.glb.step = 10) →
        exec (.startupStepEnd f) s = .next ((s.stepEnded s.glb.step).bootStep s.glb.step [] f)) ∧
    (∀ (late : List Nat) (f : BootFound) (s : State),
        (s.booting) →
        (s.glb.startTick + s.latestNs s.glb.step ≤ s.tick) →
        (4 ≤ s.glb.step ∧ s.glb.step < 10) →
        exec (.startupStepTimeout late f) s = .next ((s.stepEnded s.glb.step).bootStep s.glb.step late f)) ∧
    (∀ (late : List Nat) (f : BootFound) (s : State),
        (s.booting) →
        (s.glb.startTick + s.latestNs s.glb.step ≤ s.tick) →
        (s.glb.step = 2) →
        (s.glb.moduleFenced = false) →
        exec (.startupStepTimeout late f) s = .next (((((s.stepEnded 2).fenceModule 0x0C02).modGlb fun g => { g with mode := .recovery }).modGlb fun g => { g with bootStop := 2 }).modOz fun o => { o with up := true })) ∧
    (∀ (late : List Nat) (f : BootFound) (s : State),
        (s.booting) →
        (s.glb.startTick + s.latestNs s.glb.step ≤ s.tick) →
        (s.glb.step = 0) →
        exec (.startupStepTimeout late f) s = .next (s.modGlb fun g => { g with bootStop := 3 })) ∧
    (∀ (late : List Nat) (f : BootFound) (s : State),
        (s.booting) →
        (s.glb.startTick + s.latestNs s.glb.step ≤ s.tick) →
        (s.glb.step = 1) →
        exec (.startupStepTimeout late f) s = .next ((s.raise 0x0C0C).modGlb fun g => { g with bootStop := 1 })) ∧
    (∀ (late : List Nat) (f : BootFound) (s : State),
        (s.glb.step = 3 ∨ s.glb.step = 10 ∨ s.tick < s.glb.startTick + s.latestNs s.glb.step) →
        exec (.startupStepTimeout late f) s = .next s) ∧
    (∀ (late : List Nat) (f : BootFound) (s : State),
        (s.booting) →
        (s.glb.startTick + s.latestNs s.glb.step ≤ s.tick) →
        (s.glb.step = 2) →
        s.glb.moduleFenced →
        exec (.startupStepTimeout late f) s = .next ((((s.stepEnded 2).raise 0x0C02).modGlb fun g => { g with bootStop := 2 }).modOz fun o => { o with up := true })) ∧
    (∀ (a : BitVec 16) (b : BitVec 16) (c : BitVec 16) (d : BitVec 16) (e : BitVec 16) (s : State),
        (s.oz.up) →
        exec (.pmbusPoll a b c d e) s = .next (s.modPwr fun p => { p with telemetry := #v[a.toNat, b.toNat, c.toNat, d.toNat, (if p.statusCause = 0 then e else e ||| Config.latchStatus p.statusCause).toNat] })) ∧
    (∀ (a : BitVec 7) (s : State),
        (s.sideband) →
        exec (.i3cDynamicAddress a) s = .next (s.modOz fun o => { o with i3cAddr := some a.toNat }))

/-- BAR2, CXL.mem, the link, Function Level Reset and the fault log tail. R408 R428 R431 R432 R434 R436 R437 R452
Where the spec leaves a layout, a value or an order open, this is the model's choice: log entries 14, 80. -/
def Obligations.HostWindows : Prop :=
    (∀ (a : BitVec 41) (n : Nat) (d : List (BitVec 8)) (s : State) (bs : List (BitVec 8)) (s1 : State),
        (s.hostHears) →
        (s.windowClosed = false) →
        (0 < n ∧ n ≤ 4096 ∧ a.toNat % 4096 + n ≤ 4096) →
        (s.stackRead a.toNat n = (.ok bs, s1)) →
        exec (.bar2Request false a n d) s = .next (s1.complete 0 bs)) ∧
    (∀ (a : BitVec 41) (n : Nat) (d : List (BitVec 8)) (s : State) (e : BitVec 16) (s1 : State),
        (s.hostHears) →
        (s.windowClosed = false) →
        (0 < n ∧ n ≤ 4096 ∧ a.toNat % 4096 + n ≤ 4096) →
        (s.stackRead a.toNat n = (.error e, s1)) →
        exec (.bar2Request false a n d) s = .next (s1.complete 1 [])) ∧
    (∀ (a : BitVec 41) (n : Nat) (d : List (BitVec 8)) (s : State),
        (s.hostHears) →
        (s.windowClosed = false) →
        (0 < d.length ∧ d.length ≤ 512 ∧ a.toNat % 4096 + d.length ≤ 4096) →
        exec (.bar2Request true a n d) s = .next ((s.hostWrite a.toNat d).2)) ∧
    (∀ (a : BitVec 41) (n : Nat) (d : List (BitVec 8)) (s : State),
        (s.hostHears) →
        (s.windowClosed = false) →
        (4096 < n ∨ 4096 < a.toNat % 4096 + n) →
        (n ≠ 0) →
        exec (.bar2Request false a n d) s = .next (s.complete 1 [])) ∧
    (∀ (a : BitVec 41) (n : Nat) (d : List (BitVec 8)) (s : State),
        (s.hostHears) →
        (s.windowClosed) →
        (0 < n ∧ n ≤ 4096 ∧ a.toNat % 4096 + n ≤ 4096) →
        exec (.bar2Request false a n d) s = .next (s.countUnavail.complete 1 [])) ∧
    (∀ (a : BitVec 41) (n : Nat) (d : List (BitVec 8)) (s : State),
        (s.hostHears) →
        s.windowClosed →
        d ≠ [] →
        exec (.bar2Request true a n d) s = .next s.countUnavail) ∧
    (∀ (a : BitVec 41) (n : Nat) (d : List (BitVec 8)) (s : State),
        (s.hostHears) →
        (s.windowClosed = false) →
        (512 < d.length ∨ 4096 < a.toNat % 4096 + d.length) →
        exec (.bar2Request true a n d) s = .next s) ∧
    (∀ (a : BitVec 41) (n : Nat) (d : List (BitVec 8)) (s : State),
        (s.host.linkUp) →
        (s.hostHears = false) →
        (n ≠ 0) →
        exec (.bar2Request false a n d) s = .next (s.complete 1 []) ∧ exec (.bar2Request true a n d) s = .next s) ∧
    (∀ (l : BitVec 35) (d : BitVec 512) (en : BitVec 64) (s : State) (bs : List (BitVec 8)) (s1 : State),
        (s.host.linkUp) →
        (s.host.cxl) →
        (s.windowClosed = false) →
        (s.flash.requireBind = false) →
        (s.stackRead (l.toNat * 64) 64 = (.ok bs, s1)) →
        exec (.cxlMemRequest false l d en) s = .next (s1.complete 0 bs)) ∧
    (∀ (l : BitVec 35) (d : BitVec 512) (en : BitVec 64) (s : State) (e : BitVec 16) (s1 : State),
        (s.host.linkUp) →
        (s.host.cxl) →
        (s.windowClosed = false) →
        (s.flash.requireBind = false) →
        (s.stackRead (l.toNat * 64) 64 = (.error e, s1)) →
        exec (.cxlMemRequest false l d en) s = .next s1.completePoison) ∧
    (∀ (l : BitVec 35) (d : BitVec 512) (s : State),
        (s.host.linkUp) →
        (s.host.cxl) →
        (s.windowClosed = false) →
        (s.flash.requireBind = false) →
        exec (.cxlMemRequest true l d (BitVec.allOnes 64)) s = .next (((s.passSlots (l.toNat * 64) 64).serveWrites (sectorWrites (l.toNat * 64) (natLe 64 d.toNat) (List.replicate 64 true))).2)) ∧
    (∀ (l : BitVec 35) (d : BitVec 512) (en : BitVec 64) (s : State),
        (s.host.linkUp) →
        (s.host.cxl) →
        (s.windowClosed ∨ s.flash.requireBind) →
        exec (.cxlMemRequest false l d en) s = .next (s.countUnavail.completePoison) ∧ exec (.cxlMemRequest true l d en) s = .next s.countUnavail) ∧
    (∀ (s : State),
        (s.host.linkUp) →
        (s.pwr.state ≤ 1) →
        (s.oz.up) →
        exec (.hostLinkDown) s = .next ((s.raise 0x0B01).dropHostLink.modHost fun h => { h with stopped := true })) ∧
    (∀ (l : HostLink) (s : State),
        (s.host.configUp) →
        (s.host.perst) →
        (l.valid) →
        (s.tap.drive = .functional) →
        (s.pwr.tripped = false) →
        exec (.hostLinkRetrain l) s = .next ((s.modHost fun h => { h with linkUp := true, rate := l.rate, width := l.width, flit := l.flit, cxl := l.cxl, stopped := false, dstate := if l.d3hot then 1 else 0 }).msixFlush)) ∧
    (∀ (s : State),
        (s.host.linkUp) →
        exec (.flr) s = .next (((s.modHost fun h => { h with msixUnmasked := 0, dstate := 0 }).stopIde 0).endSessions fun x => x.doe)) ∧
    (∀ (i : BitVec 8) (s : State),
        (s.hostHears) →
        (s.oz.up) →
        (s.glb.unreadAll = false) →
        (0 < (i - s.glb.faultTail).toNat) →
        ((i - s.glb.faultTail).toNat ≤ (s.glb.faultHead - s.glb.faultTail).toNat) →
        exec (.glbFaultTail i) s = .next (s.modGlb fun g => { g with faultTail := i, unreadAll := false })) ∧
    (∀ (i : BitVec 8) (s : State),
        (s.hostHears) →
        (s.oz.up) →
        (i = s.glb.faultTail ∨ (s.glb.unreadAll = false ∧ (s.glb.faultHead - s.glb.faultTail).toNat < (i - s.glb.faultTail).toNat)) →
        exec (.glbFaultTail i) s = .next (s))

/-- Mailbox services for every role, and what stops a request. R401 R408 R440 R441 R442 R443 R445 R466
Where the spec leaves a layout, a value or an order open, this is the model's choice: log entries 7, 17, 21, 80. -/
def Obligations.MailboxServices : Prop :=
    (∀ (q : MbxReq) (s : State) (s1 : State),
        (s.hearsRequest q) →
        (s.mbxNames q .getStatus) →
        (s.mbxAdmit q 0 = (mbxOk, s1)) →
        (s1.sidebandShut q.path 0 = false) →
        (s1.glb.mode = .service) →
        exec (.getStatus q) s = .next (s1.respond q.path 0 (natLe 8 s1.ozStatus.toNat ++ natLe 1 s1.glb.step ++ natLe 1 1 ++ natLe 1 s1.pwr.state ++ s1.pwr.telemetry.toList.flatMap (natLe 2)))) ∧
    (∀ (q : MbxReq) (s : State) (s1 : State),
        (s.hearsRequest q) →
        (s.mbxNames q .getLog) →
        (s.mbxAdmit q 0 = (mbxOk, s1)) →
        (s1.sidebandShut q.path 0 = false) →
        (leAt (mbxBody (s.mbxBytes q)) 0 1 = 0) →
        exec (.getLog q) s = .next (s1.respond q.path 0 s1.faultLogBytes)) ∧
    (∀ (q : MbxReq) (s : State) (s1 : State),
        (s.hearsRequest q) →
        (s.mbxNames q .getLog) →
        (s.mbxAdmit q 0 = (mbxOk, s1)) →
        (s1.sidebandShut q.path 0 = false) →
        (3 < leAt (mbxBody (s.mbxBytes q)) 0 1) →
        exec (.getLog q) s = .next (s1.respond q.path mbxBadCommand [])) ∧
    (∀ (q : MbxReq) (s : State) (s1 : State),
        (s.hearsRequest q) →
        (s.mbxNames q .getNonce) →
        (s.mbxAdmit q 0 = (mbxOk, s1)) →
        (s1.sidebandShut q.path 0 = false) →
        exec (.getNonce q) s = .next (
          let n := Config.freeBits 256 s1.freeCtr
          ((s1.draw).modOz fun o => { o with nonce := some (n, s1.tick), drbg := o.drbg + 1 }).respond q.path 0 (natLe 32 n.toNat))) ∧
    (∀ (q : MbxReq) (s : State) (s1 : State),
        (s.hearsRequest q) →
        (s.mbxNames q .zeroise) →
        (s.mbxAdmit q 0 = (mbxOk, s1)) →
        (s1.sidebandShut q.path 0 = false) →
        exec (.zeroise q) s = .next ((s1.zeroise false).modOz fun o => { o with mbxBusy := some q.path, mbxState := if q.path = .host then 1 else o.mbxState })) ∧
    (∀ (q : MbxReq) (s : State) (s1 : State),
        (s.hearsRequest q) →
        (s.mbxNames q .takeOwnership) →
        (s.mbxAdmit q 0 = (mbxOk, s1)) →
        (s1.sidebandShut q.path 0 = false) →
        ((mbxBody (s.mbxBytes q)).length = 48) →
        (s1.flash.ownerCred = none) →
        exec (.takeOwnership q) s = .next ((s1.modFlash fun f => { f with ownerCred := some (BitVec.ofNat 384 (leNat (mbxBody (s.mbxBytes q)))) }).respond q.path 0 [])) ∧
    (∀ (q : MbxReq) (s : State) (s1 : State),
        (s.hearsRequest q) →
        (s.mbxNames q .takeOwnership) →
        (s.mbxAdmit q 0 = (mbxOk, s1)) →
        (s1.sidebandShut q.path 0 = false) →
        ((mbxBody (s.mbxBytes q)).length = 48) →
        (s1.flash.ownerCred ≠ none) →
        exec (.takeOwnership q) s = .next (s1.respond q.path mbxRefused [])) ∧
    (∀ (q : MbxReq) (s : State) (s1 : State),
        (s.hearsRequest q) →
        (s.mbxNames q .requestSelftest) →
        (s.mbxAdmit q 1 = (mbxOk, s1)) →
        (s1.sidebandShut q.path 1 = false) →
        exec (.requestSelftest q) s = .next ((s1.modGlb fun g => { g with fullRequested := true }).respond q.path 0 [])) ∧
    (∀ (q : MbxReq) (s : State),
        (q.path = .host) →
        (s.hostHears) →
        (s.oz.up) →
        (s.oz.mbxBusy ≠ none) →
        exec (.getStatus q) s = .next (s.modOz fun o => { o with mbxIgnored := satAdd 32 o.mbxIgnored 1 }) ∧ exec (.zeroise q) s = .next (s.modOz fun o => { o with mbxIgnored := satAdd 32 o.mbxIgnored 1 })) ∧
    (∀ (q : MbxReq) (s : State) (s1 : State) (st : BitVec 3),
        (s.hearsRequest q) →
        (s.mbxAdmit q 2 = (st, s1)) →
        (st = mbxBadRole ∨ st = mbxBadSignature ∨ st = mbxBadNonce) →
        (s.mbxNames q .setPolicy → exec (.setPolicy q) s = .next ((s1.raise 0x0B05).respond q.path st [])) ∧ (s.mbxNames q .debugOpen → exec (.debugOpen q) s = .next ((s1.raise 0x0B05).respond q.path st []))) ∧
    (∀ (q : MbxReq) (im : List (BitVec 8)) (s : State),
        (s.hearsRequest q) →
        (s.mbxNames q .getStatus = false → exec (.getStatus q) s = .next (s.respond q.path mbxBadCommand [])) ∧
        (s.mbxNames q .getLog = false → exec (.getLog q) s = .next (s.respond q.path mbxBadCommand [])) ∧
        (s.mbxNames q .getNonce = false → exec (.getNonce q) s = .next (s.respond q.path mbxBadCommand [])) ∧
        (s.mbxNames q .zeroise = false → exec (.zeroise q) s = .next (s.respond q.path mbxBadCommand [])) ∧
        (s.mbxNames q .takeOwnership = false → exec (.takeOwnership q) s = .next (s.respond q.path mbxBadCommand [])) ∧
        (s.mbxNames q .requestSelftest = false → exec (.requestSelftest q) s = .next (s.respond q.path mbxBadCommand [])) ∧
        (s.mbxNames q .installUserKey = false → exec (.installUserKey q) s = .next (s.respond q.path mbxBadCommand [])) ∧
        (s.mbxNames q .removeUserKey = false → exec (.removeUserKey q) s = .next (s.respond q.path mbxBadCommand [])) ∧
        (s.mbxNames q .installImageKey = false → exec (.installImageKey q) s = .next (s.respond q.path mbxBadCommand [])) ∧
        (s.mbxNames q .raiseImageFloor = false → exec (.raiseImageFloor q) s = .next (s.respond q.path mbxBadCommand [])) ∧
        (s.mbxNames q .setPolicy = false → exec (.setPolicy q) s = .next (s.respond q.path mbxBadCommand [])) ∧
        (s.mbxNames q .raiseFwFloor = false → exec (.raiseFwFloor q) s = .next (s.respond q.path mbxBadCommand [])) ∧
        (s.mbxNames q .transferOwnership = false → exec (.transferOwnership q) s = .next (s.respond q.path mbxBadCommand [])) ∧
        (s.mbxNames q .debugOpen = false → exec (.debugOpen q) s = .next (s.respond q.path mbxBadCommand [])) ∧
        (s.mbxNames q .installCascadeKey = false → exec (.installCascadeKey q) s = .next (s.respond q.path mbxBadCommand [])) ∧
        (s.mbxNames q .fwUpdate = false → exec (.fwUpdate q im) s = .next (s.respond q.path mbxBadCommand [])))

/-- The Crypto Officer's mailbox services. R405 R440 R441 R443 R444 R445 R447 R448 R449
Where the spec leaves a layout, a value or an order open, this is the model's choice: log entries 17, 18, 21, 71, 80. -/
def Obligations.OfficerServices : Prop :=
    (∀ (q : MbxReq) (s : State) (s1 : State),
        (s.hearsRequest q) →
        (s.mbxNames q .transferOwnership) →
        (s.mbxAdmit q 2 = (mbxOk, s1)) →
        (s1.sidebandShut q.path 2 = false) →
        ((mbxBody (s.mbxBytes q)).length = 48) →
        exec (.transferOwnership q) s = .next (((s1.modFlash fun f => { f with ownerCred := some (BitVec.ofNat 384 (leNat (mbxBody (s.mbxBytes q)))) }).zeroise false).modOz fun o => { o with mbxBusy := some q.path, mbxState := if q.path = .host then 1 else o.mbxState })) ∧
    (∀ (q : MbxReq) (s : State) (s1 : State),
        (s.hearsRequest q) →
        (s.mbxNames q .installUserKey) →
        (s.mbxAdmit q 2 = (mbxOk, s1)) →
        (s1.sidebandShut q.path 2 = false) →
        ((mbxBody (s.mbxBytes q)).length = 97) →
        (leAt (mbxBody (s.mbxBytes q)) 0 1 < 8) →
        exec (.installUserKey q) s = .next ((s1.modFlash fun f => { f with userKeys := tabSet none f.userKeys (leAt (mbxBody (s.mbxBytes q)) 0 1) (some (BitVec.ofNat 768 (leAt (mbxBody (s.mbxBytes q)) 1 96))) }).respond q.path 0 [])) ∧
    (∀ (q : MbxReq) (s : State) (s1 : State),
        (s.hearsRequest q) →
        (s.mbxNames q .installUserKey) →
        (s.mbxAdmit q 2 = (mbxOk, s1)) →
        (s1.sidebandShut q.path 2 = false) →
        ((mbxBody (s.mbxBytes q)).length ≠ 97 ∨ 8 ≤ leAt (mbxBody (s.mbxBytes q)) 0 1) →
        exec (.installUserKey q) s = .next (s1.respond q.path mbxBadCommand [])) ∧
    (∀ (q : MbxReq) (s : State) (s1 : State),
        (s.hearsRequest q) →
        (s.mbxNames q .removeUserKey) →
        (s.mbxAdmit q 2 = (mbxOk, s1)) →
        (s1.sidebandShut q.path 2 = false) →
        ((mbxBody (s.mbxBytes q)).length = 1) →
        (leAt (mbxBody (s.mbxBytes q)) 0 1 < 8) →
        exec (.removeUserKey q) s = .next ((s1.modFlash fun f => { f with userKeys := tabSet none f.userKeys (leAt (mbxBody (s.mbxBytes q)) 0 1) none }).respond q.path 0 [])) ∧
    (∀ (q : MbxReq) (s : State) (s1 : State),
        (s.hearsRequest q) →
        (s.mbxNames q .installImageKey) →
        (s.mbxAdmit q 2 = (mbxOk, s1)) →
        (s1.sidebandShut q.path 2 = false) →
        (2 ≤ (mbxBody (s.mbxBytes q)).length) →
        (leAt (mbxBody (s.mbxBytes q)) 0 1 < 4) →
        exec (.installImageKey q) s = .next (((s1.modFlash fun f => { f with imageKeys := tabSet none f.imageKeys (leAt (mbxBody (s.mbxBytes q)) 0 1) (some ((mbxBody (s.mbxBytes q)).drop 1)) }).rejectVerified 0x0903 fun g => g.keyId = leAt (mbxBody (s.mbxBytes q)) 0 1).respond q.path 0 [])) ∧
    (∀ (q : MbxReq) (s : State) (s1 : State),
        (s.hearsRequest q) →
        (s.mbxNames q .raiseImageFloor) →
        (s.mbxAdmit q 2 = (mbxOk, s1)) →
        (s1.sidebandShut q.path 2 = false) →
        ((mbxBody (s.mbxBytes q)).length = 5) →
        (leAt (mbxBody (s.mbxBytes q)) 0 1 < 4) →
        ((tabGet 0 s1.flash.imageFloors (leAt (mbxBody (s.mbxBytes q)) 0 1)).toNat ≤ (BitVec.ofNat 32 (leAt (mbxBody (s.mbxBytes q)) 1 4)).toNat) →
        exec (.raiseImageFloor q) s = .next (((s1.modFlash fun f => { f with imageFloors := tabSet 0 f.imageFloors (leAt (mbxBody (s.mbxBytes q)) 0 1) (BitVec.ofNat 32 (leAt (mbxBody (s.mbxBytes q)) 1 4)) }).rejectVerified 0x0904 fun g => g.keyId = leAt (mbxBody (s.mbxBytes q)) 0 1 && decide (g.secVersion.toNat < (BitVec.ofNat 32 (leAt (mbxBody (s.mbxBytes q)) 1 4)).toNat)).respond q.path 0 [])) ∧
    (∀ (q : MbxReq) (s : State) (s1 : State),
        (s.hearsRequest q) →
        (s.mbxNames q .raiseImageFloor) →
        (s.mbxAdmit q 2 = (mbxOk, s1)) →
        (s1.sidebandShut q.path 2 = false) →
        ((mbxBody (s.mbxBytes q)).length = 5) →
        (leAt (mbxBody (s.mbxBytes q)) 0 1 < 4) →
        ((BitVec.ofNat 32 (leAt (mbxBody (s.mbxBytes q)) 1 4)).toNat < (tabGet 0 s1.flash.imageFloors (leAt (mbxBody (s.mbxBytes q)) 0 1)).toNat) →
        exec (.raiseImageFloor q) s = .next (s1.respond q.path mbxRefused [])) ∧
    (∀ (q : MbxReq) (s : State) (s1 : State),
        (s.hearsRequest q) →
        (s.mbxNames q .setPolicy) →
        (s.mbxAdmit q 2 = (mbxOk, s1)) →
        (s1.sidebandShut q.path 2 = false) →
        ((mbxBody (s.mbxBytes q)).length = 1) →
        exec (.setPolicy q) s = .next ((s1.modFlash fun f => { f with requireBind := decide (leAt (mbxBody (s.mbxBytes q)) 0 1 % 2 = 1), sidebandCo := decide (leAt (mbxBody (s.mbxBytes q)) 0 1 / 2 % 2 = 1) }).respond q.path 0 [])) ∧
    (∀ (q : MbxReq) (s : State) (s1 : State) (im : List (BitVec 8)) (bs : List (BitVec 8)) (s2 : State),
        (s.hearsRequest q) →
        (s.mbxNames q .fwUpdate) →
        (s.mbxAdmit q 2 = (mbxOk, s1)) →
        (s1.sidebandShut q.path 2 = false) →
        (s.glb.mode ≠ .recovery) →
        ((mbxBody (s.mbxBytes q)).length = 16) →
        (s1.firmwareBytes (mbxBody (s.mbxBytes q)) im = (some bs, s2)) →
        exec (.fwUpdate q im) s = .next (
          if Config.firmwareSigned bs ∧ s1.fuses.fwFloor.toNat ≤ (Config.firmwareSecurity bs).toNat then
            (s2.modFlash fun f => { f with fwCopyA := some (Config.firmwareVersion bs), fwSecA := Config.firmwareSecurity bs, fwCopyB := some (Config.firmwareVersion bs), fwSecB := Config.firmwareSecurity bs }).respond q.path 0 []
          else (s2.raise 0x0B07).respond q.path mbxRefused [])) ∧
    (∀ (q : MbxReq) (s : State) (s1 : State),
        (s.hearsRequest q) →
        (s.mbxNames q .raiseFwFloor) →
        (s.mbxAdmit q 2 = (mbxOk, s1)) →
        (s1.sidebandShut q.path 2 = false) →
        exec (.raiseFwFloor q) s = .next ((s1.modFuses fun f => { f with fwFloor := if f.fwFloor.toNat < s1.oz.fwSec.toNat then s1.oz.fwSec else f.fwFloor }).respond q.path 0 [])) ∧
    (∀ (q : MbxReq) (s : State) (s1 : State),
        (s.hearsRequest q) →
        (s.mbxNames q .debugOpen) →
        (s.mbxAdmit q 2 = (mbxOk, s1)) →
        (s1.sidebandShut q.path 2 = false) →
        (s1.fuses.debugLock = false) →
        exec (.debugOpen q) s = .next (((s1.zeroise false).modOz fun o => { o with debugPending := true }).modOz fun o => { o with mbxBusy := some q.path, mbxState := if q.path = .host then 1 else o.mbxState })) ∧
    (∀ (q : MbxReq) (s : State) (s1 : State),
        (s.hearsRequest q) →
        (s.mbxNames q .debugOpen) →
        (s.mbxAdmit q 2 = (mbxOk, s1)) →
        (s1.sidebandShut q.path 2 = false) →
        (s1.fuses.debugLock) →
        exec (.debugOpen q) s = .next (s1.respond q.path mbxRefused [])) ∧
    (∀ (q : MbxReq) (s : State) (s1 : State) (n : Nat),
        (s.hearsRequest q) →
        (s.mbxNames q .installCascadeKey) →
        (s.mbxAdmit q 2 = (mbxOk, s1)) →
        (q.path = .session n) →
        ((mbxBody (s.mbxBytes q)).length = 32) →
        exec (.installCascadeKey q) s = .next ((s1.modFlash fun f => { f with cascadeKey := some (BitVec.ofNat 256 (leNat (mbxBody (s.mbxBytes q)))) }).respond q.path 0 [])) ∧
    (∀ (q : MbxReq) (s : State) (s1 : State),
        (s.hearsRequest q) →
        (s.mbxAdmit q 2 = (mbxOk, s1)) →
        (s1.sidebandShut q.path 2) →
        (s.mbxNames q .setPolicy → exec (.setPolicy q) s = .next (s1.respond q.path mbxRefused [])) ∧
        (s.mbxNames q .raiseFwFloor → exec (.raiseFwFloor q) s = .next (s1.respond q.path mbxRefused [])) ∧
        (s.mbxNames q .installCascadeKey → (∀ n, q.path ≠ .session n) → exec (.installCascadeKey q) s = .next (s1.respond q.path mbxRefused [])))

/-- ERASURE_VERIFIED and TAMPER_DETECT. R435 R443 R445 R446 R449 R491
Where the spec leaves a layout, a value or an order open, this is the model's choice: log entry 79. -/
def Obligations.ErasureAndTamper : Prop :=
    (∀ (s : State),
        (s.oz.zeroiseTick.isSome) →
        (s.oz.zeroiseTamper = false) →
        exec (.erasureVerified) s = .next (
          let s3 := ((((s.modFlash fun f => { f with userKeys := [], imageKeys := [], cascadeKey := none }).raise 0x0B04).msix 45).modTap fun x => { x with testReady := x.testReady || x.testState }).takePins.modOz fun o => { o with zeroiseTick := none, zeroiseTamper := false, debugOpen := o.debugOpen || o.debugPending, debugPending := false };
          match s3.oz.mbxBusy with
          | some path => s3.respond path 0 []
          | none => s3)) ∧
    (∀ (s : State),
        (s.oz.zeroiseTick.isSome) →
        (s.oz.zeroiseTamper) →
        exec (.erasureVerified) s = .next (
          let s3 := ((s.modFlash fun f => { f with userKeys := [], imageKeys := [], cascadeKey := none, ownerCred := none }).modTap fun x => { x with testReady := x.testReady || x.testState }).takePins.modOz fun o => { o with zeroiseTick := none, zeroiseTamper := false, debugOpen := o.debugOpen || o.debugPending, debugPending := false };
          match s3.oz.mbxBusy with
          | some path => s3.respond path 0 []
          | none => s3)) ∧
    (∀ (s : State),
        (s.oz.zeroiseTick = none) →
        exec (.erasureVerified) s = .next (s)) ∧
    (∀ (c : TamperCause) (s : State),
        (s.pwr.on_) →
        (s.pwr.off = false) →
        exec (.tamperDetect c) s = .next (
          ((((s.modFuses fun f => { f with identityKilled := true, deviceSecret := 0 }).modOz fun o => { o with identityKey := none, wrappingKey := none }).modFlash fun f => { f with tamperCause := BitVec.ofNat 3 (tamperCode c), tamperTick := BitVec.ofNat 56 s.tick }).zeroise true).fenceTamper)) ∧
    (∀ (c : TamperCause) (s : State),
        (s.pwr.on_) →
        (s.pwr.off) →
        exec (.tamperDetect c) s = .next (
          ((s.modFuses fun f => { f with identityKilled := true, deviceSecret := 0 }).modOz fun o => { o with identityKey := none, wrappingKey := none }).modPwr fun p => { p with standbyTamper := tamperCode c, standbyTick := s.tick }))

/-- The SPDM responder, over DOE and over MCTP. R439 R446 R450 R451
Where the spec leaves a layout, a value or an order open, this is the model's choice: log entries 7, 17, 22. -/
def Obligations.SpdmResponder : Prop :=
    (∀ (d : Bool) (s : State),
        (s.spdmHears d) →
        exec (.getVersion d) s = .next ((s.setSpdm d {}).spdmSay d 0x04 [0x12, 0x13])) ∧
    (∀ (d : Bool) (v : BitVec 8) (s : State),
        (s.spdmHears d) →
        (v = 0x12 ∨ v = 0x13) →
        exec (.getCapabilities d v) s = .next ((s.setSpdm d { version := v.toNat, caps := true }).spdmSay d 0x61 (natLe 4 spdmCaps))) ∧
    (∀ (d : Bool) (s : State),
        (s.spdmHears d) →
        ((s.spdmConn d).caps) →
        exec (.negotiateAlgorithms d { ecdsaP384 := true, sha384 := true, secp384r1 := true, aes256Gcm := true, keySchedule := true }) s = .next ((s.setSpdm d { s.spdmConn d with algs := true }).spdmSay d 0x63 [])) ∧
    (∀ (d : Bool) (o : Nat) (n : Nat) (s : State),
        (s.spdmHears d) →
        (s.spdmReady d) →
        (o ≤ (Config.certChain s.fuses.serial).length) →
        exec (.getCertificate d 0 o n) s = .next (s.spdmSay d 0x02 (((Config.certChain s.fuses.serial).drop o).take n))) ∧
    (∀ (d : Bool) (n : BitVec 256) (s : State),
        (s.spdmHears d) →
        (s.spdmReady d) →
        (s.fuses.identityKilled = false) →
        exec (.challenge d 0 n) s = .next (
          let r := s.spdmNonce
          let x := natLe 48 (Config.sha384 (Config.certChain s.fuses.serial)).toNat ++ r.1 ++ natLe 48 (Config.sha384 s.allMeasurements).toNat
          r.2.spdmSay d 0x03 (x ++ Config.identitySign s.identity (natLe 32 n.toNat ++ x)))) ∧
    (∀ (d : Bool) (n : BitVec 256) (s : State),
        (s.spdmHears d) →
        (s.spdmReady d) →
        (s.fuses.identityKilled) →
        exec (.challenge d 0 n) s = .next (s.spdmError d 0x05) ∧ exec (.getMeasurements d 0xFF true n) s = .next (s.spdmError d 0x05)) ∧
    (∀ (d : Bool) (i : BitVec 8) (b : Bool) (n : BitVec 256) (s : State),
        (s.spdmHears d) →
        (s.spdmReady d) →
        (i.toNat ≤ 7 ∨ i = 0xFF) →
        (b = false ∨ s.fuses.identityKilled = false) →
        exec (.getMeasurements d i b n) s = .next (
          let r := s.spdmNonce
          let x := (if i = 0 then natLe 1 7 else if i = 0xFF then s.allMeasurements else natLe 1 i.toNat ++ s.measurement i.toNat) ++ r.1
          r.2.spdmSay d 0x60 (if b then x ++ Config.identitySign s.identity (natLe 32 n.toNat ++ x) else x))) ∧
    (∀ (d : Bool) (i : BitVec 8) (b : Bool) (n : BitVec 256) (k : Nat) (o : Nat) (l : Nat) (y : Option (BitVec 768)) (s : State),
        (s.spdmHears d) →
        (s.spdmReady d = false) →
        exec (.getCertificate d k o l) s = .next (s.spdmError d 0x04) ∧ exec (.challenge d k n) s = .next (s.spdmError d 0x04) ∧
        exec (.getMeasurements d i b n) s = .next (s.spdmError d 0x04) ∧ exec (.keyExchange d k y) s = .next (s.spdmError d 0x04)) ∧
    (∀ (d : Bool) (i : BitVec 8) (b : Bool) (n : BitVec 256) (k : Nat) (o : Nat) (l : Nat) (y : Option (BitVec 768)) (s : State),
        (s.spdmHears d) →
        (s.spdmReady d) →
        k ≠ 0 →
        (7 < i.toNat ∧ i ≠ 0xFF) →
        exec (.getCertificate d k o l) s = .next (s.spdmError d 0x01) ∧ exec (.challenge d k n) s = .next (s.spdmError d 0x01) ∧
        exec (.getMeasurements d i b n) s = .next (s.spdmError d 0x01) ∧ exec (.keyExchange d k y) s = .next (s.spdmError d 0x01)) ∧
    (∀ (d : Bool) (k : Option (BitVec 768)) (s : State),
        (s.spdmHears d) →
        (s.spdmReady d) →
        ((s.oz.sessions.filter fun x => x.doe == d).length < 2) →
        (s.fuses.identityKilled = false) →
        exec (.keyExchange d 0 k) s = .next (
          let r := s.spdmNonce
          let x := natLe 2 s.freeSession ++ r.1
          (r.2.modOz fun o => { o with sessions := o.sessions ++ [{ id := s.freeSession, doe := d, reqKey := k, beat := s.tick }] }).spdmSay d 0x64 (x ++ Config.identitySign s.identity x))) ∧
    (∀ (d : Bool) (k : Option (BitVec 768)) (s : State),
        (s.spdmHears d) →
        (s.spdmReady d) →
        (2 ≤ (s.oz.sessions.filter fun x => x.doe == d).length) →
        exec (.keyExchange d 0 k) s = .next (s.spdmError d 0x03)) ∧
    (∀ (i : Nat) (p : List (BitVec 8)) (s : State) (x : Session),
        (s.session i = some x) →
        (s.spdmHears x.doe) →
        (x.open_ = false) →
        exec (.finish i p) s = .next (
          if Config.finishValid x.reqKey s.fuses.serial i p then
            let r := match x.reqKey with
              | some k => s.keyRole k
              | none => (0, 0)
            (s.modSession i fun x => { x with open_ := true, role := r.1, key := r.2, mutualAuth := decide (r.1 ≠ 0), beat := s.tick }).spdmSay x.doe 0x65 []
          else (s.endSession i).spdmError x.doe 0x06)) ∧
    (∀ (i : Nat) (s : State) (x : Session),
        (s.session i = some x) →
        (s.spdmHears x.doe) →
        (x.open_) →
        exec (.keyUpdate i) s = .next ((s.modSession i fun x => { x with keyGen := x.keyGen + 1, beat := s.tick }).spdmSay x.doe 0x69 []) ∧
        exec (.spdmHeartbeat i) s = .next ((s.modSession i fun x => { x with beat := s.tick }).spdmSay x.doe 0x68 [])) ∧
    (∀ (i : Nat) (s : State) (x : Session),
        (s.session i = some x) →
        (s.spdmHears x.doe) →
        exec (.endSession i) s = .next ((s.endSession i).spdmSay x.doe 0x6C []))

/-- Keying the link IDE stream, and the binding of the port. R435 R450 R452
Where the spec leaves a layout, a value or an order open, this is the model's choice: log entries 17, 22, 71, 80. -/
def Obligations.IdeBinding : Prop :=
    (∀ (i : Nat) (t : Bool) (s : State) (x : Session),
        (s.doeSession i = some x) →
        (s.host.ideSession ≠ some i) →
        (s.host.bound = false) →
        exec (.keyProg i t) s = .next (
          ((((s.stopIde 0).modHost fun h => { h with ideSession := some i }).modOz fun o => { o with ideKeyTx := t, ideKeyRx := !t }).modHost fun h => { h with ide := 1 }).spdmSay true 0x80 [])) ∧
    (∀ (i : Nat) (t : Bool) (s : State) (x : Session),
        (s.doeSession i = some x) →
        (s.host.ideSession = some i) →
        exec (.keyProg i t) s = .next (
          (((s.modHost fun h => { h with ideSession := some i }).modOz fun o => { o with ideKeyTx := o.ideKeyTx || t, ideKeyRx := o.ideKeyRx || !t }).modHost fun h => { h with ide := if h.ide = 2 then 2 else 1 }).spdmSay true 0x80 [])) ∧
    (∀ (i : Nat) (t : Bool) (s : State) (x : Session),
        (s.doeSession i = some x) →
        (s.host.ideSession ≠ some i) →
        (s.host.bound) →
        exec (.keyProg i t) s = .next (s.spdmError true 0x01)) ∧
    (∀ (i : Nat) (t : Bool) (s : State) (x : Session),
        (s.doeSession i = some x) →
        (s.host.ideSession = some i) →
        (if t then s.oz.ideKeyTx else s.oz.ideKeyRx) →
        exec (.kSetGo i t) s = .next (
          let s1 := s.modOz fun o => { o with ideTx := o.ideTx || t, ideRx := o.ideRx || !t }
          (s1.modHost fun h => { h with ide := if s1.oz.ideTx && s1.oz.ideRx then 2 else h.ide, bound := h.bound || (s1.oz.ideTx && s1.oz.ideRx && x.mutualAuth) }).spdmSay true 0x81 [])) ∧
    (∀ (i : Nat) (t : Bool) (s : State) (x : Session),
        (s.doeSession i = some x) →
        (s.host.ideSession ≠ some i) →
        exec (.kSetGo i t) s = .next (s.spdmError true 0x01)) ∧
    (∀ (i : Nat) (t : Bool) (s : State) (x : Session),
        (s.doeSession i = some x) →
        (s.host.ideSession = some i) →
        ((if t then s.oz.ideKeyTx else s.oz.ideKeyRx) = false) →
        exec (.kSetGo i t) s = .next (s.spdmError true 0x01)) ∧
    (∀ (i : Nat) (t : Bool) (s : State),
        (s.doeSession i = none) →
        exec (.keyProg i t) s = .next (s.ideDeclined i) ∧ exec (.kSetGo i t) s = .next (s.ideDeclined i)) ∧
    (∀ (s : State),
        (s.oz.ideTx || s.oz.ideRx) →
        exec (.ideCheckFail) s = .next (((s.raise 0x0B02).msix 45).stopIde 3)) ∧
    (∀ (s : State),
        ((s.oz.ideTx || s.oz.ideRx) = false) →
        exec (.ideCheckFail) s = .next (s))

/-- The memory-device mailbox of the CXL port. R408 R436 R437 -/
def Obligations.CxlMailbox : Prop :=
    (∀ (s : State),
        (s.host.linkUp) →
        (s.host.cxl) →
        (s.oz.up) →
        exec (.identifyMemoryDevice) s = .next ((s.modHost fun h => { h with cxlResp := natLe 16 s.oz.fwVersion.toNat ++ natLe 8 8192 ++ natLe 8 8192 ++ natLe 8 0, cxlStatus := 0 }).emit (.response 4 0 (natLe 16 s.oz.fwVersion.toNat ++ natLe 8 8192 ++ natLe 8 8192 ++ natLe 8 0)))) ∧
    (∀ (s : State) (t : Nat) (ce : Nat),
        (s.host.linkUp) →
        (s.host.cxl) →
        (s.oz.up) →
        (t = max ((s.half 0).hotStack.toNat / 4) ((s.half 1).hotStack.toNat / 4)) →
        (ce = allStacks.foldl (fun n k => n + (s.stack k).ceCount) 0) →
        (s.glb.fencedStacks = 0) →
        (s.glb.fencedHalves = 0) →
        exec (.getHealthInfo) s = .next ((s.modHost fun h => { h with cxlResp := natLe 1 0 ++ natLe 2 t ++ natLe 4 (min ce (2 ^ 32 - 1)), cxlStatus := 0 }).emit (.response 4 0 (natLe 1 0 ++ natLe 2 t ++ natLe 4 (min ce (2 ^ 32 - 1)))))) ∧
    (∀ (l : Nat) (s : State),
        (s.host.linkUp) →
        (s.host.cxl) →
        (s.oz.up) →
        exec (.getEventRecords l) s = .next ((s.modHost fun h => { h with cxlResp := (s.host.cxlEvents.filter fun e => e.1 = l).flatMap fun e => natLe 16 e.2.toNat, cxlStatus := 0 }).emit (.response 4 0 ((s.host.cxlEvents.filter fun e => e.1 = l).flatMap fun e => natLe 16 e.2.toNat)))) ∧
    (∀ (l : Nat) (n : Nat) (s : State),
        (s.host.linkUp) →
        (s.host.cxl) →
        (s.oz.up) →
        exec (.clearEventRecords l n) s = .next ((s.modHost fun h => { h with cxlEvents := clearEvents l (min n h.cxlEvents.length) h.cxlEvents, cxlResp := [], cxlStatus := 0 }).emit (.response 4 0 []))) ∧
    (∀ (a : Nat) (n : Nat) (s : State),
        (s.host.linkUp) →
        (s.host.cxl) →
        (s.oz.up) →
        exec (.getPoisonList a n) s = .next ((s.modHost fun h => { h with cxlResp := (s.mpoison.filter fun x => x.2 && decide (a ≤ x.1 * 32 ∧ x.1 * 32 < a + n)).flatMap fun x => natLe 8 (x.1 * 32), cxlStatus := 0 }).emit (.response 4 0 ((s.mpoison.filter fun x => x.2 && decide (a ≤ x.1 * 32 ∧ x.1 * 32 < a + n)).flatMap fun x => natLe 8 (x.1 * 32))))) ∧
    (∀ (s : State),
        (s.host.linkUp) →
        (s.host.cxl) →
        (s.oz.up) →
        exec (.getSupportedLogs) s = .next ((s.modHost fun h => { h with cxlResp := natLe 2 1 ++ natLe 4 4096, cxlStatus := 0 }).emit (.response 4 0 (natLe 2 1 ++ natLe 4 4096)))) ∧
    (∀ (o : Nat) (n : Nat) (s : State),
        (s.host.linkUp) →
        (s.host.cxl) →
        (s.oz.up) →
        exec (.cxlGetLog o n) s = .next ((s.modHost fun h => { h with cxlResp := (s.faultLogBytes.drop o).take n, cxlStatus := 0 }).emit (.response 4 0 ((s.faultLogBytes.drop o).take n)))) ∧
    (∀ (s : State),
        (s.host.linkUp) →
        (s.host.cxl) →
        (s.oz.up) →
        exec (.getFwInfo) s = .next ((s.modHost fun h => { h with cxlResp := natLe 1 2 ++ natLe 1 (b2n s.oz.fwCopyB) ++ natLe 4 (s.flash.fwCopyA.getD 0).toNat ++ natLe 4 (s.flash.fwCopyB.getD 0).toNat, cxlStatus := 0 }).emit (.response 4 0 (natLe 1 2 ++ natLe 1 (b2n s.oz.fwCopyB) ++ natLe 4 (s.flash.fwCopyA.getD 0).toNat ++ natLe 4 (s.flash.fwCopyB.getD 0).toNat)))) ∧
    (∀ (l : Nat) (n : Nat) (o : Nat) (s : State),
        (s.host.cxl = false) →
        exec .identifyMemoryDevice s = .next s ∧ exec .getHealthInfo s = .next s ∧ exec (.getEventRecords l) s = .next s ∧
        exec (.clearEventRecords l n) s = .next s ∧ exec (.getPoisonList l n) s = .next s ∧ exec .getSupportedLogs s = .next s ∧
        exec (.cxlGetLog o n) s = .next s ∧ exec .getFwInfo s = .next s)

/-- Instructions of the test access port. R487 R488 R491 R492
Where the spec leaves a layout, a value or an order open, this is the model's choice: log entries 25, 51. -/
def Obligations.TestAccessPort : Prop :=
    (∀ (s : State),
        (s.pwr.on_) →
        (s.tap.testReady = false) →
        exec .bypass s = .next (s.modTap fun t => { t with ir := 0xFF, irShift := 0xFF, drive := .functional }) ∧
        exec .idcode s = .next (s.modTap fun t => { t with ir := 0x01, irShift := 0x01, drive := .functional }) ∧
        exec .samplePreload s = .next (s.modTap fun t => { t with ir := 0x02, irShift := 0x02, drive := .functional }) ∧
        exec .extest s = .next (s.modTap fun t => { t with ir := 0x03, irShift := 0x03, drive := .functional }) ∧
        exec .clamp s = .next (s.modTap fun t => { t with ir := 0x04, irShift := 0x04, drive := .functional }) ∧
        exec .highz s = .next (s.modTap fun t => { t with ir := 0x05, irShift := 0x05, drive := .functional }) ∧
        exec .extestPulse s = .next (s.modTap fun t => { t with ir := 0x06, irShift := 0x06, drive := .functional }) ∧
        exec .extestTrain s = .next (s.modTap fun t => { t with ir := 0x07, irShift := 0x07, drive := .functional })) ∧
    (∀ (s : State),
        (s.pwr.on_) →
        (s.tap.testReady) →
        exec .bypass s = .next (s.modTap fun t => { t with ir := 0xFF, irShift := 0xFF, drive := .functional }) ∧
        exec .idcode s = .next (s.modTap fun t => { t with ir := 0x01, irShift := 0x01, drive := .functional }) ∧
        exec .samplePreload s = .next (s.modTap fun t => { t with ir := 0x02, irShift := 0x02, drive := .functional }) ∧
        exec .extest s = .next ((s.modTap fun t => { t with ir := 0x03, irShift := 0x03, drive := .boundary }).dropHostLink) ∧
        exec .clamp s = .next ((s.modTap fun t => { t with ir := 0x04, irShift := 0x04, drive := .clamp }).dropHostLink) ∧
        exec .highz s = .next ((s.modTap fun t => { t with ir := 0x05, irShift := 0x05, drive := .highz }).dropHostLink) ∧
        exec .extestPulse s = .next ((s.modTap fun t => { t with ir := 0x06, irShift := 0x06, drive := .pulse }).dropHostLink) ∧
        exec .extestTrain s = .next ((s.modTap fun t => { t with ir := 0x07, irShift := 0x07, drive := .train }).dropHostLink)) ∧
    (∀ (s : State),
        (s.pwr.on_) →
        (s.tap.testState = false) →
        (s.tap.testReady = false) →
        (s.pwr.off = false) →
        (s.oz.up) →
        exec (.testEnter false) s = .next (
          let s1 := s.modTap fun t => { t with testN := false, ir := 0x10, irShift := 0x10, drive := .functional }
          (((s1.zeroise false).modOz fun o => { o with mbxBusy := none, debugPending := false, mbxState := if o.mbxState = 1 then 0 else o.mbxState }).toManagement).modTap fun t => { t with testState := true })) ∧
    (∀ (s : State),
        (s.pwr.on_) →
        (s.tap.testReady = false) →
        exec (.testEnter true) s = .next (s.modTap fun t => { t with testN := true, ir := 0x10, irShift := 0x10, drive := .functional })) ∧
    (∀ (s : State),
        (s.pwr.on_) →
        exec (.tapReset) s = .next (s.modTap fun t => { t with st := .testLogicReset, ir := 0x01, drive := .functional, tdo := none })) ∧
    (∀ (s : State),
        (s.pwr.on_ = false) →
        exec .tapReset s = .next s ∧ exec .bypass s = .next s ∧ exec .idcode s = .next s ∧ exec .samplePreload s = .next s ∧ exec .extest s = .next s ∧ exec .clamp s = .next s ∧ exec .highz s = .next s ∧ exec .extestPulse s = .next s ∧ exec .extestTrain s = .next s)

/-- Rising and falling edges of TCK. R487 R488 R489 R490
Where the spec leaves a layout, a value or an order open, this is the model's choice: log entry 25. -/
def Obligations.TapEdges : Prop :=
    (∀ (tdi : Bool) (tms : Bool) (tn : Bool) (pins : BitVec 563) (s : State),
        (s.pwr.on_) →
        (s.tap.st = .shiftIr) →
        exec (.tckEdge true tdi tms tn pins) s = .next ((s.modTap fun t => { t with pins := s.observe pins, testN := tn }).modTap fun t => { t with irShift := (t.irShift >>> 1) ||| (if tdi then 0x80 else 0), st := if tms then .exit1Ir else .shiftIr })) ∧
    (∀ (tdi : Bool) (tms : Bool) (tn : Bool) (pins : BitVec 563) (s : State),
        (s.pwr.on_) →
        (s.tap.st = .captureIr) →
        exec (.tckEdge true tdi tms tn pins) s = .next ((s.modTap fun t => { t with pins := s.observe pins, testN := tn }).modTap fun t => { t with irShift := if t.testState then 0x05 else 0x01, st := if tms then .exit1Ir else .shiftIr })) ∧
    (∀ (tdi : Bool) (tms : Bool) (tn : Bool) (pins : BitVec 563) (s : State),
        (s.pwr.on_) →
        (s.tap.st = .captureDr) →
        (s.tap.ir = 0x01) →
        exec (.tckEdge true tdi tms tn pins) s = .next ((s.modTap fun t => { t with pins := s.observe pins, testN := tn }).modTap fun t => { t with idShift := s.idCode, st := if tms then .exit1Dr else .shiftDr })) ∧
    (∀ (tdi : Bool) (tms : Bool) (tn : Bool) (pins : BitVec 563) (s : State),
        (s.pwr.on_) →
        (s.tap.st = .shiftDr) →
        (s.tap.ir = 0x01) →
        exec (.tckEdge true tdi tms tn pins) s = .next ((s.modTap fun t => { t with pins := s.observe pins, testN := tn }).modTap fun t => { t with idShift := (t.idShift >>> 1) ||| (if tdi then 0x80000000 else 0), st := if tms then .exit1Dr else .shiftDr })) ∧
    (∀ (tdi : Bool) (tms : Bool) (tn : Bool) (pins : BitVec 563) (s : State),
        (s.pwr.on_) →
        (s.tap.st = .shiftDr) →
        (s.tap.ir = 0xFF) →
        exec (.tckEdge true tdi tms tn pins) s = .next ((s.modTap fun t => { t with pins := s.observe pins, testN := tn }).modTap fun t => { t with bypass := tdi, st := if tms then .exit1Dr else .shiftDr })) ∧
    (∀ (tdi : Bool) (tms : Bool) (tn : Bool) (pins : BitVec 563) (s : State),
        (s.pwr.on_) →
        (s.tap.st = .shiftDr) →
        (s.tap.testReady) →
        (s.tap.ir = 0x03) →
        exec (.tckEdge true tdi tms tn pins) s = .next ((s.modTap fun t => { t with pins := s.observe pins, testN := tn }).modTap fun t => { t with bndShift := (t.bndShift >>> 1) ||| (if tdi then 1#563 <<< 562 else 0), st := if tms then .exit1Dr else .shiftDr })) ∧
    (∀ (tdi : Bool) (tms : Bool) (tn : Bool) (pins : BitVec 563) (s : State),
        (s.pwr.on_) →
        (s.tap.st = .updateIr) →
        exec (.tckEdge false tdi tms tn pins) s = .next (((s.modTap fun t => { t with pins := s.observe pins, testN := tn }).loadInstr s.tap.irShift).modTap fun t => { t with tdo := t.out })) ∧
    (∀ (tdi : Bool) (tms : Bool) (tn : Bool) (pins : BitVec 563) (s : State),
        (s.pwr.on_) →
        (s.tap.st = .shiftIr) →
        exec (.tckEdge false tdi tms tn pins) s = .next ((s.modTap fun t => { t with pins := s.observe pins, testN := tn }).modTap fun t => { t with tdo := some (bit t.irShift 0) }))

/-- A step runs the command at the front of the queue. 00_scope.md -/
def Obligations.FrontCommandRuns : Prop :=
    (∀ (c : Instr) (rest : List Instr) (s : State), s.pending = c :: rest → step s = exec c { s with pending := rest }) ∧
    (∀ (s : State), s.pending = [] → step s = .next s.tickOnce) ∧
    (∀ (s : State) (n w : Nat), s.withFetchWord n w = s)

/-- Every command completes in every state. R13 R463 -/
def Obligations.EveryCommandCompletes : Prop :=
    ∀ (c : Instr) (s : State), Completes (exec c s)

/-- Every step keeps stack memory in its canonical form. R204 R211 -/
def Obligations.StepKeepsMemoryCanonical : Prop :=
    ∀ (s t : State), s.Inv → step s = .next t → t.Inv

/-- Memory at reset is in its canonical form, and reads zero. R211 -/
def Obligations.ResetMemoryCanonical : Prop :=
    State.reset.Inv ∧ (∀ a : Nat, State.reset.memByte a = 0) ∧ State.reset.pending = []

/-- No command changes the queue of waiting commands. 00_scope.md -/
def Obligations.QueueUntouched : Prop :=
    ∀ (c : Instr) (s t : State), exec c s = .next t → t.pending = s.pending

/-- The fields of the identification code. R489 -/
def Obligations.IdentificationCode : Prop :=
    (∀ (s : State),
        s.idCode.extractLsb' 0 1 = 1#1 ∧ s.idCode.extractLsb' 1 11 = 0x6A7#11 ∧
        s.idCode.extractLsb' 12 16 = (if s.fuses.isFx7 then 0x8F07#16 else 0x8F08#16) ∧
        s.idCode.extractLsb' 28 4 = s.fuses.stepping.extractLsb' 0 4 ∧
        (s.fuses.stepping = 1 → s.idCode = if s.fuses.isFx7 then 0x18F07D4F#32 else 0x18F08D4F#32)) ∧
    (∀ (tdi tms tn : Bool) (pins : BitVec 563) (s : State), s.pwr.on_ → s.tap.st = .captureDr → s.tap.ir = 0x01 →
        ∃ t, exec (.tckEdge true tdi tms tn pins) s = .next t ∧ t.tap.idShift = s.idCode)

/-- SET_POLICY and the policy from the factory. R448
The body of the request, one byte with REQUIRE_BIND in bit 0 and SIDEBAND_CO in bit 1, is the model's choice: log entries 21, 80. -/
def Obligations.PolicyWrites : Prop :=
    (State.reset.flash.requireBind = true ∧ State.reset.flash.sidebandCo = false) ∧
    (∀ (q : MbxReq) (s s1 : State), s.hearsRequest q → s.mbxNames q .setPolicy → s.mbxAdmit q 2 = (mbxOk, s1) → s1.sidebandShut q.path 2 = false →
        (mbxBody (s.mbxBytes q)).length = 1 →
        ∃ t, exec (.setPolicy q) s = .next t ∧
          (t.flash.requireBind = true ↔ leAt (mbxBody (s.mbxBytes q)) 0 1 % 2 = 1) ∧
          (t.flash.sidebandCo = true ↔ leAt (mbxBody (s.mbxBytes q)) 0 1 / 2 % 2 = 1) ∧
          (s.flash.requireBind = false → t.flash.requireBind = true → s.host.bound = false → t.windowClosed = true ∧ ∀ o, t.takesWrite o = false))

/-- Test state ends with a cold reset alone: removal of 48 V, or the rising edge of MOD_EN after its low period, which itself only puts
the module in M4. R493 -/
def Obligations.TestStateLeft : Prop :=
    (∀ (c : Instr) (s t : State), s.tap.testState → exec c s = .next t → t.tap.testState = false →
        (∃ mv b x, c = .powerOn mv b x) ∨ (∃ mv, c = .inputTurnOff mv) ∨ (∃ x, c = .modEnRise x)) ∧
    (∀ (mv : Nat) (s : State), s.tap.testState → s.pwr.on_ → mv < 35000 → ∃ t, exec (.inputTurnOff mv) s = .next t ∧
        t.tap.testState = false ∧ t.oz.debugOpen = false ∧ t.flash.cascadeKey = none ∧ t.flash.userKeys = [] ∧ t.flash.imageKeys = [] ∧ t.glb.step = 0 ∧ t.glb.coldStart = true) ∧
    (∀ (s : State), s.tap.testState → s.pwr.on_ → ∃ t, exec .modEnLow s = .next t ∧
        t.tap.testState ∧ t.pwr.modEn = false ∧ t.pwr.off ∧ t.oz.debugOpen = false ∧ t.flash.cascadeKey = none ∧ t.flash.userKeys = [] ∧ t.flash.imageKeys = [] ∧ t.glb.step = 0 ∧ t.glb.coldStart = true) ∧
    (∀ (x : BitVec 2) (s : State), s.tap.testState → s.pwr.on_ → s.pwr.modEn = false → ∃ t, exec (.modEnRise x) s = .next t ∧
        t.tap.testState = false ∧ t.oz.debugOpen = false ∧ t.flash.cascadeKey = none ∧ t.flash.userKeys = [] ∧ t.flash.imageKeys = [] ∧ t.glb.step = 0 ∧ t.glb.coldStart = true)

/-- A host write stores its bytes and no others. R206 R209 R226 R228 R431
Where the spec leaves a layout, a value or an order open, this is the model's choice: log entries 58, 73. -/
def Obligations.HostWriteStores : Prop :=
    ∀ (a : BitVec 41) (n : Nat) (d : List (BitVec 8)) (s t : State) (x : Nat), s.Inv → s.hostHears → s.windowClosed = false →
      0 < d.length → a.toNat % 32 + d.length ≤ 32 → inStore a.toNat = false → s.writeRoute a.toNat = .ok [x] →
      tabGet false s.mpoison (x / 32) = false → tabGet [] s.symErr (x / 32) = [] → tabGet [] (s.half (addrHalf a.toNat)).tcErr (a.toNat / 32) = [] →
      (allStacks.all fun k => (s.stack k).copies = []) → s.waitingAt (fin32 (stackOf a.toNat)) = [] →
      exec (.bar2Request true a n d) s = .next t →
      (∀ i, i < d.length → t.memByte (x / 32 * 32 + a.toNat % 32 + i) = d.getD i 0) ∧
      (∀ y, y < x / 32 * 32 + a.toNat % 32 ∨ x / 32 * 32 + a.toNat % 32 + d.length ≤ y → t.memByte y = s.memByte y)

/-- What the commands of one half-die's clocks leave unchanged. R374 R375 R378 R379 R380 R390 -/
def Obligations.FrameOfClocks : Prop :=
    ∀ (h : Fin 2) (c : Instr) (s t : State),
      c ∈ [Instr.grantRecompute h, .opSwitchCommit h, .opSwitchComplete h, .pllUnlock h, .pllLockCheckPass h, .droopDetect h, .droopWindowEnd h, .thermalEase h] →
      exec c s = .next t →
      t = { s with halves := t.halves } ∧ (∀ k, k ≠ h → t.half k = s.half k) ∧
      (t.half h).up = (s.half h).up ∧ (t.half h).bridgeOpen = (s.half h).bridgeOpen ∧ (t.half h).tc = (s.half h).tc ∧ (t.half h).loans = (s.half h).loans ∧
      (t.half h).morEntries = (s.half h).morEntries ∧ (t.half h).arrCycle = (s.half h).arrCycle ∧ (t.half h).opLimit = (s.half h).opLimit ∧ (t.half h).capLimit = (s.half h).capLimit

/-- What the instructions of the test access port leave unchanged. R487 R488 R491 R492 -/
def Obligations.FrameOfTheTap : Prop :=
    ∀ (c : Instr) (s t : State),
      c ∈ [Instr.tapReset, .bypass, .idcode, .samplePreload, .extest, .clamp, .highz, .extestPulse, .extestTrain] → exec c s = .next t →
      t = { s with tap := t.tap, host := t.host, oz := t.oz } ∧ t.tap.testState = s.tap.testState ∧ t.tap.testReady = s.tap.testReady ∧
      t.tap.bnd = s.tap.bnd ∧ t.oz.sessions = s.oz.sessions ∧ t.oz.nonce = s.oz.nonce ∧ t.oz.up = s.oz.up ∧
      t.host.msixPending = s.host.msixPending ∧ t.host.configUp = s.host.configUp ∧
      (s.tap.testReady = false → t.host = s.host ∧ t.oz = s.oz)

/-- What the SPDM responder and the CXL mailbox leave unchanged, and the responses they give. R436 R450 R451
Where the spec leaves a layout, a value or an order open, this is the model's choice: log entry 22. -/
def Obligations.FrameOfSpdmAndCxl : Prop :=
    (∀ (d b : Bool) (v i : BitVec 8) (f : SpdmOffer) (k o n : Nat) (x : BitVec 256) (y : Option (BitVec 768)) (c : Instr) (s t : State),
        c ∈ [Instr.getVersion d, .getCapabilities d v, .negotiateAlgorithms d f, .getCertificate d k o n, .challenge d k x, .getMeasurements d i b x, .keyExchange d k y, .keyUpdate k, .spdmHeartbeat k] →
        exec c s = .next t →
        t = { s with oz := t.oz, out := t.out, freeCtr := t.freeCtr } ∧
        t.oz = { s.oz with spdm := t.oz.spdm, sessions := t.oz.sessions, drbg := t.oz.drbg }) ∧
    (∀ (l n : Nat) (c : Instr) (s t : State),
        c ∈ [Instr.identifyMemoryDevice, .getHealthInfo, .getEventRecords l, .clearEventRecords l n, .getPoisonList l n, .getSupportedLogs, .cxlGetLog l n, .getFwInfo] →
        exec c s = .next t →
        t = { s with host := t.host, out := t.out } ∧
        t.host = { s.host with cxlResp := t.host.cxlResp, cxlStatus := t.host.cxlStatus, cxlEvents := t.host.cxlEvents }) ∧
    (∀ (d : Bool) (b : Bool) (n : BitVec 256) (o : Nat) (l : Nat) (k : Option (BitVec 768)) (s : State),
        (s.spdmHears d) →
        (s.spdmReady d) →
        ((s.spdmConn d).caps) →
        (o ≤ (Config.certChain s.fuses.serial).length) →
        (s.fuses.identityKilled = false) →
        ((s.oz.sessions.filter fun x => x.doe == d).length < 2) →
        let answers (c : Instr) (code : Nat) := ∃ t x, exec c s = .next t ∧ t.out = .response (if d then 0 else 1) code x :: s.out
        answers (.getVersion d) 0x04 ∧ answers (.getCapabilities d 0x12) 0x61 ∧ answers (.getCapabilities d 0x13) 0x61 ∧
        answers (.negotiateAlgorithms d { ecdsaP384 := true, sha384 := true, secp384r1 := true, aes256Gcm := true, keySchedule := true }) 0x63 ∧
        answers (.getCertificate d 0 o l) 0x02 ∧ answers (.challenge d 0 n) 0x03 ∧ answers (.getMeasurements d 0xFF b n) 0x60 ∧
        answers (.keyExchange d 0 k) 0x64) ∧
    (∀ (i : Nat) (p : List (BitVec 8)) (s : State) (x : Session),
        (s.session i = some x) →
        (s.spdmHears x.doe) →
        let answers (c : Instr) (code : Nat) := ∃ t y, exec c s = .next t ∧ t.out.head? = some (.response (if x.doe then 0 else 1) code y)
        (x.open_ → answers (.keyUpdate i) 0x69 ∧ answers (.spdmHeartbeat i) 0x68) ∧
        (x.open_ = false → Config.finishValid x.reqKey s.fuses.serial i p → answers (.finish i p) 0x65) ∧
        answers (.endSession i) 0x6C)

/-- The residue of a lane, taken from its 48-bit pattern as rime_of_lane takes it; the rime of a block as the sum of its
528 lanes; a residue word is never made 0xFFFF and, read as that, counts as 0. R284 -/
def Obligations.LaneResidues : Prop :=
    (∀ u : Nat, u < 2 ^ 48 →
        rimeOfLane (signed 48 u) = (u % 2 ^ 16 + u / 2 ^ 16 % 2 ^ 16 + u / 2 ^ 32 + (if signed 48 u < 0 then 65534 else 0)) % 65535) ∧
    (∀ (s : State) (base blk : Nat), (s.lanesOf base blk).length = 528 ∧ rimeOf (s.lanesOf base blk) ≤ 65534 ∧
        (rimeOf (s.lanesOf base blk) : Int) = (s.lanesOf base blk).sum % 65535) ∧
    (∀ a b : Nat, a ≤ 65534 → b ≤ 65534 → rimeAdd a b = (a + b) % 65535 ∧ rimeAdd 0xFFFF b = rimeAdd 0 b ∧ rimeAdd a b ≠ 0xFFFF) ∧
    (∀ (s : State) (base blk : Nat), s.residueOf base blk ≠ 0xFFFF ∧
        (leNat (s.regionBytes (blockResidue base blk) 2) = 0xFFFF → s.residueOf base blk = 0))

/-- The stack, channel, bank, row and column of an address, field by field; and every place in a stack is that of exactly
one address. R206 -/
def Obligations.AddressMap : Prop :=
    (∀ a : BitVec 41,
        stackOf a.toNat = 16 * (a.extractLsb' 40 1).toNat +
          (a.extractLsb' 16 4 ^^^ a.extractLsb' 20 4 ^^^ a.extractLsb' 24 4 ^^^ a.extractLsb' 28 4).toNat ∧
        channelOf a.toNat = (a.extractLsb' 11 4 ^^^ a.extractLsb' 24 4).toNat ∧
        bankOf a.toNat = ((a.extractLsb' 20 4 ^^^ a.extractLsb' 32 4) ++ (a.extractLsb' 15 1 ^^^ a.extractLsb' 24 1)).toNat ∧
        rowOf a.toNat = (a.extractLsb' 24 16).toNat ∧
        columnOf a.toNat = (a.extractLsb' 5 6).toNat) ∧
    (∀ (k : Fin 32) (channel : Fin 16) (bank : Fin 32) (row : Fin 65536) (column : Fin 64) (byte : Fin 32),
        ∃ a : BitVec 41, ∀ b : BitVec 41,
          (stackOf b.toNat = k.val ∧ channelOf b.toNat = channel.val ∧ bankOf b.toNat = bank.val ∧ rowOf b.toNat = row.val ∧
            columnOf b.toNat = column.val ∧ b.toNat % 32 = byte.val) ↔ b = a)
end

