-- ==== Sys2Proof/Laws/Access.lean ====
section
/-! SUPPORT. What a host's access does once it reaches the node that owns the register. -/

namespace Sys2Proof.Machine

/-- A write that reaches its owner has its effect, whatever the offset. -/
theorem State.bar0Write_of_takesWrite {s : State} {o : Owner} (h : s.takesWrite o) (off : BitVec 27) (b : Bool)
    (f : State → State) : s.bar0Write off o b f = f s := by
  simp only [State.takesWrite, Bool.and_eq_true, Bool.not_eq_true', Bool.or_eq_true, decide_eq_true_eq] at h
  obtain ⟨⟨⟨⟨h1, h2⟩, h3⟩, h4⟩, h5⟩ := h
  rcases h3 with h3 | h3
  · simp [State.bar0Write, h1, h2, h3, h4, h5]
  · subst h3
    simp [State.bar0Write, h1, h2, h4, h5]

/-- A doorbell that reaches its owner has its effect. -/
theorem State.bar4Write_of_takesDoorbell {s : State} {o : Owner} (h : s.takesDoorbell o) (off : BitVec 27)
    (f : State → State) : s.bar4Write off o f = f s := by
  simp only [State.takesDoorbell, Bool.and_eq_true, Bool.not_eq_true'] at h
  obtain ⟨⟨h1, h2⟩, h3⟩ := h
  simp [State.bar4Write, h1, h2, h3]

/-- A request that is heard runs. -/
theorem State.mailbox_of_hears {s : State} {q : MbxReq} (h : s.hearsRequest q) (k : MbxCmd) (need : Nat)
    (run : List (BitVec 8) → State → MbxAnswer × State) (side : Bool) :
    s.mailbox q k need run side = s.mbxRun q k need run side := by
  cases hp : q.path with
  | host =>
    simp only [State.hearsRequest, hp, Bool.and_eq_true, Option.isNone_iff_eq_none] at h
    simp [State.mailbox, hp, State.bar0Write, State.ownerUp, h.1, h.2.1, h.2.2]
  | mctp =>
    simp only [State.hearsRequest, hp, Bool.and_eq_true, Option.isNone_iff_eq_none] at h
    simp [State.mailbox, hp, h.1, h.2]
  | session i =>
    simp only [State.hearsRequest, hp, Bool.and_eq_true, Option.isNone_iff_eq_none] at h
    cases hs : s.session i with
    | none => simp [hs] at h
    | some x =>
      simp only [hs, Bool.and_eq_true] at h
      simp [State.mailbox, hp, hs, h.1, h.2.1, h.2.2]

end Sys2Proof.Machine
end

