-- ==== Sys2Proof/Laws/State.lean ====
section
/-! SUPPORT. One lemma per field per update of the state's units: what each named update changes, and that it changes nothing
else. -/

namespace Sys2Proof.Machine

/-- A vector's element just set. -/
theorem vector_get_set {α : Type} {n : Nat} (v : Vector α n) (i : Fin n) (x : α) : (v.set i x).get i = x :=
  show (v.set i.val x i.isLt)[i.val] = x from by simp

/-- A vector's other elements. -/
theorem vector_get_set_ne {α : Type} {n : Nat} (v : Vector α n) (i j : Fin n) (x : α) (h : j ≠ i) :
    (v.set i x).get j = v.get j :=
  have h2 : i.val ≠ j.val := fun e => h (Fin.ext e.symm)
  show (v.set i.val x i.isLt)[j.val] = v[j.val] from by simp [h2]


/-! ### modCore -/

@[simp] theorem State.modCore_pending (s : State) (c : Fin 8) (f : Core → Core) : (s.modCore c f).pending = s.pending := rfl
@[simp] theorem State.modCore_tick (s : State) (c : Fin 8) (f : Core → Core) : (s.modCore c f).tick = s.tick := rfl
@[simp] theorem State.modCore_fencedViews (s : State) (c : Fin 8) (f : Core → Core) : (s.modCore c f).fencedViews = s.fencedViews := rfl
@[simp] theorem State.modCore_freeCtr (s : State) (c : Fin 8) (f : Core → Core) : (s.modCore c f).freeCtr = s.freeCtr := rfl
@[simp] theorem State.modCore_fuses (s : State) (c : Fin 8) (f : Core → Core) : (s.modCore c f).fuses = s.fuses := rfl
@[simp] theorem State.modCore_flash (s : State) (c : Fin 8) (f : Core → Core) : (s.modCore c f).flash = s.flash := rfl
@[simp] theorem State.modCore_glb (s : State) (c : Fin 8) (f : Core → Core) : (s.modCore c f).glb = s.glb := rfl
@[simp] theorem State.modCore_host (s : State) (c : Fin 8) (f : Core → Core) : (s.modCore c f).host = s.host := rfl
@[simp] theorem State.modCore_oz (s : State) (c : Fin 8) (f : Core → Core) : (s.modCore c f).oz = s.oz := rfl
@[simp] theorem State.modCore_img (s : State) (c : Fin 8) (f : Core → Core) : (s.modCore c f).img = s.img := rfl
@[simp] theorem State.modCore_halves (s : State) (c : Fin 8) (f : Core → Core) : (s.modCore c f).halves = s.halves := rfl
@[simp] theorem State.modCore_stks (s : State) (c : Fin 8) (f : Core → Core) : (s.modCore c f).stks = s.stks := rfl
@[simp] theorem State.modCore_mem (s : State) (c : Fin 8) (f : Core → Core) : (s.modCore c f).mem = s.mem := rfl
@[simp] theorem State.modCore_mpoison (s : State) (c : Fin 8) (f : Core → Core) : (s.modCore c f).mpoison = s.mpoison := rfl
@[simp] theorem State.modCore_symErr (s : State) (c : Fin 8) (f : Core → Core) : (s.modCore c f).symErr = s.symErr := rfl
@[simp] theorem State.modCore_red (s : State) (c : Fin 8) (f : Core → Core) : (s.modCore c f).red = s.red := rfl
@[simp] theorem State.modCore_ports (s : State) (c : Fin 8) (f : Core → Core) : (s.modCore c f).ports = s.ports := rfl
@[simp] theorem State.modCore_cas (s : State) (c : Fin 8) (f : Core → Core) : (s.modCore c f).cas = s.cas := rfl
@[simp] theorem State.modCore_eths (s : State) (c : Fin 8) (f : Core → Core) : (s.modCore c f).eths = s.eths := rfl
@[simp] theorem State.modCore_pwr (s : State) (c : Fin 8) (f : Core → Core) : (s.modCore c f).pwr = s.pwr := rfl
@[simp] theorem State.modCore_tap (s : State) (c : Fin 8) (f : Core → Core) : (s.modCore c f).tap = s.tap := rfl
@[simp] theorem State.modCore_out (s : State) (c : Fin 8) (f : Core → Core) : (s.modCore c f).out = s.out := rfl
@[simp] theorem State.modCore_half (s : State) (c : Fin 8) (f : Core → Core) (u : Fin 2) : (s.modCore c f).half u = s.half u := rfl
@[simp] theorem State.modCore_stack (s : State) (c : Fin 8) (f : Core → Core) (u : Fin 32) : (s.modCore c f).stack u = s.stack u := rfl
@[simp] theorem State.modCore_port (s : State) (c : Fin 8) (f : Core → Core) (u : Fin 18) : (s.modCore c f).port u = s.port u := rfl
@[simp] theorem State.modCore_eth (s : State) (c : Fin 8) (f : Core → Core) (u : Fin 2) : (s.modCore c f).eth u = s.eth u := rfl
@[simp] theorem State.modCore_core (s : State) (c : Fin 8) (f : Core → Core) : (s.modCore c f).core c = f (s.core c) := vector_get_set _ _ _
@[simp] theorem State.modCore_core_ne (s : State) (c : Fin 8) (f : Core → Core) (u : Fin 8) (ne : u ≠ c) : (s.modCore c f).core u = s.core u := vector_get_set_ne _ _ _ _ ne

/-! ### modHalf -/

@[simp] theorem State.modHalf_pending (s : State) (h : Fin 2) (f : Half → Half) : (s.modHalf h f).pending = s.pending := rfl
@[simp] theorem State.modHalf_tick (s : State) (h : Fin 2) (f : Half → Half) : (s.modHalf h f).tick = s.tick := rfl
@[simp] theorem State.modHalf_fencedViews (s : State) (h : Fin 2) (f : Half → Half) : (s.modHalf h f).fencedViews = s.fencedViews := rfl
@[simp] theorem State.modHalf_freeCtr (s : State) (h : Fin 2) (f : Half → Half) : (s.modHalf h f).freeCtr = s.freeCtr := rfl
@[simp] theorem State.modHalf_fuses (s : State) (h : Fin 2) (f : Half → Half) : (s.modHalf h f).fuses = s.fuses := rfl
@[simp] theorem State.modHalf_flash (s : State) (h : Fin 2) (f : Half → Half) : (s.modHalf h f).flash = s.flash := rfl
@[simp] theorem State.modHalf_glb (s : State) (h : Fin 2) (f : Half → Half) : (s.modHalf h f).glb = s.glb := rfl
@[simp] theorem State.modHalf_host (s : State) (h : Fin 2) (f : Half → Half) : (s.modHalf h f).host = s.host := rfl
@[simp] theorem State.modHalf_oz (s : State) (h : Fin 2) (f : Half → Half) : (s.modHalf h f).oz = s.oz := rfl
@[simp] theorem State.modHalf_img (s : State) (h : Fin 2) (f : Half → Half) : (s.modHalf h f).img = s.img := rfl
@[simp] theorem State.modHalf_cores (s : State) (h : Fin 2) (f : Half → Half) : (s.modHalf h f).cores = s.cores := rfl
@[simp] theorem State.modHalf_stks (s : State) (h : Fin 2) (f : Half → Half) : (s.modHalf h f).stks = s.stks := rfl
@[simp] theorem State.modHalf_mem (s : State) (h : Fin 2) (f : Half → Half) : (s.modHalf h f).mem = s.mem := rfl
@[simp] theorem State.modHalf_mpoison (s : State) (h : Fin 2) (f : Half → Half) : (s.modHalf h f).mpoison = s.mpoison := rfl
@[simp] theorem State.modHalf_symErr (s : State) (h : Fin 2) (f : Half → Half) : (s.modHalf h f).symErr = s.symErr := rfl
@[simp] theorem State.modHalf_red (s : State) (h : Fin 2) (f : Half → Half) : (s.modHalf h f).red = s.red := rfl
@[simp] theorem State.modHalf_ports (s : State) (h : Fin 2) (f : Half → Half) : (s.modHalf h f).ports = s.ports := rfl
@[simp] theorem State.modHalf_cas (s : State) (h : Fin 2) (f : Half → Half) : (s.modHalf h f).cas = s.cas := rfl
@[simp] theorem State.modHalf_eths (s : State) (h : Fin 2) (f : Half → Half) : (s.modHalf h f).eths = s.eths := rfl
@[simp] theorem State.modHalf_pwr (s : State) (h : Fin 2) (f : Half → Half) : (s.modHalf h f).pwr = s.pwr := rfl
@[simp] theorem State.modHalf_tap (s : State) (h : Fin 2) (f : Half → Half) : (s.modHalf h f).tap = s.tap := rfl
@[simp] theorem State.modHalf_out (s : State) (h : Fin 2) (f : Half → Half) : (s.modHalf h f).out = s.out := rfl
@[simp] theorem State.modHalf_core (s : State) (h : Fin 2) (f : Half → Half) (u : Fin 8) : (s.modHalf h f).core u = s.core u := rfl
@[simp] theorem State.modHalf_stack (s : State) (h : Fin 2) (f : Half → Half) (u : Fin 32) : (s.modHalf h f).stack u = s.stack u := rfl
@[simp] theorem State.modHalf_port (s : State) (h : Fin 2) (f : Half → Half) (u : Fin 18) : (s.modHalf h f).port u = s.port u := rfl
@[simp] theorem State.modHalf_eth (s : State) (h : Fin 2) (f : Half → Half) (u : Fin 2) : (s.modHalf h f).eth u = s.eth u := rfl
@[simp] theorem State.modHalf_half (s : State) (h : Fin 2) (f : Half → Half) : (s.modHalf h f).half h = f (s.half h) := vector_get_set _ _ _
@[simp] theorem State.modHalf_half_ne (s : State) (h : Fin 2) (f : Half → Half) (u : Fin 2) (ne : u ≠ h) : (s.modHalf h f).half u = s.half u := vector_get_set_ne _ _ _ _ ne

/-! ### modStack -/

@[simp] theorem State.modStack_pending (s : State) (k : Fin 32) (f : Stack → Stack) : (s.modStack k f).pending = s.pending := rfl
@[simp] theorem State.modStack_tick (s : State) (k : Fin 32) (f : Stack → Stack) : (s.modStack k f).tick = s.tick := rfl
@[simp] theorem State.modStack_fencedViews (s : State) (k : Fin 32) (f : Stack → Stack) : (s.modStack k f).fencedViews = s.fencedViews := rfl
@[simp] theorem State.modStack_freeCtr (s : State) (k : Fin 32) (f : Stack → Stack) : (s.modStack k f).freeCtr = s.freeCtr := rfl
@[simp] theorem State.modStack_fuses (s : State) (k : Fin 32) (f : Stack → Stack) : (s.modStack k f).fuses = s.fuses := rfl
@[simp] theorem State.modStack_flash (s : State) (k : Fin 32) (f : Stack → Stack) : (s.modStack k f).flash = s.flash := rfl
@[simp] theorem State.modStack_glb (s : State) (k : Fin 32) (f : Stack → Stack) : (s.modStack k f).glb = s.glb := rfl
@[simp] theorem State.modStack_host (s : State) (k : Fin 32) (f : Stack → Stack) : (s.modStack k f).host = s.host := rfl
@[simp] theorem State.modStack_oz (s : State) (k : Fin 32) (f : Stack → Stack) : (s.modStack k f).oz = s.oz := rfl
@[simp] theorem State.modStack_img (s : State) (k : Fin 32) (f : Stack → Stack) : (s.modStack k f).img = s.img := rfl
@[simp] theorem State.modStack_cores (s : State) (k : Fin 32) (f : Stack → Stack) : (s.modStack k f).cores = s.cores := rfl
@[simp] theorem State.modStack_halves (s : State) (k : Fin 32) (f : Stack → Stack) : (s.modStack k f).halves = s.halves := rfl
@[simp] theorem State.modStack_mem (s : State) (k : Fin 32) (f : Stack → Stack) : (s.modStack k f).mem = s.mem := rfl
@[simp] theorem State.modStack_mpoison (s : State) (k : Fin 32) (f : Stack → Stack) : (s.modStack k f).mpoison = s.mpoison := rfl
@[simp] theorem State.modStack_symErr (s : State) (k : Fin 32) (f : Stack → Stack) : (s.modStack k f).symErr = s.symErr := rfl
@[simp] theorem State.modStack_red (s : State) (k : Fin 32) (f : Stack → Stack) : (s.modStack k f).red = s.red := rfl
@[simp] theorem State.modStack_ports (s : State) (k : Fin 32) (f : Stack → Stack) : (s.modStack k f).ports = s.ports := rfl
@[simp] theorem State.modStack_cas (s : State) (k : Fin 32) (f : Stack → Stack) : (s.modStack k f).cas = s.cas := rfl
@[simp] theorem State.modStack_eths (s : State) (k : Fin 32) (f : Stack → Stack) : (s.modStack k f).eths = s.eths := rfl
@[simp] theorem State.modStack_pwr (s : State) (k : Fin 32) (f : Stack → Stack) : (s.modStack k f).pwr = s.pwr := rfl
@[simp] theorem State.modStack_tap (s : State) (k : Fin 32) (f : Stack → Stack) : (s.modStack k f).tap = s.tap := rfl
@[simp] theorem State.modStack_out (s : State) (k : Fin 32) (f : Stack → Stack) : (s.modStack k f).out = s.out := rfl
@[simp] theorem State.modStack_core (s : State) (k : Fin 32) (f : Stack → Stack) (u : Fin 8) : (s.modStack k f).core u = s.core u := rfl
@[simp] theorem State.modStack_half (s : State) (k : Fin 32) (f : Stack → Stack) (u : Fin 2) : (s.modStack k f).half u = s.half u := rfl
@[simp] theorem State.modStack_port (s : State) (k : Fin 32) (f : Stack → Stack) (u : Fin 18) : (s.modStack k f).port u = s.port u := rfl
@[simp] theorem State.modStack_eth (s : State) (k : Fin 32) (f : Stack → Stack) (u : Fin 2) : (s.modStack k f).eth u = s.eth u := rfl
@[simp] theorem State.modStack_stack (s : State) (k : Fin 32) (f : Stack → Stack) : (s.modStack k f).stack k = f (s.stack k) := vector_get_set _ _ _
@[simp] theorem State.modStack_stack_ne (s : State) (k : Fin 32) (f : Stack → Stack) (u : Fin 32) (ne : u ≠ k) : (s.modStack k f).stack u = s.stack u := vector_get_set_ne _ _ _ _ ne

/-! ### modPort -/

@[simp] theorem State.modPort_pending (s : State) (p : Fin 18) (f : Port → Port) : (s.modPort p f).pending = s.pending := rfl
@[simp] theorem State.modPort_tick (s : State) (p : Fin 18) (f : Port → Port) : (s.modPort p f).tick = s.tick := rfl
@[simp] theorem State.modPort_fencedViews (s : State) (p : Fin 18) (f : Port → Port) : (s.modPort p f).fencedViews = s.fencedViews := rfl
@[simp] theorem State.modPort_freeCtr (s : State) (p : Fin 18) (f : Port → Port) : (s.modPort p f).freeCtr = s.freeCtr := rfl
@[simp] theorem State.modPort_fuses (s : State) (p : Fin 18) (f : Port → Port) : (s.modPort p f).fuses = s.fuses := rfl
@[simp] theorem State.modPort_flash (s : State) (p : Fin 18) (f : Port → Port) : (s.modPort p f).flash = s.flash := rfl
@[simp] theorem State.modPort_glb (s : State) (p : Fin 18) (f : Port → Port) : (s.modPort p f).glb = s.glb := rfl
@[simp] theorem State.modPort_host (s : State) (p : Fin 18) (f : Port → Port) : (s.modPort p f).host = s.host := rfl
@[simp] theorem State.modPort_oz (s : State) (p : Fin 18) (f : Port → Port) : (s.modPort p f).oz = s.oz := rfl
@[simp] theorem State.modPort_img (s : State) (p : Fin 18) (f : Port → Port) : (s.modPort p f).img = s.img := rfl
@[simp] theorem State.modPort_cores (s : State) (p : Fin 18) (f : Port → Port) : (s.modPort p f).cores = s.cores := rfl
@[simp] theorem State.modPort_halves (s : State) (p : Fin 18) (f : Port → Port) : (s.modPort p f).halves = s.halves := rfl
@[simp] theorem State.modPort_stks (s : State) (p : Fin 18) (f : Port → Port) : (s.modPort p f).stks = s.stks := rfl
@[simp] theorem State.modPort_mem (s : State) (p : Fin 18) (f : Port → Port) : (s.modPort p f).mem = s.mem := rfl
@[simp] theorem State.modPort_mpoison (s : State) (p : Fin 18) (f : Port → Port) : (s.modPort p f).mpoison = s.mpoison := rfl
@[simp] theorem State.modPort_symErr (s : State) (p : Fin 18) (f : Port → Port) : (s.modPort p f).symErr = s.symErr := rfl
@[simp] theorem State.modPort_red (s : State) (p : Fin 18) (f : Port → Port) : (s.modPort p f).red = s.red := rfl
@[simp] theorem State.modPort_cas (s : State) (p : Fin 18) (f : Port → Port) : (s.modPort p f).cas = s.cas := rfl
@[simp] theorem State.modPort_eths (s : State) (p : Fin 18) (f : Port → Port) : (s.modPort p f).eths = s.eths := rfl
@[simp] theorem State.modPort_pwr (s : State) (p : Fin 18) (f : Port → Port) : (s.modPort p f).pwr = s.pwr := rfl
@[simp] theorem State.modPort_tap (s : State) (p : Fin 18) (f : Port → Port) : (s.modPort p f).tap = s.tap := rfl
@[simp] theorem State.modPort_out (s : State) (p : Fin 18) (f : Port → Port) : (s.modPort p f).out = s.out := rfl
@[simp] theorem State.modPort_core (s : State) (p : Fin 18) (f : Port → Port) (u : Fin 8) : (s.modPort p f).core u = s.core u := rfl
@[simp] theorem State.modPort_half (s : State) (p : Fin 18) (f : Port → Port) (u : Fin 2) : (s.modPort p f).half u = s.half u := rfl
@[simp] theorem State.modPort_stack (s : State) (p : Fin 18) (f : Port → Port) (u : Fin 32) : (s.modPort p f).stack u = s.stack u := rfl
@[simp] theorem State.modPort_eth (s : State) (p : Fin 18) (f : Port → Port) (u : Fin 2) : (s.modPort p f).eth u = s.eth u := rfl
@[simp] theorem State.modPort_port (s : State) (p : Fin 18) (f : Port → Port) : (s.modPort p f).port p = f (s.port p) := vector_get_set _ _ _
@[simp] theorem State.modPort_port_ne (s : State) (p : Fin 18) (f : Port → Port) (u : Fin 18) (ne : u ≠ p) : (s.modPort p f).port u = s.port u := vector_get_set_ne _ _ _ _ ne

/-! ### modEth -/

@[simp] theorem State.modEth_pending (s : State) (e : Fin 2) (f : Eth → Eth) : (s.modEth e f).pending = s.pending := rfl
@[simp] theorem State.modEth_tick (s : State) (e : Fin 2) (f : Eth → Eth) : (s.modEth e f).tick = s.tick := rfl
@[simp] theorem State.modEth_fencedViews (s : State) (e : Fin 2) (f : Eth → Eth) : (s.modEth e f).fencedViews = s.fencedViews := rfl
@[simp] theorem State.modEth_freeCtr (s : State) (e : Fin 2) (f : Eth → Eth) : (s.modEth e f).freeCtr = s.freeCtr := rfl
@[simp] theorem State.modEth_fuses (s : State) (e : Fin 2) (f : Eth → Eth) : (s.modEth e f).fuses = s.fuses := rfl
@[simp] theorem State.modEth_flash (s : State) (e : Fin 2) (f : Eth → Eth) : (s.modEth e f).flash = s.flash := rfl
@[simp] theorem State.modEth_glb (s : State) (e : Fin 2) (f : Eth → Eth) : (s.modEth e f).glb = s.glb := rfl
@[simp] theorem State.modEth_host (s : State) (e : Fin 2) (f : Eth → Eth) : (s.modEth e f).host = s.host := rfl
@[simp] theorem State.modEth_oz (s : State) (e : Fin 2) (f : Eth → Eth) : (s.modEth e f).oz = s.oz := rfl
@[simp] theorem State.modEth_img (s : State) (e : Fin 2) (f : Eth → Eth) : (s.modEth e f).img = s.img := rfl
@[simp] theorem State.modEth_cores (s : State) (e : Fin 2) (f : Eth → Eth) : (s.modEth e f).cores = s.cores := rfl
@[simp] theorem State.modEth_halves (s : State) (e : Fin 2) (f : Eth → Eth) : (s.modEth e f).halves = s.halves := rfl
@[simp] theorem State.modEth_stks (s : State) (e : Fin 2) (f : Eth → Eth) : (s.modEth e f).stks = s.stks := rfl
@[simp] theorem State.modEth_mem (s : State) (e : Fin 2) (f : Eth → Eth) : (s.modEth e f).mem = s.mem := rfl
@[simp] theorem State.modEth_mpoison (s : State) (e : Fin 2) (f : Eth → Eth) : (s.modEth e f).mpoison = s.mpoison := rfl
@[simp] theorem State.modEth_symErr (s : State) (e : Fin 2) (f : Eth → Eth) : (s.modEth e f).symErr = s.symErr := rfl
@[simp] theorem State.modEth_red (s : State) (e : Fin 2) (f : Eth → Eth) : (s.modEth e f).red = s.red := rfl
@[simp] theorem State.modEth_ports (s : State) (e : Fin 2) (f : Eth → Eth) : (s.modEth e f).ports = s.ports := rfl
@[simp] theorem State.modEth_cas (s : State) (e : Fin 2) (f : Eth → Eth) : (s.modEth e f).cas = s.cas := rfl
@[simp] theorem State.modEth_pwr (s : State) (e : Fin 2) (f : Eth → Eth) : (s.modEth e f).pwr = s.pwr := rfl
@[simp] theorem State.modEth_tap (s : State) (e : Fin 2) (f : Eth → Eth) : (s.modEth e f).tap = s.tap := rfl
@[simp] theorem State.modEth_out (s : State) (e : Fin 2) (f : Eth → Eth) : (s.modEth e f).out = s.out := rfl
@[simp] theorem State.modEth_core (s : State) (e : Fin 2) (f : Eth → Eth) (u : Fin 8) : (s.modEth e f).core u = s.core u := rfl
@[simp] theorem State.modEth_half (s : State) (e : Fin 2) (f : Eth → Eth) (u : Fin 2) : (s.modEth e f).half u = s.half u := rfl
@[simp] theorem State.modEth_stack (s : State) (e : Fin 2) (f : Eth → Eth) (u : Fin 32) : (s.modEth e f).stack u = s.stack u := rfl
@[simp] theorem State.modEth_port (s : State) (e : Fin 2) (f : Eth → Eth) (u : Fin 18) : (s.modEth e f).port u = s.port u := rfl
@[simp] theorem State.modEth_eth (s : State) (e : Fin 2) (f : Eth → Eth) : (s.modEth e f).eth e = f (s.eth e) := vector_get_set _ _ _
@[simp] theorem State.modEth_eth_ne (s : State) (e : Fin 2) (f : Eth → Eth) (u : Fin 2) (ne : u ≠ e) : (s.modEth e f).eth u = s.eth u := vector_get_set_ne _ _ _ _ ne

/-! ### modGlb -/

@[simp] theorem State.modGlb_pending (s : State) (f : Glb → Glb) : (s.modGlb f).pending = s.pending := rfl
@[simp] theorem State.modGlb_tick (s : State) (f : Glb → Glb) : (s.modGlb f).tick = s.tick := rfl
@[simp] theorem State.modGlb_fencedViews (s : State) (f : Glb → Glb) : (s.modGlb f).fencedViews = s.fencedViews := rfl
@[simp] theorem State.modGlb_freeCtr (s : State) (f : Glb → Glb) : (s.modGlb f).freeCtr = s.freeCtr := rfl
@[simp] theorem State.modGlb_fuses (s : State) (f : Glb → Glb) : (s.modGlb f).fuses = s.fuses := rfl
@[simp] theorem State.modGlb_flash (s : State) (f : Glb → Glb) : (s.modGlb f).flash = s.flash := rfl
@[simp] theorem State.modGlb_host (s : State) (f : Glb → Glb) : (s.modGlb f).host = s.host := rfl
@[simp] theorem State.modGlb_oz (s : State) (f : Glb → Glb) : (s.modGlb f).oz = s.oz := rfl
@[simp] theorem State.modGlb_img (s : State) (f : Glb → Glb) : (s.modGlb f).img = s.img := rfl
@[simp] theorem State.modGlb_cores (s : State) (f : Glb → Glb) : (s.modGlb f).cores = s.cores := rfl
@[simp] theorem State.modGlb_halves (s : State) (f : Glb → Glb) : (s.modGlb f).halves = s.halves := rfl
@[simp] theorem State.modGlb_stks (s : State) (f : Glb → Glb) : (s.modGlb f).stks = s.stks := rfl
@[simp] theorem State.modGlb_mem (s : State) (f : Glb → Glb) : (s.modGlb f).mem = s.mem := rfl
@[simp] theorem State.modGlb_mpoison (s : State) (f : Glb → Glb) : (s.modGlb f).mpoison = s.mpoison := rfl
@[simp] theorem State.modGlb_symErr (s : State) (f : Glb → Glb) : (s.modGlb f).symErr = s.symErr := rfl
@[simp] theorem State.modGlb_red (s : State) (f : Glb → Glb) : (s.modGlb f).red = s.red := rfl
@[simp] theorem State.modGlb_ports (s : State) (f : Glb → Glb) : (s.modGlb f).ports = s.ports := rfl
@[simp] theorem State.modGlb_cas (s : State) (f : Glb → Glb) : (s.modGlb f).cas = s.cas := rfl
@[simp] theorem State.modGlb_eths (s : State) (f : Glb → Glb) : (s.modGlb f).eths = s.eths := rfl
@[simp] theorem State.modGlb_pwr (s : State) (f : Glb → Glb) : (s.modGlb f).pwr = s.pwr := rfl
@[simp] theorem State.modGlb_tap (s : State) (f : Glb → Glb) : (s.modGlb f).tap = s.tap := rfl
@[simp] theorem State.modGlb_out (s : State) (f : Glb → Glb) : (s.modGlb f).out = s.out := rfl
@[simp] theorem State.modGlb_core (s : State) (f : Glb → Glb) (u : Fin 8) : (s.modGlb f).core u = s.core u := rfl
@[simp] theorem State.modGlb_half (s : State) (f : Glb → Glb) (u : Fin 2) : (s.modGlb f).half u = s.half u := rfl
@[simp] theorem State.modGlb_stack (s : State) (f : Glb → Glb) (u : Fin 32) : (s.modGlb f).stack u = s.stack u := rfl
@[simp] theorem State.modGlb_port (s : State) (f : Glb → Glb) (u : Fin 18) : (s.modGlb f).port u = s.port u := rfl
@[simp] theorem State.modGlb_eth (s : State) (f : Glb → Glb) (u : Fin 2) : (s.modGlb f).eth u = s.eth u := rfl
@[simp] theorem State.modGlb_glb (s : State) (f : Glb → Glb) : (s.modGlb f).glb = f s.glb := rfl

/-! ### modHost -/

@[simp] theorem State.modHost_pending (s : State) (f : HostIf → HostIf) : (s.modHost f).pending = s.pending := rfl
@[simp] theorem State.modHost_tick (s : State) (f : HostIf → HostIf) : (s.modHost f).tick = s.tick := rfl
@[simp] theorem State.modHost_fencedViews (s : State) (f : HostIf → HostIf) : (s.modHost f).fencedViews = s.fencedViews := rfl
@[simp] theorem State.modHost_freeCtr (s : State) (f : HostIf → HostIf) : (s.modHost f).freeCtr = s.freeCtr := rfl
@[simp] theorem State.modHost_fuses (s : State) (f : HostIf → HostIf) : (s.modHost f).fuses = s.fuses := rfl
@[simp] theorem State.modHost_flash (s : State) (f : HostIf → HostIf) : (s.modHost f).flash = s.flash := rfl
@[simp] theorem State.modHost_glb (s : State) (f : HostIf → HostIf) : (s.modHost f).glb = s.glb := rfl
@[simp] theorem State.modHost_oz (s : State) (f : HostIf → HostIf) : (s.modHost f).oz = s.oz := rfl
@[simp] theorem State.modHost_img (s : State) (f : HostIf → HostIf) : (s.modHost f).img = s.img := rfl
@[simp] theorem State.modHost_cores (s : State) (f : HostIf → HostIf) : (s.modHost f).cores = s.cores := rfl
@[simp] theorem State.modHost_halves (s : State) (f : HostIf → HostIf) : (s.modHost f).halves = s.halves := rfl
@[simp] theorem State.modHost_stks (s : State) (f : HostIf → HostIf) : (s.modHost f).stks = s.stks := rfl
@[simp] theorem State.modHost_mem (s : State) (f : HostIf → HostIf) : (s.modHost f).mem = s.mem := rfl
@[simp] theorem State.modHost_mpoison (s : State) (f : HostIf → HostIf) : (s.modHost f).mpoison = s.mpoison := rfl
@[simp] theorem State.modHost_symErr (s : State) (f : HostIf → HostIf) : (s.modHost f).symErr = s.symErr := rfl
@[simp] theorem State.modHost_red (s : State) (f : HostIf → HostIf) : (s.modHost f).red = s.red := rfl
@[simp] theorem State.modHost_ports (s : State) (f : HostIf → HostIf) : (s.modHost f).ports = s.ports := rfl
@[simp] theorem State.modHost_cas (s : State) (f : HostIf → HostIf) : (s.modHost f).cas = s.cas := rfl
@[simp] theorem State.modHost_eths (s : State) (f : HostIf → HostIf) : (s.modHost f).eths = s.eths := rfl
@[simp] theorem State.modHost_pwr (s : State) (f : HostIf → HostIf) : (s.modHost f).pwr = s.pwr := rfl
@[simp] theorem State.modHost_tap (s : State) (f : HostIf → HostIf) : (s.modHost f).tap = s.tap := rfl
@[simp] theorem State.modHost_out (s : State) (f : HostIf → HostIf) : (s.modHost f).out = s.out := rfl
@[simp] theorem State.modHost_core (s : State) (f : HostIf → HostIf) (u : Fin 8) : (s.modHost f).core u = s.core u := rfl
@[simp] theorem State.modHost_half (s : State) (f : HostIf → HostIf) (u : Fin 2) : (s.modHost f).half u = s.half u := rfl
@[simp] theorem State.modHost_stack (s : State) (f : HostIf → HostIf) (u : Fin 32) : (s.modHost f).stack u = s.stack u := rfl
@[simp] theorem State.modHost_port (s : State) (f : HostIf → HostIf) (u : Fin 18) : (s.modHost f).port u = s.port u := rfl
@[simp] theorem State.modHost_eth (s : State) (f : HostIf → HostIf) (u : Fin 2) : (s.modHost f).eth u = s.eth u := rfl
@[simp] theorem State.modHost_host (s : State) (f : HostIf → HostIf) : (s.modHost f).host = f s.host := rfl

/-! ### modOz -/

@[simp] theorem State.modOz_pending (s : State) (f : Oz → Oz) : (s.modOz f).pending = s.pending := rfl
@[simp] theorem State.modOz_tick (s : State) (f : Oz → Oz) : (s.modOz f).tick = s.tick := rfl
@[simp] theorem State.modOz_fencedViews (s : State) (f : Oz → Oz) : (s.modOz f).fencedViews = s.fencedViews := rfl
@[simp] theorem State.modOz_freeCtr (s : State) (f : Oz → Oz) : (s.modOz f).freeCtr = s.freeCtr := rfl
@[simp] theorem State.modOz_fuses (s : State) (f : Oz → Oz) : (s.modOz f).fuses = s.fuses := rfl
@[simp] theorem State.modOz_flash (s : State) (f : Oz → Oz) : (s.modOz f).flash = s.flash := rfl
@[simp] theorem State.modOz_glb (s : State) (f : Oz → Oz) : (s.modOz f).glb = s.glb := rfl
@[simp] theorem State.modOz_host (s : State) (f : Oz → Oz) : (s.modOz f).host = s.host := rfl
@[simp] theorem State.modOz_img (s : State) (f : Oz → Oz) : (s.modOz f).img = s.img := rfl
@[simp] theorem State.modOz_cores (s : State) (f : Oz → Oz) : (s.modOz f).cores = s.cores := rfl
@[simp] theorem State.modOz_halves (s : State) (f : Oz → Oz) : (s.modOz f).halves = s.halves := rfl
@[simp] theorem State.modOz_stks (s : State) (f : Oz → Oz) : (s.modOz f).stks = s.stks := rfl
@[simp] theorem State.modOz_mem (s : State) (f : Oz → Oz) : (s.modOz f).mem = s.mem := rfl
@[simp] theorem State.modOz_mpoison (s : State) (f : Oz → Oz) : (s.modOz f).mpoison = s.mpoison := rfl
@[simp] theorem State.modOz_symErr (s : State) (f : Oz → Oz) : (s.modOz f).symErr = s.symErr := rfl
@[simp] theorem State.modOz_red (s : State) (f : Oz → Oz) : (s.modOz f).red = s.red := rfl
@[simp] theorem State.modOz_ports (s : State) (f : Oz → Oz) : (s.modOz f).ports = s.ports := rfl
@[simp] theorem State.modOz_cas (s : State) (f : Oz → Oz) : (s.modOz f).cas = s.cas := rfl
@[simp] theorem State.modOz_eths (s : State) (f : Oz → Oz) : (s.modOz f).eths = s.eths := rfl
@[simp] theorem State.modOz_pwr (s : State) (f : Oz → Oz) : (s.modOz f).pwr = s.pwr := rfl
@[simp] theorem State.modOz_tap (s : State) (f : Oz → Oz) : (s.modOz f).tap = s.tap := rfl
@[simp] theorem State.modOz_out (s : State) (f : Oz → Oz) : (s.modOz f).out = s.out := rfl
@[simp] theorem State.modOz_core (s : State) (f : Oz → Oz) (u : Fin 8) : (s.modOz f).core u = s.core u := rfl
@[simp] theorem State.modOz_half (s : State) (f : Oz → Oz) (u : Fin 2) : (s.modOz f).half u = s.half u := rfl
@[simp] theorem State.modOz_stack (s : State) (f : Oz → Oz) (u : Fin 32) : (s.modOz f).stack u = s.stack u := rfl
@[simp] theorem State.modOz_port (s : State) (f : Oz → Oz) (u : Fin 18) : (s.modOz f).port u = s.port u := rfl
@[simp] theorem State.modOz_eth (s : State) (f : Oz → Oz) (u : Fin 2) : (s.modOz f).eth u = s.eth u := rfl
@[simp] theorem State.modOz_oz (s : State) (f : Oz → Oz) : (s.modOz f).oz = f s.oz := rfl

/-! ### modImg -/

@[simp] theorem State.modImg_pending (s : State) (f : Img → Img) : (s.modImg f).pending = s.pending := rfl
@[simp] theorem State.modImg_tick (s : State) (f : Img → Img) : (s.modImg f).tick = s.tick := rfl
@[simp] theorem State.modImg_fencedViews (s : State) (f : Img → Img) : (s.modImg f).fencedViews = s.fencedViews := rfl
@[simp] theorem State.modImg_freeCtr (s : State) (f : Img → Img) : (s.modImg f).freeCtr = s.freeCtr := rfl
@[simp] theorem State.modImg_fuses (s : State) (f : Img → Img) : (s.modImg f).fuses = s.fuses := rfl
@[simp] theorem State.modImg_flash (s : State) (f : Img → Img) : (s.modImg f).flash = s.flash := rfl
@[simp] theorem State.modImg_glb (s : State) (f : Img → Img) : (s.modImg f).glb = s.glb := rfl
@[simp] theorem State.modImg_host (s : State) (f : Img → Img) : (s.modImg f).host = s.host := rfl
@[simp] theorem State.modImg_oz (s : State) (f : Img → Img) : (s.modImg f).oz = s.oz := rfl
@[simp] theorem State.modImg_cores (s : State) (f : Img → Img) : (s.modImg f).cores = s.cores := rfl
@[simp] theorem State.modImg_halves (s : State) (f : Img → Img) : (s.modImg f).halves = s.halves := rfl
@[simp] theorem State.modImg_stks (s : State) (f : Img → Img) : (s.modImg f).stks = s.stks := rfl
@[simp] theorem State.modImg_mem (s : State) (f : Img → Img) : (s.modImg f).mem = s.mem := rfl
@[simp] theorem State.modImg_mpoison (s : State) (f : Img → Img) : (s.modImg f).mpoison = s.mpoison := rfl
@[simp] theorem State.modImg_symErr (s : State) (f : Img → Img) : (s.modImg f).symErr = s.symErr := rfl
@[simp] theorem State.modImg_red (s : State) (f : Img → Img) : (s.modImg f).red = s.red := rfl
@[simp] theorem State.modImg_ports (s : State) (f : Img → Img) : (s.modImg f).ports = s.ports := rfl
@[simp] theorem State.modImg_cas (s : State) (f : Img → Img) : (s.modImg f).cas = s.cas := rfl
@[simp] theorem State.modImg_eths (s : State) (f : Img → Img) : (s.modImg f).eths = s.eths := rfl
@[simp] theorem State.modImg_pwr (s : State) (f : Img → Img) : (s.modImg f).pwr = s.pwr := rfl
@[simp] theorem State.modImg_tap (s : State) (f : Img → Img) : (s.modImg f).tap = s.tap := rfl
@[simp] theorem State.modImg_out (s : State) (f : Img → Img) : (s.modImg f).out = s.out := rfl
@[simp] theorem State.modImg_core (s : State) (f : Img → Img) (u : Fin 8) : (s.modImg f).core u = s.core u := rfl
@[simp] theorem State.modImg_half (s : State) (f : Img → Img) (u : Fin 2) : (s.modImg f).half u = s.half u := rfl
@[simp] theorem State.modImg_stack (s : State) (f : Img → Img) (u : Fin 32) : (s.modImg f).stack u = s.stack u := rfl
@[simp] theorem State.modImg_port (s : State) (f : Img → Img) (u : Fin 18) : (s.modImg f).port u = s.port u := rfl
@[simp] theorem State.modImg_eth (s : State) (f : Img → Img) (u : Fin 2) : (s.modImg f).eth u = s.eth u := rfl
@[simp] theorem State.modImg_img (s : State) (f : Img → Img) : (s.modImg f).img = f s.img := rfl

/-! ### modRed -/

@[simp] theorem State.modRed_pending (s : State) (f : Red → Red) : (s.modRed f).pending = s.pending := rfl
@[simp] theorem State.modRed_tick (s : State) (f : Red → Red) : (s.modRed f).tick = s.tick := rfl
@[simp] theorem State.modRed_fencedViews (s : State) (f : Red → Red) : (s.modRed f).fencedViews = s.fencedViews := rfl
@[simp] theorem State.modRed_freeCtr (s : State) (f : Red → Red) : (s.modRed f).freeCtr = s.freeCtr := rfl
@[simp] theorem State.modRed_fuses (s : State) (f : Red → Red) : (s.modRed f).fuses = s.fuses := rfl
@[simp] theorem State.modRed_flash (s : State) (f : Red → Red) : (s.modRed f).flash = s.flash := rfl
@[simp] theorem State.modRed_glb (s : State) (f : Red → Red) : (s.modRed f).glb = s.glb := rfl
@[simp] theorem State.modRed_host (s : State) (f : Red → Red) : (s.modRed f).host = s.host := rfl
@[simp] theorem State.modRed_oz (s : State) (f : Red → Red) : (s.modRed f).oz = s.oz := rfl
@[simp] theorem State.modRed_img (s : State) (f : Red → Red) : (s.modRed f).img = s.img := rfl
@[simp] theorem State.modRed_cores (s : State) (f : Red → Red) : (s.modRed f).cores = s.cores := rfl
@[simp] theorem State.modRed_halves (s : State) (f : Red → Red) : (s.modRed f).halves = s.halves := rfl
@[simp] theorem State.modRed_stks (s : State) (f : Red → Red) : (s.modRed f).stks = s.stks := rfl
@[simp] theorem State.modRed_mem (s : State) (f : Red → Red) : (s.modRed f).mem = s.mem := rfl
@[simp] theorem State.modRed_mpoison (s : State) (f : Red → Red) : (s.modRed f).mpoison = s.mpoison := rfl
@[simp] theorem State.modRed_symErr (s : State) (f : Red → Red) : (s.modRed f).symErr = s.symErr := rfl
@[simp] theorem State.modRed_ports (s : State) (f : Red → Red) : (s.modRed f).ports = s.ports := rfl
@[simp] theorem State.modRed_cas (s : State) (f : Red → Red) : (s.modRed f).cas = s.cas := rfl
@[simp] theorem State.modRed_eths (s : State) (f : Red → Red) : (s.modRed f).eths = s.eths := rfl
@[simp] theorem State.modRed_pwr (s : State) (f : Red → Red) : (s.modRed f).pwr = s.pwr := rfl
@[simp] theorem State.modRed_tap (s : State) (f : Red → Red) : (s.modRed f).tap = s.tap := rfl
@[simp] theorem State.modRed_out (s : State) (f : Red → Red) : (s.modRed f).out = s.out := rfl
@[simp] theorem State.modRed_core (s : State) (f : Red → Red) (u : Fin 8) : (s.modRed f).core u = s.core u := rfl
@[simp] theorem State.modRed_half (s : State) (f : Red → Red) (u : Fin 2) : (s.modRed f).half u = s.half u := rfl
@[simp] theorem State.modRed_stack (s : State) (f : Red → Red) (u : Fin 32) : (s.modRed f).stack u = s.stack u := rfl
@[simp] theorem State.modRed_port (s : State) (f : Red → Red) (u : Fin 18) : (s.modRed f).port u = s.port u := rfl
@[simp] theorem State.modRed_eth (s : State) (f : Red → Red) (u : Fin 2) : (s.modRed f).eth u = s.eth u := rfl
@[simp] theorem State.modRed_red (s : State) (f : Red → Red) : (s.modRed f).red = f s.red := rfl

/-! ### modCas -/

@[simp] theorem State.modCas_pending (s : State) (f : Cas → Cas) : (s.modCas f).pending = s.pending := rfl
@[simp] theorem State.modCas_tick (s : State) (f : Cas → Cas) : (s.modCas f).tick = s.tick := rfl
@[simp] theorem State.modCas_fencedViews (s : State) (f : Cas → Cas) : (s.modCas f).fencedViews = s.fencedViews := rfl
@[simp] theorem State.modCas_freeCtr (s : State) (f : Cas → Cas) : (s.modCas f).freeCtr = s.freeCtr := rfl
@[simp] theorem State.modCas_fuses (s : State) (f : Cas → Cas) : (s.modCas f).fuses = s.fuses := rfl
@[simp] theorem State.modCas_flash (s : State) (f : Cas → Cas) : (s.modCas f).flash = s.flash := rfl
@[simp] theorem State.modCas_glb (s : State) (f : Cas → Cas) : (s.modCas f).glb = s.glb := rfl
@[simp] theorem State.modCas_host (s : State) (f : Cas → Cas) : (s.modCas f).host = s.host := rfl
@[simp] theorem State.modCas_oz (s : State) (f : Cas → Cas) : (s.modCas f).oz = s.oz := rfl
@[simp] theorem State.modCas_img (s : State) (f : Cas → Cas) : (s.modCas f).img = s.img := rfl
@[simp] theorem State.modCas_cores (s : State) (f : Cas → Cas) : (s.modCas f).cores = s.cores := rfl
@[simp] theorem State.modCas_halves (s : State) (f : Cas → Cas) : (s.modCas f).halves = s.halves := rfl
@[simp] theorem State.modCas_stks (s : State) (f : Cas → Cas) : (s.modCas f).stks = s.stks := rfl
@[simp] theorem State.modCas_mem (s : State) (f : Cas → Cas) : (s.modCas f).mem = s.mem := rfl
@[simp] theorem State.modCas_mpoison (s : State) (f : Cas → Cas) : (s.modCas f).mpoison = s.mpoison := rfl
@[simp] theorem State.modCas_symErr (s : State) (f : Cas → Cas) : (s.modCas f).symErr = s.symErr := rfl
@[simp] theorem State.modCas_red (s : State) (f : Cas → Cas) : (s.modCas f).red = s.red := rfl
@[simp] theorem State.modCas_ports (s : State) (f : Cas → Cas) : (s.modCas f).ports = s.ports := rfl
@[simp] theorem State.modCas_eths (s : State) (f : Cas → Cas) : (s.modCas f).eths = s.eths := rfl
@[simp] theorem State.modCas_pwr (s : State) (f : Cas → Cas) : (s.modCas f).pwr = s.pwr := rfl
@[simp] theorem State.modCas_tap (s : State) (f : Cas → Cas) : (s.modCas f).tap = s.tap := rfl
@[simp] theorem State.modCas_out (s : State) (f : Cas → Cas) : (s.modCas f).out = s.out := rfl
@[simp] theorem State.modCas_core (s : State) (f : Cas → Cas) (u : Fin 8) : (s.modCas f).core u = s.core u := rfl
@[simp] theorem State.modCas_half (s : State) (f : Cas → Cas) (u : Fin 2) : (s.modCas f).half u = s.half u := rfl
@[simp] theorem State.modCas_stack (s : State) (f : Cas → Cas) (u : Fin 32) : (s.modCas f).stack u = s.stack u := rfl
@[simp] theorem State.modCas_port (s : State) (f : Cas → Cas) (u : Fin 18) : (s.modCas f).port u = s.port u := rfl
@[simp] theorem State.modCas_eth (s : State) (f : Cas → Cas) (u : Fin 2) : (s.modCas f).eth u = s.eth u := rfl
@[simp] theorem State.modCas_cas (s : State) (f : Cas → Cas) : (s.modCas f).cas = f s.cas := rfl

/-! ### modPwr -/

@[simp] theorem State.modPwr_pending (s : State) (f : Pwr → Pwr) : (s.modPwr f).pending = s.pending := rfl
@[simp] theorem State.modPwr_tick (s : State) (f : Pwr → Pwr) : (s.modPwr f).tick = s.tick := rfl
@[simp] theorem State.modPwr_fencedViews (s : State) (f : Pwr → Pwr) : (s.modPwr f).fencedViews = s.fencedViews := rfl
@[simp] theorem State.modPwr_freeCtr (s : State) (f : Pwr → Pwr) : (s.modPwr f).freeCtr = s.freeCtr := rfl
@[simp] theorem State.modPwr_fuses (s : State) (f : Pwr → Pwr) : (s.modPwr f).fuses = s.fuses := rfl
@[simp] theorem State.modPwr_flash (s : State) (f : Pwr → Pwr) : (s.modPwr f).flash = s.flash := rfl
@[simp] theorem State.modPwr_glb (s : State) (f : Pwr → Pwr) : (s.modPwr f).glb = s.glb := rfl
@[simp] theorem State.modPwr_host (s : State) (f : Pwr → Pwr) : (s.modPwr f).host = s.host := rfl
@[simp] theorem State.modPwr_oz (s : State) (f : Pwr → Pwr) : (s.modPwr f).oz = s.oz := rfl
@[simp] theorem State.modPwr_img (s : State) (f : Pwr → Pwr) : (s.modPwr f).img = s.img := rfl
@[simp] theorem State.modPwr_cores (s : State) (f : Pwr → Pwr) : (s.modPwr f).cores = s.cores := rfl
@[simp] theorem State.modPwr_halves (s : State) (f : Pwr → Pwr) : (s.modPwr f).halves = s.halves := rfl
@[simp] theorem State.modPwr_stks (s : State) (f : Pwr → Pwr) : (s.modPwr f).stks = s.stks := rfl
@[simp] theorem State.modPwr_mem (s : State) (f : Pwr → Pwr) : (s.modPwr f).mem = s.mem := rfl
@[simp] theorem State.modPwr_mpoison (s : State) (f : Pwr → Pwr) : (s.modPwr f).mpoison = s.mpoison := rfl
@[simp] theorem State.modPwr_symErr (s : State) (f : Pwr → Pwr) : (s.modPwr f).symErr = s.symErr := rfl
@[simp] theorem State.modPwr_red (s : State) (f : Pwr → Pwr) : (s.modPwr f).red = s.red := rfl
@[simp] theorem State.modPwr_ports (s : State) (f : Pwr → Pwr) : (s.modPwr f).ports = s.ports := rfl
@[simp] theorem State.modPwr_cas (s : State) (f : Pwr → Pwr) : (s.modPwr f).cas = s.cas := rfl
@[simp] theorem State.modPwr_eths (s : State) (f : Pwr → Pwr) : (s.modPwr f).eths = s.eths := rfl
@[simp] theorem State.modPwr_tap (s : State) (f : Pwr → Pwr) : (s.modPwr f).tap = s.tap := rfl
@[simp] theorem State.modPwr_out (s : State) (f : Pwr → Pwr) : (s.modPwr f).out = s.out := rfl
@[simp] theorem State.modPwr_core (s : State) (f : Pwr → Pwr) (u : Fin 8) : (s.modPwr f).core u = s.core u := rfl
@[simp] theorem State.modPwr_half (s : State) (f : Pwr → Pwr) (u : Fin 2) : (s.modPwr f).half u = s.half u := rfl
@[simp] theorem State.modPwr_stack (s : State) (f : Pwr → Pwr) (u : Fin 32) : (s.modPwr f).stack u = s.stack u := rfl
@[simp] theorem State.modPwr_port (s : State) (f : Pwr → Pwr) (u : Fin 18) : (s.modPwr f).port u = s.port u := rfl
@[simp] theorem State.modPwr_eth (s : State) (f : Pwr → Pwr) (u : Fin 2) : (s.modPwr f).eth u = s.eth u := rfl
@[simp] theorem State.modPwr_pwr (s : State) (f : Pwr → Pwr) : (s.modPwr f).pwr = f s.pwr := rfl

/-! ### modTap -/

@[simp] theorem State.modTap_pending (s : State) (f : Tap → Tap) : (s.modTap f).pending = s.pending := rfl
@[simp] theorem State.modTap_tick (s : State) (f : Tap → Tap) : (s.modTap f).tick = s.tick := rfl
@[simp] theorem State.modTap_fencedViews (s : State) (f : Tap → Tap) : (s.modTap f).fencedViews = s.fencedViews := rfl
@[simp] theorem State.modTap_freeCtr (s : State) (f : Tap → Tap) : (s.modTap f).freeCtr = s.freeCtr := rfl
@[simp] theorem State.modTap_fuses (s : State) (f : Tap → Tap) : (s.modTap f).fuses = s.fuses := rfl
@[simp] theorem State.modTap_flash (s : State) (f : Tap → Tap) : (s.modTap f).flash = s.flash := rfl
@[simp] theorem State.modTap_glb (s : State) (f : Tap → Tap) : (s.modTap f).glb = s.glb := rfl
@[simp] theorem State.modTap_host (s : State) (f : Tap → Tap) : (s.modTap f).host = s.host := rfl
@[simp] theorem State.modTap_oz (s : State) (f : Tap → Tap) : (s.modTap f).oz = s.oz := rfl
@[simp] theorem State.modTap_img (s : State) (f : Tap → Tap) : (s.modTap f).img = s.img := rfl
@[simp] theorem State.modTap_cores (s : State) (f : Tap → Tap) : (s.modTap f).cores = s.cores := rfl
@[simp] theorem State.modTap_halves (s : State) (f : Tap → Tap) : (s.modTap f).halves = s.halves := rfl
@[simp] theorem State.modTap_stks (s : State) (f : Tap → Tap) : (s.modTap f).stks = s.stks := rfl
@[simp] theorem State.modTap_mem (s : State) (f : Tap → Tap) : (s.modTap f).mem = s.mem := rfl
@[simp] theorem State.modTap_mpoison (s : State) (f : Tap → Tap) : (s.modTap f).mpoison = s.mpoison := rfl
@[simp] theorem State.modTap_symErr (s : State) (f : Tap → Tap) : (s.modTap f).symErr = s.symErr := rfl
@[simp] theorem State.modTap_red (s : State) (f : Tap → Tap) : (s.modTap f).red = s.red := rfl
@[simp] theorem State.modTap_ports (s : State) (f : Tap → Tap) : (s.modTap f).ports = s.ports := rfl
@[simp] theorem State.modTap_cas (s : State) (f : Tap → Tap) : (s.modTap f).cas = s.cas := rfl
@[simp] theorem State.modTap_eths (s : State) (f : Tap → Tap) : (s.modTap f).eths = s.eths := rfl
@[simp] theorem State.modTap_pwr (s : State) (f : Tap → Tap) : (s.modTap f).pwr = s.pwr := rfl
@[simp] theorem State.modTap_out (s : State) (f : Tap → Tap) : (s.modTap f).out = s.out := rfl
@[simp] theorem State.modTap_core (s : State) (f : Tap → Tap) (u : Fin 8) : (s.modTap f).core u = s.core u := rfl
@[simp] theorem State.modTap_half (s : State) (f : Tap → Tap) (u : Fin 2) : (s.modTap f).half u = s.half u := rfl
@[simp] theorem State.modTap_stack (s : State) (f : Tap → Tap) (u : Fin 32) : (s.modTap f).stack u = s.stack u := rfl
@[simp] theorem State.modTap_port (s : State) (f : Tap → Tap) (u : Fin 18) : (s.modTap f).port u = s.port u := rfl
@[simp] theorem State.modTap_eth (s : State) (f : Tap → Tap) (u : Fin 2) : (s.modTap f).eth u = s.eth u := rfl
@[simp] theorem State.modTap_tap (s : State) (f : Tap → Tap) : (s.modTap f).tap = f s.tap := rfl

/-! ### modFlash -/

@[simp] theorem State.modFlash_pending (s : State) (f : Flash → Flash) : (s.modFlash f).pending = s.pending := rfl
@[simp] theorem State.modFlash_tick (s : State) (f : Flash → Flash) : (s.modFlash f).tick = s.tick := rfl
@[simp] theorem State.modFlash_fencedViews (s : State) (f : Flash → Flash) : (s.modFlash f).fencedViews = s.fencedViews := rfl
@[simp] theorem State.modFlash_freeCtr (s : State) (f : Flash → Flash) : (s.modFlash f).freeCtr = s.freeCtr := rfl
@[simp] theorem State.modFlash_fuses (s : State) (f : Flash → Flash) : (s.modFlash f).fuses = s.fuses := rfl
@[simp] theorem State.modFlash_glb (s : State) (f : Flash → Flash) : (s.modFlash f).glb = s.glb := rfl
@[simp] theorem State.modFlash_host (s : State) (f : Flash → Flash) : (s.modFlash f).host = s.host := rfl
@[simp] theorem State.modFlash_oz (s : State) (f : Flash → Flash) : (s.modFlash f).oz = s.oz := rfl
@[simp] theorem State.modFlash_img (s : State) (f : Flash → Flash) : (s.modFlash f).img = s.img := rfl
@[simp] theorem State.modFlash_cores (s : State) (f : Flash → Flash) : (s.modFlash f).cores = s.cores := rfl
@[simp] theorem State.modFlash_halves (s : State) (f : Flash → Flash) : (s.modFlash f).halves = s.halves := rfl
@[simp] theorem State.modFlash_stks (s : State) (f : Flash → Flash) : (s.modFlash f).stks = s.stks := rfl
@[simp] theorem State.modFlash_mem (s : State) (f : Flash → Flash) : (s.modFlash f).mem = s.mem := rfl
@[simp] theorem State.modFlash_mpoison (s : State) (f : Flash → Flash) : (s.modFlash f).mpoison = s.mpoison := rfl
@[simp] theorem State.modFlash_symErr (s : State) (f : Flash → Flash) : (s.modFlash f).symErr = s.symErr := rfl
@[simp] theorem State.modFlash_red (s : State) (f : Flash → Flash) : (s.modFlash f).red = s.red := rfl
@[simp] theorem State.modFlash_ports (s : State) (f : Flash → Flash) : (s.modFlash f).ports = s.ports := rfl
@[simp] theorem State.modFlash_cas (s : State) (f : Flash → Flash) : (s.modFlash f).cas = s.cas := rfl
@[simp] theorem State.modFlash_eths (s : State) (f : Flash → Flash) : (s.modFlash f).eths = s.eths := rfl
@[simp] theorem State.modFlash_pwr (s : State) (f : Flash → Flash) : (s.modFlash f).pwr = s.pwr := rfl
@[simp] theorem State.modFlash_tap (s : State) (f : Flash → Flash) : (s.modFlash f).tap = s.tap := rfl
@[simp] theorem State.modFlash_out (s : State) (f : Flash → Flash) : (s.modFlash f).out = s.out := rfl
@[simp] theorem State.modFlash_core (s : State) (f : Flash → Flash) (u : Fin 8) : (s.modFlash f).core u = s.core u := rfl
@[simp] theorem State.modFlash_half (s : State) (f : Flash → Flash) (u : Fin 2) : (s.modFlash f).half u = s.half u := rfl
@[simp] theorem State.modFlash_stack (s : State) (f : Flash → Flash) (u : Fin 32) : (s.modFlash f).stack u = s.stack u := rfl
@[simp] theorem State.modFlash_port (s : State) (f : Flash → Flash) (u : Fin 18) : (s.modFlash f).port u = s.port u := rfl
@[simp] theorem State.modFlash_eth (s : State) (f : Flash → Flash) (u : Fin 2) : (s.modFlash f).eth u = s.eth u := rfl
@[simp] theorem State.modFlash_flash (s : State) (f : Flash → Flash) : (s.modFlash f).flash = f s.flash := rfl

/-! ### modFuses -/

@[simp] theorem State.modFuses_pending (s : State) (f : Fuses → Fuses) : (s.modFuses f).pending = s.pending := rfl
@[simp] theorem State.modFuses_tick (s : State) (f : Fuses → Fuses) : (s.modFuses f).tick = s.tick := rfl
@[simp] theorem State.modFuses_fencedViews (s : State) (f : Fuses → Fuses) : (s.modFuses f).fencedViews = s.fencedViews := rfl
@[simp] theorem State.modFuses_freeCtr (s : State) (f : Fuses → Fuses) : (s.modFuses f).freeCtr = s.freeCtr := rfl
@[simp] theorem State.modFuses_flash (s : State) (f : Fuses → Fuses) : (s.modFuses f).flash = s.flash := rfl
@[simp] theorem State.modFuses_glb (s : State) (f : Fuses → Fuses) : (s.modFuses f).glb = s.glb := rfl
@[simp] theorem State.modFuses_host (s : State) (f : Fuses → Fuses) : (s.modFuses f).host = s.host := rfl
@[simp] theorem State.modFuses_oz (s : State) (f : Fuses → Fuses) : (s.modFuses f).oz = s.oz := rfl
@[simp] theorem State.modFuses_img (s : State) (f : Fuses → Fuses) : (s.modFuses f).img = s.img := rfl
@[simp] theorem State.modFuses_cores (s : State) (f : Fuses → Fuses) : (s.modFuses f).cores = s.cores := rfl
@[simp] theorem State.modFuses_halves (s : State) (f : Fuses → Fuses) : (s.modFuses f).halves = s.halves := rfl
@[simp] theorem State.modFuses_stks (s : State) (f : Fuses → Fuses) : (s.modFuses f).stks = s.stks := rfl
@[simp] theorem State.modFuses_mem (s : State) (f : Fuses → Fuses) : (s.modFuses f).mem = s.mem := rfl
@[simp] theorem State.modFuses_mpoison (s : State) (f : Fuses → Fuses) : (s.modFuses f).mpoison = s.mpoison := rfl
@[simp] theorem State.modFuses_symErr (s : State) (f : Fuses → Fuses) : (s.modFuses f).symErr = s.symErr := rfl
@[simp] theorem State.modFuses_red (s : State) (f : Fuses → Fuses) : (s.modFuses f).red = s.red := rfl
@[simp] theorem State.modFuses_ports (s : State) (f : Fuses → Fuses) : (s.modFuses f).ports = s.ports := rfl
@[simp] theorem State.modFuses_cas (s : State) (f : Fuses → Fuses) : (s.modFuses f).cas = s.cas := rfl
@[simp] theorem State.modFuses_eths (s : State) (f : Fuses → Fuses) : (s.modFuses f).eths = s.eths := rfl
@[simp] theorem State.modFuses_pwr (s : State) (f : Fuses → Fuses) : (s.modFuses f).pwr = s.pwr := rfl
@[simp] theorem State.modFuses_tap (s : State) (f : Fuses → Fuses) : (s.modFuses f).tap = s.tap := rfl
@[simp] theorem State.modFuses_out (s : State) (f : Fuses → Fuses) : (s.modFuses f).out = s.out := rfl
@[simp] theorem State.modFuses_core (s : State) (f : Fuses → Fuses) (u : Fin 8) : (s.modFuses f).core u = s.core u := rfl
@[simp] theorem State.modFuses_half (s : State) (f : Fuses → Fuses) (u : Fin 2) : (s.modFuses f).half u = s.half u := rfl
@[simp] theorem State.modFuses_stack (s : State) (f : Fuses → Fuses) (u : Fin 32) : (s.modFuses f).stack u = s.stack u := rfl
@[simp] theorem State.modFuses_port (s : State) (f : Fuses → Fuses) (u : Fin 18) : (s.modFuses f).port u = s.port u := rfl
@[simp] theorem State.modFuses_eth (s : State) (f : Fuses → Fuses) (u : Fin 2) : (s.modFuses f).eth u = s.eth u := rfl
@[simp] theorem State.modFuses_fuses (s : State) (f : Fuses → Fuses) : (s.modFuses f).fuses = f s.fuses := rfl

/-! ### modArr -/

@[simp] theorem State.modArr_pending (s : State) (c : Fin 8) (f : Arr → Arr) : (s.modArr c f).pending = s.pending := rfl
@[simp] theorem State.modArr_tick (s : State) (c : Fin 8) (f : Arr → Arr) : (s.modArr c f).tick = s.tick := rfl
@[simp] theorem State.modArr_fencedViews (s : State) (c : Fin 8) (f : Arr → Arr) : (s.modArr c f).fencedViews = s.fencedViews := rfl
@[simp] theorem State.modArr_freeCtr (s : State) (c : Fin 8) (f : Arr → Arr) : (s.modArr c f).freeCtr = s.freeCtr := rfl
@[simp] theorem State.modArr_fuses (s : State) (c : Fin 8) (f : Arr → Arr) : (s.modArr c f).fuses = s.fuses := rfl
@[simp] theorem State.modArr_flash (s : State) (c : Fin 8) (f : Arr → Arr) : (s.modArr c f).flash = s.flash := rfl
@[simp] theorem State.modArr_glb (s : State) (c : Fin 8) (f : Arr → Arr) : (s.modArr c f).glb = s.glb := rfl
@[simp] theorem State.modArr_host (s : State) (c : Fin 8) (f : Arr → Arr) : (s.modArr c f).host = s.host := rfl
@[simp] theorem State.modArr_oz (s : State) (c : Fin 8) (f : Arr → Arr) : (s.modArr c f).oz = s.oz := rfl
@[simp] theorem State.modArr_img (s : State) (c : Fin 8) (f : Arr → Arr) : (s.modArr c f).img = s.img := rfl
@[simp] theorem State.modArr_halves (s : State) (c : Fin 8) (f : Arr → Arr) : (s.modArr c f).halves = s.halves := rfl
@[simp] theorem State.modArr_stks (s : State) (c : Fin 8) (f : Arr → Arr) : (s.modArr c f).stks = s.stks := rfl
@[simp] theorem State.modArr_mem (s : State) (c : Fin 8) (f : Arr → Arr) : (s.modArr c f).mem = s.mem := rfl
@[simp] theorem State.modArr_mpoison (s : State) (c : Fin 8) (f : Arr → Arr) : (s.modArr c f).mpoison = s.mpoison := rfl
@[simp] theorem State.modArr_symErr (s : State) (c : Fin 8) (f : Arr → Arr) : (s.modArr c f).symErr = s.symErr := rfl
@[simp] theorem State.modArr_red (s : State) (c : Fin 8) (f : Arr → Arr) : (s.modArr c f).red = s.red := rfl
@[simp] theorem State.modArr_ports (s : State) (c : Fin 8) (f : Arr → Arr) : (s.modArr c f).ports = s.ports := rfl
@[simp] theorem State.modArr_cas (s : State) (c : Fin 8) (f : Arr → Arr) : (s.modArr c f).cas = s.cas := rfl
@[simp] theorem State.modArr_eths (s : State) (c : Fin 8) (f : Arr → Arr) : (s.modArr c f).eths = s.eths := rfl
@[simp] theorem State.modArr_pwr (s : State) (c : Fin 8) (f : Arr → Arr) : (s.modArr c f).pwr = s.pwr := rfl
@[simp] theorem State.modArr_tap (s : State) (c : Fin 8) (f : Arr → Arr) : (s.modArr c f).tap = s.tap := rfl
@[simp] theorem State.modArr_out (s : State) (c : Fin 8) (f : Arr → Arr) : (s.modArr c f).out = s.out := rfl
@[simp] theorem State.modArr_half (s : State) (c : Fin 8) (f : Arr → Arr) (u : Fin 2) : (s.modArr c f).half u = s.half u := rfl
@[simp] theorem State.modArr_stack (s : State) (c : Fin 8) (f : Arr → Arr) (u : Fin 32) : (s.modArr c f).stack u = s.stack u := rfl
@[simp] theorem State.modArr_port (s : State) (c : Fin 8) (f : Arr → Arr) (u : Fin 18) : (s.modArr c f).port u = s.port u := rfl
@[simp] theorem State.modArr_eth (s : State) (c : Fin 8) (f : Arr → Arr) (u : Fin 2) : (s.modArr c f).eth u = s.eth u := rfl
@[simp] theorem State.modArr_core_up (s : State) (c : Fin 8) (f : Arr → Arr) (u : Fin 8) : ((s.modArr c f).core u).up = (s.core u).up := by
  by_cases h : u = c
  · subst h; simp [State.modArr]
  · simp [State.modArr, h]
@[simp] theorem State.modArr_core_fenced (s : State) (c : Fin 8) (f : Arr → Arr) (u : Fin 8) : ((s.modArr c f).core u).fenced = (s.core u).fenced := by
  by_cases h : u = c
  · subst h; simp [State.modArr]
  · simp [State.modArr, h]
@[simp] theorem State.modArr_core_gated (s : State) (c : Fin 8) (f : Arr → Arr) (u : Fin 8) : ((s.modArr c f).core u).gated = (s.core u).gated := by
  by_cases h : u = c
  · subst h; simp [State.modArr]
  · simp [State.modArr, h]
@[simp] theorem State.modArr_core_arr (s : State) (c : Fin 8) (f : Arr → Arr) : ((s.modArr c f).core c).arr = f (s.core c).arr := by
  simp [State.modArr]
@[simp] theorem State.modArr_core_scr (s : State) (c : Fin 8) (f : Arr → Arr) (u : Fin 8) : ((s.modArr c f).core u).scr = (s.core u).scr := by
  by_cases h : u = c
  · subst h; simp [State.modArr]
  · simp [State.modArr, h]
@[simp] theorem State.modArr_core_mov (s : State) (c : Fin 8) (f : Arr → Arr) (u : Fin 8) : ((s.modArr c f).core u).mov = (s.core u).mov := by
  by_cases h : u = c
  · subst h; simp [State.modArr]
  · simp [State.modArr, h]
@[simp] theorem State.modArr_core_seq (s : State) (c : Fin 8) (f : Arr → Arr) (u : Fin 8) : ((s.modArr c f).core u).seq = (s.core u).seq := by
  by_cases h : u = c
  · subst h; simp [State.modArr]
  · simp [State.modArr, h]
@[simp] theorem State.modArr_core_upd (s : State) (c : Fin 8) (f : Arr → Arr) (u : Fin 8) : ((s.modArr c f).core u).upd = (s.core u).upd := by
  by_cases h : u = c
  · subst h; simp [State.modArr]
  · simp [State.modArr, h]
@[simp] theorem State.modArr_core_ne (s : State) (c : Fin 8) (f : Arr → Arr) (u : Fin 8) (h : u ≠ c) : (s.modArr c f).core u = s.core u := by
  simp [State.modArr, h]

/-! ### modScr -/

@[simp] theorem State.modScr_pending (s : State) (c : Fin 8) (f : Scr → Scr) : (s.modScr c f).pending = s.pending := rfl
@[simp] theorem State.modScr_tick (s : State) (c : Fin 8) (f : Scr → Scr) : (s.modScr c f).tick = s.tick := rfl
@[simp] theorem State.modScr_fencedViews (s : State) (c : Fin 8) (f : Scr → Scr) : (s.modScr c f).fencedViews = s.fencedViews := rfl
@[simp] theorem State.modScr_freeCtr (s : State) (c : Fin 8) (f : Scr → Scr) : (s.modScr c f).freeCtr = s.freeCtr := rfl
@[simp] theorem State.modScr_fuses (s : State) (c : Fin 8) (f : Scr → Scr) : (s.modScr c f).fuses = s.fuses := rfl
@[simp] theorem State.modScr_flash (s : State) (c : Fin 8) (f : Scr → Scr) : (s.modScr c f).flash = s.flash := rfl
@[simp] theorem State.modScr_glb (s : State) (c : Fin 8) (f : Scr → Scr) : (s.modScr c f).glb = s.glb := rfl
@[simp] theorem State.modScr_host (s : State) (c : Fin 8) (f : Scr → Scr) : (s.modScr c f).host = s.host := rfl
@[simp] theorem State.modScr_oz (s : State) (c : Fin 8) (f : Scr → Scr) : (s.modScr c f).oz = s.oz := rfl
@[simp] theorem State.modScr_img (s : State) (c : Fin 8) (f : Scr → Scr) : (s.modScr c f).img = s.img := rfl
@[simp] theorem State.modScr_halves (s : State) (c : Fin 8) (f : Scr → Scr) : (s.modScr c f).halves = s.halves := rfl
@[simp] theorem State.modScr_stks (s : State) (c : Fin 8) (f : Scr → Scr) : (s.modScr c f).stks = s.stks := rfl
@[simp] theorem State.modScr_mem (s : State) (c : Fin 8) (f : Scr → Scr) : (s.modScr c f).mem = s.mem := rfl
@[simp] theorem State.modScr_mpoison (s : State) (c : Fin 8) (f : Scr → Scr) : (s.modScr c f).mpoison = s.mpoison := rfl
@[simp] theorem State.modScr_symErr (s : State) (c : Fin 8) (f : Scr → Scr) : (s.modScr c f).symErr = s.symErr := rfl
@[simp] theorem State.modScr_red (s : State) (c : Fin 8) (f : Scr → Scr) : (s.modScr c f).red = s.red := rfl
@[simp] theorem State.modScr_ports (s : State) (c : Fin 8) (f : Scr → Scr) : (s.modScr c f).ports = s.ports := rfl
@[simp] theorem State.modScr_cas (s : State) (c : Fin 8) (f : Scr → Scr) : (s.modScr c f).cas = s.cas := rfl
@[simp] theorem State.modScr_eths (s : State) (c : Fin 8) (f : Scr → Scr) : (s.modScr c f).eths = s.eths := rfl
@[simp] theorem State.modScr_pwr (s : State) (c : Fin 8) (f : Scr → Scr) : (s.modScr c f).pwr = s.pwr := rfl
@[simp] theorem State.modScr_tap (s : State) (c : Fin 8) (f : Scr → Scr) : (s.modScr c f).tap = s.tap := rfl
@[simp] theorem State.modScr_out (s : State) (c : Fin 8) (f : Scr → Scr) : (s.modScr c f).out = s.out := rfl
@[simp] theorem State.modScr_half (s : State) (c : Fin 8) (f : Scr → Scr) (u : Fin 2) : (s.modScr c f).half u = s.half u := rfl
@[simp] theorem State.modScr_stack (s : State) (c : Fin 8) (f : Scr → Scr) (u : Fin 32) : (s.modScr c f).stack u = s.stack u := rfl
@[simp] theorem State.modScr_port (s : State) (c : Fin 8) (f : Scr → Scr) (u : Fin 18) : (s.modScr c f).port u = s.port u := rfl
@[simp] theorem State.modScr_eth (s : State) (c : Fin 8) (f : Scr → Scr) (u : Fin 2) : (s.modScr c f).eth u = s.eth u := rfl
@[simp] theorem State.modScr_core_up (s : State) (c : Fin 8) (f : Scr → Scr) (u : Fin 8) : ((s.modScr c f).core u).up = (s.core u).up := by
  by_cases h : u = c
  · subst h; simp [State.modScr]
  · simp [State.modScr, h]
@[simp] theorem State.modScr_core_fenced (s : State) (c : Fin 8) (f : Scr → Scr) (u : Fin 8) : ((s.modScr c f).core u).fenced = (s.core u).fenced := by
  by_cases h : u = c
  · subst h; simp [State.modScr]
  · simp [State.modScr, h]
@[simp] theorem State.modScr_core_gated (s : State) (c : Fin 8) (f : Scr → Scr) (u : Fin 8) : ((s.modScr c f).core u).gated = (s.core u).gated := by
  by_cases h : u = c
  · subst h; simp [State.modScr]
  · simp [State.modScr, h]
@[simp] theorem State.modScr_core_arr (s : State) (c : Fin 8) (f : Scr → Scr) (u : Fin 8) : ((s.modScr c f).core u).arr = (s.core u).arr := by
  by_cases h : u = c
  · subst h; simp [State.modScr]
  · simp [State.modScr, h]
@[simp] theorem State.modScr_core_scr (s : State) (c : Fin 8) (f : Scr → Scr) : ((s.modScr c f).core c).scr = f (s.core c).scr := by
  simp [State.modScr]
@[simp] theorem State.modScr_core_mov (s : State) (c : Fin 8) (f : Scr → Scr) (u : Fin 8) : ((s.modScr c f).core u).mov = (s.core u).mov := by
  by_cases h : u = c
  · subst h; simp [State.modScr]
  · simp [State.modScr, h]
@[simp] theorem State.modScr_core_seq (s : State) (c : Fin 8) (f : Scr → Scr) (u : Fin 8) : ((s.modScr c f).core u).seq = (s.core u).seq := by
  by_cases h : u = c
  · subst h; simp [State.modScr]
  · simp [State.modScr, h]
@[simp] theorem State.modScr_core_upd (s : State) (c : Fin 8) (f : Scr → Scr) (u : Fin 8) : ((s.modScr c f).core u).upd = (s.core u).upd := by
  by_cases h : u = c
  · subst h; simp [State.modScr]
  · simp [State.modScr, h]
@[simp] theorem State.modScr_core_ne (s : State) (c : Fin 8) (f : Scr → Scr) (u : Fin 8) (h : u ≠ c) : (s.modScr c f).core u = s.core u := by
  simp [State.modScr, h]

/-! ### modMov -/

@[simp] theorem State.modMov_pending (s : State) (c : Fin 8) (f : Mov → Mov) : (s.modMov c f).pending = s.pending := rfl
@[simp] theorem State.modMov_tick (s : State) (c : Fin 8) (f : Mov → Mov) : (s.modMov c f).tick = s.tick := rfl
@[simp] theorem State.modMov_fencedViews (s : State) (c : Fin 8) (f : Mov → Mov) : (s.modMov c f).fencedViews = s.fencedViews := rfl
@[simp] theorem State.modMov_freeCtr (s : State) (c : Fin 8) (f : Mov → Mov) : (s.modMov c f).freeCtr = s.freeCtr := rfl
@[simp] theorem State.modMov_fuses (s : State) (c : Fin 8) (f : Mov → Mov) : (s.modMov c f).fuses = s.fuses := rfl
@[simp] theorem State.modMov_flash (s : State) (c : Fin 8) (f : Mov → Mov) : (s.modMov c f).flash = s.flash := rfl
@[simp] theorem State.modMov_glb (s : State) (c : Fin 8) (f : Mov → Mov) : (s.modMov c f).glb = s.glb := rfl
@[simp] theorem State.modMov_host (s : State) (c : Fin 8) (f : Mov → Mov) : (s.modMov c f).host = s.host := rfl
@[simp] theorem State.modMov_oz (s : State) (c : Fin 8) (f : Mov → Mov) : (s.modMov c f).oz = s.oz := rfl
@[simp] theorem State.modMov_img (s : State) (c : Fin 8) (f : Mov → Mov) : (s.modMov c f).img = s.img := rfl
@[simp] theorem State.modMov_halves (s : State) (c : Fin 8) (f : Mov → Mov) : (s.modMov c f).halves = s.halves := rfl
@[simp] theorem State.modMov_stks (s : State) (c : Fin 8) (f : Mov → Mov) : (s.modMov c f).stks = s.stks := rfl
@[simp] theorem State.modMov_mem (s : State) (c : Fin 8) (f : Mov → Mov) : (s.modMov c f).mem = s.mem := rfl
@[simp] theorem State.modMov_mpoison (s : State) (c : Fin 8) (f : Mov → Mov) : (s.modMov c f).mpoison = s.mpoison := rfl
@[simp] theorem State.modMov_symErr (s : State) (c : Fin 8) (f : Mov → Mov) : (s.modMov c f).symErr = s.symErr := rfl
@[simp] theorem State.modMov_red (s : State) (c : Fin 8) (f : Mov → Mov) : (s.modMov c f).red = s.red := rfl
@[simp] theorem State.modMov_ports (s : State) (c : Fin 8) (f : Mov → Mov) : (s.modMov c f).ports = s.ports := rfl
@[simp] theorem State.modMov_cas (s : State) (c : Fin 8) (f : Mov → Mov) : (s.modMov c f).cas = s.cas := rfl
@[simp] theorem State.modMov_eths (s : State) (c : Fin 8) (f : Mov → Mov) : (s.modMov c f).eths = s.eths := rfl
@[simp] theorem State.modMov_pwr (s : State) (c : Fin 8) (f : Mov → Mov) : (s.modMov c f).pwr = s.pwr := rfl
@[simp] theorem State.modMov_tap (s : State) (c : Fin 8) (f : Mov → Mov) : (s.modMov c f).tap = s.tap := rfl
@[simp] theorem State.modMov_out (s : State) (c : Fin 8) (f : Mov → Mov) : (s.modMov c f).out = s.out := rfl
@[simp] theorem State.modMov_half (s : State) (c : Fin 8) (f : Mov → Mov) (u : Fin 2) : (s.modMov c f).half u = s.half u := rfl
@[simp] theorem State.modMov_stack (s : State) (c : Fin 8) (f : Mov → Mov) (u : Fin 32) : (s.modMov c f).stack u = s.stack u := rfl
@[simp] theorem State.modMov_port (s : State) (c : Fin 8) (f : Mov → Mov) (u : Fin 18) : (s.modMov c f).port u = s.port u := rfl
@[simp] theorem State.modMov_eth (s : State) (c : Fin 8) (f : Mov → Mov) (u : Fin 2) : (s.modMov c f).eth u = s.eth u := rfl
@[simp] theorem State.modMov_core_up (s : State) (c : Fin 8) (f : Mov → Mov) (u : Fin 8) : ((s.modMov c f).core u).up = (s.core u).up := by
  by_cases h : u = c
  · subst h; simp [State.modMov]
  · simp [State.modMov, h]
@[simp] theorem State.modMov_core_fenced (s : State) (c : Fin 8) (f : Mov → Mov) (u : Fin 8) : ((s.modMov c f).core u).fenced = (s.core u).fenced := by
  by_cases h : u = c
  · subst h; simp [State.modMov]
  · simp [State.modMov, h]
@[simp] theorem State.modMov_core_gated (s : State) (c : Fin 8) (f : Mov → Mov) (u : Fin 8) : ((s.modMov c f).core u).gated = (s.core u).gated := by
  by_cases h : u = c
  · subst h; simp [State.modMov]
  · simp [State.modMov, h]
@[simp] theorem State.modMov_core_arr (s : State) (c : Fin 8) (f : Mov → Mov) (u : Fin 8) : ((s.modMov c f).core u).arr = (s.core u).arr := by
  by_cases h : u = c
  · subst h; simp [State.modMov]
  · simp [State.modMov, h]
@[simp] theorem State.modMov_core_scr (s : State) (c : Fin 8) (f : Mov → Mov) (u : Fin 8) : ((s.modMov c f).core u).scr = (s.core u).scr := by
  by_cases h : u = c
  · subst h; simp [State.modMov]
  · simp [State.modMov, h]
@[simp] theorem State.modMov_core_mov (s : State) (c : Fin 8) (f : Mov → Mov) : ((s.modMov c f).core c).mov = f (s.core c).mov := by
  simp [State.modMov]
@[simp] theorem State.modMov_core_seq (s : State) (c : Fin 8) (f : Mov → Mov) (u : Fin 8) : ((s.modMov c f).core u).seq = (s.core u).seq := by
  by_cases h : u = c
  · subst h; simp [State.modMov]
  · simp [State.modMov, h]
@[simp] theorem State.modMov_core_upd (s : State) (c : Fin 8) (f : Mov → Mov) (u : Fin 8) : ((s.modMov c f).core u).upd = (s.core u).upd := by
  by_cases h : u = c
  · subst h; simp [State.modMov]
  · simp [State.modMov, h]
@[simp] theorem State.modMov_core_ne (s : State) (c : Fin 8) (f : Mov → Mov) (u : Fin 8) (h : u ≠ c) : (s.modMov c f).core u = s.core u := by
  simp [State.modMov, h]

/-! ### modSeq -/

@[simp] theorem State.modSeq_pending (s : State) (c : Fin 8) (f : Seq → Seq) : (s.modSeq c f).pending = s.pending := rfl
@[simp] theorem State.modSeq_tick (s : State) (c : Fin 8) (f : Seq → Seq) : (s.modSeq c f).tick = s.tick := rfl
@[simp] theorem State.modSeq_fencedViews (s : State) (c : Fin 8) (f : Seq → Seq) : (s.modSeq c f).fencedViews = s.fencedViews := rfl
@[simp] theorem State.modSeq_freeCtr (s : State) (c : Fin 8) (f : Seq → Seq) : (s.modSeq c f).freeCtr = s.freeCtr := rfl
@[simp] theorem State.modSeq_fuses (s : State) (c : Fin 8) (f : Seq → Seq) : (s.modSeq c f).fuses = s.fuses := rfl
@[simp] theorem State.modSeq_flash (s : State) (c : Fin 8) (f : Seq → Seq) : (s.modSeq c f).flash = s.flash := rfl
@[simp] theorem State.modSeq_glb (s : State) (c : Fin 8) (f : Seq → Seq) : (s.modSeq c f).glb = s.glb := rfl
@[simp] theorem State.modSeq_host (s : State) (c : Fin 8) (f : Seq → Seq) : (s.modSeq c f).host = s.host := rfl
@[simp] theorem State.modSeq_oz (s : State) (c : Fin 8) (f : Seq → Seq) : (s.modSeq c f).oz = s.oz := rfl
@[simp] theorem State.modSeq_img (s : State) (c : Fin 8) (f : Seq → Seq) : (s.modSeq c f).img = s.img := rfl
@[simp] theorem State.modSeq_halves (s : State) (c : Fin 8) (f : Seq → Seq) : (s.modSeq c f).halves = s.halves := rfl
@[simp] theorem State.modSeq_stks (s : State) (c : Fin 8) (f : Seq → Seq) : (s.modSeq c f).stks = s.stks := rfl
@[simp] theorem State.modSeq_mem (s : State) (c : Fin 8) (f : Seq → Seq) : (s.modSeq c f).mem = s.mem := rfl
@[simp] theorem State.modSeq_mpoison (s : State) (c : Fin 8) (f : Seq → Seq) : (s.modSeq c f).mpoison = s.mpoison := rfl
@[simp] theorem State.modSeq_symErr (s : State) (c : Fin 8) (f : Seq → Seq) : (s.modSeq c f).symErr = s.symErr := rfl
@[simp] theorem State.modSeq_red (s : State) (c : Fin 8) (f : Seq → Seq) : (s.modSeq c f).red = s.red := rfl
@[simp] theorem State.modSeq_ports (s : State) (c : Fin 8) (f : Seq → Seq) : (s.modSeq c f).ports = s.ports := rfl
@[simp] theorem State.modSeq_cas (s : State) (c : Fin 8) (f : Seq → Seq) : (s.modSeq c f).cas = s.cas := rfl
@[simp] theorem State.modSeq_eths (s : State) (c : Fin 8) (f : Seq → Seq) : (s.modSeq c f).eths = s.eths := rfl
@[simp] theorem State.modSeq_pwr (s : State) (c : Fin 8) (f : Seq → Seq) : (s.modSeq c f).pwr = s.pwr := rfl
@[simp] theorem State.modSeq_tap (s : State) (c : Fin 8) (f : Seq → Seq) : (s.modSeq c f).tap = s.tap := rfl
@[simp] theorem State.modSeq_out (s : State) (c : Fin 8) (f : Seq → Seq) : (s.modSeq c f).out = s.out := rfl
@[simp] theorem State.modSeq_half (s : State) (c : Fin 8) (f : Seq → Seq) (u : Fin 2) : (s.modSeq c f).half u = s.half u := rfl
@[simp] theorem State.modSeq_stack (s : State) (c : Fin 8) (f : Seq → Seq) (u : Fin 32) : (s.modSeq c f).stack u = s.stack u := rfl
@[simp] theorem State.modSeq_port (s : State) (c : Fin 8) (f : Seq → Seq) (u : Fin 18) : (s.modSeq c f).port u = s.port u := rfl
@[simp] theorem State.modSeq_eth (s : State) (c : Fin 8) (f : Seq → Seq) (u : Fin 2) : (s.modSeq c f).eth u = s.eth u := rfl
@[simp] theorem State.modSeq_core_up (s : State) (c : Fin 8) (f : Seq → Seq) (u : Fin 8) : ((s.modSeq c f).core u).up = (s.core u).up := by
  by_cases h : u = c
  · subst h; simp [State.modSeq]
  · simp [State.modSeq, h]
@[simp] theorem State.modSeq_core_fenced (s : State) (c : Fin 8) (f : Seq → Seq) (u : Fin 8) : ((s.modSeq c f).core u).fenced = (s.core u).fenced := by
  by_cases h : u = c
  · subst h; simp [State.modSeq]
  · simp [State.modSeq, h]
@[simp] theorem State.modSeq_core_gated (s : State) (c : Fin 8) (f : Seq → Seq) (u : Fin 8) : ((s.modSeq c f).core u).gated = (s.core u).gated := by
  by_cases h : u = c
  · subst h; simp [State.modSeq]
  · simp [State.modSeq, h]
@[simp] theorem State.modSeq_core_arr (s : State) (c : Fin 8) (f : Seq → Seq) (u : Fin 8) : ((s.modSeq c f).core u).arr = (s.core u).arr := by
  by_cases h : u = c
  · subst h; simp [State.modSeq]
  · simp [State.modSeq, h]
@[simp] theorem State.modSeq_core_scr (s : State) (c : Fin 8) (f : Seq → Seq) (u : Fin 8) : ((s.modSeq c f).core u).scr = (s.core u).scr := by
  by_cases h : u = c
  · subst h; simp [State.modSeq]
  · simp [State.modSeq, h]
@[simp] theorem State.modSeq_core_mov (s : State) (c : Fin 8) (f : Seq → Seq) (u : Fin 8) : ((s.modSeq c f).core u).mov = (s.core u).mov := by
  by_cases h : u = c
  · subst h; simp [State.modSeq]
  · simp [State.modSeq, h]
@[simp] theorem State.modSeq_core_seq (s : State) (c : Fin 8) (f : Seq → Seq) : ((s.modSeq c f).core c).seq = f (s.core c).seq := by
  simp [State.modSeq]
@[simp] theorem State.modSeq_core_upd (s : State) (c : Fin 8) (f : Seq → Seq) (u : Fin 8) : ((s.modSeq c f).core u).upd = (s.core u).upd := by
  by_cases h : u = c
  · subst h; simp [State.modSeq]
  · simp [State.modSeq, h]
@[simp] theorem State.modSeq_core_ne (s : State) (c : Fin 8) (f : Seq → Seq) (u : Fin 8) (h : u ≠ c) : (s.modSeq c f).core u = s.core u := by
  simp [State.modSeq, h]

/-! ### modUpd -/

@[simp] theorem State.modUpd_pending (s : State) (c : Fin 8) (f : Upd → Upd) : (s.modUpd c f).pending = s.pending := rfl
@[simp] theorem State.modUpd_tick (s : State) (c : Fin 8) (f : Upd → Upd) : (s.modUpd c f).tick = s.tick := rfl
@[simp] theorem State.modUpd_fencedViews (s : State) (c : Fin 8) (f : Upd → Upd) : (s.modUpd c f).fencedViews = s.fencedViews := rfl
@[simp] theorem State.modUpd_freeCtr (s : State) (c : Fin 8) (f : Upd → Upd) : (s.modUpd c f).freeCtr = s.freeCtr := rfl
@[simp] theorem State.modUpd_fuses (s : State) (c : Fin 8) (f : Upd → Upd) : (s.modUpd c f).fuses = s.fuses := rfl
@[simp] theorem State.modUpd_flash (s : State) (c : Fin 8) (f : Upd → Upd) : (s.modUpd c f).flash = s.flash := rfl
@[simp] theorem State.modUpd_glb (s : State) (c : Fin 8) (f : Upd → Upd) : (s.modUpd c f).glb = s.glb := rfl
@[simp] theorem State.modUpd_host (s : State) (c : Fin 8) (f : Upd → Upd) : (s.modUpd c f).host = s.host := rfl
@[simp] theorem State.modUpd_oz (s : State) (c : Fin 8) (f : Upd → Upd) : (s.modUpd c f).oz = s.oz := rfl
@[simp] theorem State.modUpd_img (s : State) (c : Fin 8) (f : Upd → Upd) : (s.modUpd c f).img = s.img := rfl
@[simp] theorem State.modUpd_halves (s : State) (c : Fin 8) (f : Upd → Upd) : (s.modUpd c f).halves = s.halves := rfl
@[simp] theorem State.modUpd_stks (s : State) (c : Fin 8) (f : Upd → Upd) : (s.modUpd c f).stks = s.stks := rfl
@[simp] theorem State.modUpd_mem (s : State) (c : Fin 8) (f : Upd → Upd) : (s.modUpd c f).mem = s.mem := rfl
@[simp] theorem State.modUpd_mpoison (s : State) (c : Fin 8) (f : Upd → Upd) : (s.modUpd c f).mpoison = s.mpoison := rfl
@[simp] theorem State.modUpd_symErr (s : State) (c : Fin 8) (f : Upd → Upd) : (s.modUpd c f).symErr = s.symErr := rfl
@[simp] theorem State.modUpd_red (s : State) (c : Fin 8) (f : Upd → Upd) : (s.modUpd c f).red = s.red := rfl
@[simp] theorem State.modUpd_ports (s : State) (c : Fin 8) (f : Upd → Upd) : (s.modUpd c f).ports = s.ports := rfl
@[simp] theorem State.modUpd_cas (s : State) (c : Fin 8) (f : Upd → Upd) : (s.modUpd c f).cas = s.cas := rfl
@[simp] theorem State.modUpd_eths (s : State) (c : Fin 8) (f : Upd → Upd) : (s.modUpd c f).eths = s.eths := rfl
@[simp] theorem State.modUpd_pwr (s : State) (c : Fin 8) (f : Upd → Upd) : (s.modUpd c f).pwr = s.pwr := rfl
@[simp] theorem State.modUpd_tap (s : State) (c : Fin 8) (f : Upd → Upd) : (s.modUpd c f).tap = s.tap := rfl
@[simp] theorem State.modUpd_out (s : State) (c : Fin 8) (f : Upd → Upd) : (s.modUpd c f).out = s.out := rfl
@[simp] theorem State.modUpd_half (s : State) (c : Fin 8) (f : Upd → Upd) (u : Fin 2) : (s.modUpd c f).half u = s.half u := rfl
@[simp] theorem State.modUpd_stack (s : State) (c : Fin 8) (f : Upd → Upd) (u : Fin 32) : (s.modUpd c f).stack u = s.stack u := rfl
@[simp] theorem State.modUpd_port (s : State) (c : Fin 8) (f : Upd → Upd) (u : Fin 18) : (s.modUpd c f).port u = s.port u := rfl
@[simp] theorem State.modUpd_eth (s : State) (c : Fin 8) (f : Upd → Upd) (u : Fin 2) : (s.modUpd c f).eth u = s.eth u := rfl
@[simp] theorem State.modUpd_core_up (s : State) (c : Fin 8) (f : Upd → Upd) (u : Fin 8) : ((s.modUpd c f).core u).up = (s.core u).up := by
  by_cases h : u = c
  · subst h; simp [State.modUpd]
  · simp [State.modUpd, h]
@[simp] theorem State.modUpd_core_fenced (s : State) (c : Fin 8) (f : Upd → Upd) (u : Fin 8) : ((s.modUpd c f).core u).fenced = (s.core u).fenced := by
  by_cases h : u = c
  · subst h; simp [State.modUpd]
  · simp [State.modUpd, h]
@[simp] theorem State.modUpd_core_gated (s : State) (c : Fin 8) (f : Upd → Upd) (u : Fin 8) : ((s.modUpd c f).core u).gated = (s.core u).gated := by
  by_cases h : u = c
  · subst h; simp [State.modUpd]
  · simp [State.modUpd, h]
@[simp] theorem State.modUpd_core_arr (s : State) (c : Fin 8) (f : Upd → Upd) (u : Fin 8) : ((s.modUpd c f).core u).arr = (s.core u).arr := by
  by_cases h : u = c
  · subst h; simp [State.modUpd]
  · simp [State.modUpd, h]
@[simp] theorem State.modUpd_core_scr (s : State) (c : Fin 8) (f : Upd → Upd) (u : Fin 8) : ((s.modUpd c f).core u).scr = (s.core u).scr := by
  by_cases h : u = c
  · subst h; simp [State.modUpd]
  · simp [State.modUpd, h]
@[simp] theorem State.modUpd_core_mov (s : State) (c : Fin 8) (f : Upd → Upd) (u : Fin 8) : ((s.modUpd c f).core u).mov = (s.core u).mov := by
  by_cases h : u = c
  · subst h; simp [State.modUpd]
  · simp [State.modUpd, h]
@[simp] theorem State.modUpd_core_seq (s : State) (c : Fin 8) (f : Upd → Upd) (u : Fin 8) : ((s.modUpd c f).core u).seq = (s.core u).seq := by
  by_cases h : u = c
  · subst h; simp [State.modUpd]
  · simp [State.modUpd, h]
@[simp] theorem State.modUpd_core_upd (s : State) (c : Fin 8) (f : Upd → Upd) : ((s.modUpd c f).core c).upd = f (s.core c).upd := by
  simp [State.modUpd]
@[simp] theorem State.modUpd_core_ne (s : State) (c : Fin 8) (f : Upd → Upd) (u : Fin 8) (h : u ≠ c) : (s.modUpd c f).core u = s.core u := by
  simp [State.modUpd, h]

/-! ### emit -/

@[simp] theorem State.emit_pending (s : State) (x : Out) : (s.emit x).pending = s.pending := rfl
@[simp] theorem State.emit_tick (s : State) (x : Out) : (s.emit x).tick = s.tick := rfl
@[simp] theorem State.emit_fencedViews (s : State) (x : Out) : (s.emit x).fencedViews = s.fencedViews := rfl
@[simp] theorem State.emit_freeCtr (s : State) (x : Out) : (s.emit x).freeCtr = s.freeCtr := rfl
@[simp] theorem State.emit_fuses (s : State) (x : Out) : (s.emit x).fuses = s.fuses := rfl
@[simp] theorem State.emit_flash (s : State) (x : Out) : (s.emit x).flash = s.flash := rfl
@[simp] theorem State.emit_glb (s : State) (x : Out) : (s.emit x).glb = s.glb := rfl
@[simp] theorem State.emit_host (s : State) (x : Out) : (s.emit x).host = s.host := rfl
@[simp] theorem State.emit_oz (s : State) (x : Out) : (s.emit x).oz = s.oz := rfl
@[simp] theorem State.emit_img (s : State) (x : Out) : (s.emit x).img = s.img := rfl
@[simp] theorem State.emit_cores (s : State) (x : Out) : (s.emit x).cores = s.cores := rfl
@[simp] theorem State.emit_halves (s : State) (x : Out) : (s.emit x).halves = s.halves := rfl
@[simp] theorem State.emit_stks (s : State) (x : Out) : (s.emit x).stks = s.stks := rfl
@[simp] theorem State.emit_mem (s : State) (x : Out) : (s.emit x).mem = s.mem := rfl
@[simp] theorem State.emit_mpoison (s : State) (x : Out) : (s.emit x).mpoison = s.mpoison := rfl
@[simp] theorem State.emit_symErr (s : State) (x : Out) : (s.emit x).symErr = s.symErr := rfl
@[simp] theorem State.emit_red (s : State) (x : Out) : (s.emit x).red = s.red := rfl
@[simp] theorem State.emit_ports (s : State) (x : Out) : (s.emit x).ports = s.ports := rfl
@[simp] theorem State.emit_cas (s : State) (x : Out) : (s.emit x).cas = s.cas := rfl
@[simp] theorem State.emit_eths (s : State) (x : Out) : (s.emit x).eths = s.eths := rfl
@[simp] theorem State.emit_pwr (s : State) (x : Out) : (s.emit x).pwr = s.pwr := rfl
@[simp] theorem State.emit_tap (s : State) (x : Out) : (s.emit x).tap = s.tap := rfl
@[simp] theorem State.emit_core (s : State) (x : Out) (u : Fin 8) : (s.emit x).core u = s.core u := rfl
@[simp] theorem State.emit_half (s : State) (x : Out) (u : Fin 2) : (s.emit x).half u = s.half u := rfl
@[simp] theorem State.emit_stack (s : State) (x : Out) (u : Fin 32) : (s.emit x).stack u = s.stack u := rfl
@[simp] theorem State.emit_port (s : State) (x : Out) (u : Fin 18) : (s.emit x).port u = s.port u := rfl
@[simp] theorem State.emit_eth (s : State) (x : Out) (u : Fin 2) : (s.emit x).eth u = s.eth u := rfl

/-! ### draw -/

@[simp] theorem State.draw_pending (s : State) : (s.draw).pending = s.pending := rfl
@[simp] theorem State.draw_tick (s : State) : (s.draw).tick = s.tick := rfl
@[simp] theorem State.draw_fencedViews (s : State) : (s.draw).fencedViews = s.fencedViews := rfl
@[simp] theorem State.draw_fuses (s : State) : (s.draw).fuses = s.fuses := rfl
@[simp] theorem State.draw_flash (s : State) : (s.draw).flash = s.flash := rfl
@[simp] theorem State.draw_glb (s : State) : (s.draw).glb = s.glb := rfl
@[simp] theorem State.draw_host (s : State) : (s.draw).host = s.host := rfl
@[simp] theorem State.draw_oz (s : State) : (s.draw).oz = s.oz := rfl
@[simp] theorem State.draw_img (s : State) : (s.draw).img = s.img := rfl
@[simp] theorem State.draw_cores (s : State) : (s.draw).cores = s.cores := rfl
@[simp] theorem State.draw_halves (s : State) : (s.draw).halves = s.halves := rfl
@[simp] theorem State.draw_stks (s : State) : (s.draw).stks = s.stks := rfl
@[simp] theorem State.draw_mem (s : State) : (s.draw).mem = s.mem := rfl
@[simp] theorem State.draw_mpoison (s : State) : (s.draw).mpoison = s.mpoison := rfl
@[simp] theorem State.draw_symErr (s : State) : (s.draw).symErr = s.symErr := rfl
@[simp] theorem State.draw_red (s : State) : (s.draw).red = s.red := rfl
@[simp] theorem State.draw_ports (s : State) : (s.draw).ports = s.ports := rfl
@[simp] theorem State.draw_cas (s : State) : (s.draw).cas = s.cas := rfl
@[simp] theorem State.draw_eths (s : State) : (s.draw).eths = s.eths := rfl
@[simp] theorem State.draw_pwr (s : State) : (s.draw).pwr = s.pwr := rfl
@[simp] theorem State.draw_tap (s : State) : (s.draw).tap = s.tap := rfl
@[simp] theorem State.draw_out (s : State) : (s.draw).out = s.out := rfl
@[simp] theorem State.draw_core (s : State) (u : Fin 8) : (s.draw).core u = s.core u := rfl
@[simp] theorem State.draw_half (s : State) (u : Fin 2) : (s.draw).half u = s.half u := rfl
@[simp] theorem State.draw_stack (s : State) (u : Fin 32) : (s.draw).stack u = s.stack u := rfl
@[simp] theorem State.draw_port (s : State) (u : Fin 18) : (s.draw).port u = s.port u := rfl
@[simp] theorem State.draw_eth (s : State) (u : Fin 2) : (s.draw).eth u = s.eth u := rfl

/-! ### setMemByte -/

@[simp] theorem State.setMemByte_pending (s : State) (a : Nat) (b : BitVec 8) : (s.setMemByte a b).pending = s.pending := rfl
@[simp] theorem State.setMemByte_tick (s : State) (a : Nat) (b : BitVec 8) : (s.setMemByte a b).tick = s.tick := rfl
@[simp] theorem State.setMemByte_fencedViews (s : State) (a : Nat) (b : BitVec 8) : (s.setMemByte a b).fencedViews = s.fencedViews := rfl
@[simp] theorem State.setMemByte_freeCtr (s : State) (a : Nat) (b : BitVec 8) : (s.setMemByte a b).freeCtr = s.freeCtr := rfl
@[simp] theorem State.setMemByte_fuses (s : State) (a : Nat) (b : BitVec 8) : (s.setMemByte a b).fuses = s.fuses := rfl
@[simp] theorem State.setMemByte_flash (s : State) (a : Nat) (b : BitVec 8) : (s.setMemByte a b).flash = s.flash := rfl
@[simp] theorem State.setMemByte_glb (s : State) (a : Nat) (b : BitVec 8) : (s.setMemByte a b).glb = s.glb := rfl
@[simp] theorem State.setMemByte_host (s : State) (a : Nat) (b : BitVec 8) : (s.setMemByte a b).host = s.host := rfl
@[simp] theorem State.setMemByte_oz (s : State) (a : Nat) (b : BitVec 8) : (s.setMemByte a b).oz = s.oz := rfl
@[simp] theorem State.setMemByte_img (s : State) (a : Nat) (b : BitVec 8) : (s.setMemByte a b).img = s.img := rfl
@[simp] theorem State.setMemByte_cores (s : State) (a : Nat) (b : BitVec 8) : (s.setMemByte a b).cores = s.cores := rfl
@[simp] theorem State.setMemByte_halves (s : State) (a : Nat) (b : BitVec 8) : (s.setMemByte a b).halves = s.halves := rfl
@[simp] theorem State.setMemByte_stks (s : State) (a : Nat) (b : BitVec 8) : (s.setMemByte a b).stks = s.stks := rfl
@[simp] theorem State.setMemByte_mpoison (s : State) (a : Nat) (b : BitVec 8) : (s.setMemByte a b).mpoison = s.mpoison := rfl
@[simp] theorem State.setMemByte_symErr (s : State) (a : Nat) (b : BitVec 8) : (s.setMemByte a b).symErr = s.symErr := rfl
@[simp] theorem State.setMemByte_red (s : State) (a : Nat) (b : BitVec 8) : (s.setMemByte a b).red = s.red := rfl
@[simp] theorem State.setMemByte_ports (s : State) (a : Nat) (b : BitVec 8) : (s.setMemByte a b).ports = s.ports := rfl
@[simp] theorem State.setMemByte_cas (s : State) (a : Nat) (b : BitVec 8) : (s.setMemByte a b).cas = s.cas := rfl
@[simp] theorem State.setMemByte_eths (s : State) (a : Nat) (b : BitVec 8) : (s.setMemByte a b).eths = s.eths := rfl
@[simp] theorem State.setMemByte_pwr (s : State) (a : Nat) (b : BitVec 8) : (s.setMemByte a b).pwr = s.pwr := rfl
@[simp] theorem State.setMemByte_tap (s : State) (a : Nat) (b : BitVec 8) : (s.setMemByte a b).tap = s.tap := rfl
@[simp] theorem State.setMemByte_out (s : State) (a : Nat) (b : BitVec 8) : (s.setMemByte a b).out = s.out := rfl
@[simp] theorem State.setMemByte_core (s : State) (a : Nat) (b : BitVec 8) (u : Fin 8) : (s.setMemByte a b).core u = s.core u := rfl
@[simp] theorem State.setMemByte_half (s : State) (a : Nat) (b : BitVec 8) (u : Fin 2) : (s.setMemByte a b).half u = s.half u := rfl
@[simp] theorem State.setMemByte_stack (s : State) (a : Nat) (b : BitVec 8) (u : Fin 32) : (s.setMemByte a b).stack u = s.stack u := rfl
@[simp] theorem State.setMemByte_port (s : State) (a : Nat) (b : BitVec 8) (u : Fin 18) : (s.setMemByte a b).port u = s.port u := rfl
@[simp] theorem State.setMemByte_eth (s : State) (a : Nat) (b : BitVec 8) (u : Fin 2) : (s.setMemByte a b).eth u = s.eth u := rfl
@[simp] theorem State.emit_out (s : State) (x : Out) : (s.emit x).out = x :: s.out := rfl
@[simp] theorem State.draw_freeCtr (s : State) : (s.draw).freeCtr = s.freeCtr + 1 := rfl
@[simp] theorem State.setMemByte_mem (s : State) (a : Nat) (b : BitVec 8) : (s.setMemByte a b).mem = tabSet 0 s.mem a b := rfl

end Sys2Proof.Machine
end

