-- ==== Sys2Proof/Laws/Compose.lean ====
section
/-! SUPPORT. Two updates of one unit are one update by the composed function, and updates of different kinds of unit commute. -/

namespace Sys2Proof.Machine

/-- Setting an element twice leaves the second value. -/
theorem vector_set_set {α : Type} {n : Nat} (v : Vector α n) (i : Fin n) (x y : α) : (v.set i x).set i y = v.set i y := by
  ext j hj
  by_cases h : i.val = j <;> simp [h]

theorem State.modCore_modCore (s : State) (c : Fin 8) (f g : Core → Core) :
    (s.modCore c f).modCore c g = s.modCore c fun x => g (f x) := by
  simp only [State.modCore, State.core, vector_get_set, vector_set_set]

theorem State.modHalf_modHalf (s : State) (h : Fin 2) (f g : Half → Half) :
    (s.modHalf h f).modHalf h g = s.modHalf h fun x => g (f x) := by
  simp only [State.modHalf, State.half, vector_get_set, vector_set_set]

theorem State.modStack_modStack (s : State) (k : Fin 32) (f g : Stack → Stack) :
    (s.modStack k f).modStack k g = s.modStack k fun x => g (f x) := by
  simp only [State.modStack, State.stack, vector_get_set, vector_set_set]

theorem State.modPort_modPort (s : State) (p : Fin 18) (f g : Port → Port) :
    (s.modPort p f).modPort p g = s.modPort p fun x => g (f x) := by
  simp only [State.modPort, State.port, vector_get_set, vector_set_set]

theorem State.modEth_modEth (s : State) (e : Fin 2) (f g : Eth → Eth) :
    (s.modEth e f).modEth e g = s.modEth e fun x => g (f x) := by
  simp only [State.modEth, State.eth, vector_get_set, vector_set_set]

theorem State.modArr_modArr (s : State) (c : Fin 8) (f g : Arr → Arr) :
    (s.modArr c f).modArr c g = s.modArr c fun x => g (f x) := State.modCore_modCore _ _ _ _

theorem State.modScr_modScr (s : State) (c : Fin 8) (f g : Scr → Scr) :
    (s.modScr c f).modScr c g = s.modScr c fun x => g (f x) := State.modCore_modCore _ _ _ _

theorem State.modMov_modMov (s : State) (c : Fin 8) (f g : Mov → Mov) :
    (s.modMov c f).modMov c g = s.modMov c fun x => g (f x) := State.modCore_modCore _ _ _ _

theorem State.modSeq_modSeq (s : State) (c : Fin 8) (f g : Seq → Seq) :
    (s.modSeq c f).modSeq c g = s.modSeq c fun x => g (f x) := State.modCore_modCore _ _ _ _

theorem State.modUpd_modUpd (s : State) (c : Fin 8) (f g : Upd → Upd) :
    (s.modUpd c f).modUpd c g = s.modUpd c fun x => g (f x) := State.modCore_modCore _ _ _ _

/-- A partition just changed. -/
@[simp] theorem State.modPart_part (s : State) (c : Fin 8) (p : Fin 4) (f : Part → Part) :
    (s.modPart c p f).part c p = f (s.part c p) := by
  simp only [State.modPart, State.part, State.modArr, State.modCore_core, vector_get_set]

/-- The core's other partitions. -/
@[simp] theorem State.modPart_part_ne (s : State) (c : Fin 8) (p q : Fin 4) (f : Part → Part) (ne : q ≠ p) :
    (s.modPart c p f).part c q = s.part c q := by
  simp only [State.modPart, State.part, State.modArr, State.modCore_core]
  exact vector_get_set_ne _ _ _ _ ne

/-- The partitions of the other cores. -/
@[simp] theorem State.modPart_part_core (s : State) (c d : Fin 8) (p q : Fin 4) (f : Part → Part) (ne : d ≠ c) :
    (s.modPart c p f).part d q = s.part d q := by
  simp only [State.modPart, State.part, State.modArr]
  rw [State.modCore_core_ne s c _ d ne]

/-- A bank just changed. -/
@[simp] theorem State.modBank_bank (s : State) (c : Fin 8) (p : Fin 4) (b : Fin 2) (f : Bank → Bank) :
    (s.modBank c p b f).bank c p b = f (s.bank c p b) := by
  simp only [State.modBank, State.bank, State.modPart_part, vector_get_set]

end Sys2Proof.Machine
end

