-- ==== Sys2Proof/Laws/Scratch.lean ====
section
/-! SUPPORT. Reading scratchpad rows that hold no flipped bit and no poison. -/

namespace Sys2Proof.Machine

/-- A row with no flipped bit and no poison reads and changes nothing. -/
theorem State.scrReadRow_clean (s : State) (c : Fin 8) (row : Nat) (hf : (s.core c).scr.flips = [])
    (hp : (s.core c).scr.poison = []) : s.scrReadRow c row = (true, s) := by
  have h0 : flipCount (0#39) = 0 := by decide
  have he : (s.core c).scr.rowErrors row = ([], []) := by
    unfold Scr.rowErrors
    rw [hf]
    simp [tabGet, h0]
  simp [State.scrReadRow, he, hp, tabGet]

/-- Clean rows read and change nothing. -/
theorem State.scrReadRows_clean (s : State) (c : Fin 8) (row n : Nat) (hf : (s.core c).scr.flips = [])
    (hp : (s.core c).scr.poison = []) : s.scrReadRows c row n = (true, s) := by
  induction n generalizing row with
  | zero => rfl
  | succ n ih => simp only [State.scrReadRows, s.scrReadRow_clean c row hf hp, ih]

/-- A clean extent answers its bytes and changes nothing. -/
theorem State.scrFetch_clean (s : State) (c : Fin 8) (a n : Nat) (hf : (s.core c).scr.flips = [])
    (hp : (s.core c).scr.poison = []) (hn : n ≠ 0) : s.scrFetch c a n = (some (s.scrBytes c a n), s) := by
  simp only [State.scrFetch, hn, if_false, s.scrReadRows_clean c _ _ hf hp]

end Sys2Proof.Machine
end

