-- ==== Sys2Proof/Laws/Drain.lean ====
section
/-! SUPPORT. A vector's pass over its bank's entries meets no trap where its policy sets none, and no chunk is out of order in a
tile's first chunk; a tile's extent whose rows are clean reads whole. -/

namespace Sys2Proof.Machine

/-- A pass over an entry keeps what every product keeps. -/
theorem applyPass_induct (motive : ProdSt → Prop) (anchor : Int) (nf sat : Bool) (e : AccEntry) (l : List (Val × Val))
    (h0 : motive { e := e }) (h : ∀ p a b, motive p → motive (applyProduct anchor nf sat p a b)) :
    motive (applyPass anchor nf sat e l) :=
  List.foldlRecOn _ _ (motive := motive) h0 fun _ hp _ _ => h _ _ _ hp

/-- Without the non-finite trap a pass over an entry notes no non-finite product. -/
theorem applyPass_nf (anchor : Int) (sat : Bool) (e : AccEntry) (l : List (Val × Val)) :
    (applyPass anchor false sat e l).nf = false := by
  refine applyPass_induct (fun p => p.nf = false) anchor false sat e l rfl fun p a b hp => ?_
  unfold applyProduct
  (repeat' split) <;> simp_all

/-- Without the saturation trap a pass over an entry notes no saturation. -/
theorem applyPass_sat (anchor : Int) (nf : Bool) (e : AccEntry) (l : List (Val × Val)) :
    (applyPass anchor nf false e l).sat = false := by
  refine applyPass_induct (fun p => p.sat = false) anchor nf false e l rfl fun p a b hp => ?_
  unfold applyProduct
  (repeat' split) <;> simp_all

/-- The policy of the tensor a vector's bank gauges, traps and all. -/
def State.passPolicy (s : State) (c : Fin 8) (p : Fin 4) (f : Flight) : Policy :=
  policyOf (match s.tensor (fld (s.bank c p (fin2 f.bank)).word 89 78) with | some x => x.policy | none => 0)

/-- A vector's pass keeps what every lane keeps. -/
theorem State.drainPass_induct (motive : PassOut → Prop) (s : State) (c : Fin 8) (p : Fin 4) (f : Flight)
    (h0 : motive { entries := s.poolOf c (fin2 f.bank) })
    (h : ∀ anchor key l x, motive x →
      motive (passLane (s.metHdr c p f) (s.metHdr c p f).op.isFloat anchor (s.passPolicy c p f) key l x)) :
    motive (s.drainPass c p f) :=
  List.foldlRecOn _ _ (motive := motive) h0 fun _ hx _ _ => h _ _ _ _ hx

/-- No lane of a first chunk's pass is out of chunk order. -/
theorem State.drainPass_order (s : State) (c : Fin 8) (p : Fin 4) (f : Flight) (hc : (s.metHdr c p f).chunk = 0)
    (hf : (s.metHdr c p f).first = true) : (s.drainPass c p f).order = false :=
  s.drainPass_induct (fun x => x.order = false) c p f rfl fun _ _ _ _ hx => by simp [passLane, chunkOk, hc, hf, hx]

/-- Without the non-finite trap a pass meets none. -/
theorem State.drainPass_nf (s : State) (c : Fin 8) (p : Fin 4) (f : Flight) (hn : (s.passPolicy c p f).nfTrap = false) :
    (s.drainPass c p f).nf = false :=
  s.drainPass_induct (fun x => x.nf = false) c p f rfl fun _ _ _ _ hx => by
    cases (s.metHdr c p f).op.isFloat <;> simp only [passLane, Bool.false_eq_true, if_false, if_true] <;>
      split <;> simp [applyFloat, applyPass_nf, hn, hx]

/-- Without the saturation trap a pass meets none. -/
theorem State.drainPass_sat (s : State) (c : Fin 8) (p : Fin 4) (f : Flight) (hs : (s.passPolicy c p f).satTrap = false) :
    (s.drainPass c p f).sat = false :=
  s.drainPass_induct (fun x => x.sat = false) c p f rfl fun _ _ _ _ hx => by
    cases (s.metHdr c p f).op.isFloat <;> simp only [passLane, Bool.false_eq_true, if_false, if_true] <;>
      split <;> simp [applyFloat, applyPass_sat, hs, hx]

/-- A tile whose core holds no flipped bit and no poison is fetched whole. -/
theorem State.tileFetch_clean (s : State) (c : Fin 8) (m : PartMode) (o : OpFmt) (a : Nat) (hf : (s.core c).scr.flips = [])
    (hp : (s.core c).scr.poison = []) :
    s.tileFetch c m o a = (some (s.scrBytes c a (tileElemBytes m o + tileScaleBytes m o)), s) := by
  have h (a n : Nat) : ∃ l, s.scrFetch c a n = (some l, s) := by
    by_cases hn : n = 0
    · exact ⟨[], by simp [State.scrFetch, hn]⟩
    · exact ⟨_, s.scrFetch_clean c a n hf hp hn⟩
  obtain ⟨l, hl⟩ := h a (tileReadBytes m o)
  obtain ⟨l2, hl2⟩ := h (a + tileElemBytes m o) (tileScaleBytes m o)
  simp only [State.tileFetch, hl, hl2]

end Sys2Proof.Machine
end

