-- ==== Sys2Proof/Laws/Memory.lean ====
section
/-! SUPPORT. Sparse tables and stack memory: a read after a write gives the value written, a write leaves every other key
alone, and every memory operation keeps the canonical form. -/

namespace Sys2Proof.Machine

variable {β : Type} [DecidableEq β] {d : β}

/-- The form with a lower least key is weaker. -/
theorem tabWfFrom_weaken {t : Tab β} {lo lo' : Nat} (h : tabWfFrom d lo t = true) (hl : lo' ≤ lo) :
    tabWfFrom d lo' t = true := by
  cases t with
  | nil => rfl
  | cons e t =>
    simp only [tabWfFrom, Bool.and_eq_true, decide_eq_true_eq] at h ⊢
    exact ⟨⟨Nat.le_trans hl h.1.1, h.1.2⟩, h.2⟩

/-- A key below every listed one reads as the default. -/
theorem tabGet_below {t : Tab β} {lo n : Nat} (h : tabWfFrom d lo t = true) (hn : n < lo) : tabGet d t n = d := by
  induction t generalizing lo with
  | nil => rfl
  | cons e t ih =>
    simp only [tabWfFrom, Bool.and_eq_true, decide_eq_true_eq] at h
    have hk : e.1 ≠ n := by omega
    simp only [tabGet, hk, if_false]
    exact ih h.2 (by omega)

/-- Setting a key keeps the form. -/
theorem tabWfFrom_tabSet {t : Tab β} {lo n : Nat} (v : β) (h : tabWfFrom d lo t = true) (hn : lo ≤ n) :
    tabWfFrom d lo (tabSet d t n v) = true := by
  induction t generalizing lo with
  | nil =>
    by_cases hv : v = d
    · simp [tabSet, hv, tabWfFrom]
    · simp [tabSet, hv, tabWfFrom, hn]
  | cons e t ih =>
    obtain ⟨k, w⟩ := e
    simp only [tabWfFrom, Bool.and_eq_true, decide_eq_true_eq] at h
    obtain ⟨⟨h1, h2⟩, h3⟩ := h
    unfold tabSet
    split
    · rename_i hk
      simp only [tabWfFrom, Bool.and_eq_true, decide_eq_true_eq]
      exact ⟨⟨h1, h2⟩, ih h3 hk⟩
    · split
      · rename_i hk
        subst hk
        split
        · exact tabWfFrom_weaken h3 (by omega)
        · rename_i hv
          simp [tabWfFrom, hn, hv, h3]
      · rename_i hk hne
        split
        · simp [tabWfFrom, h1, h2, h3]
        · rename_i hv
          have hlt : n + 1 ≤ k := by omega
          simp [tabWfFrom, hn, hv, h2, h3, hlt]

theorem tabWf_tabSet {t : Tab β} (n : Nat) (v : β) (h : tabWf d t = true) : tabWf d (tabSet d t n v) = true :=
  tabWfFrom_tabSet v h (Nat.zero_le n)

/-- A read of the key that was set gives its value. -/
theorem tabGet_tabSet_self {t : Tab β} {lo : Nat} (n : Nat) (v : β) (h : tabWfFrom d lo t = true) :
    tabGet d (tabSet d t n v) n = v := by
  induction t generalizing lo with
  | nil => by_cases hv : v = d <;> simp [tabSet, tabGet, hv]
  | cons e t ih =>
    obtain ⟨k, w⟩ := e
    simp only [tabWfFrom, Bool.and_eq_true, decide_eq_true_eq] at h
    unfold tabSet
    split
    · rename_i hk
      have : k ≠ n := by omega
      simp only [tabGet, this, if_false]
      exact ih h.2
    · split
      · rename_i hk
        subst hk
        split
        · rename_i hv
          rw [hv]
          exact tabGet_below h.2 (by omega)
        · simp [tabGet]
      · rename_i hk hne
        split
        · rename_i hv
          simp only [tabGet, hne, if_false, hv]
          exact tabGet_below h.2 (by omega)
        · simp [tabGet]

/-- A read of any other key is as before; this needs no form. -/
theorem tabGet_tabSet_ne {t : Tab β} {n m : Nat} (v : β) (hnm : m ≠ n) :
    tabGet d (tabSet d t n v) m = tabGet d t m := by
  induction t with
  | nil => by_cases hv : v = d <;> simp [tabSet, tabGet, hv, Ne.symm hnm]
  | cons e t ih =>
    obtain ⟨k, w⟩ := e
    unfold tabSet
    split
    · simp only [tabGet, ih]
    · split
      · rename_i hk
        subst hk
        split <;> simp [tabGet, Ne.symm hnm]
      · split
        · rfl
        · simp [tabGet, Ne.symm hnm]

/-! ### Stack memory -/

/-- One byte written keeps the form. -/
theorem setMemByte_wf {s : State} (a : Nat) (b : BitVec 8) (h : Memory.wf s.mem = true) :
    Memory.wf (s.setMemByte a b).mem = true := tabWf_tabSet a b h

theorem memByte_setMemByte_self {s : State} (a : Nat) (b : BitVec 8) (h : Memory.wf s.mem = true) :
    (s.setMemByte a b).memByte a = b := tabGet_tabSet_self a b h

theorem memByte_setMemByte_ne {s : State} {a x : Nat} (b : BitVec 8) (hx : x ≠ a) :
    (s.setMemByte a b).memByte x = s.memByte x := tabGet_tabSet_ne b hx

/-- Bytes written upward from an address keep the form. -/
theorem setMemBytes_wf {s : State} (a : Nat) (bs : List (BitVec 8)) (h : Memory.wf s.mem = true) :
    Memory.wf (s.setMemBytes a bs).mem = true := by
  induction bs generalizing s a with
  | nil => exact h
  | cons b bs ih => exact ih (a + 1) (setMemByte_wf a b h)

theorem setMemWord_wf {s : State} (a n v : Nat) (h : Memory.wf s.mem = true) :
    Memory.wf (s.setMemWord a n v).mem = true := setMemBytes_wf a _ h

/-- A byte outside the bytes written reads as before. -/
theorem memByte_setMemBytes_outside {s : State} {a x : Nat} (bs : List (BitVec 8))
    (hx : x < a ∨ a + bs.length ≤ x) : (s.setMemBytes a bs).memByte x = s.memByte x := by
  induction bs generalizing s a with
  | nil => rfl
  | cons b bs ih =>
    simp only [List.length_cons] at hx
    show ((s.setMemByte a b).setMemBytes (a + 1) bs).memByte x = _
    rw [ih (by omega), memByte_setMemByte_ne b (by omega)]

/-- A byte among those written reads as what was written there. -/
theorem memByte_setMemBytes_inside {s : State} {a : Nat} (bs : List (BitVec 8)) (h : Memory.wf s.mem = true)
    (i : Nat) (hi : i < bs.length) : (s.setMemBytes a bs).memByte (a + i) = bs[i] := by
  induction bs generalizing s a i with
  | nil => simp at hi
  | cons b bs ih =>
    show ((s.setMemByte a b).setMemBytes (a + 1) bs).memByte (a + i) = _
    cases i with
    | zero =>
      rw [memByte_setMemBytes_outside bs (by omega)]
      exact memByte_setMemByte_self a b h
    | succ j =>
      have := ih (a := a + 1) (setMemByte_wf a b h) j (by simpa using hi)
      simpa [Nat.add_comm, Nat.add_left_comm, Nat.add_assoc] using this

end Sys2Proof.Machine
end

