-- ==== Sys2Proof/Machine/Cells.lean ====
section
/-! DEFINITION. The registers of a single cell of a matrix array, as the state gives them in the present array cycle (R27, R32,
R33, R42, R51). The stationary registers stand in the state cell by cell. What the others hold is fixed by the vectors in
flight and the data path, and is computed here from those. -/

namespace Sys2Proof.Machine

/-- Set selector of a cell, by row and column within the partition (R42): each marker inverts it in the cycle the marker
passes the cell, three cycles of entry and the cell's positions after its issue. True, B is active. -/
def State.cellSel (s : State) (c : Fin 8) (p : Fin 4) (r j : Nat) : Bool :=
  let a := (s.core c).arr
  let q := s.part c p
  let ahead := q.marks.filter fun e => decide (a.now < e + a.rowPos p.val r + a.colPos p.val j)
  q.selB != decide (ahead.length % 2 = 1)

/-- The vector, filler or marked bubble at a cell in the present array cycle (R33). -/
def State.cellFlight (s : State) (c : Fin 8) (p : Fin 4) (r j : Nat) : Option Flight :=
  let a := (s.core c).arr
  a.flights.find? fun f => f.part = p.val && a.reach p.val f.issueCycle r j = a.now

/-- What a row lane carries (R32): [15:0] element codes, [23:16] scale, [24] valid, [25] the swap marker. -/
def laneWord (x : Lane) (valid marker : Bool) : BitVec 26 :=
  BitVec.ofNat 26 (x.code.toNat + x.scale.toNat * 2 ^ 16 + b2n valid * 2 ^ 24 + b2n marker * 2 ^ 25)

/-- What a vector, filler or bubble lays on the lane of a line, on the side it rides (R32, R38). DESIGN CHOICE (log entry 78,
unsafe): the spec puts the two elements of the 4-bit rate into bits 15:0 and does not say where each lies; the model has one in
each byte, which holds every width that may meet a 4-bit tile. -/
def State.laneAt (s : State) (c : Fin 8) (p : Fin 4) (f : Flight) (k : Nat) : BitVec 26 :=
  let x : Lane :=
    if f.bubble then {}
    else if f.filler then { code := Config.fillerLane k f.issueCycle }
    else if (s.metHdr c p f).op.isFour && !f.transposed then
      let a := tabGet {} f.lanes (2 * k)
      { a with code := a.code + (tabGet {} f.lanes (2 * k + 1)).code * 256 }
    else tabGet {} f.lanes k
  laneWord x (!f.bubble) f.marker

/-- Input register of a cell (R27, R32): of the west side in plain reading, of the north side in transposed reading. -/
def State.cellInput (s : State) (c : Fin 8) (p : Fin 4) (north : Bool) (r j : Nat) : BitVec 26 :=
  match s.cellFlight c p r j with
  | some f => if f.transposed = north then s.laneAt c p f (if north then j else r) else 0
  | none => 0

/-- The partial sum of one output of a vector after its first `lines` lines of the reduction (R27, R33, R38): fixed point, or
FP32 in the low 32 bits for BF16 and FP16. -/
def State.sumAfter (s : State) (c : Fin 8) (p : Fin 4) (f : Flight) (o lines : Nat) : BitVec 96 :=
  if f.bubble || f.filler then 0
  else
    let hdr := s.metHdr c p f
    let pairs := (s.passPairs c p f o).take (if hdr.op.isFour && !f.transposed then 2 * lines else lines)
    if hdr.op.isFloat then BitVec.ofNat 96 (chunkSum pairs)
    else (applyPass ((s.bank c p (fin2 f.bank)).passAnchor hdr.op f.op) false false {} pairs).e.acc

/-- Partial-sum register of a cell, 96 bits (R27): of the south side in plain reading, of the east side in transposed
reading. -/
def State.cellSum (s : State) (c : Fin 8) (p : Fin 4) (east : Bool) (r j : Nat) : BitVec 96 :=
  match s.cellFlight c p r j with
  | some f => if f.transposed = east then s.sumAfter c p f (if east then r else j) ((if east then j else r) + 1) else 0
  | none => 0

/-- The 2-bit residue carried beside a partial sum (R30): the residue, modulo 3, of what the sum's products add to. -/
def State.cellResidue (s : State) (c : Fin 8) (p : Fin 4) (east : Bool) (r j : Nat) : BitVec 2 :=
  BitVec.ofNat 2 ((s.cellSum c p east r j).toInt % 3).toNat

/-- Pass-through register of a cell of a spared-out line, at the logical line `k` of the other direction (R51, R52): the lane of
the direction that crosses the line goes through it one cycle behind the line before: down a spared row the plain sums and the
north inputs, across a spared column the transposed sums and the west inputs. -/
def State.passThrough (s : State) (c : Fin 8) (p : Fin 4) (column : Bool) (line k : Nat) : Option (BitVec 96) :=
  let a := (s.core c).arr
  let x := if column then (passLines a.spokeCol (a.mode.col0 p.val) a.mode.cols).find? fun x => x.1 = line
    else (passLines a.spokeRow (a.mode.row0 p.val) a.mode.rows).find? fun x => x.1 = line
  x.map fun x =>
    let before := ((List.range (if column then a.mode.cols else a.mode.rows)).filter fun i =>
      decide ((if column then a.colPos p.val i else a.rowPos p.val i) < x.2)).length
    match a.flights.find? fun f => f.part = p.val
        && f.issueCycle + 3 + x.2 + (if column then a.rowPos p.val k else a.colPos p.val k) = a.now with
    | none => 0
    | some f => if f.transposed = column then s.sumAfter c p f k before else (s.laneAt c p f k).setWidth 96

end Sys2Proof.Machine
end

