-- ==== Sys2Proof/WellFormed.lean ====
section
/-! DEFINITION. The operands a sender may give each command: the ranges the spec sets where an operand's type allows more. The
machine itself needs none of them: every meaning is total, and an event that cannot happen leaves the state as it is. -/

namespace Sys2Proof

open Sys2Proof.Machine

/-- A module ID has 13 bits (R317, R359). -/
def okModule (m : Nat) : Bool := decide (m < 8192)

/-- A share index of a bucket is an 8-bit field (R470). -/
def okShare (x : Nat) : Bool := decide (x < 256)

/-- A message header: a port of the module, a 13-bit source, a 32-bit MSG_ID (R317). -/
def okHead (h : MsgHead) : Bool := decide (h.port < 18) && okModule h.src && decide (h.id < 2 ^ 32)

/-- A message: its fields within their widths and at most 16,384 bytes of data (R317). -/
def okMsg (m : Msg) : Bool :=
  okModule m.dst && okModule m.src && decide (m.kind < 64) && decide (m.vc < 4) && decide (m.ttl < 256)
    && decide (m.id < 2 ^ 32) && decide (m.term < 65536) && decide (m.data.length ≤ 16384)

/-- Upset bits of code words of a scratchpad row: 128 words of 39 bits (R104, R105). -/
def okFlips (l : List (Nat × BitVec 39)) : Bool := l.all fun f => decide (f.1 < 128)

/-- A slot of a core (R116). -/
def okSlot (n : Nat) : Bool := decide (n < 1024)

/-- A buffer of a slot (R116). -/
def okBuf (n : Nat) : Bool := decide (n < 4)

/-- A stack request lies in one 512-byte block, from one of the 28 requester classes (R212, R213). -/
def okRequest (r : StkReq) : Bool :=
  decide (r.cls < 28) && decide (r.addr < 2 ^ 41) &&
    ((r.kind = .pannier && (r.pan = 0xD || r.pan = 0xE)) || (decide (1 ≤ r.len) && decide (r.addr / 512 = (r.addr + r.len - 1) / 512)))

/-- Upset symbols of a sector's stored word (R208). -/
def okUpset : Option SectorUpset → Bool
  | none => true
  | some u => decide (u.sector < 16) && (u.stored.all fun x => decide (x.1 < 20))
    && u.transit.all fun r => r.all fun x => decide (x.1 < 20)

/-- An upset cell lies in the array (R27). -/
def okCell : Option CellUpset → Bool
  | none => true
  | some u => decide (u.row < 512) && decide (u.col < 512)

/-- A mailbox request is at most 4,096 bytes (R442). -/
def okMbx (q : MbxReq) : Bool := decide (q.bytes.length ≤ 4096)

/-- What start-up finds lies in the module (R398, R402). -/
def okFound (f : BootFound) : Bool :=
  (f.badSpares.all fun x => decide (x.1 < 32)) && (f.failedRows.all fun x => decide (x.1 < 32))
    && (f.lines.all fun x => decide (x.line < 512)) && f.failedPorts.all fun p => decide (p < 20)

/-- The operands of a command lie in the ranges the spec gives them. -/
def wellFormed (i : Instr) : Bool :=
  match i with

  | .registerWrite bar4 off size _ => (size = 4 || size = 8) && decide (off.toNat % size = 0) && (!bar4 || decide (off.toNat < 0x04000000))
  | .w1cClear off _ => decide (off.toNat % 4 = 0)
  | .load _ _ => true
  | .shadowLoadBegin _ _ => true
  | .shadowLoadEnd _ _ => true
  | .loadHoldLimit _ _ => true
  | .openBank _ _ => true
  | .issue _ _ => true
  | .vectorIssue _ _ => true
  | .markerSwap _ _ upset => (match upset with | none => true | some r => decide (r < 262144))
  | .vectorOutputArrive _ _ upset => okCell upset
  | .bankConvertBegin _ _ _ => true
  | .bankConvertEnd _ _ _ => true
  | .partitionFree _ _ => true
  | .directedCheckBegin _ _ => true
  | .directedCheckEnd _ _ _ => true
  | .spokeMapRewrite _ => true
  | .spokeMapRewriteEnd _ => true
  | .filler _ _ => true
  | .vec _ _ => true
  | .update _ _ => true
  | .move _ _ => true
  | .nop _ _ => true
  | .barrier _ _ => true
  | .barrierRelease _ id => decide (id < 256)
  | .barrierTimeout _ _ => true
  | .waitMarker _ _ => true
  | .endTask _ _ => true
  | .scrReadReturn _ _ row _ flips => decide (row < 131072) && okFlips flips
  | .fixupRetire _ row => decide (row < 131072)
  | .fixupHeldEnter _ => true
  | .scrubRead _ flips => okFlips flips
  | .scrubIntervalEnd _ => true
  | .uniformStallEnd _ => true
  | .slotClaim _ slot _ _ _ => okSlot slot
  | .slotAcquire _ slot _ _ _ _ => okSlot slot
  | .fillToken _ slot buf _ _ => okSlot slot && okBuf buf
  | .releaseToken _ slot buf _ _ => okSlot slot && okBuf buf
  | .slotWaitGrant _ _ => true
  | .slotWaitLimit _ _ => true
  | .scrInject _ _ => true
  | .descriptorAdmit _ => true
  | .descriptorComplete _ => true
  | .transferGroupComplete _ => true
  | .prefetchFetch _ => true
  | .tokenQueueDrain _ => true
  | .stackRequest req => okRequest req
  | .stackRequestAdmit _ => true
  | .requestPromote _ _ => true
  | .stackRequestServe _ _ upset => okUpset upset
  | .pannierOp _ _ => true
  | .bankRefresh _ channel bank _ => decide (channel < 16) && decide (bank < 32)
  | .patrolRead _ upset => okUpset upset
  | .remapCopyBegin _ => true
  | .remapCopyFlip _ key => decide (key < 2 ^ 25)
  | .stkRetireAck _ _ => true
  | .stkInject _ _ => true
  | .stkChannelFailed _ channel => decide (channel < 16)
  | .stackFence _ _ => true
  | .wqDoorbell _ _ _ => true
  | .wqReconfigure _ _ _ _ => true
  | .cqReconfigure _ _ _ => true
  | .cqHeadWrite _ _ => true
  | .taskAdmit _ => true
  | .taskCyclesExpire _ _ => true
  | .taskRetire _ _ => true
  | .seqReplay _ _ => true
  | .seqSkip _ _ => true
  | .stepMarker => true
  | .leadComplete => true
  | .specOpen _ _ => true
  | .specSettle _ _ => true
  | .specDiscard _ _ => true
  | .settleComplete _ _ => true
  | .discardComplete _ _ => true
  | .specWaitLimit _ _ => true
  | .morainePlace => true
  | .moraineLendComplete => true
  | .moraineReturn => true
  | .bucketBegin _ => true
  | .unit _ _ data _ => decide (data.length ≤ 16384)
  | .shareOpen _ => true
  | .shareDeadline _ => true
  | .record _ src data => okModule src.toNat && decide (data.length ≤ 16384)
  | .partialLimitExpire _ => true
  | .shareFinish _ => true
  | .shareFinal h _ _ => okHead h
  | .shareFailed h _ _ => okHead h
  | .exclusionSet h _ _ => okHead h
  | .withdrawOrder h _ _ _ => okHead h
  | .rerunOrder h _ anchors => okHead h && anchors.all fun x => decide (-512 ≤ x.2) && decide (x.2 ≤ 511)
  | .resendOrder h _ _ _ => okHead h
  | .nonfiniteRankReport h _ _ share _ => okHead h && okShare share
  | .saturationReport h _ _ _ => okHead h
  | .doneReport h _ _ lanes _ _ failures => okHead h && decide (lanes.length = 16) && failures.all fun x => okShare x.2
  | .normDecision => true
  | .doneReportTimeout => true
  | .settleReport h _ coresLeft => okHead h && decide (coresLeft ≤ 8)
  | .settleRefusalReport h _ => okHead h
  | .repairCompare _ mine theirs => decide (mine.length = theirs.length)
  | .fenceReport h => okHead h
  | .moraineReport h => okHead h
  | .fpStart _ => true
  | .fpComplete _ => true
  | .linkTrain _ _ _ _ _ _ => true
  | .dataFlit _ _ payload _ _ => decide (payload.length ≤ 248)
  | .sealFlit _ _ payload _ _ => decide (payload.length ≤ 248)
  | .retry _ _ => true
  | .idle _ _ => true
  | .prifaRetrain _ _ => true
  | .retrainTimeout _ => true
  | .portFence _ => true
  | .messageForward _ _ => true
  | .write _ m => okMsg m
  | .pannier _ m => okMsg m
  | .writeAck _ m => okMsg m
  | .claim _ m => okMsg m
  | .grant _ m => okMsg m
  | .refuse _ m => okMsg m
  | .fill _ m => okMsg m
  | .release _ m => okMsg m
  | .loanClaim borrower mib _ _ => okModule borrower && decide (mib < 2 ^ 21)
  | .specToken _ m => okMsg m
  | .package h part parts _ => okHead h && decide (part < parts)
  | .membershipEpoch h _ list => okHead h && list.all fun x => okModule x.1
  | .lostDeclaration h module => okHead h && okModule module
  | .deadlineShift h _ => okHead h
  | .heartbeat h => okHead h
  | .heartbeatTimeout => true
  | .takeover h => okHead h
  | .log h _ m => okHead h && (match m with | none => true | some x => x.msgs.all okMsg)
  | .cascadeBarrier h _ _ => okHead h
  | .timeSync _ _ _ => true
  | .timeDelay _ _ _ => true
  | .timeHoldoverExpire => true
  | .ring _ m => okMsg m
  | .ringRelay _ => true
  | .markerPlace _ => true
  | .markerReqRepeat => true
  | .markerReqResume => true
  | .ptpMessage _ _ _ _ => true
  | .ptpLoss => true
  | .ethFrame _ _ len tags _ _ => decide (len < 65536) && decide (tags < 8)
  | .arpRequest _ _ _ => true
  | .rocePacket _ _ p => decide (p.payload.length ≤ 4096)
  | .roceAckTimeout _ _ => true
  | .roceRateIncrease _ _ => true
  | .ethLinkDown _ => true
  | .sqTail _ _ _ => true
  | .rqTail _ _ _ => true
  | .cqHead _ _ _ => true
  | .modify _ _ _ => true
  | .imgLoadLocal _ => true
  | .imgLoadPeer _ _ _ answer => (match answer with | none => true | some b => decide (b.length ≤ 67108864))
  | .imageVerify _ => true
  | .imgStage _ => true
  | .stagingComplete => true
  | .imgSwapArmStep => true
  | .imgSwapArmImmediate => true
  | .imgSwapCancel => true
  | .swapStart => true
  | .swapDrainLimit => true
  | .swapCommit => true
  | .swapReadyTimeout => true
  | .swapComplete => true
  | .imgModuleId _ => true
  | .coreFence _ _ _ => true
  | .halfFence _ _ _ => true
  | .moduleFence _ _ => true
  | .grantRecompute _ => true
  | .opSwitchCommit _ => true
  | .opSwitchComplete _ => true
  | .pllUnlock _ => true
  | .pllRelock _ => true
  | .pllRelockTimeout _ => true
  | .droopDetect _ => true
  | .droopWindowEnd _ => true
  | .capStep _ _ _ _ => true
  | .capUnmet => true
  | .inputPowerWindow _ => true
  | .freewheelBudget _ _ _ => true
  | .thermalRead _ junction stackTemps => decide (junction < 4096) && decide (stackTemps.length = 16)
  | .thermalEase _ => true
  | .alertAssert => true
  | .alertRelease => true
  | .thermalTrip _ => true
  | .pwrStateM0 => true
  | .pwrStateM1 => true
  | .pwrStateM2 => true
  | .pwrStateM3 => true
  | .pwrStateM4 => true
  | .m1Wake => true
  | .powerOn _ _ _ => true
  | .startupStepEnd found => okFound found
  | .startupStepTimeout _ found => okFound found
  | .inputTurnOff _ => true
  | .inputDip _ => true
  | .inputRecover _ => true
  | .overcurrentTrip _ => true
  | .overvoltageTrip _ => true
  | .modEnLow => true
  | .modEnRise _ => true
  | .perstFall => true
  | .warmReset _ => true
  | .glbFaultTail _ => true
  | .bar2Request write _ len data => decide (1 ≤ len) && (!write || decide (data.length = len))
  | .cxlMemRequest _ _ _ _ => true
  | .hostLinkDown => true
  | .flr => true
  | .ideCheckFail => true
  | .getStatus q => okMbx q
  | .getLog q => okMbx q
  | .getNonce q => okMbx q
  | .zeroise q => okMbx q
  | .takeOwnership q => okMbx q
  | .transferOwnership q => okMbx q
  | .requestSelftest q => okMbx q
  | .installUserKey q => okMbx q
  | .removeUserKey q => okMbx q
  | .installImageKey q => okMbx q
  | .raiseImageFloor q => okMbx q
  | .setPolicy q => okMbx q
  | .fwUpdate q _ => okMbx q
  | .raiseFwFloor q => okMbx q
  | .debugOpen q => okMbx q
  | .installCascadeKey q => okMbx q
  | .tamperDetect _ => true
  | .getVersion _ => true
  | .getCapabilities _ _ => true
  | .negotiateAlgorithms _ _ => true
  | .getCertificate _ slot _ _ => decide (slot < 8)
  | .challenge _ slot _ => decide (slot < 8)
  | .getMeasurements _ _ _ _ => true
  | .keyExchange _ slot _ => decide (slot < 8)
  | .finish _ _ => true
  | .keyUpdate _ => true
  | .spdmHeartbeat _ => true
  | .endSession _ => true
  | .keyProg _ _ => true
  | .kSetGo _ _ => true
  | .identifyMemoryDevice => true
  | .getHealthInfo => true
  | .getEventRecords log => decide (log < 4)
  | .clearEventRecords log count => decide (log < 4) && decide (count < 256)
  | .getPoisonList _ _ => true
  | .getSupportedLogs => true
  | .cxlGetLog _ _ => true
  | .getFwInfo => true
  | .pmbusPoll _ _ _ _ _ => true
  | .i3cDynamicAddress _ => true
  | .tapReset => true
  | .bypass => true
  | .idcode => true
  | .testEnter _ => true
  | .samplePreload => true
  | .extest => true
  | .clamp => true
  | .highz => true
  | .extestPulse => true
  | .extestTrain => true
  | .pllLockCheckPass _ => true
  | .hostLinkRetrain _ => true
  | .ethLinkUp _ _ => true
  | .perstRise _ => true
  | .tckEdge _ _ _ _ _ => true
  | .peerLoadRequest _ _ => true
  | .timeUnlockedReport h => okHead h
  | .heartbeatInterval => true
  | .timeSyncInterval => true
  | .erasureVerified => true

end Sys2Proof
end

