-- ==== Sys2Proof/Tests/Slice0.lean ====
section
/-! SUPPORT. Tests: a state that meets the hypotheses of each statement, ill-formed commands that the check refuses, and single
steps worked out from the spec. -/

namespace Sys2Proof.Tests

set_option maxRecDepth 100000
set_option linter.unusedVariables false
set_option Elab.async false

open Sys2Proof Sys2Proof.Machine Host

/-- A module in M0 and service with its units up, and a bound host on its link. -/
def live : State := { State.reset with
  cores := Vector.replicate 8 { up := true }
  halves := Vector.replicate 2 { up := true }
  oz := { State.reset.oz with up := true }
  host := { State.reset.host with linkUp := true, served := true, bound := true }
  glb := { State.reset.glb with mode := .service } }

/-- Slot 0 of core 0: one buffer of 64 KiB at the scratchpad's start, one fill and one drain. -/
def slot0 : SlotCfg := { core := 0, slot := 0, entry := BitVec.ofNat 128 (1 * 16 + 1 * 256 + 128 * 65536) }

/-- A live module whose active image has one command word. -/
def withWords (ws : List (BitVec 128)) : State :=
  live.modImg fun i => { i with active := some (0, { words := ws, slots := [slot0] }) }

/-- A decoupled task of one command on partition 0. -/
def task1 : Task := { key := 1, hdr := BitVec.ofNat 128 (2 ^ 64 + 2 ^ 28 + 2 ^ 32), parts := 1 }

/-- Core 0 has a task on partition 0 whose next command is a word. -/
def withCmd (w : BitVec 128) : State := (withWords [w]).modSeq 0 fun q => { q with tasks := [task1] }

/-- The same task holds buffer 0 of slot 0. -/
def task2 (acq : Bool) : Task := { task1 with holds := [{ slot := 0, buf := 0, acq := acq }] }
def withHold (acq : Bool) (w : BitVec 128) : State := (withWords [w]).modSeq 0 fun q => { q with tasks := [task2 acq] }

/-- In QUARTER mode, with a LOAD next. -/
def loadReady : State := (withHold true 5).modArr 0 fun a => { a with mode := .quarter }

/-- A copy of one FP32 element from the start of stack memory to the start of the scratchpad. -/
def moveDesc : BitVec 1024 := BitVec.ofNat 1024 (1 + 12 * 2 ^ 4 + 12 * 2 ^ 8 + 2 ^ 23 + 2 * 2 ^ 26 + 3 * 2 ^ 29 + 4 * 2 ^ 32 + 2 ^ 92
  + 2 ^ 256 + 2 ^ 280 + 2 ^ 304 + 2 ^ 328 + 2 ^ 352)

/-- A task that holds buffer 0 of slot 0 both as a source and as a destination. -/
def taskV : Task := { task1 with holds := [{ slot := 0, buf := 0, acq := true }, { slot := 0, buf := 0, acq := false }] }
def vecReady : State := (withWords [0x15]).modSeq 0 fun q => { q with tasks := [taskV] }

/-- Buffer 0 of slot 0 is FULL. -/
def slotFull : State :=
  let s := (withCmd 3).setSlot 0 0 (grantClaim (slotEntOf slot0.entry) false {} 0).2
  (s.putFill 0 0 0 0).2

/-- Every stack trained. -/
def ready : State := { live with stks := Vector.replicate 32 { st := .ready } }
/-- A read of the first sector of stack memory, from the host. -/
def req0 : StkReq := { cls := 26, addr := 0, len := 32 }

/-- An epoch of core 0 has one task left to rerun. -/
def rerunReady : State := (withWords []).modSeq 0 fun q => { q with epochs := q.epochs.set 0 { id := 5, st := .opened, rerunLeft := [(0, 0, {})] } }
/-- WQ0 has one entry, which names no program. -/
def admitReady : State := (withWords []).modImg fun i => { i with active := some (0, { runList := [0], cores := [{ runCount := 1 }] }) }

/-- A bucket of one block and one rank in FP32; the same under EXCLUDE; the same with no block. -/
def bkt0 : BitVec 512 := BitVec.ofNat 512 (512 * 2 ^ 32 + 2 ^ 64 + 2 ^ 80 + 12 * 2 ^ 96 + 12 * 2 ^ 100)
def bktX : BitVec 512 := BitVec.ofNat 512 (512 * 2 ^ 32 + 2 ^ 64 + 2 ^ 80 + 12 * 2 ^ 96 + 12 * 2 ^ 100 + 2 ^ 104)
def bktE : BitVec 512 := BitVec.ofNat 512 (2 ^ 64 + 2 ^ 80 + 12 * 2 ^ 96 + 12 * 2 ^ 100)

/-- A live module whose image has one bucket, alone in its cascade. -/
def withBucket (b : BitVec 512) : State :=
  live.modImg fun i => { i with active := some (0, {
    slots := [slot0], buckets := [b], topo := { stages := 1, channels := 1, members := 1 } }) }
def redReady : State := withBucket bkt0
def redFull : State :=
  let s := redReady.setSlot 0 0 (grantClaim (slotEntOf slot0.entry) false {} 0).2
  (s.putFill 0 0 0 0).2
def exclReady : State := (withBucket bktX).modRed fun r => { r with shares := [{ st := .collecting }] }
def finReady : State := (withBucket bktE).modRed fun r => { r with shares := [{ st := .finishing }] }
/-- A share whose LOCAL data does not match its residue. -/
def badSum : State := (redReady.modRed fun r => { r with shares := [{ st := .finishing }] }).setMemByte 0 1

/-- A first message of module 1 at port 0. -/
def msg1 : MsgHead := { port := 0, src := 1, id := 1, term := 0 }
def master : State := live.modCas fun c => { c with role := .master }
/-- The master of a cascade of two channels. -/
def master2 : State := (live.modImg fun i => { i with active := some (0, { topo := { stages := 1, channels := 2, members := 1 } }) }).modCas
  fun c => { c with role := .master }
def deputy : State := live.modCas fun c => { c with role := .deputy, deputyValid := true }
/-- A record of bucket 0 whose packed lanes are all 0. -/
def rec0 : List (BitVec 8) := List.replicate 41 0

/-- A claim waits on a moraine slot of core 0. -/
def morReady : State :=
  (live.modImg fun i => { i with active := some (0, { slots := [slot0], moraine := [{ entries := 1 }], pool := some { mib0 := 4 } }) }).modScr 0
    fun x => { x with waits := [{ acq := false }] }
def morLent : State :=
  (live.modImg fun i => { i with active := some (0, { pool := some { mib0 := 4 } }) }).modHalf 0
    fun x => { x with morEntries := [{ st := .lent, size := 1 }] }
def loan1 : LoanCfg := { borrower := 1, mib := 4, base := 0 }
def loanReady : State := live.modImg fun i => { i with active := some (0, { loans := [loan1] }) }


/-- A LINK entry of port 0 with role 1 and module 1 as its peer. -/
def linkEntry : BitVec 128 := BitVec.ofNat 128 (1 + 2 ^ 6)
def linkCfg : State := live.modImg fun i => { i with active := some (0, { ports := [{ module := 0, port := 0, entry := linkEntry }] }) }
/-- A ring of one slot, whose buffer is FULL, with a number of hops. -/
def ringReady (hops : Nat) : State :=
  let s := ((live.modImg fun i => { i with active := some (0, { slots := [slot0], rings := [{ hops := hops }] }) })).setSlot 0 0 (grantClaim (slotEntOf slot0.entry) false {} 0).2
  (s.putFill 0 0 0 0).2
/-- An image with no program. -/
def blank : ImgCfg := { imageId := 7, familyId := 1 }
/-- A module with an open session of the Crypto Officer over DOE. -/
def officer : State := (live.modHost fun h => { h with configUp := true }).modOz fun o => { o with sessions := [{ id := 1, role := 2, open_ := true, mutualAuth := true }] }
/-- A mailbox request in that session with a COMMAND code and a body. -/
def ask (code : BitVec 8) (body : List (BitVec 8)) : MbxReq := { path := .session 1, bytes := [code, 0, BitVec.ofNat 8 body.length, 0, 2, 0, 0, 0] ++ List.replicate 32 0 ++ body }
/-- The same module with the algorithms agreed on DOE. -/
def agreed : State := officer.modOz fun o => { o with spdm := o.spdm.set 0 { version := 0x13, caps := true, algs := true } }
/-- The port works as a CXL device. -/
def cxlLive : State := (live.modHost fun h => { h with cxl := true }).modFlash fun f => { f with requireBind := false }
/-- A queue pair that may send and receive. -/
def rtsPair : State := live.modEth 0 fun x => { x with link := true, qps := [(0, { st := .rts, sqPsn := 1, ctx := (4 : BitVec 1024) <<< 592 })] }

/-- A read that answers bytes, compared by its bytes. -/
theorem okEq {x : Except (BitVec 16) (List (BitVec 8)) × State} {l : List (BitVec 8)}
    (h : (match x.1 with | .ok b => decide (b = l) | .error _ => false) = true) : x = (.ok l, x.2) := by
  obtain ⟨a, b⟩ := x
  cases a with
  | error e => cases h
  | ok y => simp only [decide_eq_true_eq] at h; rw [h]
/-- A read that is refused, compared by its code. -/
theorem errEq {x : Except (BitVec 16) (List (BitVec 8)) × State} {c : BitVec 16}
    (h : (match x.1 with | .ok _ => false | .error e => decide (e = c)) = true) : x = (.error c, x.2) := by
  obtain ⟨a, b⟩ := x
  cases a with
  | error e => simp only [decide_eq_true_eq] at h; rw [h]
  | ok y => cases h
/-- The active image's module has 64 bytes to load from the start of stack memory. -/
def loadable64 : State := ready.modImg fun i => { i with loadLen := 64 }
/-- The same with its source's stack fenced. -/
def loadFenced : State := loadable64.modGlb fun g => { g with fencedStacks := 0xFFFFFFFF }
/-- Place 0 holds a VERIFIED image that names this module. -/
def stageReady : State := live.modImgPlace 0 fun x => { x with st := .verified, cfg := some { blank with ports := [{ module := 0 }] } }

/-- A bank has written every record; a marker waits before a bank that is not open; a vector has reached the drain; a
closed bank whose task holds its claim. -/
def converted : State := ((withWords []).modBank 0 0 0 fun k => { k with st := .converting, buf := some 0 }).modUpd 0 fun u => { u with gaugeEn := false }
def bubbleReady : State := (withCmd 13).modPart 0 0 fun q => { q with shadowNew := true, runs := [{ task := 1, word := 13 + 2 ^ 88 }] }
def passReady : State := ((live.modPart 0 0 fun q => { q with setA := { hdr := { first := true }, full := true } }).modArr 0 fun a => { a with mode := .quarter, now := 5000, flights := [{}] }).modBank 0 0 0 fun k => { k with st := .opened, n := 1 }
def passOut : State := passReady.modArr 0 fun a => { a with flights := [] }
def heldClaim : State := ((withHold false 13).modArr 0 fun a => { a with now := 5000 }).modBank 0 0 0 fun k => { k with st := .closed, lastChunk := some 0, task := 1 }
/-- A vector with one element in its first lane, on its way through a tile of one 1.0, under a policy with one trap. -/
def hotFlight (code : BitVec 16) : Flight := { lanes := [(0, { code := code, scale := 127 })] }
def passHot (code : BitVec 16) (policy : BitVec 16) : State :=
  (((passReady.modPart 0 0 fun q => { q with setA := { hdr := { first := true }, full := true } }).modArr 0 fun a => { a with
    statA := [(0, 0x7F38)], flights := [hotFlight code] }).modBank 0 0 0 fun k => { k with anchor := some (-200) }).modImg fun i => { i with
    active := some (0, { tensors := [{ policy := policy }] }) }
def passNan : State := passHot 0x7F 0x100
def passSat : State := passHot 0x38 0x200
/-- A vector of chunk 1 after its bank met its last chunk, 0. -/
def passLate : State := (passReady.modPart 0 0 fun q => { q with setA := { hdr := { chunk := 1 }, full := true } }).modBank 0 0 0 fun k => { k with
  st := .opened, n := 1, lastChunk := some 0 }
/-- A copy waits in the queue, and the stacks it reads are fenced. -/
def pfFenced : State := (live.modMov 0 fun m => { m with mode := false, pfDepth := 1, pfBudget := 1, queue := [{ desc := moveDesc }] }).modGlb fun g => { g with fencedStacks := 0xFFFFFFFF }
/-- WQ0's next entry asks for a speculative task, and no epoch is open. -/
def specHdr : BitVec 128 := BitVec.ofNat 128 (2 ^ 64 + 2 ^ 28 + 2 ^ 29 + 2 ^ 32)
def specTask : Task := { hdr := specHdr, first := 1 }
def specStarved : State := ((withWords [specHdr, 3]).modImg fun i => { i with active := some (0, {
  words := [specHdr, 3], progs := [{}], runList := [0], cores := [{ runCount := 1 }] }) }).modSeq 0 fun q => { q with specWait := [(0, some (0, 0))] }
/-- A read by core 0 of a sector of the other half. -/
def reqAcross : StkReq := { cls := 0, addr := 2 ^ 40, len := 32 }
def nfMaster : State := (master.acceptId 0 1 1 vcCtrl).2.modMst fun x => { x with nfReps := [{ bucket := 0, channel := 0, share := 0, ranks := [3] }] }
/-- The rows of the load above, taken on its port. -/
def loadTaken : State := (loadReady.takeAll 0 1 0 [(0, rowsOf 0 (tileReadBytes (loadReady.core 0).arr.mode ⟨.e4m3, 8, 8, false⟩), 2),
  (tileElemBytes (loadReady.core 0).arr.mode ⟨.e4m3, 8, 8, false⟩ / 512, rowsOf (tileElemBytes (loadReady.core 0).arr.mode ⟨.e4m3, 8, 8, false⟩)
    (tileScaleBytes (loadReady.core 0).arr.mode ⟨.e4m3, 8, 8, false⟩), 2)]).2
def convTaken : State := (converted.takeAll 0 0 0 [(0, 0, convPort (converted.core 0).arr.mode 0)]).2
/-- A bank that has closed, whose conversion is due; the same with its output beyond the scratchpad. -/
def convDue : State := ((withWords []).modArr 0 fun a => { a with now := 5000 }).modBank 0 0 0 fun k => { k with st := .closed, buf := some 0, lastChunk := some 0 }
def convOver : State := convDue.modBank 0 0 0 fun k => { k with word := BitVec.ofNat 128 ((2 ^ 24 - 1) * 2 ^ 100), n := 1 }
/-- Its rows' bank is taken by another task's burst on a lower port. -/
def convBusy : State := (((converted.modBank 0 0 0 fun k => { k with scales := List.replicate 32 0, task := 1 }).modMov 0 fun m => { m with mode := false }).modSeq 0 fun q =>
  { q with tasks := [{ task1 with hdr := BitVec.ofNat 128 (2 ^ 64 + 2 ^ 32) }] }).modScr 0 fun x => { x with accs := [{ sched := true, task := 9 }] }
/-- A verified image whose first sector is poisoned in both copies. -/
def imgGone : State := let s := live.modImgPlace 0 fun x => { x with st := .verified }
  { s with mpoison := [(s.storeAddr 0 0 / 32, true), (s.storeAddr 0 0 / 32 + 2 ^ 35, true)] }
/-- A written copy to module 1. -/
def remoteDesc : BitVec 1024 := moveDesc ||| BitVec.ofNat 1024 (2 * 2 ^ 94 + 2 ^ 97)
/-- A finishing share and one that collects, whose regions' stacks are fenced. -/
def finShut : State := (redReady.modRed fun r => { r with shares := [{ st := .finishing }] }).modGlb fun g => { g with fencedStacks := 0xFFFFFFFF }
def exclShut : State := exclReady.modGlb fun g => { g with fencedStacks := 0xFFFFFFFF }
/-- A queue pair whose acknowledgement timeout has passed with no retry left. -/
def lateAck : State := { (rtsPair.modQp 0 0 fun x => { x with sqTail := 1, unacked := [{}] }) with tick := 4096 }
/-- A CXL device whose stacks are fenced. -/
def cxlShut : State := cxlLive.modGlb fun g => { g with fencedStacks := 0xFFFFFFFF }
/-- The state after a command. -/
def after (c : Instr) (s : State) : State := match exec c s with
  | .next t => t
  | _ => s
theorem after_eq {c : Instr} {s : State} (h : (match exec c s with | .next _ => true | _ => false) = true) : exec c s = .next (after c s) := by
  unfold after
  cases e : exec c s with
  | next t => rfl
  | fault f => rw [e] at h; cases h
  | refused f => rw [e] at h; cases h

theorem witness_StationaryLoad_1 : ∃ (c : Fin 8) (task : Nat) (s : State) (t : Task) (i : Nat) (w : BitVec 128) (p : Fin 4) (o : OpFmt) (buf : Nat) (s1 : State) (a : Nat) (bs : List (BitVec 8)) (s2 s3 : State), (s.cmdReady c task 0x05 = some (t, i, w)) ∧ (t.part = some p) ∧ (loadFmt w = some o) ∧ (s.bufferFull c p = false) ∧ (s.commandBuf c t (fld w 41 32) true (bit w 111) false = (.granted buf, s1)) ∧ (s1.scrExtent c (fld w 41 32) buf (fld w 65 42 + t.arg (fld w 110 109)) (tileElemBytes (s1.core c).arr.mode o + tileScaleBytes (s1.core c).arr.mode o) = some a) ∧ (s1.takeAll c task 0 [(a / 512, rowsOf a (tileReadBytes (s1.core c).arr.mode o), 2), ((a + tileElemBytes (s1.core c).arr.mode o) / 512, rowsOf (a + tileElemBytes (s1.core c).arr.mode o) (tileScaleBytes (s1.core c).arr.mode o), 2)] = (true, s3)) ∧ (s3.tileFetch c (s1.core c).arr.mode o a = (some bs, s2)) :=
  ⟨0, 1, loadReady, task2 true, 0, 5, 0, ⟨.e4m3, 8, 8, false⟩, 0, loadReady, 0, loadTaken.scrBytes 0 0 (tileElemBytes (loadReady.core 0).arr.mode ⟨.e4m3, 8, 8, false⟩ + tileScaleBytes (loadReady.core 0).arr.mode ⟨.e4m3, 8, 8, false⟩), loadTaken, loadTaken, by decide +kernel, by decide +kernel, by decide +kernel, by decide +kernel, by decide +kernel, by decide +kernel, rfl, State.tileFetch_clean _ _ _ _ _ rfl rfl⟩

theorem witness_StationaryLoad_2 : ∃ (c : Fin 8) (loader : Fin 2) (s : State), (s.coreRuns c) ∧ (s.arrayRuns c) ∧ (((s.core c).arr.tileBuf.get loader).all fun t => !t.loading) ∧ (((s.core c).arr.tileBuf.get loader).filter (fun t => s.loadAllowed c t) ≠ []) :=
  ⟨0, 0, live.modArr 0 fun a => { a with tileBuf := a.tileBuf.set 0 [{ ready := true }] }, by decide +kernel⟩

theorem witness_StationaryLoad_3 : ∃ (c : Fin 8) (loader : Fin 2) (s : State) (x : BufTile), (((s.core c).arr.tileBuf.get loader).find? (fun t => t.loading) = some x) ∧ (s.coreRuns c) ∧ (x.startCycle + x.span ≤ (s.core c).arr.now) ∧ (x.dropped = false) :=
  ⟨0, 0, live.modArr 0 fun a => { a with now := 600, tileBuf := a.tileBuf.set 0 [{ ready := true, loading := true }] }, { ready := true, loading := true }, by decide +kernel⟩

theorem witness_StationaryLoad_4 : ∃ (c : Fin 8) (loader : Fin 2) (s : State) (x : BufTile), (((s.core c).arr.tileBuf.get loader).find? (fun t => t.loading) = some x) ∧ (s.coreRuns c) ∧ (x.startCycle + x.span ≤ (s.core c).arr.now) ∧ (x.dropped) :=
  ⟨0, 0, live.modArr 0 fun a => { a with now := 600, tileBuf := a.tileBuf.set 0 [{ ready := true, loading := true, dropped := true }] }, { ready := true, loading := true, dropped := true }, by decide +kernel⟩

theorem witness_StationaryLoad_5 : ∃ (c : Fin 8) (p : Fin 4) (s : State) (start n : Nat) (t : Task), ((s.part c p).loadWait = some (start, n)) ∧ (s.partTask c p = some t) ∧ (s.coreRuns c) ∧ (s.loadHeld c p) ∧ (start + n ≤ s.cycle c) :=
  ⟨0, 0, (((withCmd 5).modArr 0 fun a => { a with tileBuf := a.tileBuf.set 0 [{}, {}] }).modPart 0 0 fun q => { q with loadWait := some (0, 0) }), 0, 0, task1, by decide +kernel⟩

theorem witness_BanksAndRuns_1 : ∃ (c : Fin 8) (task : Nat) (s : State) (t : Task) (i : Nat) (w : BitVec 128) (p : Fin 4) (x : TensorCfg) (f : Fmt), (s.cmdReady c task 0x09 = some (t, i, w)) ∧ (t.part = some p) ∧ (s.tensor (fld w 89 78) = some x) ∧ ((policyOf x.policy).fmt = some f) ∧ (f.isDrainOutput) ∧ ((s.bank c p (fin2 (fld w 32 32))).st = .empty) ∧ (fld w 42 33 + 1 ≤ (s.core c).arr.mode.entries) ∧ ((leadOn x.lead && s.scaleLost) = false) :=
  ⟨0, 1, ((withCmd 9).modImg fun i => { i with active := some (0, { words := [9], tensors := [{}] }) }).modSeq 0 fun q => { q with tasks := [task1] }, task1, 0, 9, 0, {}, .e4m3, by decide +kernel⟩

theorem witness_BanksAndRuns_2 : ∃ (c : Fin 8) (task : Nat) (s : State) (t : Task) (i : Nat) (w : BitVec 128) (p : Fin 4) (o : OpFmt) (buf : Nat) (s1 : State) (a : Nat), (s.cmdReady c task 0x0D = some (t, i, w)) ∧ (t.part = some p) ∧ (issueFmt w = some o) ∧ (bit w 87 = true → (s.core c).arr.mode = .full) ∧ ((s.bank c p (fin2 (fld w 76 76))).st = .opened) ∧ ((s.bank c p (fin2 (fld w 76 76))).transposed = bit w 87) ∧ (fld w 86 77 + (fld w 75 66 + 1) ≤ (s.bank c p (fin2 (fld w 76 76))).n) ∧ (s.commandBuf c t (fld w 41 32) true (bit w 110) false = (.granted buf, s1)) ∧ (s1.scrExtent c (fld w 41 32) buf (fld w 65 42 + t.arg (fld w 109 108)) 0 = some a) :=
  ⟨0, 1, (withHold true 13).modBank 0 0 0 fun b => { b with st := .opened, n := 1 }, task2 true, 0, 13, 0, ⟨.e4m3, 8, 8, false⟩, 0, (withHold true 13).modBank 0 0 0 fun b => { b with st := .opened, n := 1 }, 0, by decide +kernel⟩

theorem witness_BanksAndRuns_3 : ∃ (c : Fin 8) (task : Nat) (s : State) (t : Task) (i : Nat) (w : BitVec 128) (p : Fin 4), (s.cmdReady c task 0x11 = some (t, i, w)) ∧ (t.part = some p) :=
  ⟨0, 1, withCmd 17, task1, 0, 17, 0, by decide +kernel⟩

theorem witness_BanksAndRuns_4 : ∃ (c : Fin 8) (p : Fin 4) (s : State) (f : Flight), ((s.core c).arr.flights.find? (fun f => f.part = p.val && f.marker && !f.swapped) = some f) ∧ (s.coreRuns c) ∧ (s.arrayRuns c) ∧ (f.issueCycle + 3 ≤ (s.core c).arr.now) ∧ ((s.core c).arr.badSwap p.val f.setB = none) :=
  ⟨0, 0, live.modArr 0 fun a => { a with now := 3, flights := [{ marker := true }] }, { marker := true }, by decide +kernel⟩

theorem witness_BanksAndRuns_5 : ∃ (c : Fin 8) (p : Fin 4) (s : State) (f : Flight) (cell : Nat) (s1 : State) (x : Nat × Nat), ((s.core c).arr.flights.find? (fun f => f.part = p.val && f.marker && !f.swapped) = some f) ∧ (s.coreRuns c) ∧ (s.arrayRuns c) ∧ (f.issueCycle + 3 ≤ (s.core c).arr.now) ∧ (s.strikeReg c p f.setB (cell / 512 % 512) (cell % 512) = s1) ∧ ((s1.core c).arr.badSwap p.val f.setB = some x) :=
  ⟨0, 0, live.modArr 0 fun a => { a with now := 3, flights := [{ marker := true }] }, { marker := true }, 513, (live.modArr 0 fun a => { a with now := 3, flights := [{ marker := true }] }).strikeReg 0 0 false 1 1, (1, 1), by decide +kernel⟩

theorem witness_BanksAndRuns_6 : ∃ (c : Fin 8) (p : Fin 4) (n : Nat) (s : State) (f : FillRun) (rest : List FillRun), (s.coreRuns c) ∧ (p.val < (s.core c).arr.mode.count) ∧ (s.issueSlot c p = some n) ∧ (s.arrayRuns c) ∧ (s.stallCause c = false) ∧ (n = (s.core c).arr.now ∨ (s.core c).seq.stalled = false) ∧ ((s.part c p).runs = []) ∧ ((s.part c p).fillRuns = f :: rest) :=
  ⟨0, 0, 0, live.modPart 0 0 fun q => { q with fillRuns := [{ left := 2 }] }, { left := 2 }, [], by decide +kernel⟩

theorem witness_BanksAndRuns_7 : ∃ (c : Fin 8) (p : Fin 4) (s : State) (f : Flight), ((s.core c).arr.flights.find? (fun f => f.part = p.val) = some f) ∧ (s.coreRuns c) ∧ (s.arrayRuns c) ∧ (f.issueCycle + passLatency (s.core c).arr.mode ≤ (s.core c).arr.now) ∧ (f.marker = true → f.swapped = true) ∧ (s.vectorFault c p f none = none) ∧ (f.discard || f.filler || f.bubble) :=
  ⟨0, 0, live.modArr 0 fun a => { a with now := 5000, flights := [{ filler := true }] }, { filler := true }, by decide +kernel⟩

theorem witness_BanksAndRuns_8 : ∃ (c : Fin 8) (p : Fin 4) (b : Fin 2) (s : State) (buf : Nat), (s.coreRuns c) ∧ (s.arrayRuns c) ∧ ((s.bank c p b).st = .closed) ∧ ((s.bank c p b).closeCycle + passLatency (s.core c).arr.mode ≤ (s.core c).arr.now) ∧ ((s.core c).arr.flights.all fun f => f.part ≠ p.val || f.bank ≠ b.val || f.filler || f.bubble) ∧ (s.converterFree c p b) ∧ ((s.bank c p b).lastChunk ≠ none) ∧ ((s.bank c p b).buf = some buf) ∧ (s.outputFits c p b buf) :=
  ⟨0, 0, 0, convDue, 0, by decide +kernel⟩

theorem witness_BanksAndRuns_9 : ∃ (c : Fin 8) (p : Fin 4) (b : Fin 2) (s : State) (buf at_ : Nat) (s0 : State), (s.coreRuns c) ∧ (s.arrayRuns c) ∧ ((s.bank c p b).buf = some buf) ∧ ((s.bank c p b).st = .converting) ∧ ((s.bank c p b).n ≤ (s.bank c p b).conv) ∧ (bit (s.bank c p b).word 125 = false) ∧ (s.scrExtent c (fld (s.bank c p b).word 99 90) buf (fld (s.bank c p b).word 123 100 + (s.bank c p b).n * s.recordRows c p b) (padRow (s.bank c p b).scales).length = some at_) ∧ (s.takeAll c (s.bank c p b).task 0 [(at_ / 512, rowsOf at_ (padRow (s.bank c p b).scales).length, convPort (s.core c).arr.mode p.val)] = (true, s0)) :=
  ⟨0, 0, 0, converted, 0, 0, convTaken, by decide +kernel⟩

theorem witness_VectorsThroughTheArray_1 : ∃ (c : Fin 8) (p : Fin 4) (n : Nat) (s : State), (s.coreRuns c) ∧ (p.val < (s.core c).arr.mode.count) ∧ (s.issueSlot c p = some n) ∧ (s.arrayRuns c) ∧ (s.stallCause c = false) ∧ (n = (s.core c).arr.now ∨ (s.core c).seq.stalled = false) ∧ ((s.part c p).runs = []) ∧ ((s.part c p).fillRuns = []) ∧ ((s.part c p).density ≤ n % 64) :=
  ⟨0, 0, 0, live, by decide +kernel⟩

theorem witness_VectorsThroughTheArray_2 : ∃ (c : Fin 8) (p : Fin 4) (n : Nat) (s : State), (s.coreRuns c) ∧ (p.val < (s.core c).arr.mode.count) ∧ (s.issueSlot c p = some n) ∧ (s.arrayRuns c) ∧ (s.stallCause c = false) ∧ (n = (s.core c).arr.now ∨ (s.core c).seq.stalled = false) ∧ ((s.part c p).runs = []) ∧ ((s.part c p).fillRuns = []) ∧ (n % 64 < (s.part c p).density) :=
  ⟨0, 0, 0, live.modPart 0 0 fun q => { q with density := 3 }, by decide +kernel⟩

theorem witness_VectorsThroughTheArray_3 : ∃ (c : Fin 8) (p : Fin 4) (n : Nat) (s : State) (r : Run) (rest : List Run) (o : OpFmt), (s.coreRuns c) ∧ (p.val < (s.core c).arr.mode.count) ∧ (s.issueSlot c p = some n) ∧ (s.arrayRuns c) ∧ (s.stallCause c = false) ∧ (n = (s.core c).arr.now ∨ (s.core c).seq.stalled = false) ∧ ((s.part c p).runs = r :: rest) ∧ (r.gap = false) ∧ ((s.findTask c r.task).all (fun t => s.taskDecoupled c t) || decide (r.due ≤ (s.core c).seq.sched - ((s.core c).arr.now - n))) ∧ (issueFmt r.word = some o) ∧ (if bit r.word 88 && r.next = 0 && !r.marked then s.markerAt c p n else (s.part c p).active || s.markPending c p) ∧ (let st := (s.setHdr c p (if bit r.word 88 && r.next = 0 && !r.marked then !s.nextSet c p else s.nextSet c p)).op
  (st.isFloat || o.isFloat) = false ∨ st.fmt = o.fmt) ∧ ((s.bank c p (fin2 (fld r.word 76 76))).st = .opened) :=
  ⟨0, 0, 0, ((withCmd 13).modPart 0 0 fun q => { q with active := true, runs := [{ task := 1, word := 13 }] }).modBank 0 0 0 fun b => { b with st := .opened }, { task := 1, word := 13 }, [], ⟨.e4m3, 8, 8, false⟩, by decide +kernel⟩

theorem witness_VectorsThroughTheArray_4 : ∃ (c : Fin 8) (p : Fin 4) (n : Nat) (s : State) (r : Run) (rest : List Run) (o : OpFmt), (s.coreRuns c) ∧ (p.val < (s.core c).arr.mode.count) ∧ (s.issueSlot c p = some n) ∧ (s.arrayRuns c) ∧ (s.stallCause c = false) ∧ (n = (s.core c).arr.now ∨ (s.core c).seq.stalled = false) ∧ ((s.part c p).runs = r :: rest) ∧ (r.gap = false) ∧ ((s.findTask c r.task).all (fun t => s.taskDecoupled c t) || decide (r.due ≤ (s.core c).seq.sched - ((s.core c).arr.now - n))) ∧ (issueFmt r.word = some o) ∧ (bit r.word 88 && r.next = 0 && !r.marked) ∧ (s.markerAt c p n) ∧ (((s.setHdr c p (!s.nextSet c p)).op.isFloat || o.isFloat) = false) ∧ ((s.bank c p (fin2 (fld r.word 76 76))).st ≠ .opened) :=
  ⟨0, 0, 0, bubbleReady, { task := 1, word := 13 + 2 ^ 88 }, [], ⟨.e4m3, 8, 8, false⟩, by decide +kernel⟩

theorem witness_VectorsThroughTheArray_5 : ∃ (c : Fin 8) (p : Fin 4) (n : Nat) (s : State) (f : FillRun) (rest : List FillRun), (s.coreRuns c) ∧ (p.val < (s.core c).arr.mode.count) ∧ (s.issueSlot c p = some n) ∧ (s.arrayRuns c) ∧ (s.stallCause c = false) ∧ (n = (s.core c).arr.now ∨ (s.core c).seq.stalled = false) ∧ ((s.part c p).runs = []) ∧ ((s.part c p).fillRuns = f :: rest) :=
  ⟨0, 0, 0, live.modPart 0 0 fun q => { q with fillRuns := [{ left := 2 }] }, { left := 2 }, [], by decide +kernel⟩

theorem witness_VectorsThroughTheArray_6 : ∃ (c : Fin 8) (p : Fin 4) (s : State) (f : Flight), ((s.core c).arr.flights.find? (fun f => f.part = p.val) = some f) ∧ (s.coreRuns c) ∧ (s.arrayRuns c) ∧ (f.issueCycle + passLatency (s.core c).arr.mode ≤ (s.core c).arr.now) ∧ (f.marker = true → f.swapped = true) ∧ (s.vectorFault c p f none = none) ∧ (f.discard || f.filler || f.bubble) :=
  ⟨0, 0, live.modArr 0 fun a => { a with now := 5000, flights := [{ filler := true }] }, { filler := true }, by decide +kernel⟩

theorem witness_VectorsThroughTheArray_7 : ∃ (c : Fin 8) (p : Fin 4) (s : State) (f : Flight) (s1 : State), ((s.core c).arr.flights.find? (fun f => f.part = p.val) = some f) ∧ (s.coreRuns c) ∧ (s.arrayRuns c) ∧ (f.issueCycle + passLatency (s.core c).arr.mode ≤ (s.core c).arr.now) ∧ (f.marker = true → f.swapped = true) ∧ (s.vectorFault c p f none = none) ∧ ((f.discard || f.filler || f.bubble) = false) ∧ (s1 = s.modArr c fun a => { a with flights := removeFirst (fun f => f.part = p.val) a.flights }) ∧ ((s1.bank c p (fin2 f.bank)).st ≠ .empty) ∧ ((s1.bank c p (fin2 f.bank)).lastChunk.all fun k => decide ((s1.metHdr c p f).chunk.toNat ≤ k.toNat)) ∧ ((s1.drainPass c p f).order = false ∧ (s1.drainPass c p f).nf = false ∧ (s1.drainPass c p f).sat = false) :=
  ⟨0, 0, passReady, {}, passOut, rfl, rfl, by decide +kernel, by decide +kernel, id, by decide +kernel, rfl, rfl, by decide +kernel, by decide +kernel, ⟨State.drainPass_order _ _ _ _ (by decide +kernel) (by decide +kernel), State.drainPass_nf _ _ _ _ (by decide +kernel), State.drainPass_sat _ _ _ _ (by decide +kernel)⟩⟩

theorem witness_VectorsThroughTheArray_8 : ∃ (c : Fin 8) (p : Fin 4) (u : CellUpset) (s : State) (f : Flight), ((s.core c).arr.flights.find? (fun f => f.part = p.val) = some f) ∧ (s.coreRuns c) ∧ (s.arrayRuns c) ∧ (f.issueCycle + passLatency (s.core c).arr.mode ≤ (s.core c).arr.now) ∧ (f.marker = true → f.swapped = true) ∧ (f.bubble = false) ∧ (f.filler = false ∨ (s.part c p).active) ∧ (u.parity = false) :=
  ⟨0, 0, { row := 0, col := 3, parity := false }, live.modArr 0 fun a => { a with now := 5000, flights := [{}] }, {}, by decide +kernel⟩

theorem witness_VectorsThroughTheArray_9 : ∃ (c : Fin 8) (p : Fin 4) (b : Fin 2) (s : State) (buf : Nat), (s.coreRuns c) ∧ (s.arrayRuns c) ∧ ((s.bank c p b).st = .closed) ∧ ((s.bank c p b).closeCycle + passLatency (s.core c).arr.mode ≤ (s.core c).arr.now) ∧ ((s.core c).arr.flights.all fun f => f.part ≠ p.val || f.bank ≠ b.val || f.filler || f.bubble) ∧ (s.converterFree c p b) ∧ ((s.bank c p b).lastChunk ≠ none) ∧ ((s.bank c p b).buf = some buf) ∧ (s.outputFits c p b buf) :=
  ⟨0, 0, 0, convDue, 0, by decide +kernel⟩

theorem witness_VectorsThroughTheArray_10 : ∃ (c : Fin 8) (p : Fin 4) (b : Fin 2) (s : State) (t : Task) (h : Hold), (s.coreRuns c) ∧ (s.arrayRuns c) ∧ ((s.bank c p b).st = .closed) ∧ ((s.bank c p b).closeCycle + passLatency (s.core c).arr.mode ≤ (s.core c).arr.now) ∧ ((s.core c).arr.flights.all fun f => f.part ≠ p.val || f.bank ≠ b.val || f.filler || f.bubble) ∧ (s.converterFree c p b) ∧ ((s.bank c p b).lastChunk ≠ none) ∧ ((s.bank c p b).buf = none) ∧ (s.findTask c (s.bank c p b).task = some t) ∧ ((s.core c).scr.waits.all fun w => w.rq ≠ .bank p.val b.val) ∧ (bit (s.bank c p b).word 124 = false) ∧ (t.held (fld (s.bank c p b).word 99 90) false = some h) ∧ (s.outputFits c p b h.buf) :=
  ⟨0, 0, 0, heldClaim, task2 false, { slot := 0, buf := 0, acq := false }, by decide +kernel⟩

theorem witness_VectorsThroughTheArray_11 : ∃ (c : Fin 8) (p : Fin 4) (b : Fin 2) (s : State) (buf at_ : Nat) (s0 : State), (s.coreRuns c) ∧ (s.arrayRuns c) ∧ ((s.bank c p b).buf = some buf) ∧ ((s.bank c p b).st = .converting) ∧ ((s.bank c p b).n ≤ (s.bank c p b).conv) ∧ (s.scrExtent c (fld (s.bank c p b).word 99 90) buf (fld (s.bank c p b).word 123 100 + (s.bank c p b).n * s.recordRows c p b) (padRow (s.bank c p b).scales).length = some at_) ∧ (s.takeAll c (s.bank c p b).task 0 [(at_ / 512, rowsOf at_ (padRow (s.bank c p b).scales).length, convPort (s.core c).arr.mode p.val)] = (true, s0)) :=
  ⟨0, 0, 0, converted, 0, 0, convTaken, by decide +kernel⟩

theorem witness_VectorsThroughTheArray_12 : ∃ (c : Fin 8) (p : Fin 4) (b : Fin 2) (s : State) (buf at_ : Nat) (s0 : State), (s.coreRuns c) ∧ (s.arrayRuns c) ∧ ((s.bank c p b).buf = some buf) ∧ ((s.bank c p b).st = .converting) ∧ ((s.bank c p b).n ≤ (s.bank c p b).conv) ∧ (s.scrExtent c (fld (s.bank c p b).word 99 90) buf (fld (s.bank c p b).word 123 100 + (s.bank c p b).n * s.recordRows c p b) (padRow (s.bank c p b).scales).length = some at_) ∧ (s.takeAll c (s.bank c p b).task 0 [(at_ / 512, rowsOf at_ (padRow (s.bank c p b).scales).length, convPort (s.core c).arr.mode p.val)] = (false, s0)) :=
  ⟨0, 0, 0, convBusy, 0, 0, (convBusy.takeAll 0 1 0 [(0, 1, convPort (convBusy.core 0).arr.mode 0)]).2, by decide +kernel⟩

theorem witness_VectorsThroughTheArray_13 : ∃ (c : Fin 8) (p : Fin 4) (b : Fin 2) (s : State) (buf : Nat), (s.coreRuns c) ∧ (s.arrayRuns c) ∧ (s.convertDue c p b) ∧ ((s.bank c p b).lastChunk ≠ none) ∧ ((s.bank c p b).buf = some buf) ∧ (s.outputFits c p b buf = false) :=
  ⟨0, 0, 0, convOver, 0, by decide +kernel⟩

theorem witness_VectorsThroughTheArray_14 : ∃ (c : Fin 8) (p : Fin 4) (s : State) (f : Flight) (s1 : State), ((s.core c).arr.flights.find? (fun f => f.part = p.val) = some f) ∧ (s.coreRuns c) ∧ (s.arrayRuns c) ∧ (f.issueCycle + passLatency (s.core c).arr.mode ≤ (s.core c).arr.now) ∧ (f.marker = true → f.swapped = true) ∧ (s.vectorFault c p f none = none) ∧ ((f.discard || f.filler || f.bubble) = false) ∧ (s1 = s.modArr c fun a => { a with flights := removeFirst (fun f => f.part = p.val) a.flights }) ∧ ((s1.bank c p (fin2 f.bank)).st ≠ .empty) ∧ ((s1.drainPass c p f).order ∨ ∃ k, (s1.bank c p (fin2 f.bank)).lastChunk = some k ∧ k.toNat < (s1.metHdr c p f).chunk.toNat) :=
  ⟨0, 0, passLate, {}, passLate.modArr 0 fun a => { a with flights := [] }, rfl, rfl, by decide +kernel, by decide +kernel, id, by decide +kernel, rfl, rfl, by decide +kernel, .inr ⟨0, rfl, by decide +kernel⟩⟩

theorem witness_VectorsThroughTheArray_15 : ∃ (c : Fin 8) (p : Fin 4) (s : State) (f : Flight) (s1 : State), ((s.core c).arr.flights.find? (fun f => f.part = p.val) = some f) ∧ (s.coreRuns c) ∧ (s.arrayRuns c) ∧ (f.issueCycle + passLatency (s.core c).arr.mode ≤ (s.core c).arr.now) ∧ (f.marker = true → f.swapped = true) ∧ (s.vectorFault c p f none = none) ∧ ((f.discard || f.filler || f.bubble) = false) ∧ (s1 = s.modArr c fun a => { a with flights := removeFirst (fun f => f.part = p.val) a.flights }) ∧ ((s1.bank c p (fin2 f.bank)).st ≠ .empty) ∧ ((s1.bank c p (fin2 f.bank)).lastChunk.all fun k => decide ((s1.metHdr c p f).chunk.toNat ≤ k.toNat)) ∧ ((s1.drainPass c p f).order = false) ∧ ((s1.drainPass c p f).nf) :=
  ⟨0, 0, passNan, hotFlight 0x7F, passNan.modArr 0 fun a => { a with flights := [] }, rfl, rfl, by decide +kernel, by decide +kernel, id, by decide +kernel, rfl, rfl, by decide +kernel, by decide +kernel, State.drainPass_order _ _ _ _ (by decide +kernel) (by decide +kernel), by decide +kernel⟩

theorem witness_VectorsThroughTheArray_16 : ∃ (c : Fin 8) (p : Fin 4) (s : State) (f : Flight) (s1 : State), ((s.core c).arr.flights.find? (fun f => f.part = p.val) = some f) ∧ (s.coreRuns c) ∧ (s.arrayRuns c) ∧ (f.issueCycle + passLatency (s.core c).arr.mode ≤ (s.core c).arr.now) ∧ (f.marker = true → f.swapped = true) ∧ (s.vectorFault c p f none = none) ∧ ((f.discard || f.filler || f.bubble) = false) ∧ (s1 = s.modArr c fun a => { a with flights := removeFirst (fun f => f.part = p.val) a.flights }) ∧ ((s1.bank c p (fin2 f.bank)).st ≠ .empty) ∧ ((s1.bank c p (fin2 f.bank)).lastChunk.all fun k => decide ((s1.metHdr c p f).chunk.toNat ≤ k.toNat)) ∧ ((s1.drainPass c p f).order = false) ∧ ((s1.drainPass c p f).nf = false) ∧ ((s1.drainPass c p f).sat) :=
  ⟨0, 0, passSat, hotFlight 0x38, passSat.modArr 0 fun a => { a with flights := [] }, rfl, rfl, by decide +kernel, by decide +kernel, id, by decide +kernel, rfl, rfl, by decide +kernel, by decide +kernel, State.drainPass_order _ _ _ _ (by decide +kernel) (by decide +kernel), State.drainPass_nf _ _ _ _ (by decide +kernel), by decide +kernel⟩

theorem witness_ArrayRecovery_1 : ∃ (c : Fin 8) (p : Fin 4) (s : State), ((s.part c p).freeAt ≠ 0) ∧ ((s.part c p).freeAt ≤ (s.core c).arr.now) :=
  ⟨0, 0, (live.modArr 0 fun a => { a with now := 9 }).modPart 0 0 fun q => { q with freeAt := 9 }, by decide +kernel⟩

theorem witness_ArrayRecovery_2 : ∃ (c : Fin 8) (q : Fin 4) (s : State), (s.coreRuns c) ∧ (bit (s.core c).arr.suspect q.val) ∧ ((s.core c).arr.check = none) ∧ ((s.core c).arr.respare.all fun r => r.2.2 ≠ q.val) ∧ (s.quadFree c q.val) :=
  ⟨0, 0, live.modArr 0 fun a => { a with suspect := 1 }, by decide +kernel⟩

theorem witness_ArrayRecovery_3 : ∃ (c : Fin 8) (q : Fin 4) (s : State) (x : Check), ((s.core c).arr.check = some x) ∧ (s.coreRuns c) ∧ (x.quad = q.val) ∧ (x.start + 4096 ≤ (s.core c).arr.now) :=
  ⟨0, 0, live.modArr 0 fun a => { a with now := 4096, check := some ⟨0, 0⟩ }, ⟨0, 0⟩, by decide +kernel⟩

theorem witness_ArrayRecovery_4 : ∃ (c : Fin 8) (q : Fin 4) (col : Bool) (s : State) (x : Check) (n : Nat), ((s.core c).arr.check = some x) ∧ (s.coreRuns c) ∧ (x.quad = q.val) ∧ (x.start + 4096 ≤ (s.core c).arr.now) ∧ ((s.core c).arr.canSpare col n) :=
  ⟨0, 0, true, live.modArr 0 fun a => { a with now := 4096, check := some ⟨0, 0⟩ }, ⟨0, 0⟩, 70, by decide +kernel⟩

theorem witness_ArrayRecovery_5 : ∃ (c : Fin 8) (q : Fin 4) (col : Bool) (s : State) (x : Check) (n : Nat), ((s.core c).arr.check = some x) ∧ (s.coreRuns c) ∧ (x.quad = q.val) ∧ (x.start + 4096 ≤ (s.core c).arr.now) ∧ ((s.core c).arr.canSpare col n = false) :=
  ⟨0, 0, false, live.modArr 0 fun a => { a with now := 4096, check := some ⟨0, 0⟩, spokeRow := [(0, 0xC0)] }, ⟨0, 0⟩, 0, by decide +kernel⟩

theorem witness_ArrayRecovery_6 : ∃ (c : Fin 8) (q : Fin 4) (s : State) (x : Check), ((s.core c).arr.check = some x) ∧ (s.coreRuns c) ∧ (x.quad = q.val) ∧ (x.start + 4096 ≤ (s.core c).arr.now) :=
  ⟨0, 0, live.modArr 0 fun a => { a with now := 4096, check := some ⟨0, 0⟩ }, ⟨0, 0⟩, by decide +kernel⟩

theorem witness_ArrayRecovery_7 : ∃ (c : Fin 8) (s : State), (s.coreRuns c) ∧ ((s.core c).arr.respare ≠ []) ∧ ((s.core c).arr.rewriteAt = none) ∧ (s.arrayIdle c) :=
  ⟨0, live.modArr 0 fun a => { a with respare := [(true, 70, 0)] }, by decide +kernel⟩

theorem witness_ArrayRecovery_8 : ∃ (c : Fin 8) (s : State) (n : Nat), ((s.core c).arr.rewriteAt = some n) ∧ (s.coreRuns c) ∧ (n + 64 ≤ (s.core c).arr.now) :=
  ⟨0, live.modArr 0 fun a => { a with now := 64, rewriteAt := some 0, respare := [(true, 70, 0)] }, 0, by decide +kernel⟩

theorem witness_ArrayRecovery_9 : ∃ (c : Fin 8) (s : State), ((s.core c).seq.stalled) ∧ (s.stallCause c = false) :=
  ⟨0, live.modSeq 0 fun q => { q with stalled := true }, by decide +kernel⟩

theorem witness_ArrayRecovery_10 : ∃ (t : Tab (BitVec 8)) (i j : Nat), (i < j) ∧ (j < 512) :=
  ⟨[(0, 0x9E)], 30, 511, by decide +kernel⟩

theorem witness_ArrayRecovery_11 : ∃ (t : Tab (BitVec 8)) (i : Nat), (i < 512) ∧ (spokeInUse (tabGet 0 t (i / 64))) :=
  ⟨[(0, 0x9E)], 30, by decide +kernel⟩

theorem witness_VectorUnitAndUpdate_1 : ∃ (c : Fin 8) (task : Nat) (s : State) (t : Task) (i : Nat) (w : BitVec 128) (fa fb fd : FpFmt) (srcs : List Nat) (n : Nat) (bufs : List Nat) (s1 : State) (m : Nat) (dbufs : List Nat) (s2 : State) (ea eb ed : Bool×Nat) (s3 : State), (s.cmdReady c task 0x15 = some (t, i, w)) ∧ (vecFmt (fld w 85 84) = some fa) ∧ (vecFmt (fld w 87 86) = some fb) ∧ (vecFmt (fld w 89 88) = some fd) ∧ (srcs = if vecTwo (fld w 37 32) then [fld w 47 38, fld w 57 48] else [fld w 47 38]) ∧ (s.commandBufs c task true (bit w 116) srcs [] = (.granted n, bufs, s1)) ∧ (s1.commandBufs c task false (bit w 118) [fld w 67 58] [] = (.granted m, dbufs, s2)) ∧ (s2.bufExtent c (srcs.getD 0 0) (bufs.getD 0 0) (fld w 113 90 * 512) ((fld w 83 68 + 1) * 512 * fa.bytes) = some ea) ∧ ((if vecTwo (fld w 37 32) then s2.bufExtent c (srcs.getD 1 0) (bufs.getD 1 0) (fld w 113 90 * 512) ((fld w 83 68 + 1) * 512 * fb.bytes) else some (false, 0)) = some eb) ∧ (s2.bufExtent c (fld w 67 58) (dbufs.getD 0 0) (fld w 113 90 * 512) ((if fld w 37 32 = 5 then 1 else fld w 83 68 + 1) * 512 * fd.bytes) = some ed) ∧ ((((s2.modTask c task fun t => t.issued 1 i).consumeHolds c task true srcs).consumeHolds c task false [fld w 67 58]).takeAll c task 0 (operandRows [(ea, (fld w 83 68 + 1) * 512 * fa.bytes, 7), (eb, if vecTwo (fld w 37 32) then (fld w 83 68 + 1) * 512 * fb.bytes else 0, 8), (ed, (if fld w 37 32 = 5 then 1 else fld w 83 68 + 1) * 512 * fd.bytes, if vecTwo (fld w 37 32) then 7 else 8)]) = (true, s3)) :=
  ⟨0, 1, vecReady, taskV, 0, 0x15, fpFp32, fpFp32, fpFp32, [0, 0], 0, [0, 0], vecReady, 0, [0], vecReady, (false, 0), (false, 0), (false, 0), (((vecReady.modTask 0 1 fun t => t.issued 1 0).consumeHolds 0 1 true [0, 0]).consumeHolds 0 1 false [0]).takeAll 0 1 0 (operandRows [((false, 0), 2048, 7), ((false, 0), 2048, 8), ((false, 0), 2048, 7)]) |>.2, by decide +kernel⟩

theorem witness_VectorUnitAndUpdate_2 : ∃ (c : Fin 8) (task : Nat) (s : State) (t : Task) (i : Nat) (w : BitVec 128), (s.cmdReady c task 0x06 = some (t, i, w)) ∧ ((s.core c).seq.updQ.length < 64) :=
  ⟨0, 1, withCmd 6, task1, 0, 6, by decide +kernel⟩

theorem witness_MovementEngine_1 : ∃ (c : Fin 8) (task : Nat) (s : State) (t : Task) (i : Nat) (w : BitVec 128) (d : BitVec 1024), (s.cmdReady c task 0x04 = some (t, i, w)) ∧ ((s.core c).mov.queue.length < 64) ∧ (s.cfg.bind (fun g => g.template c.val (fld w 43 32)) = some d) :=
  ⟨0, 1, ((withCmd 4).modImg fun i => { i with active := some (0, { words := [4], templates := [(0, 0, 0)] }) }).modSeq 0 fun q => { q with tasks := [task1] }, task1, 0, 4, 0, by decide +kernel⟩

theorem witness_MovementEngine_2 : ∃ (c : Fin 8) (task : Nat) (s : State) (t : Task) (i : Nat) (w : BitVec 128), (s.cmdReady c task 0x04 = some (t, i, w)) ∧ ((s.core c).mov.queue.length < 64) ∧ (s.cfg.bind (fun g => g.template c.val (fld w 43 32)) = none) :=
  ⟨0, 1, withCmd 4, task1, 0, 4, by decide +kernel⟩

theorem witness_MovementEngine_3 : ∃ (c : Fin 8) (s : State) (x : AccCmd) (rest : List AccCmd) (n : Nat), ((s.core c).mov.queue = x :: rest) ∧ ((s.core c).mov.freePlace = some n) ∧ (s.coreRuns c) ∧ (s.tokenHeld c 0 = false) ∧ (s.admitCheck c x = none) :=
  ⟨0, live.modMov 0 fun m => { m with queue := [{ desc := moveDesc }] }, { desc := moveDesc }, [], 0, by decide +kernel⟩

theorem witness_MovementEngine_4 : ∃ (c : Fin 8) (s : State) (x : AccCmd) (rest : List AccCmd) (n : Nat) (code : BitVec 16), ((s.core c).mov.queue = x :: rest) ∧ ((s.core c).mov.freePlace = some n) ∧ (s.coreRuns c) ∧ (s.tokenHeld c 0 = false) ∧ (s.admitCheck c x = some code) :=
  ⟨0, live.modMov 0 fun m => { m with queue := [{ desc := 15 }] }, { desc := 15 }, [], 0, 0x0302, by decide +kernel⟩

theorem witness_MovementEngine_5 : ∃ (c : Fin 8) (s : State) (f : Flying), (s.coreRuns c) ∧ (s.tokenHeld c 0 = false) ∧ (let able := (s.core c).mov.flights.filter fun f => f.ready && !s.behind c f
  able.find? (fun f => able.all fun g => decide (f.order ≤ g.order)) = some f) ∧ ((s.descRemote f.desc && s.moduleLost (dModule f.desc)) = false) :=
  ⟨0, live.modMov 0 fun m => { m with flying := [(0, some { desc := moveDesc })] }, { desc := moveDesc }, by decide +kernel⟩

theorem witness_MovementEngine_6 : ∃ (c : Fin 8) (s : State) (f : Flying), (s.coreRuns c) ∧ (s.tokenHeld c 0 = false) ∧ (let able := (s.core c).mov.flights.filter fun f => f.ready && !s.behind c f
  able.find? (fun f => able.all fun g => decide (f.order ≤ g.order)) = some f) ∧ (s.descRemote f.desc && s.moduleLost (dModule f.desc)) :=
  ⟨0, (live.modMov 0 fun m => { m with flying := [(0, some { desc := remoteDesc })] }).modCas fun c => { c with lost := [1] }, { desc := remoteDesc }, by decide +kernel⟩

theorem witness_MovementEngine_7 : ∃ (c : Fin 8) (s : State) (g : Nat), ((s.core c).mov.endedGroup = some g) ∧ (s.coreRuns c) ∧ (s.tokenHeld c 0 = false) :=
  ⟨0, live.modMov 0 fun m => { m with groupDone := [{ fl := { desc := moveDesc } }], groupId := none }, 0, by decide +kernel⟩

theorem witness_MovementEngine_8 : ∃ (c : Fin 8) (s : State) (n : Nat), (s.coreRuns c) ∧ ((s.core c).mov.mode = false) ∧ (let held := (s.core c).mov.pfSectors.filter fun u => (s.half (addrHalf (u * 32))).tcHas (u * 32)
  (held.length + 1) * 32 ≤ (s.core c).mov.pfBudget.toNat * 2 ^ 18) ∧ ((s.prefetchQueue c).findSome? (s.nextPrefetch c) = some n) ∧ (n * 32 < 2 ^ 41) ∧ (inStore (n * 32) = false) ∧ (((if (s.half (addrHalf (n * 32))).tcHas (n * 32) then s else s.passSlot (n * 32)).readSector (n * 32) [] [] false true).1.isOk) :=
  ⟨0, (live.modMov 0 fun m => { m with mode := false, pfDepth := 1, pfBudget := 1, queue := [{ desc := moveDesc }] }), 0, by decide +kernel⟩

theorem witness_MovementEngine_9 : ∃ (c : Fin 8) (s : State) (n : Nat) (e : BitVec 16) (s1 : State), (s.coreRuns c) ∧ ((s.core c).mov.mode = false) ∧ (let held := (s.core c).mov.pfSectors.filter fun u => (s.half (addrHalf (u * 32))).tcHas (u * 32)
  (held.length + 1) * 32 ≤ (s.core c).mov.pfBudget.toNat * 2 ^ 18) ∧ ((s.prefetchQueue c).findSome? (s.nextPrefetch c) = some n) ∧ ((if (s.half (addrHalf (n * 32))).tcHas (n * 32) then s else s.passSlot (n * 32)).readSector (n * 32) [] [] false true = (.error e, s1)) :=
  ⟨0, pfFenced, 0, 0x0507, (pfFenced.readSector 0 [] [] false true).2, by decide +kernel, by decide +kernel, by decide +kernel, by decide +kernel, errEq (by decide +kernel)⟩

theorem witness_MovementEngine_10 : ∃ (c : Fin 8) (s : State) (n : Nat), (s.coreRuns c) ∧ ((s.core c).mov.mode = false) ∧ (let held := (s.core c).mov.pfSectors.filter fun u => (s.half (addrHalf (u * 32))).tcHas (u * 32)
  (held.length + 1) * 32 ≤ (s.core c).mov.pfBudget.toNat * 2 ^ 18) ∧ ((s.prefetchQueue c).findSome? (s.nextPrefetch c) = some n) ∧ (2 ^ 41 ≤ n * 32 ∨ inStore (n * 32)) :=
  ⟨0, live.modMov 0 fun m => { m with mode := false, pfDepth := 1, pfBudget := 1, queue := [{ desc := moveDesc, srcBase := 0xFFC0000000 }] }, 0xFFC0000000 / 32, by decide +kernel⟩

theorem witness_MovementEngine_11 : ∃ (c : Fin 8) (s : State), (s.coreRuns c) :=
  ⟨0, live, by decide +kernel⟩

theorem witness_ScratchpadRows_1 : ∃ (c : Fin 8) (port : Fin 12) (row : Nat) (key : Option Nat) (flips : List (Nat × BitVec 39)) (s : State), (s.coreRuns c) ∧ (row < scrRows) ∧ (port.val < 3 ∨ 6 < port.val) ∧ (s.rowsFree c row 1 port.val) ∧ (s.queuesHeld c = false ∨ 10 ≤ port.val) ∧ ((((s.scrUpset c row flips).useBank c row port.val).scrReadRow c row).1) :=
  ⟨0, 0, 1, none, [], live, by decide +kernel⟩

theorem witness_ScratchpadRows_2 : ∃ (c : Fin 8) (port : Fin 12) (row key : Nat) (flips : List (Nat × BitVec 39)) (s : State), (s.coreRuns c) ∧ (row < scrRows) ∧ (port.val < 3 ∨ 6 < port.val) ∧ (s.rowsFree c row 1 port.val) ∧ (s.queuesHeld c = false ∨ 10 ≤ port.val) ∧ ((((s.scrUpset c row flips).useBank c row port.val).scrReadRow c row).1 = false) :=
  ⟨0, 0, 1, 1, [], live.modScr 0 fun x => { x with poison := [(1, true)] }, by decide +kernel⟩

theorem witness_ScratchpadRows_3 : ∃ (c : Fin 8) (port : Fin 12) (row : Nat) (key : Option Nat) (flips : List (Nat × BitVec 39)) (s : State), (scrRows ≤ row ∨ (3 ≤ port.val ∧ port.val ≤ 6)) :=
  ⟨0, 4, 1, none, [], live, by decide +kernel⟩

theorem witness_ScratchpadRows_4 : ∃ (c : Fin 8) (row : Nat) (s : State), (s.coreRuns c) ∧ (s.mayRetire c row) :=
  ⟨0, 3, live.modScr 0 fun x => { x with fixups := [⟨3, []⟩] }, by decide +kernel⟩

theorem witness_ScratchpadRows_5 : ∃ (c : Fin 8) (row : Nat) (s : State), (s.coreRuns c) ∧ (s.mayRetire c row = false) ∧ ((s.core c).mov.mode) ∧ ((s.core c).scr.held.any fun e => e.row = row) ∧ (s.bankBegun c row = false) :=
  ⟨0, 3, (live.modScr 0 fun x => { x with held := [⟨3, []⟩] }).modMov 0 fun m => { m with mode := true }, by decide +kernel⟩

theorem witness_ScratchpadRows_6 : ∃ (c : Fin 8) (s : State) (x : FixEnt) (rest : List FixEnt), ((s.core c).scr.held = x :: rest) ∧ (s.coreRuns c) ∧ ((s.core c).scr.fixups.length < 16) :=
  ⟨0, live.modScr 0 fun x => { x with held := [⟨3, []⟩] }, ⟨3, []⟩, [], by decide +kernel⟩

theorem witness_ScratchpadRows_7 : ∃ (c : Fin 8) (flips : List (Nat × BitVec 39)) (s : State), (s.coreRuns c) ∧ (s.bankIdle c (s.core c).scr.scrubRow) ∧ (let s1 := (s.scrUpset c (s.core c).scr.scrubRow flips).useBank c (s.core c).scr.scrubRow 13
  (s1.core c).scr.rowErrors (s.core c).scr.scrubRow = ([], [])) :=
  ⟨0, [], live, by decide +kernel⟩

theorem witness_ScratchpadRows_8 : ∃ (c : Fin 8) (flips : List (Nat × BitVec 39)) (s s1 : State), (s.coreRuns c) ∧ (s.bankIdle c (s.core c).scr.scrubRow) ∧ (s1 = (s.scrUpset c (s.core c).scr.scrubRow flips).useBank c (s.core c).scr.scrubRow 13) ∧ (((s1.core c).scr.rowErrors (s.core c).scr.scrubRow).1 ≠ []) ∧ (((s1.core c).scr.rowErrors (s.core c).scr.scrubRow).2 = []) ∧ ((s1.core c).scr.fixups.length ≤ 12) ∧ (((s1.core c).scr.fixups ++ (s1.core c).scr.held).all fun e => e.row ≠ (s.core c).scr.scrubRow) ∧ (tabGet false (s1.core c).scr.poison (s.core c).scr.scrubRow = false) :=
  ⟨0, [(0, 1)], live, (live.scrUpset 0 0 [(0, 1)]).useBank 0 0 13, by decide +kernel⟩

theorem witness_ScratchpadRows_9 : ∃ (c : Fin 8) (flips : List (Nat × BitVec 39)) (s : State), (s.coreRuns c) ∧ (s.bankIdle c (s.core c).scr.scrubRow) ∧ (let s1 := (s.scrUpset c (s.core c).scr.scrubRow flips).useBank c (s.core c).scr.scrubRow 13
  ((s1.core c).scr.rowErrors (s.core c).scr.scrubRow).2 ≠ []) ∧ (let s1 := (s.scrUpset c (s.core c).scr.scrubRow flips).useBank c (s.core c).scr.scrubRow 13
  (s1.core c).scr.fixups = [] ∧ (s1.core c).scr.held = [] ∧ tabGet false (s1.core c).scr.poison (s.core c).scr.scrubRow = false) :=
  ⟨0, [(0, 3)], live, by decide +kernel⟩

theorem witness_ScratchpadRows_10 : ∃ (c : Fin 8) (s : State), (s.coreRuns c) ∧ ((s.core c).scr.scrubLate = false) ∧ ((s.core c).scr.scrubMs * 1000000 ≤ (s.core c).scr.scrubNs) :=
  ⟨0, live.modScr 0 fun x => { x with scrubMs := 0 }, by decide +kernel⟩

theorem witness_ScratchpadRows_11 : ∃ (c : Fin 8) (v32 : BitVec 32) (s : State), (s.takesWrite (.core c)) ∧ (s.oz.debugOpen) ∧ (bit v32 31) :=
  ⟨0, 0x80000001, live.modOz fun o => { o with debugOpen := true }, by decide +kernel⟩

theorem witness_ScratchpadRows_12 : ∃ (c : Fin 8) (v32 : BitVec 32) (s : State), (s.takesWrite (.core c)) ∧ ((s.oz.debugOpen && bit v32 31) = false) :=
  ⟨0, 0x80000001, live, by decide +kernel⟩

theorem witness_BufferSlots_1 : ∃ (c : Fin 8) (slot : Nat) (rq : Requester) (epoch : BitVec 16) (task : Nat) (s : State) (o : Fin 8×Nat) (x : SlotEnt), (o = s.slotOwner c slot) ∧ (s.specStale epoch = false) ∧ (s.coreRuns o.1) ∧ (s.slotEnt o.1 o.2 = some x) ∧ (s.morCfg o.1 o.2 = none) ∧ (claimable x (s.isReplace o.1 o.2) (s.slotSt o.1 o.2) epoch) ∧ (s.standsBefore o.1 { acq := false, slot := o.2, rq := rq, epoch := epoch, task := task, sched := s.waitSched o.1 rq } = false) ∧ (s.swapRunning = false) :=
  ⟨0, 0, .task 1, 0, 1, withCmd 3, (0, 0), slotEntOf slot0.entry, by decide +kernel⟩

theorem witness_BufferSlots_2 : ∃ (c : Fin 8) (slot : Nat) (rq : Requester) (epoch : BitVec 16) (task : Nat) (s : State) (o : Fin 8×Nat) (x : SlotEnt), (o = s.slotOwner c slot) ∧ (s.specStale epoch = false) ∧ (s.coreLive o.1) ∧ (s.slotEnt o.1 o.2 = some x) ∧ (s.morCfg o.1 o.2 = none) ∧ (claimable x (s.isReplace o.1 o.2) (s.slotSt o.1 o.2) epoch = false ∨ s.standsBefore o.1 { acq := false, slot := o.2, rq := rq, epoch := epoch, task := task, sched := s.waitSched o.1 rq } ∨ s.coreRuns o.1 = false ∨ s.swapRunning) :=
  ⟨0, 0, .task 1, 0, 1, (withCmd 3).setSlot 0 0 (grantClaim (slotEntOf slot0.entry) false {} 0).2, (0, 0), slotEntOf slot0.entry, by decide +kernel⟩

theorem witness_BufferSlots_3 : ∃ (c : Fin 8) (slot : Nat) (rq : Requester) (epoch : BitVec 16) (ne : Bool) (task : Nat) (s : State) (o : Fin 8×Nat) (x : SlotEnt), (o = s.slotOwner c slot) ∧ (s.coreRuns o.1) ∧ (s.slotEnt o.1 o.2 = some x) ∧ (s.morCfg o.1 o.2 = none) ∧ (acquirable x (s.slotSt o.1 o.2) epoch ne) ∧ (s.standsBefore o.1 { acq := true, slot := o.2, rq := rq, epoch := epoch, neve := ne, task := task, sched := s.waitSched o.1 rq } = false) ∧ (s.swapRunning = false) :=
  ⟨0, 0, .task 1, 0, false, 1, slotFull, (0, 0), slotEntOf slot0.entry, by decide +kernel⟩

theorem witness_BufferSlots_4 : ∃ (c : Fin 8) (slot : Nat) (rq : Requester) (epoch : BitVec 16) (ne : Bool) (task : Nat) (s : State) (o : Fin 8×Nat) (x : SlotEnt), (o = s.slotOwner c slot) ∧ (s.coreLive o.1) ∧ (s.slotEnt o.1 o.2 = some x) ∧ (s.morCfg o.1 o.2 = none) ∧ (acquirable x (s.slotSt o.1 o.2) epoch ne = false ∨ s.standsBefore o.1 { acq := true, slot := o.2, rq := rq, epoch := epoch, neve := ne, task := task, sched := s.waitSched o.1 rq } ∨ s.coreRuns o.1 = false ∨ s.swapRunning) :=
  ⟨0, 0, .task 1, 0, false, 1, withCmd 3, (0, 0), slotEntOf slot0.entry, by decide +kernel⟩

theorem witness_BufferSlots_5 : ∃ (c : Fin 8) (slot buf : Nat) (epoch : BitVec 16) (poster : Option (Fin 8 × Nat)) (s s1 : State), (s.swapRunning = false) ∧ (s.coreRuns (s.slotOwner c slot).1) ∧ (s.putFill (s.slotOwner c slot).1 (s.slotOwner c slot).2 buf epoch = (true, s1)) :=
  ⟨0, 0, 0, 0, none, (withCmd 3).setSlot 0 0 (grantClaim (slotEntOf slot0.entry) false {} 0).2, slotFull, by decide +kernel⟩

theorem witness_BufferSlots_6 : ∃ (c : Fin 8) (slot buf : Nat) (epoch : BitVec 16) (poster : Option (Fin 8 × Nat)) (s s1 : State), (s.swapRunning = false) ∧ (s.coreRuns (s.slotOwner c slot).1) ∧ (s.putRelease (s.slotOwner c slot).1 (s.slotOwner c slot).2 buf epoch = (true, s1)) :=
  ⟨0, 0, 0, 0, none, slotFull.setSlot 0 0 (grantAcquire (slotEntOf slot0.entry) (slotFull.slotSt 0 0) false).2, ((slotFull.setSlot 0 0 (grantAcquire (slotEntOf slot0.entry) (slotFull.slotSt 0 0) false).2).putRelease 0 0 0 0).2, by decide +kernel⟩

theorem witness_BufferSlots_7 : ∃ (c : Fin 8) (i : Nat) (s : State) (x : SlotWait) (buf : Nat) (s1 : State), ((s.core c).scr.waits[i]? = some x) ∧ (s.coreRuns c) ∧ ((s.core c).scr.waits.all fun y => !(y.slot = x.slot && y.acq = x.acq && decide (y.rq.number < x.rq.number) && s.waitReady c y)) ∧ (x.acq || (s.core c).scr.waits.all fun y => !(y.acq && y.slot = x.slot && s.waitReady c y)) ∧ (s.cycle c < x.start + x.limit) ∧ (s.waitAnswer c x = (.granted buf, s1)) :=
  ⟨0, 0, (withCmd 3).modScr 0 fun x => { x with waits := [{ acq := false, rq := .task 1, limit := 9 }] }, { acq := false, rq := .task 1, limit := 9 }, 0, (((withCmd 3).modScr 0 fun x => { x with waits := [{ acq := false, rq := .task 1, limit := 9 }] }).waitAnswer 0 { acq := false, rq := .task 1, limit := 9 }).2, by decide +kernel⟩

theorem witness_BufferSlots_8 : ∃ (c : Fin 8) (i : Nat) (s : State) (x : SlotWait), ((s.core c).scr.waits[i]? = some x) ∧ (s.coreRuns c) ∧ (x.start + x.limit ≤ s.cycle c) ∧ (x.acq) :=
  ⟨0, 0, (withCmd 3).modScr 0 fun x => { x with waits := [{ acq := true, rq := .task 1 }] }, { acq := true, rq := .task 1 }, by decide +kernel⟩

theorem witness_BufferSlots_9 : ∃ (c : Fin 8) (i : Nat) (s : State) (x : SlotWait), ((s.core c).scr.waits[i]? = some x) ∧ (s.coreRuns c) ∧ (x.start + x.limit ≤ s.cycle c) ∧ (x.acq = false) ∧ (outside c x.rq = false) :=
  ⟨0, 0, (withCmd 3).modScr 0 fun x => { x with waits := [{ acq := false, rq := .task 1 }] }, { acq := false, rq := .task 1 }, by decide +kernel⟩

theorem witness_BufferSlots_10 : ∃ (c : Fin 8) (i : Nat) (s : State) (x : SlotWait), ((s.core c).scr.waits[i]? = some x) ∧ (s.coreRuns c) ∧ (x.start + x.limit ≤ s.cycle c) ∧ (x.acq = false) ∧ (outside c x.rq) :=
  ⟨0, 0, (withCmd 3).modScr 0 fun x => { x with waits := [{ acq := false, rq := .remote 1 0 0 0 }] }, { acq := false, rq := .remote 1 0 0 0 }, by decide +kernel⟩

theorem witness_ControlCommands_1 : ∃ (c : Fin 8) (task : Nat) (s : State) (t : Task) (i : Nat) (w : BitVec 128), (s.cmdReady c task 0x03 = some (t, i, w)) :=
  ⟨0, 1, withCmd 3, task1, 0, 3, by decide +kernel⟩

theorem witness_ControlCommands_2 : ∃ (c : Fin 8) (task : Nat) (s : State) (t : Task) (i : Nat) (w : BitVec 128), (s.cmdReady c task 0x0F = some (t, i, w)) :=
  ⟨0, 1, withCmd 15, task1, 0, 15, by decide +kernel⟩

theorem witness_ControlCommands_3 : ∃ (c : Fin 8) (task : Nat) (s : State) (t : Task) (i : Nat) (w : BitVec 128), (s.cmdReady c task 0x07 = some (t, i, w)) ∧ (s.earlierIssued t i) ∧ (s.taskIdle c t) ∧ (fld w 41 40 = 0) :=
  ⟨0, 1, withCmd 7, task1, 0, 7, by decide +kernel⟩

theorem witness_ControlCommands_4 : ∃ (c : Fin 8) (task : Nat) (s : State) (t : Task) (i : Nat) (w : BitVec 128), (s.cmdReady c task 0x07 = some (t, i, w)) ∧ (s.earlierIssued t i) ∧ (s.taskIdle c t) ∧ (fld w 41 40 ≠ 0) ∧ (fld w 41 40 ≠ 3) ∧ (bit w 42 = false) :=
  ⟨0, 1, withCmd (BitVec.ofNat 128 (7 + 2 ^ 40)), task1, 0, BitVec.ofNat 128 (7 + 2 ^ 40), by decide +kernel⟩

theorem witness_ControlCommands_5 : ∃ (c : Fin 8) (n : Nat) (s : State) (t : Task), ((s.core c).seq.tasks.find? (fun t => t.st = .atBarrier && t.barId = n && t.barScope ≠ 3) = some t) ∧ (s.coreRuns c) ∧ (s.barrierCount n ≤ tabGet 0 s.cas.barArr (s.barrierKey c t.barScope n)) :=
  ⟨0, 0, ((withWords []).modSeq 0 fun q => { q with tasks := [{ task1 with st := .atBarrier, barScope := 1 }] }).modCas fun x => { x with barArr := [((withWords []).barrierKey 0 1 0, 99)] }, { task1 with st := .atBarrier, barScope := 1 }, by decide +kernel⟩

theorem witness_ControlCommands_6 : ∃ (c : Fin 8) (task : Nat) (s : State) (t : Task), (s.findTask c task = some t) ∧ (s.coreRuns c) ∧ (t.st = .atBarrier) ∧ (t.barTick + t.barLimit * 1000000 ≤ s.tick) :=
  ⟨0, 1, live.modSeq 0 fun q => { q with tasks := [{ task1 with st := .atBarrier }] }, { task1 with st := .atBarrier }, by decide +kernel⟩

theorem witness_ControlCommands_7 : ∃ (c : Fin 8) (task : Nat) (s : State) (t : Task) (i : Nat) (w : BitVec 128), (s.cmdReady c task 0x0B = some (t, i, w)) :=
  ⟨0, 1, withCmd 11, task1, 0, 11, by decide +kernel⟩

theorem witness_ControlCommands_8 : ∃ (c : Fin 8) (task : Nat) (s : State) (t : Task), (s.findTask c task = some t) ∧ (s.coreRuns c) ∧ (hdrCycles t.hdr ≤ t.clock) :=
  ⟨0, 1, live.modSeq 0 fun q => { q with tasks := [{ task1 with clock := 1 }] }, { task1 with clock := 1 }, by decide +kernel⟩

theorem witness_ControlCommands_9 : ∃ (c : Fin 8) (task : Nat) (s : State) (t : Task) (i : Nat) (w : BitVec 128), (s.cmdReady c task 0x07 = some (t, i, w)) ∧ (s.earlierIssued t i) ∧ (s.taskIdle c t) ∧ (fld w 41 40 ≠ 0) ∧ (fld w 41 40 ≠ 3) ∧ (bit w 42) :=
  ⟨0, 1, withCmd (BitVec.ofNat 128 (7 + 2 ^ 40 + 2 ^ 42)), task1, 0, BitVec.ofNat 128 (7 + 2 ^ 40 + 2 ^ 42), by decide +kernel⟩

theorem witness_ControlCommands_10 : ∃ (c : Fin 8) (task : Nat) (s : State) (t : Task) (i : Nat) (w : BitVec 128), (s.cmdReady c task 0x07 = some (t, i, w)) ∧ (s.earlierIssued t i) ∧ (s.taskIdle c t) ∧ (fld w 41 40 = 3) ∧ (bit w 42 = false) :=
  ⟨0, 1, withCmd (BitVec.ofNat 128 (7 + 3 * 2 ^ 40)), task1, 0, BitVec.ofNat 128 (7 + 3 * 2 ^ 40), by decide +kernel⟩

theorem witness_ControlCommands_11 : ∃ (c : Fin 8) (task : Nat) (s : State) (t : Task) (i : Nat) (w : BitVec 128), (s.cmdReady c task 0x07 = some (t, i, w)) ∧ (s.earlierIssued t i) ∧ (s.taskIdle c t) ∧ (fld w 41 40 = 3) ∧ (bit w 42) :=
  ⟨0, 1, withCmd (BitVec.ofNat 128 (7 + 7 * 2 ^ 40)), task1, 0, BitVec.ofNat 128 (7 + 7 * 2 ^ 40), by decide +kernel⟩

theorem witness_QueuesAndRings_1 : ∃ (c : Fin 8) (n : Fin 3) (v64 : BitVec 64) (s : State), (s.takesDoorbell (.core c)) ∧ ((v64.truncate 16 - ((s.core c).seq.wqs.get n).head : BitVec 16).toNat ≤ 2 ^ ((s.core c).seq.wqs.get n).log2.toNat) :=
  ⟨0, 0, 1, live, by decide +kernel⟩

theorem witness_QueuesAndRings_2 : ∃ (c : Fin 8) (n : Fin 3) (v64 : BitVec 64) (s : State), (s.takesDoorbell (.core c)) ∧ (2 ^ ((s.core c).seq.wqs.get n).log2.toNat < (v64.truncate 16 - ((s.core c).seq.wqs.get n).head : BitVec 16).toNat) :=
  ⟨0, 0, 60000, live, by decide +kernel⟩

theorem witness_QueuesAndRings_3 : ∃ (c : Fin 8) (n : Fin 3) (v64 : BitVec 64) (s : State), (s.takesWrite (.core c)) ∧ ((s.core c).seq.queueIdle n) :=
  ⟨0, 0, 64, live, by decide +kernel⟩

theorem witness_QueuesAndRings_4 : ∃ (c : Fin 8) (n : Fin 3) (v64 : BitVec 64) (s : State), (s.takesWrite (.core c)) ∧ ((s.core c).seq.queueIdle n) :=
  ⟨0, 0, 5, live, by decide +kernel⟩

theorem witness_QueuesAndRings_5 : ∃ (c : Fin 8) (v64 : BitVec 64) (s : State), (s.takesWrite (.core c)) ∧ ((s.core c).seq.cqHead = (s.core c).seq.cqTail) ∧ ((s.core c).seq.cqHeld = []) :=
  ⟨0, 64, live, by decide +kernel⟩

theorem witness_QueuesAndRings_6 : ∃ (c : Fin 8) (v64 : BitVec 64) (s : State), (s.takesWrite (.core c)) ∧ ((s.core c).seq.cqHead = (s.core c).seq.cqTail) ∧ ((s.core c).seq.cqHeld = []) :=
  ⟨0, 5, live, by decide +kernel⟩

theorem witness_QueuesAndRings_7 : ∃ (c : Fin 8) (head : BitVec 12) (s : State), (s.takesWrite (.core c)) ∧ ((head - (s.core c).seq.cqHead).toNat ≤ ((s.core c).seq.cqTail - (s.core c).seq.cqHead).toNat) :=
  ⟨0, 0, live, by decide +kernel⟩

theorem witness_QueuesAndRings_8 : ∃ (c : Fin 8) (head : BitVec 12) (s : State), (s.takesWrite (.core c)) ∧ (((s.core c).seq.cqTail - (s.core c).seq.cqHead).toNat < (head - (s.core c).seq.cqHead).toNat) :=
  ⟨0, 5, live, by decide +kernel⟩

theorem witness_QueuesAndRings_9 : ∃ (c : Fin 8) (v32 : BitVec 32) (s : State) (t : Task), (s.takesWrite (.core c)) ∧ (bit v32 31) ∧ (bit v32 4 = false) ∧ ((s.core c).seq.haltedAt (fld v32 2 0) = some t) :=
  ⟨0, 0x80000000, live.modSeq 0 fun q => { q with halted := [task1] }, task1, by decide +kernel⟩

theorem witness_QueuesAndRings_10 : ∃ (c : Fin 8) (v32 : BitVec 32) (s : State) (t : Task), (s.takesWrite (.core c)) ∧ (bit v32 31) ∧ (bit v32 4) ∧ ((s.core c).seq.haltedAt (fld v32 2 0) = some t) ∧ (t.epoch = 0) :=
  ⟨0, 0x80000010, live.modSeq 0 fun q => { q with halted := [task1] }, task1, by decide +kernel⟩

theorem witness_TaskAdmission_1 : ∃ (c : Fin 8) (s s1 : State), (s.mayAdmit c) ∧ (s.stepRerun c = some s1) :=
  ⟨0, rerunReady, (rerunReady.stepRerun 0).getD rerunReady, by decide +kernel⟩

theorem witness_TaskAdmission_2 : ∃ (c : Fin 8) (s s1 : State), (s.mayAdmit c) ∧ (s.stepRerun c = none) ∧ (s.stepQueues c = some s1) :=
  ⟨0, admitReady, (admitReady.stepQueues 0).getD admitReady, by decide +kernel⟩

theorem witness_TaskAdmission_3 : ∃ (c : Fin 8) (s : State), (s.mayAdmit c = false) :=
  ⟨0, { live with pwr := { live.pwr with state := 1 } }, by decide +kernel⟩

theorem witness_TaskAdmission_4 : ∃ (c : Fin 8) (task : Nat) (s : State) (t : Task), (s.findTask c task = some t) ∧ (s.coreRuns c) ∧ (t.ended) ∧ (s.taskIdle c t) ∧ (t.clock < hdrCycles t.hdr) ∧ (t.queue ≠ 0) ∧ (t.ceil = 0 ∨ t.epoch ≠ 0) :=
  ⟨0, 1, live.modSeq 0 fun q => { q with tasks := [{ task1 with ended := true, queue := 1 }] }, { task1 with ended := true, queue := 1 }, by decide +kernel⟩

theorem witness_TaskAdmission_5 : ∃ (c : Fin 8) (task : Nat) (s : State) (t : Task), (s.findTask c task = some t) ∧ (s.coreRuns c) ∧ (t.ended) ∧ (s.taskIdle c t) ∧ (t.clock < hdrCycles t.hdr) ∧ (t.queue = 0) ∧ (t.ceil = 0 ∨ t.epoch ≠ 0) :=
  ⟨0, 1, live.modSeq 0 fun q => { q with tasks := [{ task1 with ended := true }] }, { task1 with ended := true }, by decide +kernel⟩

theorem witness_TaskAdmission_6 : ∃ (c : Fin 8) (task : Nat) (s : State) (t : Task), (s.findTask c task = some t) ∧ (s.coreRuns c) ∧ (t.ended) ∧ (s.taskIdle c t) ∧ (hdrCycles t.hdr ≤ t.clock) :=
  ⟨0, 1, live.modSeq 0 fun q => { q with tasks := [{ task1 with ended := true, clock := 1 }] }, { task1 with ended := true, clock := 1 }, by decide +kernel⟩

theorem witness_TaskAdmission_7 : ∃ (c : Fin 8) (q : Fin 4) (s : State) (n m : Nat) (t : Task), (tabGet none (s.core c).seq.specWait q.val = some (n, m)) ∧ (s.coreRuns c) ∧ (n + m * 1000000 ≤ s.tick) ∧ (s.lackingHead c q.val = some t) ∧ ((s.core c).seq.retryQ.all (fun t => t.queue ≠ q.val)) :=
  ⟨0, 0, specStarved, 0, 0, specTask, by decide +kernel⟩

theorem witness_TaskAdmission_8 : ∃ (c : Fin 8) (q : Fin 4) (s : State) (n m : Nat) (t y : Task), (tabGet none (s.core c).seq.specWait q.val = some (n, m)) ∧ (s.coreRuns c) ∧ (n + m * 1000000 ≤ s.tick) ∧ (s.lackingHead c q.val = some t) ∧ ((s.core c).seq.retryQ.find? (fun t => t.queue = q.val) = some y) :=
  ⟨0, 0, specStarved.modSeq 0 fun q => { q with retryQ := [specTask] }, 0, 0, specTask, specTask, by decide +kernel⟩

theorem witness_TaskAdmission_9 : ∃ (c : Fin 8) (task : Nat) (s : State) (t : Task), (s.findTask c task = some t) ∧ (s.coreRuns c) ∧ (t.ended) ∧ (s.taskIdle c t) ∧ (t.clock < hdrCycles t.hdr) ∧ (t.queue ≠ 0) ∧ (t.epoch = 0) ∧ (t.ceil ≠ 0) :=
  ⟨0, 1, live.modSeq 0 fun q => { q with tasks := [{ task1 with ended := true, queue := 1, ceil := 2 }] }, { task1 with ended := true, queue := 1, ceil := 2 }, by decide +kernel⟩

theorem witness_TaskAdmission_10 : ∃ (c : Fin 8) (task : Nat) (s : State) (t : Task), (s.findTask c task = some t) ∧ (s.coreRuns c) ∧ (t.ended) ∧ (s.taskIdle c t) ∧ (t.clock < hdrCycles t.hdr) ∧ (t.queue = 0) ∧ (t.epoch = 0) ∧ (t.ceil ≠ 0) :=
  ⟨0, 1, live.modSeq 0 fun q => { q with tasks := [{ task1 with ended := true, ceil := 2 }] }, { task1 with ended := true, ceil := 2 }, by decide +kernel⟩

theorem witness_SpeculationEpochs_1 : ∃ (c : Fin 8) (v64 : BitVec 64) (s : State), (s.coreLive c) ∧ (tokKind v64 = 1) :=
  ⟨0, 0x10001, live, by decide +kernel⟩

theorem witness_SpeculationEpochs_2 : ∃ (c : Fin 8) (v64 : BitVec 64) (s : State), (s.coreLive c) ∧ (tokKind v64 = 2) :=
  ⟨0, 0x20001, live, by decide +kernel⟩

theorem witness_SpeculationEpochs_3 : ∃ (c : Fin 8) (v64 : BitVec 64) (s : State), (s.coreLive c) ∧ (tokKind v64 = 3) :=
  ⟨0, 0x30001, live, by decide +kernel⟩

theorem witness_SpeculationEpochs_4 : ∃ (c : Fin 8) (v64 : BitVec 64) (s : State), (s.coreLive c = false) :=
  ⟨0, 0, State.reset, by decide +kernel⟩

theorem witness_SpeculationEpochs_6 : ∃ (c : Fin 8) (epoch : BitVec 16) (s : State) (b : Fin 2), ((s.core c).seq.place epoch = some b) ∧ (s.coreRuns c) ∧ (((s.core c).seq.epochs.get b).st = .settling) ∧ (s.epochRuns c epoch = false) ∧ (((s.core c).seq.epochs.get b).rerunLeft = []) ∧ (((s.core c).seq.epochs.get b).rerunOf = 0) ∧ (s.epochQueued c epoch = false) ∧ (s.epochFilled c epoch) ∧ (((s.core c).seq.epochs.get b).ceil = 0) :=
  ⟨0, 5, live.modSeq 0 fun q => { q with epochs := q.epochs.set 0 { id := 5, st := .settling } }, 0, by decide +kernel⟩

theorem witness_SpeculationEpochs_7 : ∃ (c : Fin 8) (epoch : BitVec 16) (s : State) (b : Fin 2), ((s.core c).seq.place epoch = some b) ∧ (s.coreRuns c) ∧ (((s.core c).seq.epochs.get b).st = .discarding) ∧ (s.epochRuns c epoch = false) ∧ (s.epochWrites c epoch = false) :=
  ⟨0, 5, live.modSeq 0 fun q => { q with epochs := q.epochs.set 0 { id := 5, st := .discarding } }, 0, by decide +kernel⟩

theorem witness_SpeculationEpochs_8 : ∃ (c : Fin 8) (epoch : BitVec 16) (s : State) (b : Fin 2), ((s.core c).seq.place epoch = some b) ∧ (s.coreRuns c) ∧ (((s.core c).seq.epochs.get b).st = .settling) ∧ (s.epochRuns c epoch = false) ∧ (((s.core c).seq.epochs.get b).rerunLeft = []) ∧ (((s.core c).seq.epochs.get b).rerunOf = 0) ∧ (s.epochQueued c epoch = false) ∧ (s.epochFilled c epoch) ∧ (((s.core c).seq.epochs.get b).ceil ≠ 0) :=
  ⟨0, 5, live.modSeq 0 fun q => { q with epochs := q.epochs.set 0 { id := 5, st := .settling, ceil := 2 } }, 0, by decide +kernel⟩

theorem witness_StackIngress_1 : ∃ (s : State) (r : StkReq), (r.wellFormed) ∧ ((s.stack (fin32 (stackOf r.addr))).st ≠ .training) ∧ (s.requesterFenced r = false) ∧ (s.crossing r = none) ∧ (s.heldBefore { r with id := s.bridgeNext, acted := none } = false) ∧ (ingressRoom (s.stack (fin32 (stackOf r.addr))).ingress r.cls (bankKey r.addr)) ∧ (s.stackHeld (fin32 (stackOf r.addr)) = false) :=
  ⟨ready, req0, by decide +kernel⟩

theorem witness_StackIngress_2 : ∃ (s : State) (r : StkReq) (h : Fin 2), (r.wellFormed) ∧ ((s.stack (fin32 (stackOf r.addr))).st ≠ .training) ∧ (s.requesterFenced r = false) ∧ (s.crossing r = some h) ∧ ((s.half h).bridgeOpen) ∧ ((s.half h).bridgeQ = []) ∧ ((s.half h).bridgeBytes + r.len ≤ 4096) ∧ (s.heldBefore { r with id := s.bridgeNext, acted := none } = false) ∧ (ingressRoom (s.stack (fin32 (stackOf r.addr))).ingress r.cls (bankKey r.addr)) ∧ (s.stackHeld (fin32 (stackOf r.addr)) = false) :=
  ⟨{ ready with halves := Vector.replicate 2 { up := true, bridgeOpen := true } }, { req0 with cls := 7 }, 0, by decide +kernel⟩

theorem witness_StackIngress_3 : ∃ (s : State) (r : StkReq) (h : Fin 2), (r.wellFormed) ∧ ((s.stack (fin32 (stackOf r.addr))).st ≠ .training) ∧ (s.requesterFenced r = false) ∧ (s.crossing r = some h) ∧ ((s.half h).bridgeOpen) ∧ ((s.half h).bridgeQ ≠ [] ∨ 4096 < (s.half h).bridgeBytes + r.len ∨ s.heldBefore { r with id := s.bridgeNext, acted := none }) ∧ (s.stackHeld (fin32 (stackOf r.addr)) = false) :=
  ⟨ready.modHalf 1 fun h => { h with bridgeOpen := true, bridgeBytes := 4096 }, reqAcross, 1, by decide +kernel⟩

theorem witness_StackIngress_4 : ∃ (s : State) (r : StkReq), (r.wellFormed = false ∨ s.requesterFenced r ∨ s.stackHeld (fin32 (stackOf r.addr))) :=
  ⟨ready, { req0 with len := 0 }, by decide +kernel⟩

theorem witness_StackIngress_5 : ∃ (k : Fin 32) (s : State) (r : StkReq), (s.stackFenced k = false) ∧ ((match (s.stack k).ingress.find? (fun r => r.promoted && (s.stack k).admissible r && (s.stack k).inOrder r) with | some r => some r | none => (s.stack k).ingress.find? fun r => (s.stack k).admissible r && (s.stack k).inOrder r) = some r) ∧ ((s.stack k).slots.length < 512) ∧ ((s.stack k).st = .ready) ∧ ((s.stack k).stopped = none) ∧ (s.stackHeld k = false) :=
  ⟨0, ready.modStack 0 fun y => { y with ingress := [req0] }, req0, by decide +kernel⟩

theorem witness_StackIngress_6 : ∃ (k : Fin 32) (s : State) (r : StkReq), (s.stackFenced k) ∧ (((s.stack k).ingress.find? fun q => (s.stack k).inOrder q && !((s.stack k).slots.any fun y => overlaps y q)) = some r) ∧ (s.stackHeld k = false) :=
  ⟨0, (ready.modStack 0 fun y => { y with ingress := [req0] }).modGlb fun g => { g with fencedStacks := 1 }, req0, by decide +kernel⟩

theorem witness_StackIngress_7 : ∃ (k : Fin 32) (n : Nat) (s : State), ((s.stack k).ingress.any (fun r => r.id = n && !r.promoted && decide (r.enter + 2000 ≤ s.tick)) || (s.stack k).slots.any fun r => r.id = n && !r.promoted && decide (r.enter + 2000 ≤ s.tick)) ∧ (s.stackHeld k = false) :=
  ⟨0, 0, { (ready.modStack 0 fun y => { y with ingress := [req0] }) with tick := 2000 }, by decide +kernel⟩

theorem witness_StackIngress_8 : ∃ (k : Fin 32) (n : Nat) (upset : Option SectorUpset) (s : State) (r : StkReq), ((s.stack k).slots.find? (fun r => r.id = n) = some r) ∧ (r.kind ≠ .pannier) ∧ (((s.stack k).nextOf (bankKey r.addr)).map (·.id) = some n) ∧ (s.stackHeld k = false) :=
  ⟨0, 0, none, ready.modStack 0 fun y => { y with slots := [req0] }, req0, by decide +kernel⟩

theorem witness_StackIngress_9 : ∃ (k : Fin 32) (n : Nat) (s : State) (r : StkReq), ((s.stack k).slots.find? (fun r => r.id = n) = some r) ∧ (r.kind = .pannier) ∧ (((s.stack k).nextOf (bankKey r.addr)).map (·.id) = some n) ∧ (s.stackHeld k = false) :=
  ⟨0, 0, ready.modStack 0 fun y => { y with slots := [{ req0 with kind := .pannier }] }, { req0 with kind := .pannier }, by decide +kernel⟩

theorem witness_StackIngress_10 : ∃ (k : Fin 32) (n : Nat) (upset : Option SectorUpset) (s : State), (s.stackHeld k) :=
  ⟨0, 0, none, ready.modPwr fun p => { p with tripped := true }, by decide +kernel⟩

theorem witness_StackUpkeep_1 : ∃ (k : Fin 32) (ch bk : Nat) (s : State), (ch < 16) ∧ (bk < 32) ∧ ((s.stack k).selfRefresh = false) ∧ (0 < tabGet 0 (s.stack k).ahead (ch * 32 + bk)) ∧ (s.stackHeld k = false) :=
  ⟨0, 0, 0, ready.modStack 0 fun y => { y with ahead := [(0, 2)] }, by decide +kernel⟩

theorem witness_StackUpkeep_2 : ∃ (k : Fin 32) (ch bk : Nat) (s : State), (ch < 16) ∧ (bk < 32) ∧ ((s.stack k).selfRefresh = false) ∧ (s.stackHeld k = false) ∧ (tabGet 0 (s.stack k).ahead (ch * 32 + bk) = 0) ∧ ((s.stack k).copying (ch * 32 + bk) = false) ∧ ((s.stack k).bankUse (ch * 32 + bk) = 0) :=
  ⟨0, 0, 0, ready, by decide +kernel⟩

theorem witness_StackUpkeep_3 : ∃ (k : Fin 32) (ch bk : Nat) (s : State), (ch < 16) ∧ (bk < 32) ∧ ((s.stack k).selfRefresh = false) ∧ (s.stackHeld k = false) ∧ (tabGet 0 (s.stack k).ahead (ch * 32 + bk) = 0) ∧ ((s.stack k).copying (ch * 32 + bk)) ∧ (tabGet 0 (s.stack k).owed (ch * 32 + bk) < 8) :=
  ⟨0, 0, 0, ready.modStack 0 fun y => { y with copies := [0] }, by decide +kernel⟩

theorem witness_StackUpkeep_4 : ∃ (k : Fin 32) (ch bk : Nat) (s : State), (ch < 16) ∧ (bk < 32) ∧ ((s.stack k).selfRefresh = false) ∧ (s.stackHeld k = false) ∧ ((s.stack k).copying (ch * 32 + bk) = false) ∧ ((s.stack k).bankUse (ch * 32 + bk) = 0) ∧ (0 < tabGet 0 (s.stack k).owed (ch * 32 + bk)) :=
  ⟨0, 0, 0, ready.modStack 0 fun y => { y with owed := [(0, 1)] }, by decide +kernel⟩

theorem witness_StackUpkeep_5 : ∃ (k : Fin 32) (ch bk : Nat) (s : State), (ch < 16) ∧ (bk < 32) ∧ ((s.stack k).selfRefresh = false) ∧ (s.stackHeld k = false) ∧ ((s.stack k).copying (ch * 32 + bk) = false) ∧ ((s.stack k).bankUse (ch * 32 + bk) = 0) ∧ (tabGet 0 (s.stack k).owed (ch * 32 + bk) = 0) ∧ (tabGet 0 (s.stack k).ahead (ch * 32 + bk) < 8) :=
  ⟨0, 0, 0, ready, by decide +kernel⟩

theorem witness_StackUpkeep_6 : ∃ (k : Fin 32) (ch bk : Nat) (d : RefreshKind) (s : State), (s.stackHeld k ∨ (s.stack k).selfRefresh ∨ 16 ≤ ch ∨ 32 ≤ bk) :=
  ⟨0, 16, 0, .due, ready, by decide +kernel⟩

theorem witness_StackUpkeep_7 : ∃ (k : Fin 32) (ch bk : Nat) (s : State), (ch < 16) ∧ (bk < 32) ∧ ((s.stack k).selfRefresh = false) ∧ (0 < (s.stack k).bankUse (ch * 32 + bk) ∨ (s.stack k).copying (ch * 32 + bk)) ∧ (tabGet 0 (s.stack k).owed (ch * 32 + bk) < 8) ∧ (s.stackHeld k = false) :=
  ⟨0, 0, 0, ready.modStack 0 fun y => { y with slots := [req0] }, by decide +kernel⟩

theorem witness_StackUpkeep_8 : ∃ (k : Fin 32) (ch bk : Nat) (s : State), (ch < 16) ∧ (bk < 32) ∧ ((s.stack k).selfRefresh = false) ∧ ((s.stack k).copying (ch * 32 + bk) = false) ∧ (tabGet 0 (s.stack k).owed (ch * 32 + bk) = 8) ∧ (s.stackHeld k = false) :=
  ⟨0, 0, 0, ready.modStack 0 fun y => { y with owed := [(0, 8)] }, by decide +kernel⟩

theorem witness_StackUpkeep_9 : ∃ (k : Fin 32) (s : State), ((s.stack k).st = .ready) ∧ ((s.stack k).copying ((s.stack k).patrolPos / 64 / 65536) = false) ∧ (s.stackHeld k = false) :=
  ⟨0, ready, by decide +kernel⟩

theorem witness_StackUpkeep_10 : ∃ (k : Fin 32) (s : State) (n : Nat), ((s.stack k).nextCopy = some n) ∧ ((s.stack k).st = .ready) ∧ ((s.stack k).copies.length < 16) ∧ (((s.stack k).freeSpare (n / 65536)).isSome) ∧ (s.stackHeld k = false) :=
  ⟨0, ready.modStack 0 fun y => { y with copyQ := [7] }, 7, by decide +kernel⟩

theorem witness_StackUpkeep_11 : ∃ (k : Fin 32) (s : State) (n : Nat), ((s.stack k).nextCopy = some n) ∧ ((s.stack k).st = .ready) ∧ ((s.stack k).copies.length < 16) ∧ ((s.stack k).freeSpare (n / 65536) = none) ∧ (s.stackHeld k = false) :=
  ⟨0, ready.modStack 0 fun y => { y with copyQ := [7], spareUsed := [(0, 64)] }, 7, by decide +kernel⟩

theorem witness_StackUpkeep_12 : ∃ (k : Fin 32) (n : Nat) (s : State) (i : Nat), ((s.stack k).freeSpare (n / 65536) = some i) ∧ ((s.stack k).copies.contains n) ∧ (s.stackHeld k = false) :=
  ⟨0, 7, ready.modStack 0 fun y => { y with copies := [7] }, 0, by decide +kernel⟩

theorem witness_StackUpkeep_13 : ∃ (k : Fin 32) (page : BitVec 24) (s : State), (s.takesWrite (.half (stackHalf k))) ∧ ((s.stack k).retiring.any fun y => y.1 = page.toNat) :=
  ⟨0, 3, ready.modStack 0 fun y => { y with retiring := [(3, 0)] }, by decide +kernel⟩

theorem witness_StackUpkeep_14 : ∃ (k : Fin 32) (page : BitVec 24) (s : State), (s.takesWrite (.half (stackHalf k))) ∧ ((s.stack k).retiring.all fun y => y.1 ≠ page.toNat) :=
  ⟨0, 3, ready, by decide +kernel⟩

theorem witness_StackUpkeep_15 : ∃ (k : Fin 32) (v64 : BitVec 64) (s : State), (s.takesWrite (.half (stackHalf k))) ∧ (s.oz.debugOpen) ∧ (bit v64 63) :=
  ⟨0, 0x8000000000000000, live.modOz fun o => { o with debugOpen := true }, by decide +kernel⟩

theorem witness_StackUpkeep_16 : ∃ (k : Fin 32) (v64 : BitVec 64) (s : State), (s.takesWrite (.half (stackHalf k))) ∧ ((s.oz.debugOpen && bit v64 63) = false) :=
  ⟨0, 0x8000000000000000, live, by decide +kernel⟩

theorem witness_StackUpkeep_17 : ∃ (k : Fin 32) (n : Nat) (s : State), (s.stackFenced k = false) ∧ ((s.stack k).stopped = none) :=
  ⟨3, 7, { ready with oz := State.reset.oz }, by decide +kernel⟩

theorem witness_StackUpkeep_18 : ∃ (k : Fin 32) (n : Nat) (s : State), (s.stackFenced k ∨ (s.stack k).stopped ≠ none) :=
  ⟨3, 7, ready.modStack 3 fun x => { x with stopped := some 1 }, by decide +kernel⟩

theorem witness_StackUpkeep_19 : ∃ (k : Fin 32) (code : BitVec 16) (s : State), (s.decidesFences) ∧ (stackFenceCauses.contains code) :=
  ⟨3, 0x0505, ready, by decide +kernel⟩

theorem witness_StackUpkeep_20 : ∃ (k : Fin 32) (code : BitVec 16) (s : State), (stackFenceCauses.contains code = false) :=
  ⟨3, 0x0D01, ready, by decide +kernel⟩

theorem witness_StackUpkeep_21 : ∃ (k : Fin 32) (ch bk : Nat) (s : State), (ch < 16) ∧ (bk < 32) ∧ ((s.stack k).selfRefresh = false) ∧ (s.stackHeld k = false) ∧ (tabGet 0 (s.stack k).ahead (ch * 32 + bk) = 0) ∧ ((s.stack k).copying (ch * 32 + bk) = false) ∧ (0 < (s.stack k).bankUse (ch * 32 + bk)) :=
  ⟨0, 0, 0, ready.modStack 0 fun k => { k with slots := [req0] }, by decide +kernel⟩

theorem witness_SharesAndUnits_1 : ∃ (n : BitVec 32) (s : State) (x : Bucket) (buf : Nat) (s1 : State), (s.bucket n.toNat = some x) ∧ (s.red.senders.all fun y => y.bucket ≠ n) ∧ (s.stewardUp x.half) ∧ (s.coreRuns (s.srcSlot x).1) ∧ (s.ask (s.srcSlot x).1 { acq := true, slot := (s.srcSlot x).2, rq := .sender x.id } = (.granted buf, s1)) :=
  ⟨0, redFull, bucketOf bkt0, 0, (redFull.tryAcquire 0 0 0 false).2, by decide +kernel⟩

theorem witness_SharesAndUnits_2 : ∃ (n : BitVec 32) (s : State) (x : Bucket) (y : Share) (e : Option (BitVec 16)) (s2 : State), (s.bucket n.toNat = some x) ∧ (s.share n.toNat = some y) ∧ (y.st = .opening) ∧ (s.red.shares.all fun z => z.bucket = n || z.st = .opening || (match s.bucket z.bucket.toNat with | some c => !regionsMeet x c | none => true)) ∧ (s.stewardUp x.half) ∧ (s.checkExtent x.anchorBase (16 + 4 * x.blocks) = (e, s2)) :=
  ⟨0, redReady.modRed fun r => { r with shares := [{}] }, bucketOf bkt0, {}, none, (redReady.modRed fun r => { r with shares := [{}] }), by decide +kernel⟩

theorem witness_SharesAndUnits_3 : ∃ (pt : Fin 18) (hdr : BitVec 128) (bs : List (BitVec 8)) (n : Nat) (s : State) (x : Bucket) (y : Share), (s.bucket (unitHdr hdr).bucket = some x) ∧ (s.unitExpected x (unitHdr hdr)) ∧ (bs.length = 512 * redBytes x.cfmt) ∧ (s.stewardUp x.half) ∧ (s.swapRunning = false) ∧ ((unitHdr hdr).step = s.red.step.toNat) ∧ (s.red.finished.all fun f => f.1 ≠ x.id) ∧ (s.share x.id = some y) ∧ (y.st ≠ .opening) :=
  ⟨0, 0, List.replicate 2048 0, 0, redReady.modRed fun r => { r with shares := [{ st := .collecting }] }, bucketOf bkt0, { st := .collecting }, by decide +kernel⟩

theorem witness_SharesAndUnits_4 : ∃ (pt : Fin 18) (hdr : BitVec 128) (bs : List (BitVec 8)) (n : Nat) (s : State) (x : Bucket), (s.bucket (unitHdr hdr).bucket = some x) ∧ (s.unitExpected x (unitHdr hdr)) ∧ (bs.length = 512 * redBytes x.cfmt) ∧ (s.stewardUp x.half) ∧ (s.swapRunning = false) ∧ ((unitHdr hdr).step ≠ s.red.step.toNat) :=
  ⟨0, 0, List.replicate 2048 0, 0, redReady.modRed fun r => { r with step := 3 }, bucketOf bkt0, by decide +kernel⟩

theorem witness_SharesAndUnits_5 : ∃ (pt : Fin 18) (hdr : BitVec 128) (bs : List (BitVec 8)) (n : Nat) (s : State), (s.bucket (unitHdr hdr).bucket = none) :=
  ⟨0, 0, [], 0, live, by decide +kernel⟩

theorem witness_SharesAndUnits_6 : ∃ (n : BitVec 32) (s : State) (x : Bucket) (y : Share), (s.bucket n.toNat = some x) ∧ (s.share n.toNat = some y) ∧ (y.st = .collecting) ∧ (s.timeTrusted) ∧ (s.red.deadline x ≤ s.tick) :=
  ⟨0, (redReady.modRed fun r => { r with shares := [{ st := .collecting }] }).modCas fun c => { c with locked := true }, bucketOf bkt0, { st := .collecting }, by decide +kernel⟩

theorem witness_RecordsAndResults_1 : ∃ (pt : Fin 18) (src : BitVec 13) (bs : List (BitVec 8)) (s : State) (r : Rec) (x : Bucket) (y : Share), (parseRecord bs = some (r, [])) ∧ (s.bucket r.bucket.toNat = some x) ∧ (s.stewardUp x.half) ∧ (s.swapRunning = false) ∧ (r.step = s.red.step) ∧ (s.red.finished.all fun f => f.1 ≠ r.bucket.toNat) ∧ (s.share r.bucket.toNat = some y) ∧ (y.st ≠ .opening) ∧ (y.round = r.round) ∧ ((s.viaTree x && s.combinePorts.contains pt && decide (256 ≤ (s.port pt).bridge.length)) = false) ∧ (s.waitExpired x y = false) :=
  ⟨0, 0, rec0, redReady.modRed fun r => { r with shares := [{ st := .collecting }] }, { bucket := 0, step := 0, block := 0, round := 0, rime := 0, anchor := 0, m := mOf 0, chans := 0, lanes := List.replicate 528 0 }, bucketOf bkt0, { st := .collecting }, by decide +kernel⟩

theorem witness_RecordsAndResults_2 : ∃ (pt : Fin 18) (src : BitVec 13) (bs : List (BitVec 8)) (s : State) (r : Rec) (x : Bucket) (y : Share), (parseRecord bs = some (r, [])) ∧ (s.bucket r.bucket.toNat = some x) ∧ (s.stewardUp x.half) ∧ (s.swapRunning = false) ∧ (r.step = s.red.step) ∧ (s.red.finished.all fun f => f.1 ≠ r.bucket.toNat) ∧ (s.share r.bucket.toNat = some y) ∧ (y.st ≠ .opening) ∧ (y.round = r.round) ∧ ((s.viaTree x && s.combinePorts.contains pt && decide (256 ≤ (s.port pt).bridge.length)) = false) ∧ (s.waitExpired x y) :=
  ⟨0, 0, rec0, redReady.modRed fun r => { r with shares := [{ st := .rerunning, expected := [(0, 0)] }] }, { bucket := 0, step := 0, block := 0, round := 0, rime := 0, anchor := 0, m := mOf 0, chans := 0, lanes := List.replicate 528 0 }, bucketOf bkt0, { st := .rerunning, expected := [(0, 0)] }, by decide +kernel⟩

theorem witness_RecordsAndResults_3 : ∃ (pt : Fin 18) (src : BitVec 13) (bs : List (BitVec 8)) (s : State), (parseRecord bs = none) :=
  ⟨0, 0, [], live, by decide +kernel⟩

theorem witness_RecordsAndResults_4 : ∃ (pt : Fin 18) (src : BitVec 13) (bs : List (BitVec 8)) (s : State) (r : Rec) (x : Bucket), (parseRecord bs = some (r, [])) ∧ (s.bucket r.bucket.toNat = some x) ∧ (s.stewardUp x.half) ∧ (s.swapRunning = false) ∧ (r.step ≠ s.red.step ∨ (s.red.finished.any fun f => f.1 = r.bucket.toNat)) :=
  ⟨0, 0, rec0, redReady.modRed fun r => { r with step := 5 }, { bucket := 0, step := 0, block := 0, round := 0, rime := 0, anchor := 0, m := mOf 0, chans := 0, lanes := List.replicate 528 0 }, bucketOf bkt0, by decide +kernel⟩

theorem witness_RecordsAndResults_5 : ∃ (pt : Fin 18) (src : BitVec 13) (bs : List (BitVec 8)) (s : State) (r : Rec), (parseRecord bs = some (r, [])) ∧ (s.bucket r.bucket.toNat = none) :=
  ⟨0, 0, rec0, live, { bucket := 0, step := 0, block := 0, round := 0, rime := 0, anchor := 0, m := mOf 0, chans := 0, lanes := List.replicate 528 0 }, by decide +kernel⟩

theorem witness_RecordsAndResults_6 : ∃ (pt : Fin 18) (src : BitVec 13) (bs : List (BitVec 8)) (s : State) (r : Rec) (x : Bucket), (parseRecord bs = some (r, [])) ∧ (s.bucket r.bucket.toNat = some x) ∧ (s.stewardUp x.half) ∧ (s.swapRunning = false) ∧ (r.step = s.red.step) ∧ (s.red.finished.all fun f => f.1 ≠ r.bucket.toNat) ∧ (s.share r.bucket.toNat = none) :=
  ⟨0, 0, rec0, redReady, { bucket := 0, step := 0, block := 0, round := 0, rime := 0, anchor := 0, m := mOf 0, chans := 0, lanes := List.replicate 528 0 }, bucketOf bkt0, by decide +kernel⟩

theorem witness_RecordsAndResults_7 : ∃ (pt : Fin 18) (src : BitVec 13) (bs : List (BitVec 8)) (s : State) (r : Rec) (x : Bucket) (y : Share), (parseRecord bs = some (r, [])) ∧ (s.bucket r.bucket.toNat = some x) ∧ (s.stewardUp x.half) ∧ (s.swapRunning = false) ∧ (r.step = s.red.step) ∧ (s.red.finished.all fun f => f.1 ≠ r.bucket.toNat) ∧ (s.share r.bucket.toNat = some y) ∧ (y.st ≠ .opening) ∧ (r.round < y.round) ∧ ((s.viaTree x && s.combinePorts.contains pt && decide (256 ≤ (s.port pt).bridge.length)) = false) :=
  ⟨0, 0, rec0, redReady.modRed fun r => { r with shares := [{ st := .rerunning, round := 1 }] }, { bucket := 0, step := 0, block := 0, round := 0, rime := 0, anchor := 0, m := mOf 0, chans := 0, lanes := List.replicate 528 0 }, bucketOf bkt0, { st := .rerunning, round := 1 }, by decide +kernel⟩

theorem witness_RecordsAndResults_8 : ∃ (pt : Fin 18) (src : BitVec 13) (bs : List (BitVec 8)) (s : State) (r : Rec) (x : Bucket) (y : Share), (parseRecord bs = some (r, [])) ∧ (s.bucket r.bucket.toNat = some x) ∧ (s.stewardUp x.half) ∧ (s.swapRunning = false) ∧ (r.step = s.red.step) ∧ (s.red.finished.all fun f => f.1 ≠ r.bucket.toNat) ∧ (s.share r.bucket.toNat = some y) ∧ (y.st = .opening ∨ y.round < r.round ∨ (s.viaTree x && s.combinePorts.contains pt && decide (256 ≤ (s.port pt).bridge.length))) :=
  ⟨0, 0, rec0, redReady.modRed fun r => { r with shares := [{}] }, { bucket := 0, step := 0, block := 0, round := 0, rime := 0, anchor := 0, m := mOf 0, chans := 0, lanes := List.replicate 528 0 }, bucketOf bkt0, {}, by decide +kernel⟩

theorem witness_RecordsAndResults_9 : ∃ (n : BitVec 32) (s : State) (x : Bucket) (y : Share), (s.bucket n.toNat = some x) ∧ (s.share n.toNat = some y) ∧ (s.waitExpired x y) :=
  ⟨0, redReady.modRed fun r => { r with shares := [{ st := .rerunning, expected := [(0, 0)] }] }, bucketOf bkt0, { st := .rerunning, expected := [(0, 0)] }, by decide +kernel⟩

theorem witness_RecordsAndResults_10 : ∃ (n : BitVec 32) (s : State) (x : Bucket) (y : Share) (l : List (Fin 8 × Nat × Nat)) (s1 s0 s2 s3 : State), (s.bucket n.toNat = some x) ∧ (s.share n.toNat = some y) ∧ (y.st = .finishing) ∧ (s.stewardUp x.half) ∧ (s.checkGates x = (none, s0)) ∧ (s0.unreadBlocks x.localBase (List.range x.blocks) = ([], s2)) ∧ (s2.unreadBlocks x.treeBase (List.range x.blocks) = ([], s3)) ∧ (((List.range x.blocks).map (s3.blockSum x)).all fun z => z.ok && decide (0 < z.count)) ∧ (s3.overBlocks x = []) ∧ (s3.claimResults x x.cores = (.ok l, s1)) :=
  ⟨0, finReady, bucketOf bktE, { st := .finishing }, [], finReady, finReady, finReady, finReady, by decide +kernel, by decide +kernel, by decide +kernel, by decide +kernel, rfl, rfl, rfl, by decide +kernel, by decide +kernel, rfl⟩

theorem witness_RecordsAndResults_11 : ∃ (n : BitVec 32) (s : State) (x : Bucket) (y : Share) (e : BitVec 16) (s1 : State), (s.bucket n.toNat = some x) ∧ (s.share n.toNat = some y) ∧ (y.st = .finishing) ∧ (s.stewardUp x.half) ∧ (s.checkGates x = (some e, s1)) :=
  ⟨0, finShut, bucketOf bkt0, { st := .finishing }, 0x0507, (finShut.checkGates (bucketOf bkt0)).2, by decide +kernel, by decide +kernel, by decide +kernel, by decide +kernel, Prod.ext (by decide +kernel) rfl⟩

theorem witness_RecordsAndResults_12 : ∃ (m : MsgHead) (n : BitVec 32) (share : Fin 256) (s s1 : State), (s.acceptId m.port m.src m.id vcCtrl = (true, s1)) :=
  ⟨msg1, 0, 0, live, live.modCas fun c => { c with msgRx := tabSet 0 c.msgRx 6 1 }, by decide +kernel⟩

theorem witness_RecordsAndResults_13 : ∃ (m : MsgHead) (n : BitVec 32) (share : Fin 256) (s s1 : State), (s.acceptId m.port m.src m.id vcCtrl = (true, s1)) :=
  ⟨msg1, 0, 0, live, live.modCas fun c => { c with msgRx := tabSet 0 c.msgRx 6 1 }, by decide +kernel⟩

theorem witness_RecordsAndResults_14 : ∃ (h : Fin 2) (s : State), (s.takesWrite (.half h)) ∧ ((s.half h).fpBusy = false) ∧ ((s.half h).fpSrc.toNat % 65536 = 0) ∧ ((s.half h).fpLen.toNat % 65536 = 0) ∧ (addrHalf (s.half h).fpSrc.toNat = h) ∧ ((s.half h).fpLen.toNat = 0 ∨ addrHalf ((s.half h).fpSrc.toNat + (s.half h).fpLen.toNat - 1) = h) :=
  ⟨0, live, by decide +kernel⟩

theorem witness_RecordsAndResults_15 : ∃ (h : Fin 2) (s : State), (s.takesWrite (.half h)) ∧ ((s.half h).fpBusy) :=
  ⟨0, live.modHalf 0 fun x => { x with fpBusy := true }, by decide +kernel⟩

theorem witness_RecordsAndResults_16 : ∃ (h : Fin 2) (s : State), ((s.half h).fpBusy) ∧ (s.stewardUp h) :=
  ⟨0, live.modHalf 0 fun x => { x with fpBusy := true }, by decide +kernel⟩

theorem witness_ReductionOrders_1 : ∃ (m : MsgHead) (n : BitVec 32) (ranks : List Nat) (s s1 s2 s3 : State) (x : Bucket) (y : Share), (s.acceptId m.port m.src m.id vcCtrl = (true, s1)) ∧ (s1.acceptTerm m.term = (true, s2)) ∧ (s2.bucket n.toNat = some x) ∧ (s2.share n.toNat = some y) ∧ (y.st = .collecting ∨ y.st = .rerunning) ∧ (x.nfPolicy = 1) ∧ (y.exclSet = false) ∧ (s2.checkGates x = (none, s3)) :=
  ⟨msg1, 0, [0], exclReady, (exclReady.acceptId 0 1 1 vcCtrl).2, ((exclReady.acceptId 0 1 1 vcCtrl).2.acceptTerm 0).2, (((exclReady.acceptId 0 1 1 vcCtrl).2.acceptTerm 0).2.checkGates (bucketOf bktX)).2, bucketOf bktX, { st := .collecting }, by decide +kernel, by decide +kernel, by decide +kernel, by decide +kernel, by decide +kernel, by decide +kernel, by decide +kernel, Prod.ext (by decide +kernel) rfl⟩

theorem witness_ReductionOrders_2 : ∃ (m : MsgHead) (n : BitVec 32) (ranks : List Nat) (s s1 s2 s3 : State) (x : Bucket) (y : Share) (e : BitVec 16), (s.acceptId m.port m.src m.id vcCtrl = (true, s1)) ∧ (s1.acceptTerm m.term = (true, s2)) ∧ (s2.bucket n.toNat = some x) ∧ (s2.share n.toNat = some y) ∧ (y.st = .collecting ∨ y.st = .rerunning) ∧ (x.nfPolicy = 1) ∧ (y.exclSet = false) ∧ (s2.checkGates x = (some e, s3)) :=
  ⟨msg1, 0, [0], exclShut, (exclShut.acceptId 0 1 1 vcCtrl).2, ((exclShut.acceptId 0 1 1 vcCtrl).2.acceptTerm 0).2, (((exclShut.acceptId 0 1 1 vcCtrl).2.acceptTerm 0).2.checkGates (bucketOf bktX)).2, bucketOf bktX, { st := .collecting }, 0x0507, by decide +kernel, by decide +kernel, by decide +kernel, by decide +kernel, by decide +kernel, by decide +kernel, by decide +kernel, Prod.ext (by decide +kernel) rfl⟩

theorem witness_ReductionOrders_3 : ∃ (m : MsgHead) (n : BitVec 32) (share : Fin 256) (blocks : List Nat) (s s1 : State), (s.acceptId m.port m.src m.id vcCtrl = (true, s1)) :=
  ⟨msg1, 0, 0, [], live, live.modCas fun c => { c with msgRx := tabSet 0 c.msgRx 6 1 }, by decide +kernel⟩

theorem witness_ReductionOrders_4 : ∃ (m : MsgHead) (n : BitVec 32) (share : Fin 256) (blocks : List Nat) (s s1 : State), (s.acceptId m.port m.src m.id vcCtrl = (true, s1)) :=
  ⟨msg1, 0, 0, [], live, live.modCas fun c => { c with msgRx := tabSet 0 c.msgRx 6 1 }, by decide +kernel⟩

theorem witness_ReductionOrders_5 : ∃ (m : MsgHead) (n : BitVec 32) (anchors : List (Nat × Int)) (s s1 s2 s0 : State) (x : Bucket) (y : Share), (s.acceptId m.port m.src m.id vcCtrl = (true, s1)) ∧ (s1.acceptTerm m.term = (true, s2)) ∧ (s2.bucket n.toNat = some x) ∧ (s2.share n.toNat = some y) ∧ (y.st ≠ .opening) ∧ (y.round = 0) ∧ (s2.checkGates x = (none, s0)) :=
  ⟨msg1, 0, [], exclReady, (exclReady.acceptId 0 1 1 vcCtrl).2, ((exclReady.acceptId 0 1 1 vcCtrl).2.acceptTerm 0).2, ((exclReady.acceptId 0 1 1 vcCtrl).2.acceptTerm 0).2, bucketOf bktX, { st := .collecting }, by decide +kernel⟩

theorem witness_ReductionOrders_6 : ∃ (m : MsgHead) (n : BitVec 32) (anchors : List (Nat × Int)) (s s1 s2 : State) (x : Bucket) (y : Share), (s.acceptId m.port m.src m.id vcCtrl = (true, s1)) ∧ (s1.acceptTerm m.term = (true, s2)) ∧ (s2.bucket n.toNat = some x) ∧ (s2.share n.toNat = some y) ∧ (y.st = .opening) :=
  ⟨msg1, 0, [(0, 2)], redReady.modRed fun r => { r with shares := [{ st := .opening }] }, ((redReady.modRed fun r => { r with shares := [{ st := .opening }] }).acceptId 0 1 1 vcCtrl).2, (((redReady.modRed fun r => { r with shares := [{ st := .opening }] }).acceptId 0 1 1 vcCtrl).2.acceptTerm 0).2, bucketOf bkt0, { st := .opening }, by decide +kernel⟩

theorem witness_ReductionOrders_7 : ∃ (m : MsgHead) (n : BitVec 32) (ranks : List Nat) (s s1 : State), (s.acceptId m.port m.src m.id vcCtrl = (false, s1)) :=
  ⟨{ msg1 with id := 0 }, 0, [], live, (live.acceptId 0 1 0 vcCtrl).2, by decide +kernel⟩

theorem witness_ReportsToTheMaster_1 : ∃ (m : MsgHead) (n : BitVec 32) (channel share : Nat) (ranks : List Nat) (s s1 : State), (s.cas.role = .deputy) ∧ (s.holdsReports) ∧ (s.acceptId m.port m.src m.id vcCtrl = (true, s1)) ∧ (s1.isMaster = false) :=
  ⟨msg1, 0, 0, 0, [], deputy, (deputy.acceptId 0 1 1 vcCtrl).2, by decide +kernel⟩

theorem witness_ReportsToTheMaster_2 : ∃ (m : MsgHead) (n : BitVec 32) (share : Fin 256) (blocks : List (Nat × Option Int)) (s s1 : State), (s.cas.role = .deputy) ∧ (s.holdsReports) ∧ (s.acceptId m.port m.src m.id vcCtrl = (true, s1)) ∧ (s1.isMaster = false) :=
  ⟨msg1, 0, 0, [], deputy, (deputy.acceptId 0 1 1 vcCtrl).2, by decide +kernel⟩

theorem witness_ReportsToTheMaster_3 : ∃ (m : MsgHead) (n : BitVec 32) (share : Fin 256) (blocks : List (Nat × Option Int)) (s s1 : State), (s.isMaster) ∧ (s.acceptId m.port m.src m.id vcCtrl = (true, s1)) :=
  ⟨msg1, 0, 0, [], master, (master.acceptId 0 1 1 vcCtrl).2, by decide +kernel⟩

theorem witness_ReportsToTheMaster_4 : ∃ (m : MsgHead) (n : BitVec 32) (flags : BitVec 3) (lanes : List Int) (rime : BitVec 16) (amax : List (Nat × Int)) (fails : List (Nat × Nat)) (s s1 : State), (s.holdsReports) ∧ (s.acceptId m.port m.src m.id vcCtrl = (true, s1)) ∧ (n = s1.cas.mst.step) ∧ (s1.stepBegun = false ∨ s1.tick < s1.lastDeadline + 100000000) ∧ (s1.cas.mst.dones.all fun d => d.module ≠ m.src) :=
  ⟨msg1, 0, 0, [], 0, [], [], master, (master.acceptId 0 1 1 vcCtrl).2, by decide +kernel⟩

theorem witness_ReportsToTheMaster_5 : ∃ (s : State), (s.isMaster) ∧ (s.cas.mst.placed) ∧ ((s.cas.mst.decided || s.cas.mst.evalHold || s.cas.mst.stopped) = false) ∧ (s.allDone) :=
  ⟨master.modMst fun m => { m with placed := true, dones := [{ module := 0 }] }, by decide +kernel⟩

theorem witness_ReportsToTheMaster_6 : ∃ (s : State), (s.isMaster) ∧ (s.cas.mst.placed) ∧ ((s.cas.mst.decided || s.cas.mst.evalHold || s.cas.mst.stopped) = false) ∧ (s.allDone = false) ∧ (s.lastDeadline + 100000000 ≤ s.tick) :=
  ⟨{ (master2.modMst fun m => { m with placed := true }) with tick := 200000000 }, by decide +kernel⟩

theorem witness_ReportsToTheMaster_7 : ∃ (m : MsgHead) (n : BitVec 32) (s s1 : State), (s.holdsReports) ∧ (s.acceptId m.port m.src m.id vcCtrl = (true, s1)) ∧ (n = s1.cas.mst.step) :=
  ⟨msg1, 0, master, (master.acceptId 0 1 1 vcCtrl).2, by decide +kernel⟩

theorem witness_ReportsToTheMaster_8 : ∃ (m : MsgHead) (n : BitVec 32) (left : Nat) (s s1 : State), (s.holdsReports) ∧ (s.acceptId m.port m.src m.id vcCtrl = (true, s1)) ∧ (left ≠ 0) :=
  ⟨msg1, 0, 1, master, (master.acceptId 0 1 1 vcCtrl).2, by decide +kernel⟩

theorem witness_ReportsToTheMaster_9 : ∃ (m : MsgHead) (n : BitVec 32) (s s1 : State), (s.holdsReports) ∧ (s.acceptId m.port m.src m.id vcCtrl = (true, s1)) ∧ (n = s1.cas.mst.step) :=
  ⟨msg1, 0, master2, (master2.acceptId 0 1 1 vcCtrl).2, by decide +kernel⟩

theorem witness_ReportsToTheMaster_10 : ∃ (n : BitVec 13) (l l2 : List (BitVec 64)) (s s1 : State), (n.toNat ≠ s.selfId) ∧ (s.isMaster) ∧ (s.cas.mst.repair.contains n.toNat) ∧ (s.sourcePrints n.toNat l2 = (l, s1)) :=
  ⟨1, ((master.modCas fun c => { c with mst := { c.mst with repair := [1] } }).sourcePrints 1 []).1, [], master.modCas fun c => { c with mst := { c.mst with repair := [1] } }, ((master.modCas fun c => { c with mst := { c.mst with repair := [1] } }).sourcePrints 1 []).2, by decide +kernel, by decide +kernel, by decide +kernel, rfl⟩

theorem witness_ReportsToTheMaster_11 : ∃ (n : BitVec 13) (l l2 l3 : List (BitVec 64)) (s s1 : State), (n.toNat ≠ s.selfId) ∧ (s.isMaster) ∧ (s.cas.mst.repair.contains n.toNat) ∧ (s.sourcePrints n.toNat l2 = (l3, s1)) ∧ (l ≠ l3) :=
  ⟨1, [7], [], ((master.modCas fun c => { c with mst := { c.mst with repair := [1] } }).sourcePrints 1 []).1, master.modCas fun c => { c with mst := { c.mst with repair := [1] } }, ((master.modCas fun c => { c with mst := { c.mst with repair := [1] } }).sourcePrints 1 []).2, by decide +kernel, by decide +kernel, by decide +kernel, rfl, by decide +kernel⟩

theorem witness_ReportsToTheMaster_12 : ∃ (n : BitVec 13) (l l2 a b : List (BitVec 64)) (s s1 s2 s3 : State) (w : List (BitVec 64)), (n.toNat = s.selfId) ∧ (s.isMaster = false) ∧ (s.regionPrints false = (a, s1)) ∧ (s1.regionPrints true = (w, s2)) ∧ (s2.sourcePrints n.toNat l2 = (b, s3)) :=
  ⟨0, [], [], (live.regionPrints false).1, (((live.regionPrints false).2.regionPrints true).2.sourcePrints 0 []).1, live, (live.regionPrints false).2, ((live.regionPrints false).2.regionPrints true).2, (((live.regionPrints false).2.regionPrints true).2.sourcePrints 0 []).2, ((live.regionPrints false).2.regionPrints true).1, by decide +kernel, by decide +kernel, rfl, rfl, rfl⟩

theorem witness_ReportsToTheMaster_13 : ∃ (m : MsgHead) (s s1 : State), (s.isMaster) ∧ (s.acceptId m.port m.src m.id vcCtrl = (true, s1)) ∧ (s1.isMaster) :=
  ⟨msg1, master, (master.acceptId 0 1 1 vcCtrl).2, by decide +kernel⟩

theorem witness_ReportsToTheMaster_14 : ∃ (m : MsgHead) (s s1 : State), (s.isMaster) ∧ (s.acceptId m.port m.src m.id vcCtrl = (true, s1)) ∧ (s1.isMaster) :=
  ⟨msg1, master, (master.acceptId 0 1 1 vcCtrl).2, by decide +kernel⟩

theorem witness_ReportsToTheMaster_15 : ∃ (m : MsgHead) (s s1 : State), (s.isMaster) ∧ (s.acceptId m.port m.src m.id vcCtrl = (true, s1)) ∧ (s1.isMaster) :=
  ⟨msg1, master, (master.acceptId 0 1 1 vcCtrl).2, by decide +kernel⟩

theorem witness_ReportsToTheMaster_16 : ∃ (m : MsgHead) (n : BitVec 32) (channel share : Nat) (ranks : List Nat) (s s1 s2 : State) (owners : List (Nat × Nat)), (s.isMaster) ∧ (s.acceptId m.port m.src m.id vcCtrl = (true, s1)) ∧ (s1.isMaster) ∧ (s2 = s1.modMst fun x => { x with nfReps := x.nfReps.filter (fun y => !(y.bucket = n.toNat && y.channel = channel && y.share = share)) ++ [{ bucket := n.toNat, channel := channel, share := share, ranks := ranks }] }) ∧ (owners = s2.ownersIn (match s2.spotOf m.src with | some x => x.stage | none => s2.selfSpot.stage) channel (s2.bucketMembers n.toNat)) :=
  ⟨msg1, 0, 0, 0, [3], master, (master.acceptId 0 1 1 vcCtrl).2, (master.acceptId 0 1 1 vcCtrl).2.modMst fun x => { x with nfReps := x.nfReps.filter (fun y => !(y.bucket = 0 && y.channel = 0 && y.share = 0)) ++ [{ bucket := 0, channel := 0, share := 0, ranks := [3] }] }, nfMaster.ownersIn (match nfMaster.spotOf 1 with | some x => x.stage | none => nfMaster.selfSpot.stage) 0 (nfMaster.bucketMembers 0), by decide +kernel⟩

theorem witness_ReportsToTheMaster_17 : ∃ (m : MsgHead) (n : BitVec 32) (channel share : Nat) (sh : Fin 256) (ranks : List Nat) (blocks : List (Nat × Option Int)) (flags : BitVec 3) (lanes : List Int) (rime : BitVec 16) (amax : List (Nat × Int)) (fails : List (Nat × Nat)) (left : Nat) (s : State), (s.holdsReports = false) :=
  ⟨msg1, 0, 0, 0, 0, [], [], 0, [], 0, [], [], 0, live, by decide +kernel⟩

theorem witness_MasterMarkers_1 : ∃ (n : BitVec 64) (s : State) (t : BitVec 32), (s.tick + s.topo.markerLead ≤ n.toNat) ∧ (s.nextMarkerKind = .step t) :=
  ⟨100000000, master, 0, by decide +kernel⟩

theorem witness_MasterMarkers_2 : ∃ (n : BitVec 64) (s : State) (b : Bool), (s.tick + s.topo.markerLead ≤ n.toNat) ∧ (s.nextMarkerKind = .repeat_ b) :=
  ⟨5000000, master.modMst fun m => { m with placed := true, stopped := true, resume := true }, false, by decide +kernel⟩

theorem witness_MasterMarkers_3 : ∃ (n : BitVec 64) (s : State), (n.toNat < s.tick + s.topo.markerLead) :=
  ⟨0, { master with tick := 5 }, by decide +kernel⟩

theorem witness_MasterMarkers_4 : ∃ (s : State), (s.takesWrite .cascade) ∧ (s.isMaster) :=
  ⟨master, by decide +kernel⟩

theorem witness_MasterMarkers_5 : ∃ (s : State), (s.takesWrite .cascade) ∧ (s.isMaster) ∧ (s.cas.mst.stopped || s.cas.mst.evalHold) :=
  ⟨master.modMst fun m => { m with stopped := true }, by decide +kernel⟩

theorem witness_MasterMarkers_6 : ∃ (s : State) (n : Nat) (g : ImgCfg), (s.img.leadDue = none) ∧ ((s.half s.leadHalf).leadDone = some n) ∧ (s.cfg = some g) :=
  ⟨(withWords []).modHalf 0 fun x => { x with leadDone := some 0 }, 0, { words := [], slots := [slot0] }, by decide +kernel⟩

theorem witness_MoraineManager_1 : ∃ (s : State) (x : MorWait), (s.morOldestWait = some x) ∧ (s.placeable x) :=
  ⟨morReady, (morReady.morOldestWait).get (by decide +kernel), by decide +kernel⟩

theorem witness_MoraineManager_2 : ∃ (s : State) (x : MorEntry), (s.morEntries.find? (fun e => e.lend = .copying && e.acksDue = 0) = some x) ∧ (x.asker ≠ none) :=
  ⟨live.modHalf 0 fun h => { h with morEntries := [{ lend := .copying, asker := some (0, {}) }] }, { lend := .copying, asker := some (0, {}) }, by decide +kernel⟩

theorem witness_MoraineManager_3 : ∃ (s : State) (x : MorEntry), (s.morEntries.find? (fun e => e.lend = .copying && e.acksDue = 0) = some x) ∧ (x.asker = none) :=
  ⟨live.modHalf 0 fun h => { h with morEntries := [{ lend := .copying }] }, { lend := .copying }, by decide +kernel⟩

theorem witness_MoraineManager_4 : ∃ (s : State) (x : MorEntry) (a : Nat), (s.nextReturn = some x) ∧ (s.morSpan x.size = some a) :=
  ⟨morLent, { st := .lent, size := 1 }, 0, by decide +kernel⟩

theorem witness_MoraineManager_5 : ∃ (n m : Nat) (b : Fin 2) (desc : Fin 16) (s : State) (l : LoanCfg) (a : Nat), (s.loanRange n = some l) ∧ (lowestSpan [(l.base, l.mib)] (((s.half (addrHalf l.base)).loans.filter fun x => x.borrower = n).map fun x => (x.base, x.mib)) m = some a) :=
  ⟨1, 1, 0, 0, loanReady, loan1, 0, by decide +kernel⟩

theorem witness_MoraineManager_6 : ∃ (n m : Nat) (b : Fin 2) (desc : Fin 16) (s : State), (s.loanRange n = none) :=
  ⟨1, 1, 0, 0, live, by decide +kernel⟩

theorem witness_MoraineManager_7 : ∃ (n m : Nat) (b : Fin 2) (desc : Fin 16) (s : State) (l : LoanCfg), (s.loanRange n = some l) ∧ (lowestSpan [(l.base, l.mib)] (((s.half (addrHalf l.base)).loans.filter fun x => x.borrower = n).map fun x => (x.base, x.mib)) m = none) :=
  ⟨1, 5, 0, 0, loanReady, loan1, by decide +kernel⟩

theorem witness_RegisterAndFlagWrites_1 : ∃ (b : Bool) (off : BitVec 27) (n : Nat) (v : BitVec 64) (s : State), (alignedAccess off.toNat n = false) :=
  ⟨false, 2, 4, 0, live, by decide +kernel⟩

theorem witness_RegisterAndFlagWrites_2 : ∃ (off : BitVec 27) (n : Nat) (v : BitVec 64) (s : State), (alignedAccess off.toNat n) ∧ ((blockOf off.toNat).1 ≠ .none) ∧ (s.takesWrite (regOwner (blockOf off.toNat).1 (blockOf off.toNat).2)) :=
  ⟨0x05000008, 4, 0, live, by decide +kernel⟩

theorem witness_RegisterAndFlagWrites_3 : ∃ (v : BitVec 64) (s : State), (s.takesWrite .oz) :=
  ⟨0, live, by decide +kernel⟩

theorem witness_RegisterAndFlagWrites_4 : ∃ (v : BitVec 64) (s : State), (s.takesWrite .oz) :=
  ⟨0, live, by decide +kernel⟩

theorem witness_RegisterAndFlagWrites_5 : ∃ (v : BitVec 64) (s : State), (s.takesWrite (.half 1)) :=
  ⟨5, live, by decide +kernel⟩

theorem witness_RegisterAndFlagWrites_6 : ∃ (v : BitVec 64) (s : State), (s.host.linkUp) ∧ (s.oz.up) :=
  ⟨1, live, by decide +kernel⟩

theorem witness_RegisterAndFlagWrites_7 : ∃ (off : BitVec 27) (n : Nat) (v : BitVec 64) (s : State), (alignedAccess off.toNat n) ∧ (0x03F00000 ≤ off.toNat ∧ off.toNat < 0x03F00400) ∧ (s.takesDoorbell .oz) :=
  ⟨0x03F0000C, 4, 0, live, by decide +kernel⟩

theorem witness_RegisterAndFlagWrites_8 : ∃ (off : BitVec 27) (v : BitVec 64) (s : State), ((blockOf off.toNat).1 ≠ .none) ∧ (s.takesWrite (blockOf off.toNat).1.owner) :=
  ⟨0x00000078, 1, live, by decide +kernel⟩

theorem witness_RegisterAndFlagWrites_9 : ∃ (v : BitVec 64) (s : State), (s.host.linkUp) ∧ (s.oz.up) :=
  ⟨1, live, by decide +kernel⟩

theorem witness_RegisterAndFlagWrites_10 : ∃ (v : BitVec 64) (s : State), (s.takesWrite .oz) :=
  ⟨1, live, by decide +kernel⟩

theorem witness_RegisterAndFlagWrites_11 : ∃ (v : BitVec 64) (s : State), (s.takesWrite (.core 0)) :=
  ⟨1, live, by decide +kernel⟩

theorem witness_StepMarkerTaken_1 : ∃ (s : State) (p : Pkg), (s.cas.pkg = some p) ∧ (s.ownerUp .cascade) ∧ (p.complete) ∧ (p.taken = false) ∧ (p.tick ≤ s.tick) :=
  ⟨live.modCas fun c => { c with pkg := some { complete := true } }, { complete := true }, by decide +kernel⟩

theorem witness_StepMarkerTaken_2 : ∃ (s : State) (p : Pkg), (s.cas.pkg = some p) ∧ (s.tick < p.tick) :=
  ⟨live.modCas fun c => { c with pkg := some { complete := true, tick := 5 } }, { complete := true, tick := 5 }, by decide +kernel⟩

theorem witness_StepMarkerTaken_3 : ∃ (s : State), (s.cas.pkg = none) :=
  ⟨live, by decide +kernel⟩

theorem witness_StepMarkerTaken_4 : ∃ (s : State) (p : Pkg), (s.cas.pkg = some p) ∧ (p.complete = false ∨ p.taken ∨ s.ownerUp .cascade = false) :=
  ⟨live.modCas fun c => { c with pkg := some {} }, {}, by decide +kernel⟩

theorem witness_PortLink_1 : ∃ (p : Fin 18) (peer : BitVec 13) (pp : BitVec 5) (nonce : BitVec 256) (lanes : BitVec 8) (s : State) (e : BitVec 128) (k : BitVec 256), (s.portCfg p = some e) ∧ ((s.port p).st ≠ .up ∧ (s.port p).st ≠ .fenced) ∧ ((s.port p).calibrated) ∧ (prfRole e ≠ 0) ∧ (s.stewardUp (portHalf p)) ∧ (s.retrainExpired p = false) ∧ (prfPeer e = peer.toNat ∧ prfPeerPort e = pp.toNat) ∧ (s.flash.cascadeKey = some k) ∧ (lanes ≠ 0) :=
  ⟨0, 1, 0, 0, 8, (linkCfg.modPort 0 fun x => { x with calibrated := true }).modFlash fun f => { f with cascadeKey := some 0 }, linkEntry, 0, by decide +kernel⟩

theorem witness_PortLink_2 : ∃ (p : Fin 18) (peer : BitVec 13) (pp : BitVec 5) (nonce : BitVec 256) (lanes : BitVec 8) (ok : Bool) (s : State) (e : BitVec 128), (s.portCfg p = some e) ∧ ((s.port p).st ≠ .up ∧ (s.port p).st ≠ .fenced) ∧ ((s.port p).calibrated) ∧ (prfRole e ≠ 0) ∧ (s.stewardUp (portHalf p)) ∧ (s.retrainExpired p = false) ∧ (prfPeer e ≠ peer.toNat ∨ prfPeerPort e ≠ pp.toNat) ∧ (lanes ≠ 0) :=
  ⟨0, 2, 0, 0, 8, true, linkCfg.modPort 0 fun x => { x with calibrated := true }, linkEntry, by decide +kernel⟩

theorem witness_PortLink_3 : ∃ (p : Fin 18) (peer : BitVec 13) (pp : BitVec 5) (nonce : BitVec 256) (lanes : BitVec 8) (s : State) (e : BitVec 128) (k : BitVec 256), (s.portCfg p = some e) ∧ ((s.port p).st ≠ .up ∧ (s.port p).st ≠ .fenced) ∧ ((s.port p).calibrated) ∧ (prfRole e ≠ 0) ∧ (s.stewardUp (portHalf p)) ∧ (s.retrainExpired p = false) ∧ (lanes ≠ 0) ∧ (prfPeer e = peer.toNat ∧ prfPeerPort e = pp.toNat) ∧ (s.flash.cascadeKey = some k) :=
  ⟨0, 1, 0, 0, 8, (linkCfg.modPort 0 fun x => { x with calibrated := true }).modFlash fun f => { f with cascadeKey := some 0 }, linkEntry, 0, by decide +kernel⟩

theorem witness_PortLink_4 : ∃ (p : Fin 18) (peer : BitVec 13) (pp : BitVec 5) (nonce : BitVec 256) (lanes : BitVec 8) (ok : Bool) (s : State) (e : BitVec 128), (s.portCfg p = some e) ∧ ((s.port p).st ≠ .up ∧ (s.port p).st ≠ .fenced) ∧ ((s.port p).calibrated) ∧ (prfRole e ≠ 0) ∧ (s.stewardUp (portHalf p)) ∧ (s.retrainExpired p = false) ∧ (lanes ≠ 0) ∧ (prfPeer e = peer.toNat ∧ prfPeerPort e = pp.toNat) ∧ (s.flash.cascadeKey = none) :=
  ⟨0, 1, 0, 0, 8, true, linkCfg.modPort 0 fun x => { x with calibrated := true }, linkEntry, by decide +kernel⟩

theorem witness_PortLink_5 : ∃ (p : Fin 18) (peer : BitVec 13) (pp : BitVec 5) (nonce : BitVec 256) (ok : Bool) (s : State) (e : BitVec 128), (s.portCfg p = some e) ∧ ((s.port p).st ≠ .up ∧ (s.port p).st ≠ .fenced) ∧ ((s.port p).calibrated) ∧ (prfRole e ≠ 0) ∧ (s.stewardUp (portHalf p)) ∧ (s.retrainExpired p = false) ∧ ((s.port p).retraining = false) :=
  ⟨0, 1, 0, 0, true, linkCfg.modPort 0 fun x => { x with calibrated := true }, linkEntry, by decide +kernel⟩

theorem witness_PortLink_6 : ∃ (p : Fin 18) (peer : BitVec 13) (pp : BitVec 5) (nonce : BitVec 256) (lanes : BitVec 8) (ok : Bool) (s : State) (e : BitVec 128), (s.portCfg p = some e) ∧ ((s.port p).calibrated) ∧ (prfRole e ≠ 0) ∧ (s.stewardUp (portHalf p)) ∧ (s.retrainExpired p) :=
  ⟨0, 1, 0, 0, 8, true, { linkCfg.modPort 0 fun x => { x with calibrated := true, st := .training, retraining := true } with tick := 50000 }, linkEntry, by decide +kernel⟩

theorem witness_PortLink_7 : ∃ (p : Fin 18) (s : State), ((s.port p).st = .up) :=
  ⟨0, live.modPort 0 fun x => { x with st := .up, rxKey := some 0, txKey := some 0 }, by decide +kernel⟩

theorem witness_PortLink_8 : ∃ (p : Fin 18) (s : State), (s.takesWrite (.half (portHalf p))) ∧ ((s.port p).st = .up) ∧ (s.portFenced p = false) :=
  ⟨0, live.modPort 0 fun x => { x with st := .up, rxKey := some 0, txKey := some 0 }, by decide +kernel⟩

theorem witness_PortLink_9 : ∃ (p : Fin 18) (h : Bool) (s : State), (s.takesWrite (.half (portHalf p))) ∧ ((s.port p).st ≠ .up) ∧ (h = false ∨ s.portFenced p = false) :=
  ⟨0, true, live, by decide +kernel⟩

theorem witness_PortLink_10 : ∃ (p : Fin 18) (s : State), (s.takesWrite (.half (portHalf p))) ∧ (s.portFenced p) :=
  ⟨0, live.modGlb fun g => { g with fencedPorts := 1 }, by decide +kernel⟩

theorem witness_PortLink_11 : ∃ (p : Fin 18) (s : State), ((s.port p).retraining) ∧ ((s.port p).st = .training) ∧ ((s.port p).retrainTick + 50000 ≤ s.tick) :=
  ⟨0, { (live.modPort 0 fun x => { x with st := .training, retraining := true }) with tick := 50000 }, by decide +kernel⟩

theorem witness_PortLink_12 : ∃ (p : Fin 18) (s : State), (s.tick < (s.port p).retrainTick + 50000) :=
  ⟨0, live, by decide +kernel⟩

theorem witness_PortLink_13 : ∃ (p : Fin 18) (s : State), (s.portLost p) :=
  ⟨0, live.modGlb fun g => { g with fencedPorts := 1 }, by decide +kernel⟩

theorem witness_PortLink_14 : ∃ (p : Fin 18) (h : BitVec 64) (n : BitVec 16) (a : FlitAt) (s : State), ((s.port p).st = .up) ∧ (a.lost = false) ∧ (flType h = 2) :=
  ⟨0, 8, 0, {}, live.modPort 0 fun x => { x with st := .up, rxKey := some 0, txKey := some 0 }, by decide +kernel⟩

theorem witness_PortLink_15 : ∃ (p : Fin 18) (h : BitVec 64) (n : BitVec 16) (a : FlitAt) (s : State), ((s.port p).st = .up) ∧ (a.lost = false) ∧ (flType h = 3) :=
  ⟨0, 12, 0, {}, live.modPort 0 fun x => { x with st := .up, rxKey := some 0, txKey := some 0 }, by decide +kernel⟩

theorem witness_PortLink_16 : ∃ (p : Fin 18) (h : BitVec 64) (n : BitVec 16) (a : FlitAt) (s : State), ((s.port p).st = .up) ∧ (a.lost) :=
  ⟨0, 0, 0, { first := none, second := none }, live.modPort 0 fun x => { x with st := .up, rxKey := some 0, txKey := some 0 }, by decide +kernel⟩

theorem witness_SealedFlits_1 : ∃ (p : Fin 18) (h : BitVec 64) (bs : List (BitVec 8)) (n : BitVec 16) (a : FlitAt) (s : State), ((s.port p).st = .up) ∧ (a.lost) :=
  ⟨0, 0, [], 0, { first := none, second := none }, live.modPort 0 fun x => { x with st := .up, rxKey := some 0, txKey := some 0 }, by decide +kernel⟩

theorem witness_SealedFlits_2 : ∃ (p : Fin 18) (h : BitVec 64) (bs : List (BitVec 8)) (n : BitVec 16) (a : FlitAt) (s : State), ((s.port p).st = .up) ∧ (a.lost = false) ∧ (flType h = 0) ∧ ((((s.takeFrame p n a).takeHeader p h).port p).seqAns h = .take) ∧ ((((s.takeFrame p n a).takeHeader p h).port p).rxUsed.get (flVc h) + seqDist ((((s.takeFrame p n a).takeHeader p h).port p).toldFreed.get (flVc h)) ((((s.takeFrame p n a).takeHeader p h).port p).freed.get (flVc h)) < vcBuffer (flVc h).val) :=
  ⟨0, 0, [], 0, {}, live.modPort 0 fun x => { x with st := .up, rxKey := some 0, txKey := some 0 }, by decide +kernel⟩

theorem witness_SealedFlits_3 : ∃ (p : Fin 18) (h : BitVec 64) (bs : List (BitVec 8)) (n : BitVec 16) (a : FlitAt) (s : State), ((s.port p).st = .up) ∧ (a.lost = false) ∧ (flType h = 0) ∧ ((((s.takeFrame p n a).takeHeader p h).port p).seqAns h = .take) ∧ (vcBuffer (flVc h).val ≤ (((s.takeFrame p n a).takeHeader p h).port p).rxUsed.get (flVc h) + seqDist ((((s.takeFrame p n a).takeHeader p h).port p).toldFreed.get (flVc h)) ((((s.takeFrame p n a).takeHeader p h).port p).freed.get (flVc h))) :=
  ⟨0, 0, [], 0, {}, live.modPort 0 fun x => { x with st := .up, rxUsed := Vector.replicate 4 1536 }, by decide +kernel⟩

theorem witness_SealedFlits_4 : ∃ (p : Fin 18) (h : BitVec 64) (bs : List (BitVec 8)) (n : BitVec 16) (a : FlitAt) (s : State), ((s.port p).st = .up) ∧ (a.lost = false) ∧ (flType h = 0) ∧ ((((s.takeFrame p n a).takeHeader p h).port p).seqAns h = .ask) :=
  ⟨0, 64, [], 0, {}, live.modPort 0 fun x => { x with st := .up, rxKey := some 0, txKey := some 0 }, by decide +kernel⟩

theorem witness_SealedFlits_5 : ∃ (p : Fin 18) (h : BitVec 64) (bs : List (BitVec 8)) (n : BitVec 16) (a : FlitAt) (s : State), ((s.port p).st = .up) ∧ (a.lost = false) ∧ (flType h = 0) ∧ ((((s.takeFrame p n a).takeHeader p h).port p).seqAns h = .discard) :=
  ⟨0, 262080, [], 0, {}, live.modPort 0 fun x => { x with st := .up, rxKey := some 0, txKey := some 0 }, by decide +kernel⟩

theorem witness_SealedFlits_6 : ∃ (p : Fin 18) (h : BitVec 64) (bs : List (BitVec 8)) (n : BitVec 16) (a : FlitAt) (s : State), ((s.port p).st = .up) ∧ (a.lost) :=
  ⟨0, 4, [], 0, { first := none, second := none }, live.modPort 0 fun x => { x with st := .up, rxKey := some 0, txKey := some 0 }, by decide +kernel⟩

theorem witness_SealedFlits_7 : ∃ (p : Fin 18) (h : BitVec 64) (bs : List (BitVec 8)) (n : BitVec 16) (a : FlitAt) (s : State) (x : Port) (key : BitVec 256), ((s.port p).st = .up) ∧ (a.lost = false) ∧ (flType h = 1) ∧ (x = ((s.takeFrame p n a).takeHeader p h).port p) ∧ (x.seqAns h = .take) ∧ (x.rxKey = some key) :=
  ⟨0, 4, [], 0, {}, live.modPort 0 fun x => { x with st := .up, rxKey := some 0, txKey := some 0 }, (((live.modPort 0 fun x => { x with st := .up, rxKey := some 0, txKey := some 0 }).takeFrame 0 0 {}).takeHeader 0 4).port 0, 0, by decide +kernel⟩

theorem witness_MessagesForModule_1 : ∃ (p : Fin 18) (m : Msg) (s s1 : State), (m.kind = 0x01) ∧ (m.dst = s.selfId) ∧ (s.stewardUp 0 || s.stewardUp 1) ∧ (m.vc = vcBulk) ∧ (s.acceptId p.val m.src m.id m.vc = (true, s1)) ∧ (s1.specStale (wSpec m.args) = false) :=
  ⟨0, { kind := 1, src := 1, vc := 1, id := 1, args := 0 }, live, ((live).acceptId 0 1 1 1).2, by decide +kernel⟩

theorem witness_MessagesForModule_2 : ∃ (p : Fin 18) (m : Msg) (s s1 : State), (m.kind = 0x01) ∧ (m.dst = s.selfId) ∧ (s.stewardUp 0 || s.stewardUp 1) ∧ (m.vc = vcBulk) ∧ (s.acceptId p.val m.src m.id m.vc = (true, s1)) ∧ (s1.specStale (wSpec m.args)) :=
  ⟨0, { kind := 1, src := 1, vc := 1, id := 1, args := BitVec.ofNat 144 (2 ^ 41) }, (live.modCas fun c => { c with discarded := [1] }), (((live.modCas fun c => { c with discarded := [1] })).acceptId 0 1 1 1).2, by decide +kernel⟩

theorem witness_MessagesForModule_3 : ∃ (p : Fin 18) (m : Msg) (s s1 : State), (m.kind = 0x02) ∧ (m.dst = s.selfId) ∧ (s.stewardUp 0 || s.stewardUp 1) ∧ (m.vc = vcBulk) ∧ (s.acceptId p.val m.src m.id m.vc = (true, s1)) ∧ (s1.specStale (wSpec m.args)) :=
  ⟨0, { kind := 2, src := 1, vc := 1, id := 1, args := BitVec.ofNat 144 (2 ^ 41) }, live.modCas fun c => { c with discarded := [1] }, ((live.modCas fun c => { c with discarded := [1] }).acceptId 0 1 1 1).2, by decide +kernel⟩

theorem witness_MessagesForModule_4 : ∃ (p : Fin 18) (m : Msg) (s s1 : State), (m.kind = 0x16) ∧ (m.dst = s.selfId) ∧ (s.stewardUp 0 || s.stewardUp 1) ∧ (m.vc = vcBulk) ∧ (s.acceptId p.val m.src m.id m.vc = (true, s1)) ∧ (s1.specStale (wSpec m.args)) :=
  ⟨0, { kind := 22, src := 1, vc := 1, id := 1, args := BitVec.ofNat 144 (2 ^ 41) }, live.modCas fun c => { c with discarded := [1] }, ((live.modCas fun c => { c with discarded := [1] }).acceptId 0 1 1 1).2, by decide +kernel⟩

theorem witness_MessagesForModule_5 : ∃ (p : Fin 18) (m : Msg) (s s1 : State), (m.kind = 0x02) ∧ (m.dst = s.selfId) ∧ (s.stewardUp 0 || s.stewardUp 1) ∧ (m.vc = vcBulk) ∧ (s.acceptId p.val m.src m.id m.vc = (true, s1)) ∧ (s1.specStale (wSpec m.args) = false) :=
  ⟨0, { kind := 2, src := 1, vc := 1, id := 1, args := 0 }, live, ((live).acceptId 0 1 1 1).2, by decide +kernel⟩

theorem witness_MessagesForModule_6 : ∃ (p : Fin 18) (m : Msg) (s s1 : State), (m.kind = 0x16) ∧ (m.dst = s.selfId) ∧ (s.stewardUp 0 || s.stewardUp 1) ∧ (m.vc = vcBulk) ∧ (s.acceptId p.val m.src m.id m.vc = (true, s1)) ∧ (s1.specStale (wSpec m.args) = false) :=
  ⟨0, { kind := 22, src := 1, vc := 1, id := 1, args := 0 }, live, ((live).acceptId 0 1 1 1).2, by decide +kernel⟩

theorem witness_MessagesForModule_7 : ∃ (p : Fin 18) (m : Msg) (s s1 : State), (m.kind = 0x03) ∧ (m.dst = s.selfId) ∧ (s.stewardUp 0 || s.stewardUp 1) ∧ (m.vc = vcCtrl) ∧ (s.acceptId p.val m.src m.id m.vc = (true, s1)) :=
  ⟨0, { kind := 3, src := 1, vc := 2, id := 1, args := 0 }, live, ((live).acceptId 0 1 1 2).2, by decide +kernel⟩

theorem witness_MessagesForModule_8 : ∃ (p : Fin 18) (m : Msg) (s s1 : State), (m.kind = 0x04) ∧ (m.dst = s.selfId) ∧ (s.stewardUp 0 || s.stewardUp 1) ∧ (m.vc = vcCtrl) ∧ (s.acceptId p.val m.src m.id m.vc = (true, s1)) :=
  ⟨0, { kind := 4, src := 1, vc := 2, id := 1, args := 0 }, live, ((live).acceptId 0 1 1 2).2, by decide +kernel⟩

theorem witness_MessagesForModule_9 : ∃ (p : Fin 18) (m : Msg) (s s1 : State), (m.kind = 0x05) ∧ (m.dst = s.selfId) ∧ (s.stewardUp 0 || s.stewardUp 1) ∧ (m.vc = vcCtrl) ∧ (s.acceptId p.val m.src m.id m.vc = (true, s1)) :=
  ⟨0, { kind := 5, src := 1, vc := 2, id := 1, args := 0 }, live, ((live).acceptId 0 1 1 2).2, by decide +kernel⟩

theorem witness_MessagesForModule_10 : ∃ (p : Fin 18) (m : Msg) (s s1 : State), (m.kind = 0x06) ∧ (m.dst = s.selfId) ∧ (s.stewardUp 0 || s.stewardUp 1) ∧ (m.vc = vcCtrl) ∧ (s.acceptId p.val m.src m.id m.vc = (true, s1)) :=
  ⟨0, { kind := 6, src := 1, vc := 2, id := 1, args := 0 }, live, ((live).acceptId 0 1 1 2).2, by decide +kernel⟩

theorem witness_MessagesForModule_11 : ∃ (p : Fin 18) (m : Msg) (s s1 : State), (m.kind = 0x07) ∧ (m.dst = s.selfId) ∧ (s.stewardUp 0 || s.stewardUp 1) ∧ (m.vc = vcCtrl) ∧ (s.acceptId p.val m.src m.id m.vc = (true, s1)) ∧ (aLoan m.args = false) :=
  ⟨0, { kind := 7, src := 1, vc := 2, id := 1, args := 0 }, live, ((live).acceptId 0 1 1 2).2, by decide +kernel⟩

theorem witness_MessagesForModule_12 : ∃ (p : Fin 18) (m : Msg) (s s1 : State), (m.kind = 0x08) ∧ (m.dst = s.selfId) ∧ (s.stewardUp 0 || s.stewardUp 1) ∧ (m.vc = vcCtrl) ∧ (s.acceptId p.val m.src m.id m.vc = (true, s1)) ∧ (aLoan m.args = false) :=
  ⟨0, { kind := 8, src := 1, vc := 2, id := 1, args := 0 }, live, ((live).acceptId 0 1 1 2).2, by decide +kernel⟩

theorem witness_MessagesForModule_13 : ∃ (p : Fin 18) (m : Msg) (s s1 : State), (m.kind = 0x08) ∧ (m.dst = s.selfId) ∧ (s.stewardUp 0 || s.stewardUp 1) ∧ (m.vc = vcCtrl) ∧ (s.acceptId p.val m.src m.id m.vc = (true, s1)) ∧ (aLoan m.args) :=
  ⟨0, { kind := 8, src := 1, vc := 2, id := 1, args := BitVec.ofNat 144 (2 ^ 75) }, live, ((live).acceptId 0 1 1 2).2, by decide +kernel⟩

theorem witness_MessagesForModule_14 : ∃ (p : Fin 18) (m : Msg) (s s1 : State), (m.kind = 0x07) ∧ (m.dst = s.selfId) ∧ (s.stewardUp 0 || s.stewardUp 1) ∧ (m.vc = vcCtrl) ∧ (s.acceptId p.val m.src m.id m.vc = (true, s1)) ∧ (aLoan m.args) :=
  ⟨0, { kind := 7, src := 1, vc := 2, id := 1, args := BitVec.ofNat 144 (2 ^ 75) }, live, (live.acceptId 0 1 1 2).2, by decide +kernel⟩

theorem witness_MessagesForModule_15 : ∃ (p : Fin 18) (m : Msg) (s s1 s2 : State), (m.kind = 0x09) ∧ (m.dst = s.selfId) ∧ (s.stewardUp 0 || s.stewardUp 1) ∧ (m.vc = vcCtrl) ∧ (s.acceptId p.val m.src m.id m.vc = (true, s1)) ∧ (s1.acceptTerm (BitVec.ofNat 16 m.term) = (true, s2)) :=
  ⟨0, { kind := 9, src := 1, vc := 2, id := 1, args := 0 }, live, ((live).acceptId 0 1 1 2).2, ((live.acceptId 0 1 1 2).2.acceptTerm 0).2, by decide +kernel⟩

theorem witness_MessagesForModule_16 : ∃ (p : Fin 18) (m : Msg) (s s1 s2 : State), (m.kind = 0x09) ∧ (m.dst = s.selfId) ∧ (s.stewardUp 0 || s.stewardUp 1) ∧ (m.vc = vcCtrl) ∧ (s.acceptId p.val m.src m.id m.vc = (true, s1)) ∧ (s1.acceptTerm (BitVec.ofNat 16 m.term) = (false, s2)) :=
  ⟨0, { kind := 9, src := 1, vc := 2, id := 1, args := 0 }, (live.modCas fun c => { c with term := 1 }), (((live.modCas fun c => { c with term := 1 })).acceptId 0 1 1 2).2, (((live.modCas fun c => { c with term := 1 }).acceptId 0 1 1 2).2.acceptTerm 0).2, by decide +kernel⟩

theorem witness_MessagesForModule_17 : ∃ (p : Fin 18) (m : Msg) (s s1 : State), (m.dst = s.selfId) ∧ (s.stewardUp 0 || s.stewardUp 1) ∧ ((kindVcs m.kind).contains m.vc) ∧ (s.acceptId p.val m.src m.id m.vc = (false, s1)) :=
  ⟨0, { kind := 1, src := 1, vc := 1, id := 0 }, live, (live.acceptId 0 1 0 1).2, by decide +kernel⟩

theorem witness_MessagesForModule_18 : ∃ (p : Fin 18) (m : Msg) (s : State), (m.dst ≠ s.selfId ∨ (s.stewardUp 0 || s.stewardUp 1) = false) :=
  ⟨0, { dst := 1 }, live, by decide +kernel⟩

theorem witness_ForwardingAndRings_1 : ∃ (p : Fin 18) (vc : Fin 4) (s : State) (m : Msg), ((s.port p).inMsgs.find? (fun m => m.vc = vc.val) = some m) ∧ (s.stewardUp (portHalf p)) ∧ (m.dst ≠ s.selfId) ∧ ((kindVcs m.kind).contains m.vc) ∧ (1 < m.ttl) :=
  ⟨0, 2, live.modPort 0 fun x => { x with inMsgs := [{ dst := 1, kind := 4, vc := 2 }] }, { dst := 1, kind := 4, vc := 2 }, by decide +kernel⟩

theorem witness_ForwardingAndRings_2 : ∃ (p : Fin 18) (vc : Fin 4) (s : State) (m : Msg), ((s.port p).inMsgs.find? (fun m => m.vc = vc.val) = some m) ∧ (s.stewardUp (portHalf p)) ∧ (m.dst ≠ s.selfId) ∧ ((kindVcs m.kind).contains m.vc) ∧ (m.ttl ≤ 1) :=
  ⟨0, 2, live.modPort 0 fun x => { x with inMsgs := [{ dst := 1, kind := 4, vc := 2, ttl := 1 }] }, { dst := 1, kind := 4, vc := 2, ttl := 1 }, by decide +kernel⟩

theorem witness_ForwardingAndRings_3 : ∃ (p : Fin 18) (vc : Fin 4) (s : State) (m : Msg) (s1 : State), ((s.port p).inMsgs.find? (fun m => m.vc = vc.val) = some m) ∧ (s.stewardUp (portHalf p)) ∧ (m.dst = s.selfId) ∧ (s.deliver p m = (none, s1)) :=
  ⟨0, 2, live.modPort 0 fun x => { x with inMsgs := [{ kind := 8, vc := 2 }] }, { kind := 8, vc := 2 }, ((live.modPort 0 fun x => { x with inMsgs := [{ kind := 8, vc := 2 }] }).deliver 0 { kind := 8, vc := 2 }).2, by decide +kernel⟩

theorem witness_ForwardingAndRings_4 : ∃ (n : Nat) (s : State) (r : RingCfg) (b tag : Nat) (s0 : State), (s.ringCfg n = some r) ∧ (s.cas.relayTag = some tag) ∧ (s.coreRuns (s.slotOwner (fin8 r.core) r.slot).1) ∧ (s.stewardUp (s.ringHalf r)) ∧ (s.cas.relays.all fun x => x.ring ≠ n) ∧ (s.relayTaken (s.slotOwner (fin8 r.core) r.slot).1 (s.slotOwner (fin8 r.core) r.slot).2 = false) ∧ (s.ask (s.slotOwner (fin8 r.core) r.slot).1 { acq := true, slot := (s.slotOwner (fin8 r.core) r.slot).2, rq := .relay n } = (.granted b, s0)) ∧ (r.hops ≤ ((s.slotSt (s.slotOwner (fin8 r.core) r.slot).1 (s.slotOwner (fin8 r.core) r.slot).2).bufs.get (fin4 b)).hop) :=
  ⟨0, ringReady 0, {}, 0, 0, ((ringReady 0).ask 0 { acq := true, slot := 0, rq := .relay 0 }).2, by decide +kernel⟩

theorem witness_ForwardingAndRings_5 : ∃ (n : Nat) (s : State) (r : RingCfg) (b tag : Nat) (s0 : State), (s.ringCfg n = some r) ∧ (s.cas.relayTag = some tag) ∧ (s.coreRuns (s.slotOwner (fin8 r.core) r.slot).1) ∧ (s.stewardUp (s.ringHalf r)) ∧ (s.cas.relays.all fun x => x.ring ≠ n) ∧ (s.relayTaken (s.slotOwner (fin8 r.core) r.slot).1 (s.slotOwner (fin8 r.core) r.slot).2 = false) ∧ (s.ask (s.slotOwner (fin8 r.core) r.slot).1 { acq := true, slot := (s.slotOwner (fin8 r.core) r.slot).2, rq := .relay n } = (.granted b, s0)) ∧ (((s.slotSt (s.slotOwner (fin8 r.core) r.slot).1 (s.slotOwner (fin8 r.core) r.slot).2).bufs.get (fin4 b)).hop < r.hops) :=
  ⟨0, ringReady 2, { hops := 2 }, 0, 0, ((ringReady 2).ask 0 { acq := true, slot := 0, rq := .relay 0 }).2, by decide +kernel⟩

theorem witness_MasterMessages_1 : ∃ (h : MsgHead) (k n : Nat) (p : PkgPart) (s s1 s2 : State) (x : Pkg), (s.acceptId h.port h.src h.id vcCtrl 1 = (true, s1)) ∧ (s1.acceptTerm h.term = (true, s2)) ∧ (s2.cas.pkgFor h.term n p = some x) ∧ ((x.addPart k p).complete = false) :=
  ⟨msg1, 0, 2, { step := 0, epoch := 0, tick := 9, again := false, h := 0, shift := 0, fallback := [], anchorReset := [] }, live, ((live).acceptId 0 1 1 vcCtrl 1).2, (((live).acceptId 0 1 1 vcCtrl 1).2.acceptTerm 0).2, { tick := 9, nparts := 2 }, by decide +kernel⟩

theorem witness_MasterMessages_2 : ∃ (h : MsgHead) (k n : Nat) (p : PkgPart) (s s1 s2 : State) (x : Pkg), (s.acceptId h.port h.src h.id vcCtrl 1 = (true, s1)) ∧ (s1.acceptTerm h.term = (true, s2)) ∧ (s2.cas.pkgFor h.term n p = some x) ∧ ((x.addPart k p).complete) :=
  ⟨msg1, 0, 1, { step := 0, epoch := 0, tick := 9, again := false, h := 0, shift := 0, fallback := [], anchorReset := [] }, live, ((live).acceptId 0 1 1 vcCtrl 1).2, (((live).acceptId 0 1 1 vcCtrl 1).2.acceptTerm 0).2, { tick := 9, nparts := 1 }, by decide +kernel⟩

theorem witness_MasterMessages_3 : ∃ (h : MsgHead) (e : Nat) (l : List (Nat × Nat × Nat × Nat)) (s s1 s2 : State), (s.acceptId h.port h.src h.id vcCtrl = (true, s1)) ∧ (s1.acceptTerm h.term = (true, s2)) ∧ (s2.cas.epoch.toNat < e ∨ s2.cas.members = []) :=
  ⟨msg1, 1, [], live, ((live).acceptId 0 1 1 vcCtrl).2, (((live).acceptId 0 1 1 vcCtrl).2.acceptTerm 0).2, by decide +kernel⟩

theorem witness_MasterMessages_4 : ∃ (h : MsgHead) (e : Nat) (l : List (Nat × Nat × Nat × Nat)) (s s1 s2 : State), (s.acceptId h.port h.src h.id vcCtrl = (true, s1)) ∧ (s1.acceptTerm h.term = (true, s2)) ∧ (e ≤ s2.cas.epoch.toNat) ∧ (s2.cas.members ≠ []) :=
  ⟨msg1, 0, [], (live.modCas fun c => { c with members := [(0, 0, 0, 0)] }), (((live.modCas fun c => { c with members := [(0, 0, 0, 0)] })).acceptId 0 1 1 vcCtrl).2, ((((live.modCas fun c => { c with members := [(0, 0, 0, 0)] })).acceptId 0 1 1 vcCtrl).2.acceptTerm 0).2, by decide +kernel⟩

theorem witness_MasterMessages_5 : ∃ (h : MsgHead) (m : Nat) (s s1 s2 : State), (s.acceptId h.port h.src h.id vcCtrl = (true, s1)) ∧ (s1.acceptTerm h.term = (true, s2)) ∧ (s2.isLost m = false) :=
  ⟨msg1, 1, live, ((live).acceptId 0 1 1 vcCtrl).2, (((live).acceptId 0 1 1 vcCtrl).2.acceptTerm 0).2, by decide +kernel⟩

theorem witness_MasterMessages_6 : ∃ (h : MsgHead) (m : Nat) (s s1 s2 : State), (s.acceptId h.port h.src h.id vcCtrl = (true, s1)) ∧ (s1.acceptTerm h.term = (true, s2)) ∧ (s2.isLost m) :=
  ⟨msg1, 1, (live.modCas fun c => { c with lost := [1] }), (((live.modCas fun c => { c with lost := [1] })).acceptId 0 1 1 vcCtrl).2, ((((live.modCas fun c => { c with lost := [1] })).acceptId 0 1 1 vcCtrl).2.acceptTerm 0).2, by decide +kernel⟩

theorem witness_MasterMessages_7 : ∃ (h : MsgHead) (n : Nat) (s s1 s2 : State), (s.acceptId h.port h.src h.id vcCtrl = (true, s1)) ∧ (s1.acceptTerm h.term = (true, s2)) :=
  ⟨msg1, 1, live, ((live).acceptId 0 1 1 vcCtrl).2, (((live).acceptId 0 1 1 vcCtrl).2.acceptTerm 0).2, by decide +kernel⟩

theorem witness_MasterMessages_8 : ∃ (h : MsgHead) (s s1 s2 : State), (s.acceptId h.port h.src h.id vcCtrl 2 = (true, s1)) ∧ (s1.acceptTerm h.term = (true, s2)) ∧ (s2.takeoverDue = false) :=
  ⟨msg1, live, ((live).acceptId 0 1 1 vcCtrl 2).2, (((live).acceptId 0 1 1 vcCtrl 2).2.acceptTerm 0).2, by decide +kernel⟩

theorem witness_MasterMessages_9 : ∃ (h : MsgHead) (s s1 s2 : State), (s.acceptId h.port h.src h.id vcCtrl 2 = (true, s1)) ∧ (s1.acceptTerm h.term = (true, s2)) ∧ (s2.takeoverDue) :=
  ⟨msg1, { deputy with tick := 100000 }, (({ deputy with tick := 100000 }).acceptId 0 1 1 vcCtrl 2).2, ((({ deputy with tick := 100000 }).acceptId 0 1 1 vcCtrl 2).2.acceptTerm 0).2, by decide +kernel⟩

theorem witness_MasterMessages_10 : ∃ (h : MsgHead) (s s1 s2 : State), (s.acceptId h.port h.src h.id vcCtrl 1 = (true, s1)) ∧ (s1.acceptTerm h.term = (true, s2)) :=
  ⟨msg1, live, ((live).acceptId 0 1 1 vcCtrl 1).2, (((live).acceptId 0 1 1 vcCtrl 1).2.acceptTerm 0).2, by decide +kernel⟩

theorem witness_MasterMessages_11 : ∃ (h : MsgHead) (d : Decision) (s s1 s2 : State), (s.acceptId h.port h.src h.id vcCtrl = (true, s1)) ∧ (s1.acceptTerm h.term = (true, s2)) ∧ (s2.cas.role = .deputy) :=
  ⟨msg1, {}, deputy, ((deputy).acceptId 0 1 1 vcCtrl).2, (((deputy).acceptId 0 1 1 vcCtrl).2.acceptTerm 0).2, by decide +kernel⟩

theorem witness_MasterMessages_12 : ∃ (h : MsgHead) (d : Option Decision) (s s1 : State), (s.acceptId h.port h.src h.id vcCtrl = (true, s1)) ∧ (s1.isMaster) :=
  ⟨msg1, none, master, (master.acceptId 0 1 1 vcCtrl).2, by decide +kernel⟩

theorem witness_MasterMessages_13 : ∃ (h : MsgHead) (n : Fin 256) (s s1 : State), (s.acceptId h.port h.src h.id vcCtrl = (true, s1)) ∧ (s1.isMaster) :=
  ⟨msg1, 0, master, (master.acceptId 0 1 1 vcCtrl).2, by decide +kernel⟩

theorem witness_MasterMessages_14 : ∃ (h : MsgHead) (n : Fin 256) (s s1 s2 : State), (s.acceptId h.port h.src h.id vcCtrl = (true, s1)) ∧ (s1.acceptTerm h.term = (true, s2)) :=
  ⟨msg1, 0, live, ((live).acceptId 0 1 1 vcCtrl).2, (((live).acceptId 0 1 1 vcCtrl).2.acceptTerm 0).2, by decide +kernel⟩

theorem witness_MasterMessages_15 : ∃ (h : MsgHead) (k n : Nat) (p : PkgPart) (e m : Nat) (l : List (Nat × Nat × Nat × Nat)) (s s1 s2 : State) (path : Nat), (s.acceptId h.port h.src h.id vcCtrl path = (true, s1)) ∧ (s1.acceptTerm h.term = (false, s2)) :=
  ⟨msg1, 0, 1, { step := 0, epoch := 0, tick := 9, again := false, h := 0, shift := 0, fallback := [], anchorReset := [] }, 0, 1, [], live.modCas fun c => { c with term := 5 }, ((live.modCas fun c => { c with term := 5 }).acceptId 0 1 1 vcCtrl 0).2, (((live.modCas fun c => { c with term := 5 }).acceptId 0 1 1 vcCtrl 0).2.acceptTerm 0).2, 0, by decide +kernel⟩

theorem witness_MasterMessages_16 : ∃ (m : MsgHead) (n : BitVec 32) (channel share : Nat) (ranks : List Nat) (sh : Fin 256) (blocks : List (Nat × Option Int)) (flags : BitVec 3) (lanes : List Int) (rime : BitVec 16) (amax : List (Nat × Int)) (fails : List (Nat × Nat)) (s s1 : State), (s.cas.role = .deputy) ∧ (s.holdsReports) ∧ (s.acceptId m.port m.src m.id vcCtrl = (true, s1)) ∧ (s1.isMaster = false) :=
  ⟨msg1, 0, 0, 0, [], 0, [], 0, [], 0, [], [], deputy, (deputy.acceptId 0 1 1 vcCtrl).2, by decide +kernel⟩

theorem witness_MasterMessages_17 : ∃ (m : MsgHead) (s s1 : State), (s.isMaster) ∧ (s.acceptId m.port m.src m.id vcCtrl = (true, s1)) ∧ (s1.isMaster) :=
  ⟨{ msg1 with whole := true }, master, (master.acceptId 0 1 1 vcCtrl).2, by decide +kernel⟩

theorem witness_MasterMessages_18 : ∃ (n : BitVec 13) (l : List (BitVec 64)) (s : State), (s.isMaster) ∧ ((s.repairSources n.toNat).all fun x => x.1 ≠ s.selfId) ∧ (n.toNat ≠ s.selfId) ∧ (s.cas.mst.repair.contains n.toNat) ∧ (s.cas.mst.placed) ∧ ((s.cas.mst.decided || s.cas.mst.evalHold || s.cas.mst.stopped) = false) :=
  ⟨1, [], master.modCas fun c => { c with mst := { c.mst with repair := [1], placed := true } }, by decide +kernel⟩

theorem witness_CascadeTimers_1 : ∃ (s : State), (s.cas.role = .deputy) ∧ (s.ownerUp .cascade) ∧ (s.cas.lastHeartbeat + 100000 + 200000 * s.cas.deputyRank ≤ s.tick) :=
  ⟨{ deputy with tick := 100000 }, by decide +kernel⟩

theorem witness_CascadeTimers_2 : ∃ (s : State), (s.cas.role ≠ .deputy ∨ s.tick < s.cas.lastHeartbeat + 100000 + 200000 * s.cas.deputyRank) :=
  ⟨live, by decide +kernel⟩

theorem witness_CascadeTimers_3 : ∃ (s : State), (s.isMaster) ∧ (s.ownerUp .cascade) ∧ (s.hasDeputy) :=
  ⟨master.modCas fun c => { c with deputy := 1, deputyValid := true }, by decide +kernel⟩

theorem witness_CascadeTimers_4 : ∃ (s : State), (s.isMaster) ∧ (s.ownerUp .cascade) ∧ (s.hasDeputy = false) :=
  ⟨master, by decide +kernel⟩

theorem witness_CascadeTimers_5 : ∃ (p : Fin 18) (a b : Nat) (s s0 : State), (s.isParent p) ∧ ((s.port p).st = .up) ∧ (s.ownerUp .cascade) ∧ (s.endHoldover = s0) ∧ (s0.cas.joined = false ∧ s0.cas.stepped = false) :=
  ⟨0, 5, 7, (live.modPort 0 fun x => { x with st := .up, rxKey := some 0, txKey := some 0 }).modCas fun c => { c with parent := 0 }, (live.modPort 0 fun x => { x with st := .up, rxKey := some 0, txKey := some 0 }).modCas fun c => { c with parent := 0 }, by decide +kernel⟩

theorem witness_CascadeTimers_6 : ∃ (p : Fin 18) (a b : Nat) (s s0 : State), (s.isParent p) ∧ ((s.port p).st = .up) ∧ (s.ownerUp .cascade) ∧ (s.endHoldover = s0) ∧ (s0.cas.joined ∨ s0.cas.stepped) :=
  ⟨0, 5, 7, (live.modPort 0 fun x => { x with st := .up, rxKey := some 0, txKey := some 0 }).modCas fun c => { c with parent := 0, joined := true }, (live.modPort 0 fun x => { x with st := .up, rxKey := some 0, txKey := some 0 }).modCas fun c => { c with parent := 0, joined := true }, by decide +kernel⟩

theorem witness_CascadeTimers_7 : ∃ (p : Fin 18) (a b d e : Nat) (s : State), (s.cas.syncTx = some (d, e)) ∧ (s.isParent p) ∧ ((s.port p).st = .up) ∧ (s.ownerUp .cascade) :=
  ⟨0, 5, 7, 1, 2, (live.modPort 0 fun x => { x with st := .up, rxKey := some 0, txKey := some 0 }).modCas fun c => { c with parent := 0, syncTx := some (1, 2) }, by decide +kernel⟩

theorem witness_CascadeTimers_8 : ∃ (s : State), (s.ownerUp .cascade) :=
  ⟨live, by decide +kernel⟩

theorem witness_CascadeTimers_9 : ∃ (s : State), (s.cas.holdover) ∧ (s.cas.holdTick + 10000000 ≤ s.tick) :=
  ⟨{ (live.modCas fun c => { c with holdover := true }) with tick := 10000000 }, by decide +kernel⟩

theorem witness_CascadeTimers_10 : ∃ (s : State), (s.cas.holdover = false ∨ s.tick < s.cas.holdTick + 10000000) :=
  ⟨live, by decide +kernel⟩

theorem witness_CascadeTimers_11 : ∃ (e : Fin 2) (d : BitVec 7) (l2 : Bool) (t : BitVec 64) (s : State), (s.isMaster) ∧ (s.ownerUp .cascade) ∧ ((s.eth e).takesPtp d l2) ∧ (s.cas.mst.placed = false) :=
  ⟨0, 0, true, 5, master.modEth 0 fun x => { x with link := true, ptpEn := true }, by decide +kernel⟩

theorem witness_CascadeTimers_12 : ∃ (e : Fin 2) (d : BitVec 7) (l2 : Bool) (t : BitVec 64) (s : State), (s.isMaster) ∧ (s.ownerUp .cascade) ∧ ((s.eth e).takesPtp d l2) ∧ (s.cas.mst.placed) :=
  ⟨0, 0, true, 5, (master.modEth 0 fun x => { x with link := true, ptpEn := true }).modMst fun m => { m with placed := true }, by decide +kernel⟩

theorem witness_CascadeTimers_13 : ∃ (s : State), (s.isMaster) ∧ (s.cas.ptpLost = false) ∧ ((s.eth 0).ptpEn || (s.eth 1).ptpEn) ∧ (s.ptpGone) :=
  ⟨{ (master.modEth 0 fun x => { x with ptpEn := true }).modCas fun c => { c with ptpTick := some 0 } with tick := 10000000000 }, by decide +kernel⟩

theorem witness_EthernetFrames_1 : ∃ (e : Fin 2) (k : FrameKind) (n t sym : Nat) (ok : Bool) (s : State), (s.ethUp e) ∧ (ok) ∧ (64 ≤ n ∧ n ≤ 9216) ∧ (t ≤ 1) ∧ (k.accepted) ∧ (∀ m l, k ≠ .pfc m l) :=
  ⟨0, .roce, 64, 0, 0, true, live.modEth 0 fun x => { x with link := true, ipv4 := 5, macLive := 9 }, by decide +kernel, by decide +kernel, by decide +kernel, by decide +kernel, by decide +kernel, by intro m l h; cases h⟩

theorem witness_EthernetFrames_2 : ∃ (e : Fin 2) (m : BitVec 8) (l : List (BitVec 16)) (n t sym : Nat) (s : State), (s.ethUp e) ∧ (64 ≤ n ∧ n ≤ 9216) ∧ (t ≤ 1) :=
  ⟨0, 1, [5], 64, 0, 0, live.modEth 0 fun x => { x with link := true, ipv4 := 5, macLive := 9 }, by decide +kernel⟩

theorem witness_EthernetFrames_3 : ∃ (e : Fin 2) (k : FrameKind) (n t sym : Nat) (ok : Bool) (s : State), (s.ethUp e) ∧ (ok = false ∨ n < 64 ∨ 9216 < n ∨ 1 < t ∨ k.accepted = false) :=
  ⟨0, .other, 64, 0, 0, true, live.modEth 0 fun x => { x with link := true, ipv4 := 5, macLive := 9 }, by decide +kernel⟩

theorem witness_EthernetFrames_4 : ∃ (e : Fin 2) (v6 : Bool) (a : BitVec 128) (s : State), (s.ethUp e) ∧ (s.oz.up) ∧ ((s.eth e).hasAddress v6 a) :=
  ⟨0, false, 5, live.modEth 0 fun x => { x with link := true, ipv4 := 5, macLive := 9 }, by decide +kernel⟩

theorem witness_EthernetFrames_5 : ∃ (e : Fin 2) (v6 : Bool) (a : BitVec 128) (s : State), ((s.eth e).hasAddress v6 a = false) :=
  ⟨0, false, 6, live.modEth 0 fun x => { x with link := true, ipv4 := 5, macLive := 9 }, by decide +kernel⟩

theorem witness_EthernetFrames_6 : ∃ (e : Fin 2) (s : State), ((s.eth e).link) :=
  ⟨0, live.modEth 0 fun x => { x with link := true, ipv4 := 5, macLive := 9 }, by decide +kernel⟩

theorem witness_EthernetFrames_7 : ∃ (e : Fin 2) (p : Fin 3) (s : State), ((s.eth e).link = false) ∧ (s.stewardUp e) ∧ (bit s.glb.fencedEths e.val = false) ∧ (s.deepSleep = false) :=
  ⟨0, 0, live, by decide +kernel⟩

theorem witness_RoceQueuePairs_1 : ∃ (e : Fin 2) (q : Fin 4096) (v : BitVec 64) (s : State), (s.takesDoorbell (.half e)) ∧ (((v.truncate 16 : BitVec 16) - (s.qp e q.val).sqHead).toNat ≤ 2 ^ (s.qp e q.val).sqLog2) :=
  ⟨0, 0, 1, rtsPair, by decide +kernel⟩

theorem witness_RoceQueuePairs_2 : ∃ (e : Fin 2) (q : Fin 4096) (v : BitVec 64) (s : State), (s.takesDoorbell (.half e)) ∧ (2 ^ (s.qp e q.val).sqLog2 < ((v.truncate 16 : BitVec 16) - (s.qp e q.val).sqHead).toNat) :=
  ⟨0, 0, 2, rtsPair, by decide +kernel⟩

theorem witness_RoceQueuePairs_3 : ∃ (e : Fin 2) (q : Fin 4096) (v : BitVec 64) (s : State), (s.takesDoorbell (.half e)) ∧ (((v.truncate 16 : BitVec 16) - (s.qp e q.val).rqHead).toNat ≤ 2 ^ (s.qp e q.val).rqLog2) :=
  ⟨0, 0, 1, rtsPair, by decide +kernel⟩

theorem witness_RoceQueuePairs_4 : ∃ (e : Fin 2) (q : Fin 4096) (v : BitVec 64) (s : State), (s.takesDoorbell (.half e)) ∧ (2 ^ (s.qp e q.val).rqLog2 < ((v.truncate 16 : BitVec 16) - (s.qp e q.val).rqHead).toNat) :=
  ⟨0, 0, 2, rtsPair, by decide +kernel⟩

theorem witness_RoceQueuePairs_5 : ∃ (e : Fin 2) (q : Fin 4096) (v : BitVec 64) (s : State), (s.takesDoorbell (.half e)) :=
  ⟨0, 0, 0, rtsPair, by decide +kernel⟩

theorem witness_RoceQueuePairs_6 : ∃ (e : Fin 2) (q : Fin 4096) (v : BitVec 64) (s : State) (n : Nat) (s1 : State), (s.takesDoorbell (.half e)) ∧ (s.readWqe ((s.eth e).qpBase.toNat + 128 * q.val) 128 = (n, s1)) :=
  ⟨0, 0, 0, ready, (ready.readWqe 0 128).1, (ready.readWqe 0 128).2, by decide +kernel, rfl⟩

theorem witness_RoceQueuePairs_7 : ∃ (e : Fin 2) (q : Fin 4096) (p : RocePkt) (s : State), (s.ethUp e) ∧ (p.icrcOk) ∧ ((s.qp e q.val).st = .rtr ∨ (s.qp e q.val).st = .rts) ∧ (p.op = 0x81) :=
  ⟨0, 0, { op := 0x81, psn := 0, ackReq := false, ce := false, icrcOk := true, options := false, va := 0, rkey := 0, len := 0, imm := 0, syndrome := 0, payload := [] }, rtsPair, by decide +kernel⟩

theorem witness_RoceQueuePairs_8 : ∃ (e : Fin 2) (q : Fin 4096) (p : RocePkt) (s : State), (s.ethUp e) ∧ (p.icrcOk) ∧ ((s.qp e q.val).st = .rtr ∨ (s.qp e q.val).st = .rts) ∧ (p.op.toNat ≤ 0x0C) ∧ (p.options = false) ∧ (p.payload.length ≤ (s.qp e q.val).pmtu) ∧ ((s.qp e q.val).cqFull = false) ∧ ((s.qp e q.val).blocked = []) :=
  ⟨0, 0, { op := 0x04, psn := 0, ackReq := false, ce := false, icrcOk := true, options := false, va := 0, rkey := 0, len := 0, imm := 0, syndrome := 0, payload := [] }, rtsPair, by decide +kernel⟩

theorem witness_RoceQueuePairs_9 : ∃ (e : Fin 2) (q : Fin 4096) (p : RocePkt) (s s1 : State), (s.ethUp e) ∧ (p.icrcOk) ∧ ((s.qp e q.val).st = .rts) ∧ (p.op = 0x11) ∧ (p.options = false) ∧ (p.payload.length ≤ (s.qp e q.val).pmtu) ∧ ((s.qp e q.val).cqFull = false) ∧ ((s.qp e q.val).blocked = []) ∧ ((s.noteCe e q.val p.ce).expireAck e q.val = s1) ∧ ((s1.qp e q.val).st = .rts) :=
  ⟨0, 0, { op := 0x11, psn := 0, ackReq := false, ce := false, icrcOk := true, options := false, va := 0, rkey := 0, len := 0, imm := 0, syndrome := 0, payload := [] }, rtsPair, (rtsPair.noteCe 0 0 false).expireAck 0 0, by decide +kernel, by decide +kernel, by decide +kernel, by decide +kernel, by decide +kernel, by decide +kernel, by decide +kernel, by decide +kernel, rfl, by decide +kernel⟩

theorem witness_RoceQueuePairs_10 : ∃ (e : Fin 2) (q : Fin 4096) (p : RocePkt) (s s1 : State), (s.ethUp e) ∧ (p.icrcOk) ∧ ((s.qp e q.val).st = .rts) ∧ (0x0D ≤ p.op.toNat ∧ p.op.toNat ≤ 0x10) ∧ (p.options = false) ∧ (p.payload.length ≤ (s.qp e q.val).pmtu) ∧ ((s.qp e q.val).cqFull = false) ∧ ((s.qp e q.val).blocked = []) ∧ ((s.noteCe e q.val p.ce).expireAck e q.val = s1) ∧ ((s1.qp e q.val).st = .rts) :=
  ⟨0, 0, { op := 0x10, psn := 0, ackReq := false, ce := false, icrcOk := true, options := false, va := 0, rkey := 0, len := 0, imm := 0, syndrome := 0, payload := [] }, rtsPair, (rtsPair.noteCe 0 0 false).expireAck 0 0, by decide +kernel, by decide +kernel, by decide +kernel, by decide +kernel, by decide +kernel, by decide +kernel, by decide +kernel, by decide +kernel, rfl, by decide +kernel⟩

theorem witness_RoceQueuePairs_11 : ∃ (e : Fin 2) (q : Fin 4096) (p : RocePkt) (s s1 : State), (s.ethUp e) ∧ (p.icrcOk) ∧ ((s.qp e q.val).st = .rts) ∧ (0x0D ≤ p.op.toNat ∧ p.op.toNat ≤ 0x11) ∧ (p.options = false) ∧ (p.payload.length ≤ (s.qp e q.val).pmtu) ∧ ((s.qp e q.val).cqFull = false) ∧ ((s.qp e q.val).blocked = []) ∧ ((s.noteCe e q.val p.ce).expireAck e q.val = s1) ∧ ((s1.qp e q.val).st ≠ .rts) :=
  ⟨0, 0, { op := 0x11, psn := 0, ackReq := false, ce := false, icrcOk := true, options := false, va := 0, rkey := 0, len := 0, imm := 0, syndrome := 0, payload := [] }, lateAck, (lateAck.noteCe 0 0 false).expireAck 0 0, by decide +kernel, by decide +kernel, by decide +kernel, by decide +kernel, by decide +kernel, by decide +kernel, by decide +kernel, by decide +kernel, rfl, by decide +kernel⟩

theorem witness_RoceQueuePairs_12 : ∃ (e : Fin 2) (q : Fin 4096) (p : RocePkt) (s : State), (s.ethUp e) ∧ (p.icrcOk) ∧ ((s.qp e q.val).st = .rtr ∨ (s.qp e q.val).st = .rts) ∧ (p.op ≠ 0x81) ∧ (p.options ∨ 0x11 < p.op.toNat ∨ (s.qp e q.val).pmtu < p.payload.length) :=
  ⟨0, 0, { op := 0x12, psn := 0, ackReq := false, ce := false, icrcOk := true, options := false, va := 0, rkey := 0, len := 0, imm := 0, syndrome := 0, payload := [] }, rtsPair, by decide +kernel⟩

theorem witness_RoceQueuePairs_13 : ∃ (e : Fin 2) (q : Fin 4096) (p : RocePkt) (s : State), (p.icrcOk = false) :=
  ⟨0, 0, { (({ op := 0x04, psn := 0, ackReq := false, ce := false, icrcOk := true, options := false, va := 0, rkey := 0, len := 0, imm := 0, syndrome := 0, payload := [] } : RocePkt)) with icrcOk := false }, rtsPair, by decide +kernel⟩

theorem witness_RoceQueuePairs_14 : ∃ (e : Fin 2) (q : Fin 4096) (s : State), (s.stewardUp e) ∧ ((s.qp e q.val).st = .rts) ∧ ((s.qp e q.val).unacked ≠ []) ∧ ((s.qp e q.val).sentTick + (s.qp e q.val).timeoutNs ≤ s.tick) ∧ ((s.qp e q.val).cqFull = false) ∧ ((s.qp e q.val).blocked = []) :=
  ⟨0, 0, { (rtsPair.modQp 0 0 fun x => { x with unacked := [{}] }) with tick := 4096 }, by decide +kernel⟩

theorem witness_RoceQueuePairs_15 : ∃ (e : Fin 2) (q : Fin 4096) (s : State), ((s.qp e q.val).cqFull ∨ (s.qp e q.val).blocked ≠ [] ∨ s.tick < (s.qp e q.val).sentTick + (s.qp e q.val).timeoutNs) :=
  ⟨0, 0, rtsPair, by decide +kernel⟩

theorem witness_RoceQueuePairs_16 : ∃ (e : Fin 2) (q : Fin 4096) (s : State) (t : Nat), ((s.qp e q.val).lastCnpRx = some t) ∧ (t + 55000 ≤ s.tick) ∧ (s.stewardUp e) :=
  ⟨0, 0, { (rtsPair.modQp 0 0 fun x => { x with rateMbps := 1000, lastCnpRx := some 0 }) with tick := 55000 }, 0, by decide +kernel⟩

theorem witness_ImageStore_1 : ∃ (n : Fin 16) (s : State) (bs : List (BitVec 8)) (s1 : State), (s.takesWrite .oz) ∧ (s.loadable n.val) ∧ (s.stackRead s.img.loadSrc.toNat (min s.img.loadLen.toNat placeBytes) = (.ok bs, s1)) :=
  ⟨0, loadable64, List.replicate 64 0, (loadable64.stackRead 0 64).2, by decide +kernel, by decide +kernel, okEq (by decide +kernel)⟩

theorem witness_ImageStore_2 : ∃ (n : Fin 16) (s : State) (e : BitVec 16) (s1 : State), (s.takesWrite .oz) ∧ (s.loadable n.val) ∧ (s.stackRead s.img.loadSrc.toNat (min s.img.loadLen.toNat placeBytes) = (.error e, s1)) :=
  ⟨0, loadFenced, 0x0507, (loadFenced.stackRead 0 64).2, by decide +kernel, by decide +kernel, errEq (by decide +kernel)⟩

theorem witness_ImageStore_3 : ∃ (n : Fin 16) (s : State), (s.takesWrite .oz) ∧ (s.loadable n.val = false) :=
  ⟨0, live.modImg fun i => { i with nplaces := 0 }, by decide +kernel⟩

theorem witness_ImageStore_4 : ∃ (n : Fin 16) (peer : BitVec 13) (m : Fin 16) (bs : List (BitVec 8)) (s : State), (s.takesWrite .oz) ∧ (s.loadable n.val) :=
  ⟨0, 1, 0, [], live, by decide +kernel⟩

theorem witness_ImageStore_5 : ∃ (n : Fin 16) (peer : BitVec 13) (m : Fin 16) (s : State), (s.takesWrite .oz) ∧ (s.loadable n.val) :=
  ⟨0, 1, 0, live, by decide +kernel⟩

theorem witness_ImageStore_6 : ∃ (src : BitVec 13) (n : Fin 16) (s : State), (s.oz.up) ∧ ((s.imgPlace n.val).st ≠ .verified) :=
  ⟨1, 0, live, by decide +kernel⟩

theorem witness_ImageStore_7 : ∃ (src : BitVec 13) (n : Fin 16) (s s1 : State), (s.oz.up) ∧ ((s.imgPlace n.val).st = .verified) ∧ (s.checkImage n.val = (none, s1)) :=
  ⟨1, 0, live.modImgPlace 0 fun x => { x with st := .verified }, (live.modImgPlace 0 fun x => { x with st := .verified }), by decide +kernel⟩

theorem witness_ImageStore_8 : ∃ (src : BitVec 13) (n : Fin 16) (s : State) (e : BitVec 16) (s1 : State), (s.oz.up) ∧ ((s.imgPlace n.val).st = .verified) ∧ (s.checkImage n.val = (some e, s1)) :=
  ⟨1, 0, imgGone, 0x0501, (imgGone.checkImage 0).2, by decide +kernel⟩

theorem witness_ImageStore_9 : ∃ (n : Fin 16) (s : State) (e : Option (BitVec 16)) (s0 : State), (s.oz.up) ∧ ((s.imgPlace n.val).st = .verifying) ∧ (s.checkImage n.val = (e, s0)) :=
  ⟨0, live.modImgPlace 0 fun x => { x with st := .verifying }, none, (live.modImgPlace 0 fun x => { x with st := .verifying }), by decide +kernel⟩

theorem witness_ImageStore_10 : ∃ (n : Fin 16) (s : State), (s.takesWrite .oz) ∧ (s.img.staging = none) ∧ (s.img.swap.phase = .idle) ∧ (s.stageable n.val) :=
  ⟨0, stageReady, by decide +kernel⟩

theorem witness_ImageStore_11 : ∃ (n : Fin 16) (s : State), (s.takesWrite .oz) ∧ (s.stageable n.val = false) :=
  ⟨0, live, by decide +kernel⟩

theorem witness_ImageStore_12 : ∃ (v : BitVec 13) (s : State), (s.takesWrite .oz) ∧ ((List.range 16).all fun p => (s.imgPlace p).st = .empty) :=
  ⟨5, live, by decide +kernel, List.all_eq_true.mpr fun p _ => decide_eq_true (by unfold State.imgPlace; split <;> rfl)⟩

theorem witness_ImageStore_13 : ∃ (v : BitVec 13) (n : Fin 16) (s : State), (s.takesWrite .oz) ∧ ((s.imgPlace n.val).st ≠ .empty) :=
  ⟨5, 3, live.modImgPlace 3 fun x => { x with st := .verified }, by decide +kernel⟩

theorem witness_ImageSwap_1 : ∃ (s : State), (s.takesWrite .oz) ∧ (s.img.shadow.isSome) ∧ (s.img.swap.phase = .idle) :=
  ⟨live.modImg fun i => { i with shadow := some (1, blank) }, by decide +kernel⟩

theorem witness_ImageSwap_2 : ∃ (s : State), (s.takesWrite .oz) ∧ (s.img.shadow.isSome) ∧ (s.img.swap.phase = .idle) :=
  ⟨live.modImg fun i => { i with shadow := some (1, blank) }, by decide +kernel⟩

theorem witness_ImageSwap_3 : ∃ (s : State), (s.takesWrite .oz) ∧ (s.img.shadow = none ∨ s.img.swap.phase ≠ .idle) :=
  ⟨live, by decide +kernel⟩

theorem witness_ImageSwap_4 : ∃ (s : State), (s.takesWrite .oz) ∧ (s.img.swap.mode ≠ 2) ∧ (s.img.swap.phase = .armed ∨ s.img.swap.phase = .draining) :=
  ⟨live.modImg fun i => { i with shadow := some (1, blank), swap := { mode := 1, phase := .draining, limit := 1 } }, by decide +kernel⟩

theorem witness_ImageSwap_5 : ∃ (s : State), (s.takesWrite .oz) ∧ (s.img.swap.mode = 2 ∨ s.img.swap.phase = .idle ∨ s.img.swap.phase = .preparing ∨ s.img.swap.phase = .switching) :=
  ⟨live, by decide +kernel⟩

theorem witness_ImageSwap_6 : ∃ (s : State) (p : Nat) (g : ImgCfg), (s.img.shadow = some (p, g)) ∧ (s.img.swap.phase = .draining) ∧ (s.tick < s.img.swap.tick + 1000 * s.img.swap.limit) ∧ (s.quiescent g) :=
  ⟨live.modImg fun i => { i with shadow := some (1, blank), swap := { mode := 1, phase := .draining, limit := 1 } }, 1, blank, by decide +kernel⟩

theorem witness_ImageSwap_7 : ∃ (s : State) (p : Nat) (g : ImgCfg), (s.img.shadow = some (p, g)) ∧ (s.quiescent g = false) :=
  ⟨(live.modImg fun i => { i with shadow := some (1, blank), swap := { mode := 1, phase := .draining, limit := 1 } }).modSeq 0 fun q => { q with tasks := [task1] }, 1, blank, by decide +kernel⟩

theorem witness_ImageSwap_8 : ∃ (s : State), (s.img.swap.phase = .draining) ∧ (s.img.swap.tick + 1000 * s.img.swap.limit ≤ s.tick) :=
  ⟨live.modImg fun i => { i with shadow := some (1, blank), swap := { mode := 1, phase := .draining, limit := 0 } }, by decide +kernel⟩

theorem witness_ImageSwap_9 : ∃ (s : State) (p : Nat) (g : ImgCfg), (s.img.shadow = some (p, g)) ∧ (s.img.swap.phase = .preparing) ∧ (s.tick ≤ s.img.swap.tick + 22000) :=
  ⟨live.modImg fun i => { i with shadow := some (1, blank), swap := { mode := 1, phase := .preparing, limit := 1 } }, 1, blank, by decide +kernel⟩

theorem witness_ImageSwap_10 : ∃ (s : State), (s.img.swap.phase = .preparing) ∧ (s.img.swap.tick + 20000 ≤ s.tick) ∧ (s.img.swap.mode ≠ 2) :=
  ⟨{ (live.modImg fun i => { i with shadow := some (1, blank), swap := { mode := 1, phase := .preparing, limit := 1 } }) with tick := 20000 }, by decide +kernel⟩

theorem witness_ImageSwap_11 : ∃ (s : State), (s.img.swap.phase = .preparing) ∧ (s.img.swap.tick + 20000 ≤ s.tick) ∧ (s.img.swap.mode = 2) :=
  ⟨{ (live.modImg fun i => { i with swap := { mode := 2, phase := .preparing } }) with tick := 20000 }, by decide +kernel⟩

theorem witness_ImageSwap_12 : ∃ (s : State) (p : Nat) (g : ImgCfg), (s.img.active = some (p, g)) ∧ (s.img.swap.phase = .switching) ∧ (s.img.shadow = none) ∧ (s.glb.fencePath = none) :=
  ⟨live.modImg fun i => { i with lastTrainCfg := some blank, active := some (1, blank), swap := { mode := 1, phase := .switching } }, 1, blank, by decide +kernel⟩

theorem witness_ImageSwap_13 : ∃ (s : State) (p : Nat) (g : ImgCfg), (s.img.active = some (p, g)) ∧ (s.img.swap.phase = .switching) :=
  ⟨live.modImg fun i => { i with lastTrainCfg := some blank, active := some (1, blank), swap := { mode := 1, phase := .switching } }, 1, blank, by decide +kernel⟩

theorem witness_ImageSwap_14 : ∃ (s : State), (s.img.swap.phase ≠ .switching) :=
  ⟨live, by decide +kernel⟩

theorem witness_ImageSwap_15 : ∃ (s : State) (p t : Nat) (g : ImgCfg), (s.img.staging = some (p, t)) ∧ ((s.imgPlace p).cfg = some g) ∧ (s.glb.fencePath = none) ∧ (s.stagingFit p) :=
  ⟨stageReady.modImg fun i => { i with staging := some (0, 0) }, 0, 0, { blank with ports := [{ module := 0 }] }, by decide +kernel⟩

theorem witness_FencesByOztas_1 : ∃ (c : Fin 8) (a : BitVec 16) (d : BitVec 32) (s : State), (s.decidesFences) ∧ (coreFenceCauses.contains a) ∧ (s.coreFenced c = false) ∧ (s.glb.mode ≠ .service) :=
  ⟨0, 0x0C06, 0, live.modGlb fun g => { g with mode := .starting }, by decide +kernel⟩

theorem witness_FencesByOztas_2 : ∃ (c : Fin 8) (a : BitVec 16) (d : BitVec 32) (s : State), (s.decidesFences) ∧ (coreFenceCauses.contains a) :=
  ⟨0, 0x0C06, 0, live, by decide +kernel⟩

theorem witness_FencesByOztas_3 : ∃ (c : Fin 8) (h : Fin 2) (a : BitVec 16) (d : BitVec 32) (s : State), ((coreFenceCauses ++ halfFenceCauses ++ moduleFenceCauses).contains a = false) :=
  ⟨0, 0, 0x0D01, 0, live, by decide +kernel⟩

theorem witness_FencesByOztas_4 : ∃ (c : Fin 8) (a : BitVec 16) (d : BitVec 32) (s : State), (s.coreFenced c) :=
  ⟨0, 0x0C06, 0, live.modGlb fun g => { g with fencedCores := 1 }, by decide +kernel⟩

theorem witness_FencesByOztas_5 : ∃ (h : Fin 2) (a : BitVec 16) (d : BitVec 32) (s : State), (s.decidesFences) ∧ (halfFenceCauses.contains a) :=
  ⟨0, 0x0A07, 0, live, by decide +kernel⟩

theorem witness_FencesByOztas_6 : ∃ (a : BitVec 16) (d : BitVec 32) (s : State), (s.oz.up) ∧ (moduleFenceCauses.contains a) ∧ (s.glb.moduleFenced = false) :=
  ⟨0x0C09, 0, live, by decide +kernel⟩

theorem witness_FencesByOztas_7 : ∃ (a : BitVec 16) (d : BitVec 32) (s : State), (s.glb.moduleFenced) :=
  ⟨0, 0, live.modGlb fun g => { g with moduleFenced := true }, by decide +kernel⟩

theorem witness_OperatingPoints_1 : ∃ (h : Fin 2) (s : State), (s.clocked h) ∧ (s.pwr.state = 0) ∧ (s.awake) :=
  ⟨0, live, by decide +kernel⟩

theorem witness_OperatingPoints_2 : ∃ (h : Fin 2) (s : State), (s.pwr.state ≠ 0 ∨ s.awake = false ∨ s.clocked h = false) :=
  ⟨0, live.modPwr fun p => { p with state := 1 }, by decide +kernel⟩

theorem witness_OperatingPoints_3 : ∃ (h : Fin 2) (s : State), (s.clocked h) ∧ ((s.half h).switch ≠ .idle ∧ (s.half h).switch ≠ .switching) ∧ ((s.half h).droopHolds) :=
  ⟨0, live.modHalf 0 fun y => { y with switch := .relocking, target := 6, gear4 := true }, by decide +kernel⟩

theorem witness_OperatingPoints_4 : ∃ (h : Fin 2) (s : State), (s.clocked h) ∧ ((s.half h).switch ≠ .idle ∧ (s.half h).switch ≠ .switching) ∧ ((s.half h).droopHolds = false) ∧ ((s.half h).swPhase = false ∨ (s.half h).fallTo (s.half h).target ≤ (s.half h).fallLeft) :=
  ⟨0, live.modHalf 0 fun y => { y with switch := .relocking, target := 6 }, by decide +kernel⟩

theorem witness_OperatingPoints_5 : ∃ (h : Fin 2) (s : State), (s.clocked h) ∧ ((s.half h).droopHolds = false) ∧ ((s.half h).swPhase) ∧ ((s.half h).fallLeft < (s.half h).fallTo (s.half h).target) :=
  ⟨0, live.modHalf 0 fun y => { y with switch := .relocking, target := 6, swPhase := true, running := 0, scalingW := 100 }, by decide +kernel⟩

theorem witness_OperatingPoints_6 : ∃ (h : Fin 2) (s : State), (s.clocked h) ∧ ((s.half h).switch = .switching) :=
  ⟨0, live.modHalf 0 fun y => { y with switch := .switching, target := 6 }, by decide +kernel⟩

theorem witness_OperatingPoints_7 : ∃ (h : Fin 2) (s : State), (s.clocked h) :=
  ⟨0, live, by decide +kernel⟩

theorem witness_OperatingPoints_8 : ∃ (h : Fin 2) (s : State), (s.stewardUp h) ∧ ((s.half h).pllLost) ∧ (s.tick < (s.half h).pllLostTick + 100000) :=
  ⟨0, live.modHalf 0 fun y => { y with pllLost := true }, by decide +kernel⟩

theorem witness_OperatingPoints_9 : ∃ (h : Fin 2) (s : State), (s.stewardUp h) ∧ (s.oz.up) ∧ (s.glb.moduleFenced = false) ∧ ((s.half h).pllLost) ∧ ((s.half h).pllLostTick + 100000 ≤ s.tick) :=
  ⟨0, { (live.modHalf 0 fun y => { y with pllLost := true }) with tick := 100000 }, by decide +kernel⟩

theorem witness_OperatingPoints_10 : ∃ (h : Fin 2) (s : State), ((s.half h).pllLost = false ∨ s.tick < (s.half h).pllLostTick + 100000) :=
  ⟨0, live, by decide +kernel⟩

theorem witness_OperatingPoints_11 : ∃ (h : Fin 2) (s : State), ((s.half h).forced7) ∧ ((s.half h).lockTick + 1000000 ≤ s.tick) :=
  ⟨0, { (live.modHalf 0 fun y => { y with forced7 := true }) with tick := 1000000 }, by decide +kernel⟩

theorem witness_OperatingPoints_12 : ∃ (h : Fin 2) (s : State), (s.clocked h) :=
  ⟨0, live, by decide +kernel⟩

theorem witness_OperatingPoints_13 : ∃ (h : Fin 2) (s : State), ((s.half h).gear4) ∧ ((s.half h).droopUntil ≤ (s.half h).arrCycle) :=
  ⟨0, live.modHalf 0 fun y => { y with gear4 := true }, by decide +kernel⟩

theorem witness_OperatingPoints_14 : ∃ (h : Fin 2) (s : State), ((s.half h).gear4 = false ∨ (s.half h).arrCycle < (s.half h).droopUntil) :=
  ⟨0, live, by decide +kernel⟩

theorem witness_PowerCapAndHeat_1 : ∃ (a e o r : Nat) (s : State), (s.awake) ∧ (s.oz.up) ∧ (s.pwr.distrusted = false) ∧ (s.pwr.implausible r = false) ∧ (s.pwr.cap.toNat < max (gainTimes s.pwr.gain a + gainTimes s.pwr.gain e + o + 30) (s.pwr.inputW + r - s.pwr.railsAt)) :=
  ⟨1500, 0, 0, 200, live, by decide +kernel⟩

theorem witness_PowerCapAndHeat_2 : ∃ (a e o r : Nat) (s : State), (s.awake) ∧ (s.oz.up) ∧ (s.pwr.distrusted = false) ∧ (s.pwr.implausible r = false) ∧ (100 * max (gainTimes s.pwr.gain a + gainTimes s.pwr.gain e + o + 30) (s.pwr.inputW + r - s.pwr.railsAt) ≤ 95 * s.pwr.cap.toNat) :=
  ⟨0, 0, 0, 200, live, by decide +kernel⟩

theorem witness_PowerCapAndHeat_3 : ∃ (a e o r : Nat) (s : State), (s.awake) ∧ (s.oz.up) ∧ (s.pwr.distrusted = false) ∧ (s.pwr.implausible r = false) ∧ (max (gainTimes s.pwr.gain a + gainTimes s.pwr.gain e + o + 30) (s.pwr.inputW + r - s.pwr.railsAt) ≤ s.pwr.cap.toNat) ∧ (95 * s.pwr.cap.toNat < 100 * max (gainTimes s.pwr.gain a + gainTimes s.pwr.gain e + o + 30) (s.pwr.inputW + r - s.pwr.railsAt)) :=
  ⟨0, 0, 960, 200, live.modPwr fun p => { p with cap := 1000 }, by decide +kernel⟩

theorem witness_PowerCapAndHeat_4 : ∃ (a e o r : Nat) (s s0 : State), (s.awake) ∧ (s.oz.up) ∧ ((if s.pwr.implausible r && !s.pwr.distrusted then s.distrust else s) = s0) ∧ (s0.pwr.distrusted) :=
  ⟨0, 0, 0, 0, live, live.distrust, by decide +kernel, by decide +kernel, rfl, by decide +kernel⟩

theorem witness_PowerCapAndHeat_5 : ∃ (s : State) (t : Nat), (s.pwr.overSince = some t) ∧ (s.pwr.capUnmet = false) ∧ (t + 1000000 ≤ s.tick) ∧ (s.awake) :=
  ⟨{ (live.modPwr fun p => { p with overSince := some 0 }) with tick := 1000000 }, 0, by decide +kernel⟩

theorem witness_PowerCapAndHeat_6 : ∃ (s : State), (s.pwr.overSince = none ∨ s.awake = false) :=
  ⟨live, by decide +kernel⟩

theorem witness_PowerCapAndHeat_7 : ∃ (r : Nat) (s : State), (s.awake) ∧ (s.oz.up) ∧ (s.pwr.implausible r) ∧ (s.pwr.distrusted = false) :=
  ⟨0, live, by decide +kernel⟩

theorem witness_PowerCapAndHeat_8 : ∃ (r : Nat) (s : State), (s.awake) ∧ (s.oz.up) ∧ (s.pwr.implausible r = false) ∧ (s.pwr.distrusted = false) ∧ (gap s.pwr.meanE r ≤ 225) :=
  ⟨200, live, by decide +kernel⟩

theorem witness_PowerCapAndHeat_9 : ∃ (r : Nat) (s : State), (s.awake) ∧ (s.oz.up) ∧ (s.pwr.implausible r = false) ∧ (s.pwr.distrusted) :=
  ⟨200, live.modPwr fun p => { p with distrusted := true }, by decide +kernel⟩

theorem witness_PowerCapAndHeat_10 : ∃ (h : Fin 2) (f e : Nat) (s : State), (s.clocked h) ∧ (s.pwr.state = 0) ∧ (s.knownMarker = none) :=
  ⟨0, 1, 1, live, by decide +kernel⟩

theorem witness_PowerCapAndHeat_11 : ∃ (h : Fin 2) (j : Nat) (l : List Nat) (s : State), (s.awake) ∧ ((s.half h).thermEpisode = false) ∧ (400 ≤ j ∨ 380 ≤ l.foldl max 0) :=
  ⟨0, 400, [], live, by decide +kernel⟩

theorem witness_PowerCapAndHeat_12 : ∃ (h : Fin 2) (s : State), (s.awake) ∧ ((s.half h).thermEasing) ∧ ((s.half h).thermTick + 1000000 ≤ s.tick) :=
  ⟨0, { (live.modHalf 0 fun y => { y with thermEasing := true, thermLimit := 2 }) with tick := 1000000 }, by decide +kernel⟩

theorem witness_PowerCapAndHeat_13 : ∃ (s : State), (s.pwr.convAlert = false) ∧ (s.awake) :=
  ⟨live, by decide +kernel⟩

theorem witness_PowerCapAndHeat_14 : ∃ (s : State), (s.pwr.convAlert ∨ s.awake = false) :=
  ⟨live.modPwr fun p => { p with convAlert := true }, by decide +kernel⟩

theorem witness_PowerCapAndHeat_15 : ∃ (s : State), (s.pwr.alertLow) ∧ (s.pwr.convAlert = false) ∧ (s.pwr.alertHighTick + 1000000 ≤ s.tick) ∧ (s.pwr.alertFall + 1000000 ≤ s.tick) :=
  ⟨{ (live.modPwr fun p => { p with alertLow := true }) with tick := 1000000 }, by decide +kernel⟩

theorem witness_PowerCapAndHeat_16 : ∃ (n : Fin 64) (s : State), (s.pwr.tripped = false) ∧ (s.pwr.off = false) :=
  ⟨0, live, by decide +kernel⟩

theorem witness_PowerCapAndHeat_17 : ∃ (n : Fin 64) (s : State), (s.pwr.tripped = false) ∧ (s.pwr.off) :=
  ⟨0, live.modPwr fun p => { p with off := true }, by decide +kernel⟩

theorem witness_PowerStates_1 : ∃ (s : State), (s.takesWrite .oz) ∧ (s.glb.mode = .service) ∧ (s.pwr.tripped = false) ∧ (s.pwr.railsLatched = false) ∧ (s.pwr.state = 1) :=
  ⟨live.modPwr fun p => { p with state := 1 }, by decide +kernel⟩

theorem witness_PowerStates_2 : ∃ (s : State), (s.takesWrite .oz) ∧ (s.pwr.tripped = false) ∧ (s.pwr.railsLatched = false) ∧ (s.pwr.state = 2) :=
  ⟨live.modPwr fun p => { p with state := 2 }, by decide +kernel⟩

theorem witness_PowerStates_3 : ∃ (s : State), (s.takesWrite .oz) ∧ (s.pwr.tripped = false) ∧ (s.pwr.railsLatched = false) ∧ (s.pwr.state = 3) :=
  ⟨live.modPwr fun p => { p with state := 3 }, by decide +kernel⟩

theorem witness_PowerStates_4 : ∃ (s : State), (s.takesWrite .oz) ∧ (s.pwr.tripped ∨ s.pwr.railsLatched ∨ (s.pwr.state = 0 ∧ s.glb.mode = .starting)) :=
  ⟨live.modPwr fun p => { p with tripped := true }, by decide +kernel⟩

theorem witness_PowerStates_5 : ∃ (s : State), (s.takesWrite .oz) ∧ (s.glb.mode = .service) ∧ (s.pwr.tripped = false) ∧ (s.pwr.railsLatched = false) ∧ (s.pwr.state = 0) ∧ (s.quiet) :=
  ⟨live, by decide +kernel⟩

theorem witness_PowerStates_6 : ∃ (s : State), (s.takesWrite .oz) ∧ (s.glb.mode = .service) ∧ (s.pwr.tripped = false) ∧ (s.pwr.railsLatched = false) ∧ (s.pwr.state = 0) ∧ (s.quiet = false) :=
  ⟨live.modSeq 0 fun q => { q with tasks := [task1] }, by decide +kernel⟩

theorem witness_PowerStates_7 : ∃ (s : State), (s.takesWrite .oz) ∧ (2 ≤ s.pwr.state) :=
  ⟨live.modPwr fun p => { p with state := 2 }, by decide +kernel⟩

theorem witness_PowerStates_8 : ∃ (s : State), (s.takesWrite .oz) ∧ (s.glb.mode = .service) ∧ (s.pwr.tripped = false) ∧ (s.pwr.railsLatched = false) ∧ (s.pwr.state = 1) ∧ (s.listed = false) ∧ (s.portsUnused) :=
  ⟨live.modPwr fun p => { p with state := 1 }, by decide +kernel⟩

theorem witness_PowerStates_9 : ∃ (s : State), (s.takesWrite .oz) ∧ ((s.glb.mode = .service ∧ s.pwr.state = 2) = False) ∧ ((s.glb.mode = .service ∧ s.pwr.state = 1 ∧ s.listed = false ∧ s.portsUnused ∧ s.pwr.tripped = false ∧ s.pwr.railsLatched = false) = False) :=
  ⟨live, by decide +kernel⟩

theorem witness_PowerStates_10 : ∃ (s : State), (s.takesWrite .oz) ∧ (s.pwr.state ≠ 3) :=
  ⟨live, by decide +kernel⟩

theorem witness_PowerStates_11 : ∃ (s : State), (s.takesWrite .oz) :=
  ⟨live, by decide +kernel⟩

theorem witness_PowerStates_12 : ∃ (s : State) (t : Nat), (s.pwr.state = 1) ∧ (s.pwr.m1Wake = some t ∨ (s.knownMarker = some t ∧ t ≤ s.tick + 2000)) :=
  ⟨live.modPwr fun p => { p with state := 1, m1Wake := some 0 }, 0, by decide +kernel⟩

theorem witness_PowerStates_13 : ∃ (s : State), (s.pwr.state ≠ 1 ∨ (s.pwr.m1Wake = none ∧ (s.knownMarker.all fun t => decide (s.tick + 2000 < t)))) :=
  ⟨live, by decide +kernel⟩

theorem witness_SupplyAndStartUp_1 : ∃ (mv : Nat) (b : Bool) (x : BitVec 2) (s : State), (s.pwr.on_ = false) ∧ (38000 ≤ mv) :=
  ⟨48000, true, 0, live.modPwr fun p => { p with on_ := false }, by decide +kernel⟩

theorem witness_SupplyAndStartUp_2 : ∃ (mv : Nat) (b : Bool) (x : BitVec 2) (s : State), (s.pwr.on_ ∨ mv < 38000) :=
  ⟨0, true, 0, live, by decide +kernel⟩

theorem witness_SupplyAndStartUp_3 : ∃ (mv : Nat) (s : State), (s.pwr.on_) ∧ (mv < 35000) :=
  ⟨0, live, by decide +kernel⟩

theorem witness_SupplyAndStartUp_4 : ∃ (mv : Nat) (s : State), (s.pwr.on_) ∧ (s.pwr.convAlert = false) ∧ (mv < 40000) :=
  ⟨39000, live, by decide +kernel⟩

theorem witness_SupplyAndStartUp_5 : ∃ (mv : Nat) (s : State), (s.pwr.on_) ∧ (s.pwr.convAlert) ∧ (40000 ≤ mv) :=
  ⟨48000, live.modPwr fun p => { p with convAlert := true }, by decide +kernel⟩

theorem witness_SupplyAndStartUp_6 : ∃ (ma : Nat) (s : State), (s.pwr.on_) ∧ (s.pwr.off = false) ∧ (s.pwr.railsLatched = false) ∧ (46000 < ma) :=
  ⟨50000, live, by decide +kernel⟩

theorem witness_SupplyAndStartUp_7 : ∃ (mv : Nat) (s : State), (s.pwr.on_) ∧ (s.pwr.off = false) ∧ (s.pwr.railsLatched = false) ∧ (62000 < mv) :=
  ⟨63000, live, by decide +kernel⟩

theorem witness_SupplyAndStartUp_8 : ∃ (s : State), (s.pwr.on_) :=
  ⟨live, by decide +kernel⟩

theorem witness_SupplyAndStartUp_9 : ∃ (x : BitVec 2) (s : State), (s.pwr.on_) ∧ (s.pwr.modEn = false) :=
  ⟨1, live.modPwr fun p => { p with modEn := false }, by decide +kernel⟩

theorem witness_SupplyAndStartUp_10 : ∃ (s : State), (s.host.perst) ∧ (s.host.configUp) :=
  ⟨live.modHost fun h => { h with configUp := true }, by decide +kernel⟩

theorem witness_SupplyAndStartUp_11 : ∃ (s : State), (s.host.perst = false) :=
  ⟨live.modHost fun h => { h with perst := false }, by decide +kernel⟩

theorem witness_SupplyAndStartUp_12 : ∃ (l : HostLink) (s : State), (s.host.perst = false) ∧ (s.oz.up) ∧ (4 ≤ s.glb.step) :=
  ⟨{ rate := 0, width := 16, flit := false, cxl := false }, (live.modHost fun h => { h with perst := false }).modGlb fun g => { g with step := 11 }, by decide +kernel⟩

theorem witness_SupplyAndStartUp_13 : ∃ (s : State), (s.host.linkUp) ∧ (s.oz.up) ∧ (s.glb.mode = .service) ∧ (s.glb.bootStop = 0) ∧ (s.pwr.tripped = false) ∧ (s.pwr.railsLatched = false) ∧ (4 ≤ s.glb.step) :=
  ⟨live.modGlb fun g => { g with step := 11 }, by decide +kernel⟩

theorem witness_SupplyAndStartUp_14 : ∃ (f : BootFound) (s : State), (s.booting) ∧ (s.tick < s.glb.startTick + s.latestNs s.glb.step ∨ s.glb.step = 3 ∨ s.glb.step = 10) :=
  ⟨{ badCopyA := false, badCopyB := false, link := { rate := 5, width := 16, flit := true, cxl := false }, badSpares := [], failedRows := [], lines := [], badScratch := [], failedPorts := [] }, State.reset, by decide +kernel⟩

theorem witness_SupplyAndStartUp_15 : ∃ (late : List Nat) (f : BootFound) (s : State), (s.booting) ∧ (s.glb.startTick + s.latestNs s.glb.step ≤ s.tick) ∧ (4 ≤ s.glb.step ∧ s.glb.step < 10) :=
  ⟨[], { badCopyA := false, badCopyB := false, link := { rate := 5, width := 16, flit := true, cxl := false }, badSpares := [], failedRows := [], lines := [], badScratch := [], failedPorts := [] }, { (State.reset.modGlb fun g => { g with step := 4 }) with tick := 150000000 }, by decide +kernel⟩

theorem witness_SupplyAndStartUp_16 : ∃ (late : List Nat) (f : BootFound) (s : State), (s.booting) ∧ (s.glb.startTick + s.latestNs s.glb.step ≤ s.tick) ∧ (s.glb.step = 2) ∧ (s.glb.moduleFenced = false) :=
  ⟨[], { badCopyA := false, badCopyB := false, link := { rate := 5, width := 16, flit := true, cxl := false }, badSpares := [], failedRows := [], lines := [], badScratch := [], failedPorts := [] }, { (State.reset.modGlb fun g => { g with step := 2 }) with tick := 60000000 }, by decide +kernel⟩

theorem witness_SupplyAndStartUp_17 : ∃ (late : List Nat) (f : BootFound) (s : State), (s.booting) ∧ (s.glb.startTick + s.latestNs s.glb.step ≤ s.tick) ∧ (s.glb.step = 0) :=
  ⟨[], { badCopyA := false, badCopyB := false, link := { rate := 5, width := 16, flit := true, cxl := false }, badSpares := [], failedRows := [], lines := [], badScratch := [], failedPorts := [] }, { (State.reset.modGlb fun g => { g with step := 0 }) with tick := 60000000000 }, by decide +kernel⟩

theorem witness_SupplyAndStartUp_18 : ∃ (late : List Nat) (f : BootFound) (s : State), (s.booting) ∧ (s.glb.startTick + s.latestNs s.glb.step ≤ s.tick) ∧ (s.glb.step = 1) :=
  ⟨[], { badCopyA := false, badCopyB := false, link := { rate := 5, width := 16, flit := true, cxl := false }, badSpares := [], failedRows := [], lines := [], badScratch := [], failedPorts := [] }, { (State.reset.modGlb fun g => { g with step := 1 }) with tick := 60000000000 }, by decide +kernel⟩

theorem witness_SupplyAndStartUp_19 : ∃ (late : List Nat) (f : BootFound) (s : State), (s.glb.step = 3 ∨ s.glb.step = 10 ∨ s.tick < s.glb.startTick + s.latestNs s.glb.step) :=
  ⟨[], { badCopyA := false, badCopyB := false, link := { rate := 5, width := 16, flit := true, cxl := false }, badSpares := [], failedRows := [], lines := [], badScratch := [], failedPorts := [] }, { (State.reset.modGlb fun g => { g with step := 3 }) with tick := 60000000000 }, by decide +kernel⟩

theorem witness_SupplyAndStartUp_20 : ∃ (late : List Nat) (f : BootFound) (s : State), (s.booting) ∧ (s.glb.startTick + s.latestNs s.glb.step ≤ s.tick) ∧ (s.glb.step = 2) ∧ (s.glb.moduleFenced) :=
  ⟨[], { badCopyA := false, badCopyB := false, link := { rate := 5, width := 16, flit := true, cxl := false }, badSpares := [], failedRows := [], lines := [], badScratch := [], failedPorts := [] }, { (State.reset.modGlb fun g => { g with step := 2, moduleFenced := true }) with tick := 60000000000 }, by decide +kernel⟩

theorem witness_SupplyAndStartUp_21 : ∃ (a b c d e : BitVec 16) (s : State), (s.oz.up) :=
  ⟨1, 2, 3, 4, 5, live, by decide +kernel⟩

theorem witness_SupplyAndStartUp_22 : ∃ (a : BitVec 7) (s : State), (s.sideband) :=
  ⟨8, live, by decide +kernel⟩

theorem witness_HostWindows_1 : ∃ (a : BitVec 41) (n : Nat) (d : List (BitVec 8)) (s : State) (bs : List (BitVec 8)) (s1 : State), (s.hostHears) ∧ (s.windowClosed = false) ∧ (0 < n ∧ n ≤ 4096 ∧ a.toNat % 4096 + n ≤ 4096) ∧ (s.stackRead a.toNat n = (.ok bs, s1)) :=
  ⟨0, 4, [], ready, [0, 0, 0, 0], (ready.stackRead 0 4).2, by decide +kernel, by decide +kernel, by decide +kernel, okEq (by decide +kernel)⟩

theorem witness_HostWindows_2 : ∃ (a : BitVec 41) (n : Nat) (d : List (BitVec 8)) (s : State) (e : BitVec 16) (s1 : State), (s.hostHears) ∧ (s.windowClosed = false) ∧ (0 < n ∧ n ≤ 4096 ∧ a.toNat % 4096 + n ≤ 4096) ∧ (s.stackRead a.toNat n = (.error e, s1)) :=
  ⟨0, 4, [], loadFenced, 0x0507, (loadFenced.stackRead 0 4).2, by decide +kernel, by decide +kernel, by decide +kernel, errEq (by decide +kernel)⟩

theorem witness_HostWindows_3 : ∃ (a : BitVec 41) (n : Nat) (d : List (BitVec 8)) (s : State), (s.hostHears) ∧ (s.windowClosed = false) ∧ (0 < d.length ∧ d.length ≤ 512 ∧ a.toNat % 4096 + d.length ≤ 4096) :=
  ⟨0, 0, [1], ready, by decide +kernel⟩

theorem witness_HostWindows_4 : ∃ (a : BitVec 41) (n : Nat) (d : List (BitVec 8)) (s : State), (s.hostHears) ∧ (s.windowClosed = false) ∧ (4096 < n ∨ 4096 < a.toNat % 4096 + n) ∧ (n ≠ 0) :=
  ⟨0, 4097, [], live, by decide +kernel⟩

theorem witness_HostWindows_5 : ∃ (a : BitVec 41) (n : Nat) (d : List (BitVec 8)) (s : State), (s.hostHears) ∧ (s.windowClosed) ∧ (0 < n ∧ n ≤ 4096 ∧ a.toNat % 4096 + n ≤ 4096) :=
  ⟨0, 4, [], live.modHost fun h => { h with served := false }, by decide +kernel⟩

theorem witness_HostWindows_6 : ∃ (a : BitVec 41) (n : Nat) (d : List (BitVec 8)) (s : State), (s.hostHears) ∧ (s.windowClosed) ∧ (d ≠ []) :=
  ⟨0, 4, [0], live.modHost fun h => { h with served := false }, by decide +kernel⟩

theorem witness_HostWindows_7 : ∃ (a : BitVec 41) (n : Nat) (d : List (BitVec 8)) (s : State), (s.hostHears) ∧ (s.windowClosed = false) ∧ (512 < d.length ∨ 4096 < a.toNat % 4096 + d.length) :=
  ⟨0, 4, List.replicate 513 0, live, by decide +kernel⟩

theorem witness_HostWindows_8 : ∃ (a : BitVec 41) (n : Nat) (d : List (BitVec 8)) (s : State), (s.host.linkUp) ∧ (s.hostHears = false) ∧ (n ≠ 0) :=
  ⟨0, 4, [], live.modHost fun h => { h with dstate := 3 }, by decide +kernel⟩

theorem witness_HostWindows_9 : ∃ (l : BitVec 35) (d : BitVec 512) (en : BitVec 64) (s : State) (bs : List (BitVec 8)) (s1 : State), (s.host.linkUp) ∧ (s.host.cxl) ∧ (s.windowClosed = false) ∧ (s.flash.requireBind = false) ∧ (s.stackRead (l.toNat * 64) 64 = (.ok bs, s1)) :=
  ⟨0, 0, 0, cxlLive, List.replicate 64 0, (cxlLive.stackRead 0 64).2, by decide +kernel, by decide +kernel, by decide +kernel, by decide +kernel, okEq (by decide +kernel)⟩

theorem witness_HostWindows_10 : ∃ (l : BitVec 35) (d : BitVec 512) (en : BitVec 64) (s : State) (e : BitVec 16) (s1 : State), (s.host.linkUp) ∧ (s.host.cxl) ∧ (s.windowClosed = false) ∧ (s.flash.requireBind = false) ∧ (s.stackRead (l.toNat * 64) 64 = (.error e, s1)) :=
  ⟨0, 0, 0, cxlShut, 0x0507, (cxlShut.stackRead 0 64).2, by decide +kernel, by decide +kernel, by decide +kernel, by decide +kernel, errEq (by decide +kernel)⟩

theorem witness_HostWindows_11 : ∃ (l : BitVec 35) (d : BitVec 512) (s : State), (s.host.linkUp) ∧ (s.host.cxl) ∧ (s.windowClosed = false) ∧ (s.flash.requireBind = false) :=
  ⟨0, 0, cxlLive, by decide +kernel⟩

theorem witness_HostWindows_12 : ∃ (l : BitVec 35) (d : BitVec 512) (en : BitVec 64) (s : State), (s.host.linkUp) ∧ (s.host.cxl) ∧ (s.windowClosed ∨ s.flash.requireBind) :=
  ⟨0, 0, 0, live.modHost fun h => { h with cxl := true }, by decide +kernel⟩

theorem witness_HostWindows_13 : ∃ (s : State), (s.host.linkUp) ∧ (s.pwr.state ≤ 1) ∧ (s.oz.up) :=
  ⟨live, by decide +kernel⟩

theorem witness_HostWindows_14 : ∃ (l : HostLink) (s : State), (s.host.configUp) ∧ (s.host.perst) ∧ (l.valid) ∧ (s.tap.drive = .functional) ∧ (s.pwr.tripped = false) :=
  ⟨{ rate := 0, width := 16, flit := false, cxl := false }, officer, by decide +kernel⟩

theorem witness_HostWindows_15 : ∃ (s : State), (s.host.linkUp) :=
  ⟨live, by decide +kernel⟩

theorem witness_HostWindows_16 : ∃ (i : BitVec 8) (s : State), (s.hostHears) ∧ (s.oz.up) ∧ (s.glb.unreadAll = false) ∧ (0 < (i - s.glb.faultTail).toNat) ∧ ((i - s.glb.faultTail).toNat ≤ (s.glb.faultHead - s.glb.faultTail).toNat) :=
  ⟨1, live.modGlb fun g => { g with faultHead := 2 }, by decide +kernel⟩

theorem witness_HostWindows_17 : ∃ (i : BitVec 8) (s : State), (s.hostHears) ∧ (s.oz.up) ∧ (i = s.glb.faultTail ∨ (s.glb.unreadAll = false ∧ (s.glb.faultHead - s.glb.faultTail).toNat < (i - s.glb.faultTail).toNat)) :=
  ⟨0, live, by decide +kernel⟩

theorem witness_MailboxServices_1 : ∃ (q : MbxReq) (s s1 : State), (s.hearsRequest q) ∧ (s.mbxNames q .getStatus) ∧ (s.mbxAdmit q 0 = (mbxOk, s1)) ∧ (s1.sidebandShut q.path 0 = false) ∧ (s1.glb.mode = .service) :=
  ⟨ask 1 [], officer, officer, by decide +kernel⟩

theorem witness_MailboxServices_2 : ∃ (q : MbxReq) (s s1 : State), (s.hearsRequest q) ∧ (s.mbxNames q .getLog) ∧ (s.mbxAdmit q 0 = (mbxOk, s1)) ∧ (s1.sidebandShut q.path 0 = false) ∧ (leAt (mbxBody (s.mbxBytes q)) 0 1 = 0) :=
  ⟨ask 2 [], officer, officer, by decide +kernel⟩

theorem witness_MailboxServices_3 : ∃ (q : MbxReq) (s s1 : State), (s.hearsRequest q) ∧ (s.mbxNames q .getLog) ∧ (s.mbxAdmit q 0 = (mbxOk, s1)) ∧ (s1.sidebandShut q.path 0 = false) ∧ (3 < leAt (mbxBody (s.mbxBytes q)) 0 1) :=
  ⟨ask 2 [4], officer, officer, by decide +kernel⟩

theorem witness_MailboxServices_4 : ∃ (q : MbxReq) (s s1 : State), (s.hearsRequest q) ∧ (s.mbxNames q .getNonce) ∧ (s.mbxAdmit q 0 = (mbxOk, s1)) ∧ (s1.sidebandShut q.path 0 = false) :=
  ⟨ask 3 [], officer, officer, by decide +kernel⟩

theorem witness_MailboxServices_5 : ∃ (q : MbxReq) (s s1 : State), (s.hearsRequest q) ∧ (s.mbxNames q .zeroise) ∧ (s.mbxAdmit q 0 = (mbxOk, s1)) ∧ (s1.sidebandShut q.path 0 = false) :=
  ⟨ask 4 [], officer, officer, by decide +kernel⟩

theorem witness_MailboxServices_6 : ∃ (q : MbxReq) (s s1 : State), (s.hearsRequest q) ∧ (s.mbxNames q .takeOwnership) ∧ (s.mbxAdmit q 0 = (mbxOk, s1)) ∧ (s1.sidebandShut q.path 0 = false) ∧ ((mbxBody (s.mbxBytes q)).length = 48) ∧ (s1.flash.ownerCred = none) :=
  ⟨ask 5 (List.replicate 48 1), officer, officer, by decide +kernel⟩

theorem witness_MailboxServices_7 : ∃ (q : MbxReq) (s s1 : State), (s.hearsRequest q) ∧ (s.mbxNames q .takeOwnership) ∧ (s.mbxAdmit q 0 = (mbxOk, s1)) ∧ (s1.sidebandShut q.path 0 = false) ∧ ((mbxBody (s.mbxBytes q)).length = 48) ∧ (s1.flash.ownerCred ≠ none) :=
  ⟨ask 5 (List.replicate 48 1), (officer.modFlash fun f => { f with ownerCred := some 0 }), (officer.modFlash fun f => { f with ownerCred := some 0 }), by decide +kernel⟩

theorem witness_MailboxServices_8 : ∃ (q : MbxReq) (s s1 : State), (s.hearsRequest q) ∧ (s.mbxNames q .requestSelftest) ∧ (s.mbxAdmit q 1 = (mbxOk, s1)) ∧ (s1.sidebandShut q.path 1 = false) :=
  ⟨ask 6 [], officer, officer, by decide +kernel⟩

theorem witness_MailboxServices_9 : ∃ (q : MbxReq) (s : State), (q.path = .host) ∧ (s.hostHears) ∧ (s.oz.up) ∧ (s.oz.mbxBusy ≠ none) :=
  ⟨{ path := .host, bytes := [] }, live.modOz fun o => { o with mbxBusy := some .mctp }, by decide +kernel⟩

theorem witness_MailboxServices_10 : ∃ (q : MbxReq) (s s1 : State) (st : BitVec 3), (s.hearsRequest q) ∧ (s.mbxAdmit q 2 = (st, s1)) ∧ (st = mbxBadRole ∨ st = mbxBadSignature ∨ st = mbxBadNonce) :=
  ⟨{ path := .session 1, bytes := [11, 0, 0, 0, 1, 0, 0, 0] ++ List.replicate 128 0 }, officer, officer, mbxBadRole, by decide +kernel⟩

theorem witness_MailboxServices_11 : ∃ (q : MbxReq) (im : List (BitVec 8)) (s : State), (s.hearsRequest q) :=
  ⟨ask 0 [], [], officer, by decide +kernel⟩

theorem witness_OfficerServices_1 : ∃ (q : MbxReq) (s s1 : State), (s.hearsRequest q) ∧ (s.mbxNames q .transferOwnership) ∧ (s.mbxAdmit q 2 = (mbxOk, s1)) ∧ (s1.sidebandShut q.path 2 = false) ∧ ((mbxBody (s.mbxBytes q)).length = 48) :=
  ⟨ask 14 (List.replicate 48 1), officer, officer, by decide +kernel⟩

theorem witness_OfficerServices_2 : ∃ (q : MbxReq) (s s1 : State), (s.hearsRequest q) ∧ (s.mbxNames q .installUserKey) ∧ (s.mbxAdmit q 2 = (mbxOk, s1)) ∧ (s1.sidebandShut q.path 2 = false) ∧ ((mbxBody (s.mbxBytes q)).length = 97) ∧ (leAt (mbxBody (s.mbxBytes q)) 0 1 < 8) :=
  ⟨ask 7 (List.replicate 97 7), officer, officer, by decide +kernel⟩

theorem witness_OfficerServices_3 : ∃ (q : MbxReq) (s s1 : State), (s.hearsRequest q) ∧ (s.mbxNames q .installUserKey) ∧ (s.mbxAdmit q 2 = (mbxOk, s1)) ∧ (s1.sidebandShut q.path 2 = false) ∧ ((mbxBody (s.mbxBytes q)).length ≠ 97 ∨ 8 ≤ leAt (mbxBody (s.mbxBytes q)) 0 1) :=
  ⟨ask 7 (List.replicate 97 8), officer, officer, by decide +kernel⟩

theorem witness_OfficerServices_4 : ∃ (q : MbxReq) (s s1 : State), (s.hearsRequest q) ∧ (s.mbxNames q .removeUserKey) ∧ (s.mbxAdmit q 2 = (mbxOk, s1)) ∧ (s1.sidebandShut q.path 2 = false) ∧ ((mbxBody (s.mbxBytes q)).length = 1) ∧ (leAt (mbxBody (s.mbxBytes q)) 0 1 < 8) :=
  ⟨ask 8 [7], officer, officer, by decide +kernel⟩

theorem witness_OfficerServices_5 : ∃ (q : MbxReq) (s s1 : State), (s.hearsRequest q) ∧ (s.mbxNames q .installImageKey) ∧ (s.mbxAdmit q 2 = (mbxOk, s1)) ∧ (s1.sidebandShut q.path 2 = false) ∧ (2 ≤ (mbxBody (s.mbxBytes q)).length) ∧ (leAt (mbxBody (s.mbxBytes q)) 0 1 < 4) :=
  ⟨ask 9 [3, 9], officer, officer, by decide +kernel⟩

theorem witness_OfficerServices_6 : ∃ (q : MbxReq) (s s1 : State), (s.hearsRequest q) ∧ (s.mbxNames q .raiseImageFloor) ∧ (s.mbxAdmit q 2 = (mbxOk, s1)) ∧ (s1.sidebandShut q.path 2 = false) ∧ ((mbxBody (s.mbxBytes q)).length = 5) ∧ (leAt (mbxBody (s.mbxBytes q)) 0 1 < 4) ∧ ((tabGet 0 s1.flash.imageFloors (leAt (mbxBody (s.mbxBytes q)) 0 1)).toNat ≤ (BitVec.ofNat 32 (leAt (mbxBody (s.mbxBytes q)) 1 4)).toNat) :=
  ⟨ask 10 [3, 1, 0, 0, 0], officer, officer, by decide +kernel⟩

theorem witness_OfficerServices_7 : ∃ (q : MbxReq) (s s1 : State), (s.hearsRequest q) ∧ (s.mbxNames q .raiseImageFloor) ∧ (s.mbxAdmit q 2 = (mbxOk, s1)) ∧ (s1.sidebandShut q.path 2 = false) ∧ ((mbxBody (s.mbxBytes q)).length = 5) ∧ (leAt (mbxBody (s.mbxBytes q)) 0 1 < 4) ∧ ((BitVec.ofNat 32 (leAt (mbxBody (s.mbxBytes q)) 1 4)).toNat < (tabGet 0 s1.flash.imageFloors (leAt (mbxBody (s.mbxBytes q)) 0 1)).toNat) :=
  ⟨ask 10 [3, 0, 0, 0, 0], (officer.modFlash fun f => { f with imageFloors := [(3, 1)] }), (officer.modFlash fun f => { f with imageFloors := [(3, 1)] }), by decide +kernel⟩

theorem witness_OfficerServices_8 : ∃ (q : MbxReq) (s s1 : State), (s.hearsRequest q) ∧ (s.mbxNames q .setPolicy) ∧ (s.mbxAdmit q 2 = (mbxOk, s1)) ∧ (s1.sidebandShut q.path 2 = false) ∧ ((mbxBody (s.mbxBytes q)).length = 1) :=
  ⟨ask 11 [3], officer, officer, by decide +kernel⟩

theorem witness_OfficerServices_9 : ∃ (q : MbxReq) (s s1 : State) (im bs : List (BitVec 8)) (s2 : State), (s.hearsRequest q) ∧ (s.mbxNames q .fwUpdate) ∧ (s.mbxAdmit q 2 = (mbxOk, s1)) ∧ (s1.sidebandShut q.path 2 = false) ∧ (s.glb.mode ≠ .recovery) ∧ ((mbxBody (s.mbxBytes q)).length = 16) ∧ (s1.firmwareBytes (mbxBody (s.mbxBytes q)) im = (some bs, s2)) :=
  ⟨ask 12 (List.replicate 16 0), officer, officer, [], [], officer, by decide +kernel⟩

theorem witness_OfficerServices_10 : ∃ (q : MbxReq) (s s1 : State), (s.hearsRequest q) ∧ (s.mbxNames q .raiseFwFloor) ∧ (s.mbxAdmit q 2 = (mbxOk, s1)) ∧ (s1.sidebandShut q.path 2 = false) :=
  ⟨ask 13 [], officer, officer, by decide +kernel⟩

theorem witness_OfficerServices_11 : ∃ (q : MbxReq) (s s1 : State), (s.hearsRequest q) ∧ (s.mbxNames q .debugOpen) ∧ (s.mbxAdmit q 2 = (mbxOk, s1)) ∧ (s1.sidebandShut q.path 2 = false) ∧ (s1.fuses.debugLock = false) :=
  ⟨ask 15 [], (officer.modFuses fun f => { f with debugLock := false }), (officer.modFuses fun f => { f with debugLock := false }), by decide +kernel⟩

theorem witness_OfficerServices_12 : ∃ (q : MbxReq) (s s1 : State), (s.hearsRequest q) ∧ (s.mbxNames q .debugOpen) ∧ (s.mbxAdmit q 2 = (mbxOk, s1)) ∧ (s1.sidebandShut q.path 2 = false) ∧ (s1.fuses.debugLock) :=
  ⟨ask 15 [], (officer.modFuses fun f => { f with debugLock := true }), (officer.modFuses fun f => { f with debugLock := true }), by decide +kernel⟩

theorem witness_OfficerServices_13 : ∃ (q : MbxReq) (s s1 : State) (n : Nat), (s.hearsRequest q) ∧ (s.mbxNames q .installCascadeKey) ∧ (s.mbxAdmit q 2 = (mbxOk, s1)) ∧ (q.path = .session n) ∧ ((mbxBody (s.mbxBytes q)).length = 32) :=
  ⟨ask 16 (List.replicate 32 5), officer, officer, 1, by decide +kernel⟩

theorem witness_OfficerServices_14 : ∃ (q : MbxReq) (s s1 : State), (s.hearsRequest q) ∧ (s.mbxAdmit q 2 = (mbxOk, s1)) ∧ (s1.sidebandShut q.path 2) :=
  ⟨ask 1 [], officer.modOz fun o => { o with sessions := [{ id := 1, doe := false, role := 2, open_ := true }] }, officer.modOz fun o => { o with sessions := [{ id := 1, doe := false, role := 2, open_ := true }] }, by decide +kernel⟩

theorem witness_ErasureAndTamper_1 : ∃ (s : State), (s.oz.zeroiseTick.isSome) ∧ (s.oz.zeroiseTamper = false) :=
  ⟨live.modOz fun o => { o with zeroiseTick := some 0 }, by decide +kernel⟩

theorem witness_ErasureAndTamper_2 : ∃ (s : State), (s.oz.zeroiseTick.isSome) ∧ (s.oz.zeroiseTamper) :=
  ⟨live.modOz fun o => { o with zeroiseTick := some 0, zeroiseTamper := true }, by decide +kernel⟩

theorem witness_ErasureAndTamper_3 : ∃ (s : State), (s.oz.zeroiseTick = none) :=
  ⟨live, by decide +kernel⟩

theorem witness_ErasureAndTamper_4 : ∃ (c : TamperCause) (s : State), (s.pwr.on_) ∧ (s.pwr.off = false) :=
  ⟨.lidMesh, live, by decide +kernel⟩

theorem witness_ErasureAndTamper_5 : ∃ (c : TamperCause) (s : State), (s.pwr.on_) ∧ (s.pwr.off) :=
  ⟨.lidMesh, live.modPwr fun p => { p with off := true }, by decide +kernel⟩

theorem witness_SpdmResponder_1 : ∃ (d : Bool) (s : State), (s.spdmHears d) :=
  ⟨true, officer, by decide +kernel⟩

theorem witness_SpdmResponder_2 : ∃ (d : Bool) (v : BitVec 8) (s : State), (s.spdmHears d) ∧ (v = 0x12 ∨ v = 0x13) :=
  ⟨true, 0x13, officer, by decide +kernel⟩

theorem witness_SpdmResponder_3 : ∃ (d : Bool) (s : State), (s.spdmHears d) ∧ ((s.spdmConn d).caps) :=
  ⟨true, agreed, by decide +kernel⟩

theorem witness_SpdmResponder_4 : ∃ (d : Bool) (o n : Nat) (s : State), (s.spdmHears d) ∧ (s.spdmReady d) ∧ (o ≤ (Config.certChain s.fuses.serial).length) :=
  ⟨true, 0, 5, agreed, by decide +kernel, by decide +kernel, Nat.zero_le _⟩

theorem witness_SpdmResponder_5 : ∃ (d : Bool) (n : BitVec 256) (s : State), (s.spdmHears d) ∧ (s.spdmReady d) ∧ (s.fuses.identityKilled = false) :=
  ⟨true, 0, agreed, by decide +kernel⟩

theorem witness_SpdmResponder_6 : ∃ (d : Bool) (n : BitVec 256) (s : State), (s.spdmHears d) ∧ (s.spdmReady d) ∧ (s.fuses.identityKilled) :=
  ⟨true, 0, agreed.modFuses fun f => { f with identityKilled := true }, by decide +kernel⟩

theorem witness_SpdmResponder_7 : ∃ (d : Bool) (i : BitVec 8) (b : Bool) (n : BitVec 256) (s : State), (s.spdmHears d) ∧ (s.spdmReady d) ∧ (i.toNat ≤ 7 ∨ i = 0xFF) ∧ (b = false ∨ s.fuses.identityKilled = false) :=
  ⟨true, 0xFF, false, 0, agreed, by decide +kernel⟩

theorem witness_SpdmResponder_8 : ∃ (d : Bool) (i : BitVec 8) (b : Bool) (n : BitVec 256) (k o l : Nat) (y : Option (BitVec 768)) (s : State), (s.spdmHears d) ∧ (s.spdmReady d = false) :=
  ⟨true, 9, false, 0, 1, 0, 16, none, officer, by decide +kernel⟩

theorem witness_SpdmResponder_9 : ∃ (d : Bool) (i : BitVec 8) (b : Bool) (n : BitVec 256) (k o l : Nat) (y : Option (BitVec 768)) (s : State), (s.spdmHears d) ∧ (s.spdmReady d) ∧ (k ≠ 0) ∧ (7 < i.toNat ∧ i ≠ 0xFF) :=
  ⟨true, 9, false, 0, 1, 0, 16, none, agreed, by decide +kernel⟩

theorem witness_SpdmResponder_10 : ∃ (d : Bool) (k : Option (BitVec 768)) (s : State), (s.spdmHears d) ∧ (s.spdmReady d) ∧ ((s.oz.sessions.filter fun x => x.doe == d).length < 2) ∧ (s.fuses.identityKilled = false) :=
  ⟨true, none, agreed, by decide +kernel⟩

theorem witness_SpdmResponder_11 : ∃ (d : Bool) (k : Option (BitVec 768)) (s : State), (s.spdmHears d) ∧ (s.spdmReady d) ∧ (2 ≤ (s.oz.sessions.filter fun x => x.doe == d).length) :=
  ⟨true, none, agreed.modOz fun o => { o with sessions := [{ id := 1 }, { id := 2 }] }, by decide +kernel⟩

theorem witness_SpdmResponder_12 : ∃ (i : Nat) (p : List (BitVec 8)) (s : State) (x : Session), (s.session i = some x) ∧ (s.spdmHears x.doe) ∧ (x.open_ = false) :=
  ⟨1, [], officer.modOz fun o => { o with sessions := [{ id := 1 }] }, { id := 1 }, by decide +kernel⟩

theorem witness_SpdmResponder_13 : ∃ (i : Nat) (s : State) (x : Session), (s.session i = some x) ∧ (s.spdmHears x.doe) ∧ (x.open_) :=
  ⟨1, officer, { id := 1, role := 2, open_ := true, mutualAuth := true }, by decide +kernel⟩

theorem witness_SpdmResponder_14 : ∃ (i : Nat) (s : State) (x : Session), (s.session i = some x) ∧ (s.spdmHears x.doe) :=
  ⟨1, officer, { id := 1, role := 2, open_ := true, mutualAuth := true }, by decide +kernel⟩

theorem witness_IdeBinding_1 : ∃ (i : Nat) (t : Bool) (s : State) (x : Session), (s.doeSession i = some x) ∧ (s.host.ideSession ≠ some i) ∧ (s.host.bound = false) :=
  ⟨1, true, officer.modHost fun h => { h with bound := false }, { id := 1, role := 2, open_ := true, mutualAuth := true }, by decide +kernel⟩

theorem witness_IdeBinding_2 : ∃ (i : Nat) (t : Bool) (s : State) (x : Session), (s.doeSession i = some x) ∧ (s.host.ideSession = some i) :=
  ⟨1, true, officer.modHost fun h => { h with ideSession := some 1 }, { id := 1, role := 2, open_ := true, mutualAuth := true }, by decide +kernel⟩

theorem witness_IdeBinding_3 : ∃ (i : Nat) (t : Bool) (s : State) (x : Session), (s.doeSession i = some x) ∧ (s.host.ideSession ≠ some i) ∧ (s.host.bound) :=
  ⟨1, true, officer.modHost fun h => { h with ideSession := some 2 }, { id := 1, role := 2, open_ := true, mutualAuth := true }, by decide +kernel⟩

theorem witness_IdeBinding_4 : ∃ (i : Nat) (t : Bool) (s : State) (x : Session), (s.doeSession i = some x) ∧ (s.host.ideSession = some i) ∧ (if t then s.oz.ideKeyTx else s.oz.ideKeyRx) :=
  ⟨1, true, (officer.modHost fun h => { h with ideSession := some 1 }).modOz fun o => { o with ideKeyTx := true }, { id := 1, role := 2, open_ := true, mutualAuth := true }, by decide +kernel⟩

theorem witness_IdeBinding_5 : ∃ (i : Nat) (t : Bool) (s : State) (x : Session), (s.doeSession i = some x) ∧ (s.host.ideSession ≠ some i) :=
  ⟨1, true, officer, { id := 1, role := 2, open_ := true, mutualAuth := true }, by decide +kernel⟩

theorem witness_IdeBinding_6 : ∃ (i : Nat) (t : Bool) (s : State) (x : Session), (s.doeSession i = some x) ∧ (s.host.ideSession = some i) ∧ ((if t then s.oz.ideKeyTx else s.oz.ideKeyRx) = false) :=
  ⟨1, true, officer.modHost fun h => { h with ideSession := some 1 }, { id := 1, role := 2, open_ := true, mutualAuth := true }, by decide +kernel⟩

theorem witness_IdeBinding_7 : ∃ (i : Nat) (t : Bool) (s : State), (s.doeSession i = none) :=
  ⟨9, true, officer, by decide +kernel⟩

theorem witness_IdeBinding_8 : ∃ (s : State), (s.oz.ideTx || s.oz.ideRx) :=
  ⟨live.modOz fun o => { o with ideTx := true }, by decide +kernel⟩

theorem witness_IdeBinding_9 : ∃ (s : State), ((s.oz.ideTx || s.oz.ideRx) = false) :=
  ⟨live, by decide +kernel⟩

theorem witness_CxlMailbox_1 : ∃ (s : State), (s.host.linkUp) ∧ (s.host.cxl) ∧ (s.oz.up) :=
  ⟨cxlLive, by decide +kernel⟩

theorem witness_CxlMailbox_2 : ∃ (s : State) (t ce : Nat), (s.host.linkUp) ∧ (s.host.cxl) ∧ (s.oz.up) ∧ (t = max ((s.half 0).hotStack.toNat / 4) ((s.half 1).hotStack.toNat / 4)) ∧ (ce = allStacks.foldl (fun n k => n + (s.stack k).ceCount) 0) ∧ (s.glb.fencedStacks = 0) ∧ (s.glb.fencedHalves = 0) :=
  ⟨cxlLive, 0, 0, by decide +kernel⟩

theorem witness_CxlMailbox_3 : ∃ (l : Nat) (s : State), (s.host.linkUp) ∧ (s.host.cxl) ∧ (s.oz.up) :=
  ⟨0, cxlLive, by decide +kernel⟩

theorem witness_CxlMailbox_4 : ∃ (l n : Nat) (s : State), (s.host.linkUp) ∧ (s.host.cxl) ∧ (s.oz.up) :=
  ⟨0, 1, cxlLive, by decide +kernel⟩

theorem witness_CxlMailbox_5 : ∃ (a n : Nat) (s : State), (s.host.linkUp) ∧ (s.host.cxl) ∧ (s.oz.up) :=
  ⟨0, 64, cxlLive, by decide +kernel⟩

theorem witness_CxlMailbox_6 : ∃ (s : State), (s.host.linkUp) ∧ (s.host.cxl) ∧ (s.oz.up) :=
  ⟨cxlLive, by decide +kernel⟩

theorem witness_CxlMailbox_7 : ∃ (o n : Nat) (s : State), (s.host.linkUp) ∧ (s.host.cxl) ∧ (s.oz.up) :=
  ⟨0, 16, cxlLive, by decide +kernel⟩

theorem witness_CxlMailbox_8 : ∃ (s : State), (s.host.linkUp) ∧ (s.host.cxl) ∧ (s.oz.up) :=
  ⟨cxlLive, by decide +kernel⟩

theorem witness_CxlMailbox_9 : ∃ (l n o : Nat) (s : State), (s.host.cxl = false) :=
  ⟨0, 0, 0, live, by decide +kernel⟩

theorem witness_TestAccessPort_1 : ∃ (s : State), (s.pwr.on_) ∧ (s.tap.testReady = false) :=
  ⟨live, by decide +kernel⟩

theorem witness_TestAccessPort_2 : ∃ (s : State), (s.pwr.on_) ∧ (s.tap.testReady) :=
  ⟨live.modTap fun t => { t with testReady := true, testState := true }, by decide +kernel⟩

theorem witness_TestAccessPort_3 : ∃ (s : State), (s.pwr.on_) ∧ (s.tap.testState = false) ∧ (s.tap.testReady = false) ∧ (s.pwr.off = false) ∧ (s.oz.up) :=
  ⟨live, by decide +kernel⟩

theorem witness_TestAccessPort_4 : ∃ (s : State), (s.pwr.on_) ∧ (s.tap.testReady = false) :=
  ⟨live, by decide +kernel⟩

theorem witness_TestAccessPort_5 : ∃ (s : State), (s.pwr.on_) :=
  ⟨live, by decide +kernel⟩

theorem witness_TestAccessPort_6 : ∃ (s : State), (s.pwr.on_ = false) :=
  ⟨live.modPwr fun p => { p with on_ := false }, by decide +kernel⟩

theorem witness_TapEdges_1 : ∃ (tdi tms tn : Bool) (pins : BitVec 563) (s : State), (s.pwr.on_) ∧ (s.tap.st = .shiftIr) :=
  ⟨true, false, true, 0, live.modTap fun t => { t with st := .shiftIr }, by decide +kernel⟩

theorem witness_TapEdges_2 : ∃ (tdi tms tn : Bool) (pins : BitVec 563) (s : State), (s.pwr.on_) ∧ (s.tap.st = .captureIr) :=
  ⟨true, false, true, 0, live.modTap fun t => { t with st := .captureIr }, by decide +kernel⟩

theorem witness_TapEdges_3 : ∃ (tdi tms tn : Bool) (pins : BitVec 563) (s : State), (s.pwr.on_) ∧ (s.tap.st = .captureDr) ∧ (s.tap.ir = 0x01) :=
  ⟨true, false, true, 0, live.modTap fun t => { t with st := .captureDr }, by decide +kernel⟩

theorem witness_TapEdges_4 : ∃ (tdi tms tn : Bool) (pins : BitVec 563) (s : State), (s.pwr.on_) ∧ (s.tap.st = .shiftDr) ∧ (s.tap.ir = 0x01) :=
  ⟨true, false, true, 0, live.modTap fun t => { t with st := .shiftDr }, by decide +kernel⟩

theorem witness_TapEdges_5 : ∃ (tdi tms tn : Bool) (pins : BitVec 563) (s : State), (s.pwr.on_) ∧ (s.tap.st = .shiftDr) ∧ (s.tap.ir = 0xFF) :=
  ⟨true, false, true, 0, live.modTap fun t => { t with st := .shiftDr, ir := 0xFF }, by decide +kernel⟩

theorem witness_TapEdges_6 : ∃ (tdi tms tn : Bool) (pins : BitVec 563) (s : State), (s.pwr.on_) ∧ (s.tap.st = .shiftDr) ∧ (s.tap.testReady) ∧ (s.tap.ir = 0x03) :=
  ⟨true, false, true, 0, live.modTap fun t => { t with st := .shiftDr, ir := 0x03, testReady := true }, by decide +kernel⟩

theorem witness_TapEdges_7 : ∃ (tdi tms tn : Bool) (pins : BitVec 563) (s : State), (s.pwr.on_) ∧ (s.tap.st = .updateIr) :=
  ⟨true, false, true, 0, live.modTap fun t => { t with st := .updateIr }, by decide +kernel⟩

theorem witness_TapEdges_8 : ∃ (tdi tms tn : Bool) (pins : BitVec 563) (s : State), (s.pwr.on_) ∧ (s.tap.st = .shiftIr) :=
  ⟨true, false, true, 0, live.modTap fun t => { t with st := .shiftIr }, by decide +kernel⟩

theorem witness_FrontCommandRuns : ∃ (c : Instr) (rest : List Instr) (s : State), s.pending = c :: rest := ⟨.tapReset, [], { live with pending := [.tapReset] }, rfl⟩
theorem witness_FrontCommandRuns_empty : ∃ s : State, s.pending = [] := ⟨live, rfl⟩
theorem witness_StepKeepsMemoryCanonical : ∃ s t : State, s.Inv ∧ step s = .next t := ⟨live, live.tickOnce, (by decide +kernel : Memory.wf live.mem = true), rfl⟩
theorem witness_QueueUntouched : ∃ (c : Instr) (s t : State), exec c s = .next t := ⟨.tapReset, live, live.tapReset, rfl⟩
theorem witness_IdentificationCode : ∃ s : State, s.fuses.stepping = 1 ∧ s.pwr.on_ ∧ s.tap.st = .captureDr ∧ s.tap.ir = 0x01 :=
  ⟨live.modTap fun t => { t with st := .captureDr }, by decide +kernel⟩

/-- A policy of REQUIRE_BIND 0 about to become 1. -/
def unboundOfficer : State := (officer.modFlash fun f => { f with requireBind := false }).modHost fun h => { h with bound := false }
theorem witness_PolicyWrites : ∃ (q : MbxReq) (s s1 : State), s.hearsRequest q ∧ s.mbxNames q .setPolicy ∧ s.mbxAdmit q 2 = (mbxOk, s1) ∧ s1.sidebandShut q.path 2 = false ∧
    (mbxBody (s.mbxBytes q)).length = 1 ∧ s.flash.requireBind = false ∧ s.host.bound = false :=
  ⟨ask 11 [1], unboundOfficer, unboundOfficer, by decide +kernel⟩
/-- A module in test state. -/
def inTest : State := live.modTap fun t => { t with testState := true }
theorem witness_TestStateLeft : ∃ (c : Instr) (s t : State), s.tap.testState ∧ exec c s = .next t ∧ t.tap.testState = false :=
  ⟨.inputTurnOff 0, inTest, _, by decide +kernel, rfl, by decide +kernel⟩
theorem witness_TestStateLeft_on : ∃ s : State, s.tap.testState ∧ s.pwr.on_ := ⟨inTest, by decide +kernel⟩
theorem witness_TestStateLeft_low : ∃ s : State, s.tap.testState ∧ s.pwr.on_ ∧ s.pwr.modEn = false :=
  ⟨inTest.modPwr fun p => { p with modEn := false }, by decide +kernel⟩
theorem witness_HostWriteStores : ∃ (a : BitVec 41) (n : Nat) (d : List (BitVec 8)) (s t : State) (x : Nat), s.Inv ∧ s.hostHears ∧ s.windowClosed = false ∧
    0 < d.length ∧ a.toNat % 32 + d.length ≤ 32 ∧ inStore a.toNat = false ∧ s.writeRoute a.toNat = .ok [x] ∧ tabGet false s.mpoison (x / 32) = false ∧
    tabGet [] s.symErr (x / 32) = [] ∧ tabGet [] (s.half (addrHalf a.toNat)).tcErr (a.toNat / 32) = [] ∧ (allStacks.all fun k => (s.stack k).copies = []) ∧ s.waitingAt (fin32 (stackOf a.toNat)) = [] ∧ exec (.bar2Request true a n d) s = .next t :=
  ⟨31, 0, [7], ready, after (.bar2Request true 31 0 [7]) ready, 31, (by decide +kernel : Memory.wf ready.mem = true), by decide +kernel, by decide +kernel, by decide +kernel, by decide +kernel,
    by decide +kernel, by rfl, by decide +kernel, by decide +kernel, by decide +kernel, by decide +kernel, by decide +kernel, after_eq (by decide +kernel)⟩
theorem witness_MailboxServices_10_debug : ∃ (q : MbxReq) (s s1 : State) (st : BitVec 3), s.hearsRequest q ∧ s.mbxAdmit q 2 = (st, s1) ∧
    (st = mbxBadRole ∨ st = mbxBadSignature ∨ st = mbxBadNonce) ∧ s.mbxNames q .debugOpen :=
  ⟨{ path := .session 1, bytes := [15, 0, 0, 0, 1, 0, 0, 0] ++ List.replicate 128 0 }, officer, officer, mbxBadRole, by decide +kernel⟩
theorem witness_FrameOfClocks : ∃ (h : Fin 2) (c : Instr) (s t : State),
    c ∈ [Instr.grantRecompute h, .opSwitchCommit h, .opSwitchComplete h, .pllUnlock h, .pllLockCheckPass h, .droopDetect h, .droopWindowEnd h, .thermalEase h] ∧ exec c s = .next t :=
  ⟨0, .grantRecompute 0, live, _, by simp, rfl⟩
theorem witness_FrameOfTheTap : ∃ (c : Instr) (s t : State),
    c ∈ [Instr.tapReset, .bypass, .idcode, .samplePreload, .extest, .clamp, .highz, .extestPulse, .extestTrain] ∧ exec c s = .next t ∧ s.tap.testReady = false :=
  ⟨.extest, live, _, by simp, rfl, by decide +kernel⟩
theorem witness_FrameOfSpdmAndCxl : (∃ s t : State, exec (.getVersion true) s = .next t) ∧ (∃ s t : State, exec .getFwInfo s = .next t) :=
  ⟨⟨officer, _, rfl⟩, ⟨cxlLive, _, rfl⟩⟩
theorem witness_FrameOfSpdmAndCxl_ready : ∃ (d : Bool) (o : Nat) (s : State), s.spdmHears d ∧ s.spdmReady d ∧ (s.spdmConn d).caps ∧
    o ≤ (Config.certChain s.fuses.serial).length ∧ s.fuses.identityKilled = false ∧ (s.oz.sessions.filter fun x => x.doe == d).length < 2 :=
  ⟨true, 0, agreed, by decide +kernel, by decide +kernel, by decide +kernel, Nat.zero_le _, by decide +kernel, by decide +kernel⟩
theorem witness_FrameOfSpdmAndCxl_session : ∃ (i : Nat) (s : State) (x : Session), s.session i = some x ∧ s.spdmHears x.doe ∧ x.open_ :=
  ⟨1, officer, { id := 1, role := 2, open_ := true, mutualAuth := true }, by decide +kernel⟩
theorem witness_LaneResidues : ∃ u a b : Nat, u < 2 ^ 48 ∧ signed 48 u < 0 ∧ a ≤ 65534 ∧ b ≤ 65534 := ⟨2 ^ 48 - 1, 65534, 0, by decide +kernel⟩
theorem witness_LaneResidues_ones : ∃ (s : State) (base blk : Nat), leNat (s.regionBytes (blockResidue base blk) 2) = 0xFFFF :=
  ⟨(ready.stackWrite (blockResidue 0 0) [0xFF, 0xFF]).2, 0, 0, by decide +kernel⟩

/-! ### The spec's worked examples -/

/-- One address through the hash (07_limane_stack_memory.md, R206). -/
theorem test_addressMap : stackOf 0x1532B479E40 = 26 ∧ channelOf 0x1532B479E40 = 8 ∧ bankOf 0x1532B479E40 = 14 ∧ rowOf 0x1532B479E40 = 21291 ∧
    columnOf 0x1532B479E40 = 50 := by decide +kernel
/-- Spares switched in on core E1 (02_matrix_arrays.md, R51): the row positions. -/
theorem test_rowPositions : [99, 100, 200, 349, 350, 511].map (pos [(1, 0x64), (5, 0x9E)]) = [99, 101, 201, 350, 352, 513] := by decide +kernel
/-- The same core's registers (15_register_reference.md, R66). -/
def coreE1 : State := live.modArr 5 fun a => { a with spokeRow := [(1, 0x64), (5, 0x9E)], spokeCol := [(6, 0x4A)] }
theorem test_spareRegisters : [0x8000, 0x8008, 0x8010, 0x8018].map (coreE1.arrWord 5) = [1044 * 2 ^ 32, 0x53012, 0x9E0000006400, 0x4A000000000000] := by
  decide +kernel
/-- One stored weight read three ways, in units of 2^-14 (03_formats_and_exact_accumulation.md, R76). -/
theorem test_planes : planedVal 8 false 0xDB = .num true 91 (-6) ∧ planedVal 6 true 0x36 = .num true 45 (-5) ∧ planedVal 4 true 0xD = .num true 11 (-3) := by
  decide +kernel
/-- One entry of an attention projection (R79, R81, R82): the anchor, the two products, and the output. -/
theorem test_anchor : autoAnchor 5 (-5) 121 124 = -9 := by decide +kernel
theorem test_products :
    let r := applyPass (-9) false false {} [(elemVal .e4m3 8 8 false 0x5A 124, elemVal .pb8 6 8 true 0x36 119), (elemVal .e4m3 8 8 false 0x59 124, elemVal .pb8 6 8 true 0x3 61)]
    accInt r.e.acc = -450 * 2 ^ 56 + 16 ∧ r.under = 1 := by decide +kernel
theorem test_output : (fpBf16.round false (.num true 383 (-8))).code = 0xBFC0 ∧ (fpE4m3.round false (.num true 383 (-8))).code = 0xBC := by decide +kernel
/-- The OPEN of one output tile (06_core_sequencer_and_tasks.md, R171). -/
theorem test_openWord :
    let w : BitVec 128 := 0x30000000D0A95FDF1E7F77FE00000009
    cmdOp w = 0x09 ∧ fld w 42 33 = 1023 ∧ signed 10 (fld w 53 44) = -9 ∧ fld w 61 54 = 0x79 ∧ fld w 69 62 = 0x7C ∧ fld w 77 70 = 0x7F ∧ fld w 89 78 = 0x2A5 ∧
      fld w 99 90 = 52 ∧ bit w 124 ∧ bit w 125 := by decide +kernel
/-- Two elements of a unit as lanes, and their residues (09_gradient_reduction.md, R278, R284). -/
theorem test_lanes : groupLanes true .bf16 (-4) [0, 0] [0x3A4C, 0xA865] = [(0xCC00000000, false, false), (0xFFFFFFFFFFF2, false, false)] ∧
    rimeOfLane (51 * 2 ^ 34) = 204 ∧ rimeOfLane (-14) = 65521 := by decide +kernel

/-! ### Commands whose operands lie outside the spec's ranges -/

/-- Each check of WellFormed refuses one. -/
theorem test_illFormed : ([
    Instr.registerWrite false 4 3 0, .registerWrite false 4 8 0, .registerWrite true 0x04000000 4 0, .w1cClear 2 0, .markerSwap 0 0 (some 262144),
    .vectorOutputArrive 0 0 (some { parity := true, row := 512, col := 0 }), .vectorOutputArrive 0 0 (some { parity := true, row := 0, col := 512 }),
    .barrierRelease 0 256, .scrReadReturn 0 0 131072 none [], .scrReadReturn 0 0 0 none [(128, 1)], .fixupRetire 0 131072, .scrubRead 0 [(128, 1)],
    .slotClaim 0 1024 .none 0 0, .slotAcquire 0 1024 .none 0 false 0, .fillToken 0 0 4 0 none, .releaseToken 0 1024 0 0 none,
    .stackRequest { req0 with cls := 28 }, .stackRequest { req0 with len := 0 }, .stackRequest { req0 with addr := 500 },
    .stackRequestServe 0 0 (some { sector := 16, stored := [], transit := [] }), .stackRequestServe 0 0 (some { sector := 0, stored := [(20, 1)], transit := [] }),
    .patrolRead 0 (some { sector := 0, stored := [], transit := [[(20, 1)]] }), .bankRefresh 0 16 0 .due, .bankRefresh 0 0 32 .due, .remapCopyFlip 0 (2 ^ 25),
    .stkChannelFailed 0 16, .rerunOrder msg1 0 [(0, 512)], .rerunOrder msg1 0 [(0, -513)], .shareFinal { msg1 with port := 18 } 0 0,
    .shareFinal { msg1 with src := 8192 } 0 0, .shareFinal { msg1 with id := 2 ^ 32 } 0 0, .nonfiniteRankReport msg1 0 0 256 [], .doneReport msg1 0 0 [] 0 [] [],
    .settleReport msg1 0 9, .repairCompare 0 [1] [], .write 0 { kind := 64 }, .write 0 { vc := 4 }, .write 0 { ttl := 256 }, .write 0 { term := 65536 },
    .loanClaim 8192 0 0 0, .loanClaim 0 (2 ^ 21) 0 0, .package msg1 1 1 { step := 0, epoch := 0, tick := 0, again := false, h := 0, shift := 0, fallback := [], anchorReset := [] },
    .membershipEpoch msg1 0 [(8192, 0, 0, 0)], .lostDeclaration msg1 8192, .ethFrame 0 .other 65536 0 true 0, .ethFrame 0 .other 64 8 true 0,
    .thermalRead 0 4096 (List.replicate 16 0), .thermalRead 0 0 [], .bar2Request false 0 0 [], .bar2Request true 0 2 [1], .getCertificate true 8 0 0, .challenge true 8 0,
    .keyExchange true 8 none, .getEventRecords 4, .clearEventRecords 0 256].all fun i => !wellFormed i) = true := by decide +kernel
theorem test_longOperands : wellFormed (.unit 0 0 (List.replicate 16385 0) 0) = false ∧ wellFormed (.dataFlit 0 0 (List.replicate 249 0) 0 {}) = false ∧
    wellFormed (.getStatus (ask 1 (List.replicate 4057 0))) = false := by decide +kernel

end Sys2Proof.Tests
end

/-! Every command's meaning answers a next state: each branch of it does. The lemmas follow the branches of the
definitions; commands that answer without a branch, or decide on plain conditions alone, need none of their own. -/

namespace Sys2Proof.Machine

open Host

/-- A next state completes. -/
theorem completes_next (t : State) : Completes (.next t) := ⟨t, rfl⟩

/-- A choice between two outcomes completes when both do. -/
theorem completes_ite {p : Prop} [Decidable p] {a b : Outcome State Fault Refusal} (ha : Completes a) (hb : Completes b) :
    Completes (if p then a else b) := by
  split <;> assumption

/-! ### Scratchpads, matrix arrays and the gauge -/

@[simp] theorem execFixupHeldEnter_completes (c s) : Completes (execFixupHeldEnter c s) := by
  fun_cases execFixupHeldEnter <;> exact completes_next _

@[simp] theorem execSlotWaitGrant_completes (c idx s) : Completes (execSlotWaitGrant c idx s) := by
  fun_cases execSlotWaitGrant <;> exact completes_next _

@[simp] theorem execLoad_completes (c task s) : Completes (execLoad c task s) := by
  fun_cases execLoad <;> exact completes_next _

@[simp] theorem execShadowLoadEnd_completes (c loader s) : Completes (execShadowLoadEnd c loader s) := by
  fun_cases execShadowLoadEnd <;> exact completes_next _

@[simp] theorem execLoadHoldLimit_completes (c p s) : Completes (execLoadHoldLimit c p s) := by
  fun_cases execLoadHoldLimit <;> exact completes_next _

@[simp] theorem execOpenBank_completes (c task s) : Completes (execOpenBank c task s) := by
  fun_cases execOpenBank <;> exact completes_next _

@[simp] theorem execIssue_completes (c task s) : Completes (execIssue c task s) := by
  fun_cases execIssue <;> exact completes_next _

@[simp] theorem execFiller_completes (c task s) : Completes (execFiller c task s) := by
  fun_cases execFiller <;> exact completes_next _

@[simp] theorem execVectorIssue_completes (c p s) : Completes (execVectorIssue c p s) := by
  fun_cases execVectorIssue <;> exact completes_next _

@[simp] theorem execSlotWaitLimit_completes (c idx s) : Completes (execSlotWaitLimit c idx s) := by
  fun_cases execSlotWaitLimit <;> exact completes_next _

@[simp] theorem execScrReadReturn_completes (c port row task flips s) :
    Completes (execScrReadReturn c port row task flips s) := by
  fun_cases execScrReadReturn <;> exact completes_next _

@[simp] theorem execMarkerSwap_completes (c p upset s) : Completes (execMarkerSwap c p upset s) := by
  fun_cases execMarkerSwap <;> exact completes_next _

@[simp] theorem execVectorOutputArrive_completes (c p upset s) : Completes (execVectorOutputArrive c p upset s) := by
  fun_cases execVectorOutputArrive <;> exact completes_next _

@[simp] theorem execBankConvertBegin_completes (c p b s) : Completes (execBankConvertBegin c p b s) := by
  fun_cases execBankConvertBegin <;> exact completes_next _

@[simp] theorem execBankConvertEnd_completes (c p b s) : Completes (execBankConvertEnd c p b s) := by
  fun_cases execBankConvertEnd <;> exact completes_next _

@[simp] theorem execDirectedCheckEnd_completes (c q found s) : Completes (execDirectedCheckEnd c q found s) := by
  fun_cases execDirectedCheckEnd <;> exact completes_next _

@[simp] theorem execSpokeMapRewriteEnd_completes (c s) : Completes (execSpokeMapRewriteEnd c s) := by
  fun_cases execSpokeMapRewriteEnd <;> exact completes_next _

/-! ### Stack memory -/

@[simp] theorem execStackRequest_completes (req s) : Completes (execStackRequest req s) := by
  fun_cases execStackRequest <;> exact completes_next _

@[simp] theorem execStackRequestAdmit_completes (k s) : Completes (execStackRequestAdmit k s) := by
  fun_cases execStackRequestAdmit <;> exact completes_next _

@[simp] theorem execStackRequestServe_completes (k id upset s) : Completes (execStackRequestServe k id upset s) := by
  fun_cases execStackRequestServe <;> exact completes_next _

@[simp] theorem execPannierOp_completes (k id s) : Completes (execPannierOp k id s) := by
  fun_cases execPannierOp <;> exact completes_next _

@[simp] theorem execBankRefresh_completes (k channel bank kind s) :
    Completes (execBankRefresh k channel bank kind s) := by
  fun_cases execBankRefresh <;> exact completes_next _

@[simp] theorem execRemapCopyBegin_completes (k s) : Completes (execRemapCopyBegin k s) := by
  fun_cases execRemapCopyBegin <;> exact completes_next _

/-! ### Sequencer, epochs, vector unit and movement engine -/

@[simp] theorem execNop_completes (c task s) : Completes (execNop c task s) := by
  fun_cases execNop <;> exact completes_next _

@[simp] theorem execBarrier_completes (c task s) : Completes (execBarrier c task s) := by
  fun_cases execBarrier <;> exact completes_next _

@[simp] theorem execBarrierRelease_completes (c id s) : Completes (execBarrierRelease c id s) := by
  fun_cases execBarrierRelease <;> exact completes_next _

@[simp] theorem execBarrierTimeout_completes (c task s) : Completes (execBarrierTimeout c task s) := by
  fun_cases execBarrierTimeout <;> exact completes_next _

@[simp] theorem execWaitMarker_completes (c task s) : Completes (execWaitMarker c task s) := by
  fun_cases execWaitMarker <;> exact completes_next _

@[simp] theorem execEndTask_completes (c task s) : Completes (execEndTask c task s) := by
  fun_cases execEndTask <;> exact completes_next _

@[simp] theorem execTaskAdmit_completes (c s) : Completes (execTaskAdmit c s) := by
  fun_cases execTaskAdmit <;> exact completes_next _

@[simp] theorem execSpecWaitLimit_completes (c q s) : Completes (execSpecWaitLimit c q s) := by
  fun_cases execSpecWaitLimit <;> exact completes_next _

@[simp] theorem execTaskCyclesExpire_completes (c task s) : Completes (execTaskCyclesExpire c task s) := by
  fun_cases execTaskCyclesExpire <;> exact completes_next _

@[simp] theorem execTaskRetire_completes (c task s) : Completes (execTaskRetire c task s) := by
  fun_cases execTaskRetire <;> exact completes_next _

@[simp] theorem execSettleComplete_completes (c id s) : Completes (execSettleComplete c id s) := by
  fun_cases execSettleComplete <;> exact completes_next _

@[simp] theorem execDiscardComplete_completes (c id s) : Completes (execDiscardComplete c id s) := by
  fun_cases execDiscardComplete <;> exact completes_next _

@[simp] theorem execVec_completes (c task s) : Completes (execVec c task s) := by
  fun_cases execVec <;> exact completes_next _

@[simp] theorem execMove_completes (c task s) : Completes (execMove c task s) := by
  fun_cases execMove <;> exact completes_next _

@[simp] theorem execDescriptorAdmit_completes (c s) : Completes (execDescriptorAdmit c s) := by
  fun_cases execDescriptorAdmit <;> exact completes_next _

@[simp] theorem execDescriptorComplete_completes (c s) : Completes (execDescriptorComplete c s) := by
  fun_cases execDescriptorComplete <;> exact completes_next _

@[simp] theorem execTransferGroupComplete_completes (c s) : Completes (execTransferGroupComplete c s) := by
  fun_cases execTransferGroupComplete <;> exact completes_next _

@[simp] theorem execPrefetchFetch_completes (c s) : Completes (execPrefetchFetch c s) := by
  fun_cases execPrefetchFetch <;> exact completes_next _

/-! ### Moraine and gradient reduction -/

@[simp] theorem execMorainePlace_completes (s) : Completes (execMorainePlace s) := by
  fun_cases execMorainePlace <;> exact completes_next _

@[simp] theorem execMoraineLendComplete_completes (s) : Completes (execMoraineLendComplete s) := by
  fun_cases execMoraineLendComplete <;> exact completes_next _

@[simp] theorem execMoraineReturn_completes (s) : Completes (execMoraineReturn s) := by
  fun_cases execMoraineReturn <;> exact completes_next _

@[simp] theorem execLeadComplete_completes (s) : Completes (execLeadComplete s) := by
  fun_cases execLeadComplete <;> exact completes_next _

@[simp] theorem execShareOpen_completes (bucket s) : Completes (execShareOpen bucket s) := by
  fun_cases execShareOpen <;> exact completes_next _

@[simp] theorem execShareDeadline_completes (bucket s) : Completes (execShareDeadline bucket s) := by
  fun_cases execShareDeadline <;> exact completes_next _

@[simp] theorem execRecord_completes (port src data s) : Completes (execRecord port src data s) := by
  fun_cases execRecord <;> exact completes_next _

@[simp] theorem execPartialLimitExpire_completes (bucket s) : Completes (execPartialLimitExpire bucket s) := by
  fun_cases execPartialLimitExpire <;> exact completes_next _

@[simp] theorem execBucketBegin_completes (bucket s) : Completes (execBucketBegin bucket s) := by
  fun_cases execBucketBegin <;> exact completes_next _

@[simp] theorem execShareFinish_completes (bucket s) : Completes (execShareFinish bucket s) := by
  fun_cases execShareFinish <;> exact completes_next _

@[simp] theorem execMarkerPlace_completes (tick s) : Completes (execMarkerPlace tick s) := by
  fun_cases execMarkerPlace <;> exact completes_next _

/-! ### Ethernet, Prifa and the cascade -/

@[simp] theorem execRocePacket_completes (e q p s) : Completes (execRocePacket e q p s) := by
  fun_cases execRocePacket <;> exact completes_next _

@[simp] theorem execRoceRateIncrease_completes (e q s) : Completes (execRoceRateIncrease e q s) := by
  fun_cases execRoceRateIncrease <;> exact completes_next _

@[simp] theorem execEthFrame_completes (e kind len tags fcsOk symErr s) :
    Completes (execEthFrame e kind len tags fcsOk symErr s) := by
  fun_cases execEthFrame <;> exact completes_next _

@[simp] theorem execLinkTrain_completes (p peer peerPort nonce lanes testOk s) :
    Completes (execLinkTrain p peer peerPort nonce lanes testOk s) := by
  fun_cases execLinkTrain <;> exact completes_next _

@[simp] theorem execRingRelay_completes (ring s) : Completes (execRingRelay ring s) := by
  fun_cases execRingRelay <;> exact completes_next _

@[simp] theorem execMessageForward_completes (p vc s) : Completes (execMessageForward p vc s) := by
  fun_cases execMessageForward <;> exact completes_next _

@[simp] theorem execStepMarker_completes (s) : Completes (execStepMarker s) := by
  fun_cases execStepMarker <;> exact completes_next _

/-! ### Structure images -/

@[simp] theorem execUpdate_completes (c task s) : Completes (execUpdate c task s) := by
  fun_cases execUpdate <;> exact completes_next _

@[simp] theorem execPeerLoadRequest_completes (src place s) : Completes (execPeerLoadRequest src place s) := by
  fun_cases execPeerLoadRequest <;> exact completes_next _

@[simp] theorem execImageVerify_completes (place s) : Completes (execImageVerify place s) := by
  unfold execImageVerify
  refine completes_ite (completes_next _) ?_
  extract_lets
  split
  · exact completes_next _
  · exact completes_next _
  · extract_lets differs
    clear_value differs
    split <;> exact completes_next _

@[simp] theorem execSwapStart_completes (s) : Completes (execSwapStart s) := by
  fun_cases execSwapStart <;> exact completes_next _

@[simp] theorem execStagingComplete_completes (s) : Completes (execStagingComplete s) := by
  fun_cases execStagingComplete <;> exact completes_next _

@[simp] theorem execSwapCommit_completes (s) : Completes (execSwapCommit s) := by
  fun_cases execSwapCommit <;> exact completes_next _

@[simp] theorem execSwapComplete_completes (s) : Completes (execSwapComplete s) := by
  fun_cases execSwapComplete <;> exact completes_next _

/-! ### Clocks, power and start-up -/

@[simp] theorem execCapUnmet_completes (s) : Completes (execCapUnmet s) := by
  fun_cases execCapUnmet <;> exact completes_next _

@[simp] theorem execFreewheelBudget_completes (h fullStep emptyStep s) :
    Completes (execFreewheelBudget h fullStep emptyStep s) := by
  unfold execFreewheelBudget
  refine completes_ite (completes_next _) ?_
  extract_lets
  split
  · exact completes_ite (completes_next _) (completes_next _)
  · exact completes_next _

@[simp] theorem execThermalRead_completes (h junction stackTemps s) :
    Completes (execThermalRead h junction stackTemps s) := by
  fun_cases execThermalRead <;> exact completes_next _

@[simp] theorem execStartupStepTimeout_completes (late found s) : Completes (execStartupStepTimeout late found s) := by
  fun_cases execStartupStepTimeout <;> exact completes_next _

/-! ### The host, its registers and security -/

@[simp] theorem execChallenge_completes (doe slot nonce s) : Completes (execChallenge doe slot nonce s) := by
  fun_cases execChallenge <;> exact completes_next _

@[simp] theorem execGetMeasurements_completes (doe index sign nonce s) :
    Completes (execGetMeasurements doe index sign nonce s) := by
  fun_cases execGetMeasurements <;> exact completes_next _

@[simp] theorem execKeyExchange_completes (doe slot key s) : Completes (execKeyExchange doe slot key s) := by
  fun_cases execKeyExchange <;> exact completes_next _

@[simp] theorem execFinish_completes (session proof s) : Completes (execFinish session proof s) := by
  fun_cases execFinish <;> exact completes_next _

@[simp] theorem execKeyUpdate_completes (session s) : Completes (execKeyUpdate session s) := by
  fun_cases execKeyUpdate <;> exact completes_next _

@[simp] theorem execSpdmHeartbeat_completes (session s) : Completes (execSpdmHeartbeat session s) := by
  fun_cases execSpdmHeartbeat <;> exact completes_next _

@[simp] theorem execEndSession_completes (session s) : Completes (execEndSession session s) := by
  fun_cases execEndSession <;> exact completes_next _

@[simp] theorem execKeyProg_completes (session tx s) : Completes (execKeyProg session tx s) := by
  fun_cases execKeyProg <;> exact completes_next _

@[simp] theorem execKSetGo_completes (session tx s) : Completes (execKSetGo session tx s) := by
  fun_cases execKSetGo <;> exact completes_next _

@[simp] theorem execBar2Request_completes (write addr len data s) :
    Completes (execBar2Request write addr len data s) := by
  fun_cases execBar2Request <;> exact completes_next _

@[simp] theorem execCxlMemRequest_completes (write line data enable s) :
    Completes (execCxlMemRequest write line data enable s) := by
  fun_cases execCxlMemRequest <;> exact completes_next _

@[simp] theorem execErasureVerified_completes (s) : Completes (execErasureVerified s) := by
  fun_cases execErasureVerified <;> exact completes_next _

@[simp] theorem execRegisterWrite_completes (bar4 off size val s) :
    Completes (execRegisterWrite bar4 off size val s) := by
  fun_cases execRegisterWrite <;> exact completes_next _

@[simp] theorem execW1cClear_completes (off val s) : Completes (execW1cClear off val s) := by
  fun_cases execW1cClear <;> exact completes_next _

/-! ### The table -/

/-- Settles O48: every branch of every command's meaning ends in a next state. That a command whose event cannot happen leaves
the state as it is, and is neither refused nor a fault, is the model's choice: log entry 29. -/
theorem everyCommandCompletes : Obligations.EveryCommandCompletes := by
  unfold Obligations.EveryCommandCompletes
  intro c s
  cases c
  -- One next state, whatever the machine holds.
  case fillToken | releaseToken | scrInject | stkRetireAck | stkInject | wqDoorbell | wqReconfigure | cqReconfigure |
      cqHeadWrite | seqReplay | seqSkip | specOpen | specSettle | specDiscard | unit | shareFinal | shareFailed |
      exclusionSet | withdrawOrder | rerunOrder | resendOrder | nonfiniteRankReport | saturationReport | doneReport |
      doneReportTimeout | settleReport | settleRefusalReport | fenceReport | moraineReport | fpStart | dataFlit |
      sealFlit | retry | idle | retrainTimeout | write | pannier | writeAck | claim | grant | refuse | fill |
      release | loanClaim | specToken | package | membershipEpoch | lostDeclaration | deadlineShift | heartbeat |
      heartbeatTimeout | takeover | log | cascadeBarrier | timeHoldoverExpire | ring | markerReqRepeat |
      markerReqResume | sqTail | rqTail | cqHead | modify | imgLoadLocal | imgLoadPeer | imgStage | imgSwapArmStep |
      imgSwapArmImmediate | imgSwapCancel | imgModuleId | alertAssert | pwrStateM0 | pwrStateM1 | pwrStateM2 |
      pwrStateM3 | pwrStateM4 | glbFaultTail | getStatus | getLog | getNonce | zeroise | takeOwnership |
      transferOwnership | requestSelftest | installUserKey | removeUserKey | installImageKey | raiseImageFloor |
      setPolicy | fwUpdate | raiseFwFloor | debugOpen | installCascadeKey | identifyMemoryDevice | getEventRecords |
      getPoisonList | getSupportedLogs | cxlGetLog | getFwInfo | bypass | idcode | testEnter | samplePreload |
      extest | clamp | highz | extestPulse | extestTrain | timeUnlockedReport | getHealthInfo =>
    exact completes_next _
  -- One condition: the event happens, or the state stays as it is.
  case shadowLoadBegin | partitionFree | directedCheckBegin | spokeMapRewrite | scrubRead | scrubIntervalEnd |
      uniformStallEnd | slotAcquire | tokenQueueDrain | requestPromote | remapCopyFlip | stkChannelFailed |
      stackFence | normDecision | fpComplete | prifaRetrain | portFence | timeDelay | ptpLoss | arpRequest |
      roceAckTimeout | ethLinkDown | swapDrainLimit | coreFence | halfFence | moduleFence | grantRecompute |
      opSwitchComplete | pllUnlock | pllRelock | pllRelockTimeout | droopDetect | droopWindowEnd | thermalEase |
      alertRelease | m1Wake | powerOn | startupStepEnd | inputTurnOff | inputDip | inputRecover | overcurrentTrip |
      overvoltageTrip | modEnLow | modEnRise | hostLinkDown | flr | ideCheckFail | getVersion | clearEventRecords |
      pmbusPoll | i3cDynamicAddress | tapReset | pllLockCheckPass | hostLinkRetrain | ethLinkUp | timeSyncInterval =>
    exact completes_ite (completes_next _) (completes_next _)
  -- A second condition where the first fails.
  case slotClaim | patrolRead | repairCompare | timeSync | ptpMessage | swapReadyTimeout | thermalTrip | perstFall |
      tamperDetect | getCapabilities | perstRise | tckEdge | heartbeatInterval =>
    exact completes_ite (completes_next _) (completes_ite (completes_next _) (completes_next _))
  -- A second condition where the first holds.
  case  warmReset =>
    exact completes_ite (completes_ite (completes_next _) (completes_next _)) (completes_next _)
  -- Three conditions in turn.
  case fixupRetire | opSwitchCommit | capStep | inputPowerWindow | negotiateAlgorithms | getCertificate =>
    exact completes_ite (completes_next _) (completes_ite (completes_next _)
      (completes_ite (completes_next _) (completes_next _)))
  -- The others branch on what they find in the state: each has its lemma above.
  all_goals simp [exec]

end Sys2Proof.Machine

/-! A register write while the function is out of D0: the port carries no memory request, and nothing changes. -/

namespace Sys2Proof.Machine

open Host

/-- A write by a port that carries no memory request does nothing. -/
theorem State.bar0Write_of_not_hostHears {s : State} (h : s.hostHears = false) (off : BitVec 27) (o : Owner) (b : Bool)
    (f : State → State) : s.bar0Write off o b f = s := by
  simp [State.bar0Write, h]

/-- Neither does REGISTER_WRITE to BAR0, whatever its size and alignment. -/
theorem execRegisterWrite_of_not_hostHears {s : State} (h : s.hostHears = false) (off : BitVec 27) (n : Nat) (v : BitVec 64) :
    execRegisterWrite false off n v s = .next s := by
  simp only [execRegisterWrite, State.bar0Write_of_not_hostHears h, Bool.false_eq_true, if_false]
  split
  · rfl
  · split <;> rfl

/-- Oztas runs and the host link is up, but the function is in D3hot (HST_LINK_STATUS, R466). -/
def inD3hot : State := { State.reset with
  oz := { State.reset.oz with up := true }
  host := { State.reset.host with linkUp := true, dstate := 1 } }

/-- Refutes O21: its OZ_LED clause asks for the link and for Oztas alone, but out of D0 the port carries no memory request (log
entry 80), so that a write of 1 to OZ_LED leaves the light off. -/
theorem not_registerAndFlagWrites : ¬ Obligations.RegisterAndFlagWrites := by
  unfold Obligations.RegisterAndFlagWrites
  rintro ⟨-, -, -, -, -, ledWritten, -⟩
  have written : exec (.registerWrite false 0x00100040 4 1) inD3hot
      = .next (inD3hot.modOz fun o => { o with led := bit (1#64) 0 }) := ledWritten 1 inD3hot rfl rfl
  have kept : exec (.registerWrite false 0x00100040 4 1) inD3hot = .next inD3hot :=
    execRegisterWrite_of_not_hostHears rfl _ _ _
  have same := Outcome.next.inj (kept.symm.trans written)
  exact absurd (congrArg (fun s => s.oz.led) same) (by decide)

end Sys2Proof.Machine

/-! A module fence that meets an armed swap. -/

namespace Sys2Proof.Machine

open Host

/-- Oztas runs, no unit is fenced, and a STEP swap is armed. -/
def swapArmed : State := { State.reset with
  oz := { State.reset.oz with up := true }
  img := { State.reset.img with swap := { phase := .armed } } }

/-- Refutes O33: its MODULE_FENCE clause leaves out that a fence decided before COMMIT cancels the swap that waits (R365), which
IMG_LAST_SWAP then shows as aborted (R472). -/
theorem not_fencesByOztas : ¬ Obligations.FencesByOztas := by
  unfold Obligations.FencesByOztas
  rintro ⟨-, -, -, -, -, moduleFenced, -⟩
  have claimed := moduleFenced 0x0C09 0 swapArmed rfl (by decide) rfl
  have fenced : exec (.moduleFence 0x0C09 0) swapArmed = .next (swapArmed.fenceModule 0x0C09 0) := rfl
  have same := Outcome.next.inj (fenced.symm.trans claimed)
  exact absurd (congrArg (fun s => s.img.lastSwap) same) (by decide +kernel)

end Sys2Proof.Machine

/-! Stationary tiles: LOAD and the shadow loader (R41, R43, R58). -/

namespace Sys2Proof.Machine

open Host

/-- Settles O1: each clause is the branch its command takes. -/
theorem stationaryLoad : Obligations.StationaryLoad := by
  unfold Obligations.StationaryLoad
  refine ⟨?loads, ?begins, ?ends, ?endsDropped, ?holdLimit⟩
  case loads =>
    intro c task s t i w p o buf s1 a bs s2 s3 ready part fmt room granted extent banks fetched
    simp only [exec, execLoad, ready, part, fmt, room, granted, extent, banks, fetched]
    rfl
  case begins =>
    intro c loader s runs moves idle waiting
    have loaderIdle : ((s.core c).arr.tileBuf.get loader).any (fun t => t.loading) = false := by
      simpa using idle
    simp only [exec, execShadowLoadBegin, runs, moves, loaderIdle, waiting, decide_false]
    rfl
  case ends =>
    intro c loader s x loading runs due kept
    simp only [exec, execShadowLoadEnd, loading, runs, Nat.not_lt.mpr due, kept]
    rfl
  case endsDropped =>
    intro c loader s x loading runs due dropped
    simp only [exec, execShadowLoadEnd, loading, runs, Nat.not_lt.mpr due, dropped]
    rfl
  case holdLimit =>
    intro c p s start n t wait task runs held due
    simp [exec, execLoadHoldLimit, wait, task, runs, held, due]

end Sys2Proof.Machine

/-! Vectors, markers and banks: the issue slots, the drain and the converters (R31 to R49). -/

namespace Sys2Proof.Machine

open Host

/-! ### The issue slots of a partition (R31, R42, R44, R173) -/

/-- No stall holds a slot of the present array cycle, nor one of a cycle past while the schedule is not stalled. -/
theorem slotFree {n now : Nat} {stalled : Bool} (h : n = now ∨ stalled = false) :
    (decide (n < now) && stalled) = false := by
  rcases h with h | h <;> simp [h]

section
variable {c : Fin 8} {p : Fin 4} {n : Nat} {s : State} (runs : s.coreRuns c = true)
  (inMode : p.val < (s.core c).arr.mode.count) (slot : s.issueSlot c p = some n) (moves : s.arrayRuns c = true)
  (noCause : s.stallCause c = false) (unstalled : n = (s.core c).arr.now ∨ (s.core c).seq.stalled = false)
include runs inMode slot moves noCause unstalled

/-- A slot with no run queued is a FILLER command's, a freewheel filler's or a bubble. -/
theorem exec_vectorIssue_of_noRun (noRun : (s.part c p).runs = []) :
    exec (.vectorIssue c p) s = .next (match (s.part c p).fillRuns with
      | [] => if n % 64 < (s.part c p).density then s.fillSlot c p n 0 [] else s.slotUsed c p n false
      | f :: fs => s.fillSlot c p n f.task (if f.left ≤ 1 then fs else { f with left := f.left - 1 } :: fs)) := by
  simp only [exec, execVectorIssue, slot, runs, Nat.not_le.mpr inMode, moves, noCause, slotFree unstalled, noRun]
  cases (s.part c p).fillRuns <;> rfl

/-- A slot with a run whose next vector is due: its marker is held, the vector cannot issue in the set it would meet, it waits for
the drain credit of its bank, or it issues. -/
theorem exec_vectorIssue_of_dueRun {r : Run} {rest : List Run} {o : OpFmt} (head : (s.part c p).runs = r :: rest)
    (noGap : r.gap = false)
    (due : ((s.findTask c r.task).all (fun t => s.taskDecoupled c t) ||
      decide (r.due ≤ (s.core c).seq.sched - ((s.core c).arr.now - n))) = true)
    (fmt : issueFmt r.word = some o) {mark : Bool} (marked : mark = (bit r.word 88 && r.next = 0 && !r.marked)) :
    exec (.vectorIssue c p) s = .next (
      if mark && !s.markerAt c p n then s.holdMarker c p n
      else if !mark && !((s.part c p).active || s.markPending c p) then s.failCmd c r.task 0x0104 p.val
      else
        let st := (s.setHdr c p (if mark then !s.nextSet c p else s.nextSet c p)).op
        if (st.isFloat || o.isFloat) && st.fmt ≠ o.fmt then s.failCmd c r.task 0x0104 p.val
        else if (s.bank c p (fin2 (fld r.word 76 76))).st ≠ .opened then
          (if mark then s.markBubble c p n r else s.slotUsed c p n false)
        else s.issueVector c p n r o mark) := by
  subst marked
  cases task : s.findTask c r.task with
  | none =>
    simp only [exec, execVectorIssue, slot, runs, Nat.not_le.mpr inMode, moves, noCause, slotFree unstalled, head, noGap, task,
      fmt, apply_ite Outcome.next]
    rfl
  | some t =>
    have notEarly : (!s.taskDecoupled c t && decide ((s.core c).seq.sched - ((s.core c).arr.now - n) < r.due)) = false := by
      simp only [task, Option.all_some, Bool.or_eq_true, decide_eq_true_eq] at due
      rcases due with decoupled | reached
      · rw [decoupled]; rfl
      · rw [decide_eq_false (Nat.not_lt.mpr reached), Bool.and_false]
    simp only [exec, execVectorIssue, slot, runs, Nat.not_le.mpr inMode, moves, noCause, slotFree unstalled, head, noGap, task,
      notEarly, fmt, apply_ite Outcome.next]
    rfl
end

/-! ### The oldest vector of a partition at the drain (R45, R48, R84) -/

/-- The array with a partition's oldest flight gone from it. -/
def State.outOfFlight (s : State) (c : Fin 8) (p : Fin 4) : State :=
  s.modArr c fun a => { a with flights := removeFirst (fun f => f.part = p.val) a.flights }

@[simp] theorem State.outOfFlight_part (s : State) (c : Fin 8) (p : Fin 4) : (s.outOfFlight c p).part c p = s.part c p := by
  simp only [State.outOfFlight, State.part, State.modArr_core_arr]

/-- A pass's outputs as its bank holds them. -/
def State.joinBank (s : State) (c : Fin 8) (p : Fin 4) (f : Flight) : State :=
  let x := s.drainPass c p f
  let hdr := s.metHdr c p f
  (s.modArr c fun a => { a with pool := a.pool.set (fin2 f.bank) x.entries }).modBank c p (fin2 f.bank) fun k => { k with
    underflow := k.underflow + x.under
    anchor := if hdr.op.isFloat then k.anchor else some (k.passAnchor hdr.op f.op)
    lastChunk := if k.lastChunk.isNone && hdr.last then some hdr.chunk else k.lastChunk }

/-- The bank's last chunk came before the chunk of the tile a vector met. -/
def State.afterLast (s : State) (c : Fin 8) (p : Fin 4) (f : Flight) : Bool :=
  (s.bank c p (fin2 f.bank)).lastChunk.any fun k => decide (k.toNat < (s.metHdr c p f).chunk.toNat)

theorem State.afterLast_of_le (s : State) {c : Fin 8} {p : Fin 4} {f : Flight}
    (inOrder : ((s.bank c p (fin2 f.bank)).lastChunk.all fun k => decide ((s.metHdr c p f).chunk.toNat ≤ k.toNat)) = true) :
    s.afterLast c p f = false := by
  cases last : (s.bank c p (fin2 f.bank)).lastChunk with
  | none => simp only [State.afterLast, last, Option.any]
  | some k => simpa [State.afterLast, last] using inOrder

/-- A flight whose marker has entered, or that carries none, has no marker still to enter. -/
theorem Flight.markerEntered (f : Flight) (h : f.marker = true → f.swapped = true) : (f.marker && !f.swapped) = false := by
  simpa using h

section
variable {c : Fin 8} {p : Fin 4} {s : State} {f : Flight}
  (oldest : (s.core c).arr.flights.find? (fun f => f.part = p.val) = some f) (runs : s.coreRuns c = true)
  (moves : s.arrayRuns c = true) (due : f.issueCycle + passLatency (s.core c).arr.mode ≤ (s.core c).arr.now)
  (swapped : f.marker = true → f.swapped = true)
include oldest runs moves due swapped

/-- A check of the vector that fails is a hard fault. -/
theorem exec_vectorOutputArrive_of_fault {upset : Option CellUpset} {x : BitVec 16 × Option Nat × Nat}
    (fault : s.vectorFault c p f upset = some x) :
    exec (.vectorOutputArrive c p upset) s = .next ((s.outOfFlight c p).hardFault c p x.1 x.2.1 x.2.2) := by
  simp only [exec, execVectorOutputArrive, oldest, runs, moves, Nat.not_lt.mpr due, f.markerEntered swapped, fault]
  rfl

/-- A vector whose products are discarded leaves nothing behind. -/
theorem exec_vectorOutputArrive_of_discarded (clean : s.vectorFault c p f none = none)
    (dropped : (f.discard || f.filler || f.bubble) = true) :
    exec (.vectorOutputArrive c p none) s = .next (s.outOfFlight c p) := by
  simp only [exec, execVectorOutputArrive, oldest, runs, moves, Nat.not_lt.mpr due, f.markerEntered swapped, clean, dropped]
  rfl

/-- A vector that meets its bank joins it, unless the chunk order or a trap stops its task. -/
theorem exec_vectorOutputArrive_of_met {s1 : State} (clean : s.vectorFault c p f none = none)
    (kept : (f.discard || f.filler || f.bubble) = false) (left : s1 = s.outOfFlight c p)
    (isOpen : (s1.bank c p (fin2 f.bank)).st ≠ .empty) :
    exec (.vectorOutputArrive c p none) s = .next (
      if (s1.drainPass c p f).order || s1.afterLast c p f then s1.failCmd c f.task 0x0103 p.val
      else if (s1.drainPass c p f).nf then s1.failCmd c f.task 0x0101 p.val
      else if (s1.drainPass c p f).sat then s1.failCmd c f.task 0x0102 p.val
      else s1.joinBank c p f) := by
  rw [State.outOfFlight] at left
  cases last : (s1.bank c p (fin2 f.bank)).lastChunk <;>
    simp only [exec, execVectorOutputArrive, oldest, runs, moves, Nat.not_lt.mpr due, f.markerEntered swapped, clean, kept,
      ← left, isOpen, last, State.afterLast, Option.any, apply_ite Outcome.next] <;> rfl
end

/-! ### Banks that convert (R46, R49, R99) -/

/-- A bank whose entries are all written: its scale array follows the records, its counts leave, and it is EMPTY. -/
def State.endBank (s : State) (c : Fin 8) (p : Fin 4) (b : Fin 2) (k : Bank) (at_ : Nat) : State :=
  let s1 := s.scrWrite c at_ (padRow k.scales)
  (if k.gauged then s1.gaugeFlush c (fld k.word 89 78) k.gauge k.underflow else s1).modBank c p b fun _ => {}

@[simp] theorem State.endBank_bank (s : State) (c : Fin 8) (p : Fin 4) (b : Fin 2) (k : Bank) (at_ : Nat) :
    (s.endBank c p b k at_).bank c p b = {} := by
  simp only [State.endBank, State.modBank_bank]

/-- A closed bank's conversion is due. -/
theorem State.convertDue_of_closed (s : State) {c : Fin 8} {p : Fin 4} {b : Fin 2} (closed : (s.bank c p b).st = .closed)
    (passed : (s.bank c p b).closeCycle + passLatency (s.core c).arr.mode ≤ (s.core c).arr.now)
    (added : ((s.core c).arr.flights.all fun f => f.part ≠ p.val || f.bank ≠ b.val || f.filler || f.bubble) = true)
    (free : s.converterFree c p b = true) : s.convertDue c p b = true := by
  have noFlight : ((s.core c).arr.flights.any fun f => f.part = p.val && f.bank = b.val && !f.filler && !f.bubble) = false := by
    refine List.any_eq_false.mpr fun f member waits => ?_
    have done := List.all_eq_true.mp added f member
    simp only [Bool.and_eq_true, decide_eq_true_eq, Bool.not_eq_true'] at waits
    obtain ⟨⟨⟨part, bank⟩, filler⟩, bubble⟩ := waits
    simp only [part, bank, filler, bubble, ne_eq, not_true_eq_false, decide_false, Bool.or_false, Bool.false_eq_true] at done
  simp only [State.convertDue, closed, passed, noFlight, free, decide_true, Bool.not_false, Bool.and_true]

section
variable {c : Fin 8} {p : Fin 4} {b : Fin 2} {s : State} (runs : s.coreRuns c = true) (moves : s.arrayRuns c = true)
include runs moves

section
variable (due : s.convertDue c p b = true) (last : (s.bank c p b).lastChunk ≠ none)
include due last

/-- A bank with its buffer starts converting into it, or writes nothing where the output leaves the scratchpad. -/
theorem exec_bankConvertBegin_of_buf {buf : Nat} (claimed : (s.bank c p b).buf = some buf) :
    exec (.bankConvertBegin c p b) s = .next (
      if s.outputFits c p b buf then
        s.modBank c p b fun k => { k with st := .converting, buf := some buf, convCycle := (s.core c).arr.now, conv := 0 }
      else s.failCmd c (s.bank c p b).task 0x0204 (fld (s.bank c p b).word 99 90)) := by
  simp only [exec, execBankConvertBegin, runs, moves, due, Option.isNone_eq_false_iff.mpr (Option.isSome_iff_ne_none.mpr last),
    claimed]
  rfl

/-- A bank that makes no claim of its own takes the claim its task holds. -/
theorem exec_bankConvertBegin_of_held {t : Task} {h : Hold} (unclaimed : (s.bank c p b).buf = none)
    (task : s.findTask c (s.bank c p b).task = some t)
    (noWait : ((s.core c).scr.waits.all fun w => w.rq ≠ .bank p.val b.val) = true)
    (noClaim : bit (s.bank c p b).word 124 = false) (held : t.held (fld (s.bank c p b).word 99 90) false = some h)
    (fits : s.outputFits c p b h.buf = true) :
    exec (.bankConvertBegin c p b) s = .next (s.modBank c p b fun k =>
      { k with st := .converting, buf := some h.buf, convCycle := (s.core c).arr.now, conv := 0 }) := by
  have noBankWait : s.bankWait c p b = none := by simp [State.bankWait, unclaimed, noClaim]
  have quiet : ((s.core c).scr.waits.any fun w => w.rq = .bank p.val b.val) = false := by simpa using noWait
  simp only [exec, execBankConvertBegin, runs, moves, due, Option.isNone_eq_false_iff.mpr (Option.isSome_iff_ne_none.mpr last),
    unclaimed, task, noBankWait, quiet, noClaim, held, fits]
  rfl
end

section
variable {buf at_ : Nat} {s0 : State} {kept : Bool} (claimed : (s.bank c p b).buf = some buf)
  (converting : (s.bank c p b).st = .converting) (written : (s.bank c p b).n ≤ (s.bank c p b).conv)
  (extent : s.scrExtent c (fld (s.bank c p b).word 99 90) buf
    (fld (s.bank c p b).word 123 100 + (s.bank c p b).n * s.recordRows c p b) (padRow (s.bank c p b).scales).length = some at_)
  (rows : s.takeAll c (s.bank c p b).task 0
    [(at_ / 512, rowsOf at_ (padRow (s.bank c p b).scales).length, convPort (s.core c).arr.mode p.val)] = (kept, s0))
include claimed converting written extent rows

/-- A conversion whose scale rows lose their bank does nothing more. -/
theorem exec_bankConvertEnd_of_lost (lost : kept = false) : exec (.bankConvertEnd c p b) s = .next s0 := by
  subst lost
  simp only [exec, execBankConvertEnd, claimed, runs, moves, converting, Nat.not_lt.mpr written, extent, rows]
  rfl

/-- One whose scale rows keep it ends, and posts its fill token when OPEN asked for one. -/
theorem exec_bankConvertEnd_of_kept (won : kept = true) :
    exec (.bankConvertEnd c p b) s =
      if bit (s.bank c p b).word 125 then
        match (s0.endBank c p b (s.bank c p b) at_).findTask c (s.bank c p b).task with
        | some t => .next ((s0.endBank c p b (s.bank c p b) at_).postToken c (s.bank c p b).task
            (fld (s.bank c p b).word 99 90) buf true t.epoch)
        | none => .next (s0.endBank c p b (s.bank c p b) at_)
      else .next (s0.endBank c p b (s.bank c p b) at_) := by
  subst won
  simp only [exec, execBankConvertEnd, claimed, runs, moves, converting, Nat.not_lt.mpr written, extent, rows]
  rfl
end
end

/-! ### Markers (R42, R43) -/

/-- A partition's marker enters the array: the selectors invert. -/
def State.enterMarker (s : State) (c : Fin 8) (p : Fin 4) (f : Flight) : State :=
  (s.modArr c fun a => { a with
    flights := replaceFirst (fun x => x.part = p.val && x.marker && !x.swapped) (fun x => { x with swapped := true }) a.flights
    swaps := satAdd 64 a.swaps 1 }).modPart c p fun q => { q with
      selB := !q.selB, active := !f.discard, shadowNew := false, lastEntry := some (f.issueCycle + 3)
      marks := ((f.issueCycle + 3) :: q.marks).take 4 }

/-- A marker due swaps the sets, and a register of the entering set that fails its parity is a hard fault. -/
theorem exec_markerSwap_of_due {c : Fin 8} {p : Fin 4} {s s0 : State} {f : Flight} {upset : Option Nat}
    (first : (s.core c).arr.flights.find? (fun f => f.part = p.val && f.marker && !f.swapped) = some f)
    (runs : s.coreRuns c = true) (moves : s.arrayRuns c = true) (due : f.issueCycle + 3 ≤ (s.core c).arr.now)
    (struck : s0 = upset.elim s fun cell => s.strikeReg c p f.setB (cell / 512 % 512) (cell % 512)) :
    exec (.markerSwap c p upset) s = .next (((s0.core c).arr.badSwap p.val f.setB).elim (s0.enterMarker c p f) fun x =>
      (s0.enterMarker c p f).hardFault c p 0x0110 (some x.1) x.2) := by
  cases upset with
  | none =>
    cases struck
    cases bad : (s.core c).arr.badSwap p.val f.setB <;>
      simp only [exec, execMarkerSwap, first, runs, moves, Nat.not_lt.mpr due, Option.elim, bad] <;> rfl
  | some cell =>
    rw [Option.elim] at struck
    cases bad : (s0.core c).arr.badSwap p.val f.setB <;>
      simp only [exec, execMarkerSwap, first, runs, moves, Nat.not_lt.mpr due, Option.elim, ← struck, bad] <;> rfl

/-! ### The obligations -/

/-- Settles O2: each clause is the branch its command takes, or follows from what that branch leaves. -/
theorem banksAndRuns : Obligations.BanksAndRuns := by
  unfold Obligations.BanksAndRuns
  refine ⟨?opened, ?queued, ?filler, ?swapped, ?swapFault, ?fillerIssues, ?discarded, ?converts, ?ends⟩
  case opened =>
    intro c task s t i w p x f ready part tensor fmt drain bank entries scales
    simp only [exec, execOpenBank, ready, part, tensor, fmt, drain, bank, Nat.not_lt.mpr entries, scales]
    rfl
  case queued =>
    intro c task s t i w p o buf s1 a ready part fmt transposed bank orient room granted extent
    have allowed : (bit w 87 && decide ((s.core c).arr.mode ≠ .full)
        || decide ((s.bank c p (fin2 (fld w 76 76))).st ≠ .opened)
        || decide ((s.bank c p (fin2 (fld w 76 76))).transposed ≠ bit w 87)
        || decide ((s.bank c p (fin2 (fld w 76 76))).n < fld w 86 77 + (fld w 75 66 + 1))) = false := by
      simpa [bank, orient, room] using transposed
    simp only [exec, execIssue, ready, part, fmt, allowed, granted, extent]
    rfl
  case filler =>
    intro c task s t i w p ready part
    simp only [exec, execFiller, ready, part]
  case swapped =>
    intro c p s f first runs moves due clean
    refine (exec_markerSwap_of_due first runs moves due (s0 := s) rfl).trans ?_
    rw [clean]
    rfl
  case swapFault =>
    intro c p s f cell s1 x first runs moves due struck bad
    refine (exec_markerSwap_of_due first runs moves due (s0 := s1) (upset := some cell) struck.symm).trans ?_
    rw [bad]
    rfl
  case fillerIssues =>
    intro c p n s f rest runs inMode slot moves noCause unstalled noRun fillers
    refine ⟨_, (exec_vectorIssue_of_noRun runs inMode slot moves noCause unstalled noRun).trans (by rw [fillers]), ?_, ?_, ?_⟩
    · simp [State.fillSlot, State.modPart]
    · simp [State.fillSlot]
    · simp [State.fillSlot]
  case discarded =>
    intro c p s f oldest runs moves due swapped clean dropped
    refine ⟨_, exec_vectorOutputArrive_of_discarded oldest runs moves due swapped clean dropped, ?_, ?_, ?_⟩
    · simp [State.outOfFlight]
    · simp [State.outOfFlight]
    · exact s.outOfFlight_part c p
  case converts =>
    intro c p b s buf runs moves closed passed added free last claimed fits
    refine ⟨_, (exec_bankConvertBegin_of_buf runs moves (s.convertDue_of_closed closed passed added free) last claimed).trans
      (by rw [if_pos fits]), ?_⟩
    simp only [State.modBank_bank, and_self]
  case ends =>
    intro c p b s buf at_ s0 runs moves claimed converting written noToken extent rows
    refine ⟨_, (exec_bankConvertEnd_of_kept runs moves claimed converting written extent rows rfl).trans
      (by rw [noToken, if_neg Bool.false_ne_true]), ?_⟩
    simp only [State.endBank_bank, and_self]

/-- Settles O3: each clause is a branch of an issue slot, of the drain or of a conversion. -/
theorem vectorsThroughTheArray : Obligations.VectorsThroughTheArray := by
  unfold Obligations.VectorsThroughTheArray
  refine ⟨?bubble, ?freewheel, ?vector, ?markBubble, ?filler, ?discarded, ?joins, ?residue, ?convertsClaimed, ?convertsHeld,
    ?ends, ?scalesLost, ?unfit, ?chunkOrder, ?nonFinite, ?saturated⟩
  case bubble =>
    intro c p n s runs inMode slot moves noCause unstalled noRun noFiller plain
    refine (exec_vectorIssue_of_noRun runs inMode slot moves noCause unstalled noRun).trans ?_
    rw [noFiller]
    exact congrArg _ (if_neg (Nat.not_lt.mpr plain))
  case freewheel =>
    intro c p n s runs inMode slot moves noCause unstalled noRun noFiller dense
    refine (exec_vectorIssue_of_noRun runs inMode slot moves noCause unstalled noRun).trans ?_
    rw [noFiller]
    exact congrArg _ (if_pos dense)
  case vector =>
    intro c p n s r rest o runs inMode slot moves noCause unstalled head noGap due fmt allowed sameFmt isOpen
    refine (exec_vectorIssue_of_dueRun runs inMode slot moves noCause unstalled head noGap due fmt rfl).trans ?_
    generalize (bit r.word 88 && decide (r.next = 0) && !r.marked) = mark at allowed sameFmt ⊢
    have held : (mark && !s.markerAt c p n) = false := by
      cases mark with
      | false => rfl
      | true => rw [show s.markerAt c p n = true from allowed]; rfl
    have empty : (!mark && !((s.part c p).active || s.markPending c p)) = false := by
      cases mark with
      | false => rw [show ((s.part c p).active || s.markPending c p) = true from allowed]; rfl
      | true => rfl
    have mixed : (((s.setHdr c p (if mark then !s.nextSet c p else s.nextSet c p)).op.isFloat || o.isFloat) &&
        decide ((s.setHdr c p (if mark then !s.nextSet c p else s.nextSet c p)).op.fmt ≠ o.fmt)) = false := by
      rcases sameFmt with fixed | same
      · rw [fixed, Bool.false_and]
      · simp only [same, ne_eq, not_true_eq_false, decide_false, Bool.and_false]
    simp only [held, empty, mixed, isOpen]
    rfl
  case markBubble =>
    intro c p n s r rest o runs inMode slot moves noCause unstalled head noGap due fmt marked allowed fixed shut
    refine (exec_vectorIssue_of_dueRun runs inMode slot moves noCause unstalled head noGap due fmt marked.symm).trans ?_
    simp [allowed, fixed, shut]
  case filler =>
    intro c p n s f rest runs inMode slot moves noCause unstalled noRun fillers
    refine (exec_vectorIssue_of_noRun runs inMode slot moves noCause unstalled noRun).trans ?_
    rw [fillers]
    rfl
  case discarded =>
    intro c p s f oldest runs moves due swapped clean dropped
    exact exec_vectorOutputArrive_of_discarded oldest runs moves due swapped clean dropped
  case joins =>
    intro c p s f s1 oldest runs moves due swapped clean kept left isOpen inOrder untrapped
    obtain ⟨order, nf, sat⟩ := untrapped
    refine (exec_vectorOutputArrive_of_met oldest runs moves due swapped clean kept left isOpen).trans ?_
    have notLate := s1.afterLast_of_le inOrder
    simp only [order, notLate, nf, sat]
    rfl
  case residue =>
    intro c p u s f oldest runs moves due swapped valid checked residue
    have fault : s.vectorFault c p f (some u) = some (0x0111, none, u.col) := by
      rcases checked with h | h <;> simp [State.vectorFault, valid, h, residue]
    exact (exec_vectorOutputArrive_of_fault oldest runs moves due swapped fault).trans rfl
  case convertsClaimed =>
    intro c p b s buf runs moves closed passed added free last claimed fits
    refine (exec_bankConvertBegin_of_buf runs moves (s.convertDue_of_closed closed passed added free) last claimed).trans ?_
    rw [if_pos fits]
  case convertsHeld =>
    intro c p b s t h runs moves closed passed added free last unclaimed task noWait noClaim held fits
    exact exec_bankConvertBegin_of_held runs moves (s.convertDue_of_closed closed passed added free) last unclaimed task noWait
      noClaim held fits
  case ends =>
    intro c p b s buf at_ s0 runs moves claimed converting written extent rows
    refine (exec_bankConvertEnd_of_kept runs moves claimed converting written extent rows rfl).trans ?_
    generalize ended : s0.endBank c p b (s.bank c p b) at_ = s3
    simp only [State.endBank] at ended
    simp only [ended]
    cases bit (s.bank c p b).word 125 <;> cases s3.findTask c (s.bank c p b).task <;> rfl
  case scalesLost =>
    intro c p b s buf at_ s0 runs moves claimed converting written extent rows
    exact exec_bankConvertEnd_of_lost runs moves claimed converting written extent rows rfl
  case unfit =>
    intro c p b s buf runs moves due last claimed unfit
    refine (exec_bankConvertBegin_of_buf runs moves due last claimed).trans ?_
    rw [unfit]
    rfl
  case chunkOrder =>
    intro c p s f s1 oldest runs moves due swapped clean kept left isOpen order
    refine (exec_vectorOutputArrive_of_met oldest runs moves due swapped clean kept left isOpen).trans ?_
    have stopped : ((s1.drainPass c p f).order || s1.afterLast c p f) = true := by
      rcases order with h | ⟨k, last, late⟩
      · simp [h]
      · simp [State.afterLast, last, late]
    rw [if_pos stopped]
  case nonFinite =>
    intro c p s f s1 oldest runs moves due swapped clean kept left isOpen inOrder order nf
    refine (exec_vectorOutputArrive_of_met oldest runs moves due swapped clean kept left isOpen).trans ?_
    have notLate := s1.afterLast_of_le inOrder
    simp only [order, notLate, nf]
    rfl
  case saturated =>
    intro c p s f s1 oldest runs moves due swapped clean kept left isOpen inOrder order nf sat
    refine (exec_vectorOutputArrive_of_met oldest runs moves due swapped clean kept left isOpen).trans ?_
    have notLate := s1.afterLast_of_le inOrder
    simp only [order, notLate, nf, sat]
    rfl

end Sys2Proof.Machine

/-! The matrix arrays' recovery (R51, R55, R65): where a spoke map puts the logical lines, and what a directed check leaves. -/

namespace Sys2Proof.Machine

open Host

/-! ### Positions of the logical lines (R51) -/

/-- A map has no more spares in use than groups. -/
theorem sparesIn_le (t : Tab (BitVec 8)) (lo hi : Nat) : sparesIn t lo hi ≤ hi := by
  simpa [sparesIn] using List.length_filter_le (fun g => decide (lo ≤ g) && spokeInUse (tabGet 0 t g)) (List.range hi)

/-- One group more counts its own spare, when that is in use. -/
theorem sparesIn_succ (t : Tab (BitVec 8)) (lo hi : Nat) (h : lo ≤ hi) :
    sparesIn t lo (hi + 1) = sparesIn t lo hi + b2n (spokeInUse (tabGet 0 t hi)) := by
  simp only [sparesIn, List.range_succ, List.filter_append, List.length_append, List.filter_cons, List.filter_nil, h,
    decide_true, Bool.true_and]
  cases spokeInUse (tabGet 0 t hi) <;> rfl

/-- More groups have no fewer spares in use. -/
theorem sparesIn_mono (t : Tab (BitVec 8)) {lo a b : Nat} (h : a ≤ b) : sparesIn t lo a ≤ sparesIn t lo b :=
  ((List.range_sublist.mpr h).filter _).length_le

/-- In a group whose spare is in use the lines from the replaced one on have moved on. -/
theorem shifted_of_used {t : Tab (BitVec 8)} {i : Nat} (used : spokeInUse (tabGet 0 t (i / 64)) = true) :
    shifted t i = decide (spokeLine (tabGet 0 t (i / 64)) ≤ i % 64) := by
  simp only [shifted, used, Bool.true_and]

/-- In any other group no line has. -/
theorem shifted_of_unused {t : Tab (BitVec 8)} {i : Nat} (unused : spokeInUse (tabGet 0 t (i / 64)) = false) :
    shifted t i = false := by
  simp only [shifted, unused, Bool.false_and]

@[simp] theorem b2n_true : b2n true = 1 := rfl
@[simp] theorem b2n_false : b2n false = 0 := rfl

theorem b2n_le_one (b : Bool) : b2n b ≤ 1 := by cases b <;> decide

/-- A line that has moved on lies in a group whose spare is in use. -/
theorem b2n_shifted_le (t : Tab (BitVec 8)) (i : Nat) : b2n (shifted t i) ≤ b2n (spokeInUse (tabGet 0 t (i / 64))) := by
  cases used : spokeInUse (tabGet 0 t (i / 64)) with
  | false => simp only [shifted_of_unused used, b2n_false, Nat.le_refl]
  | true => exact b2n_le_one _

/-- Of two lines of one group the later has moved on when the earlier has. -/
theorem b2n_shifted_mono (t : Tab (BitVec 8)) {i j : Nat} (h : i ≤ j) (same : i / 64 = j / 64) :
    b2n (shifted t i) ≤ b2n (shifted t j) := by
  cases used : spokeInUse (tabGet 0 t (j / 64)) with
  | false => simp only [shifted_of_unused (same ▸ used), b2n_false, Nat.zero_le]
  | true =>
    rw [shifted_of_used (same ▸ used), shifted_of_used used, same]
    have later : i % 64 ≤ j % 64 := by omega
    by_cases moved : spokeLine (tabGet 0 t (j / 64)) ≤ i % 64
    · simp only [moved, Nat.le_trans moved later, decide_true, Nat.le_refl]
    · simp only [moved, decide_false, b2n_false, Nat.zero_le]

/-- Positions grow with the lines (R51). -/
theorem pos_lt_pos (t : Tab (BitVec 8)) {i j : Nat} (h : i < j) : pos t i < pos t j := by
  unfold pos
  rcases Nat.lt_or_ge (i / 64) (j / 64) with next | same
  · have := b2n_shifted_le t i
    have := sparesIn_succ t 0 (i / 64) (Nat.zero_le _)
    have := sparesIn_mono t (lo := 0) (show i / 64 + 1 ≤ j / 64 from next)
    omega
  · have same : i / 64 = j / 64 := by omega
    have := b2n_shifted_mono t (Nat.le_of_lt h) same
    rw [same]
    omega

/-- So do the physical lines (R27). -/
theorem lineOf_lt_lineOf (t : Tab (BitVec 8)) {i j : Nat} (h : i < j) : lineOf t i < lineOf t j := by
  unfold lineOf
  rcases Nat.lt_or_ge (i / 64) (j / 64) with next | same
  · have := b2n_le_one (shifted t i)
    omega
  · have := b2n_shifted_mono t (Nat.le_of_lt h) (by omega)
    omega

/-- A position lies past its line by the spares in use up to it, which are eight in all. -/
theorem pos_bounds (t : Tab (BitVec 8)) {i : Nat} (h : i < 512) : i ≤ pos t i ∧ pos t i ≤ i + 8 := by
  have := sparesIn_le t 0 (i / 64)
  have := b2n_le_one (shifted t i)
  unfold pos
  omega

/-- The line a spare replaces lies between the lines before it and those after it, and carries none (R51). -/
theorem lineOf_of_spare (t : Tab (BitVec 8)) (i : Nat) (used : spokeInUse (tabGet 0 t (i / 64)) = true) :
    (spokeLine (tabGet 0 t (i / 64)) ≤ i % 64 → lineOf t i = i / 64 * 65 + i % 64 + 1) ∧
      (i % 64 < spokeLine (tabGet 0 t (i / 64)) → lineOf t i = i / 64 * 65 + i % 64) ∧
      lineOf t i ≠ i / 64 * 65 + spokeLine (tabGet 0 t (i / 64)) := by
  rcases Nat.lt_or_ge (i % 64) (spokeLine (tabGet 0 t (i / 64))) with before | after
  · have line : lineOf t i = i / 64 * 65 + i % 64 := by
      simp only [lineOf, shifted_of_used used, Nat.not_le.mpr before, decide_false, b2n_false, Nat.add_zero]
    exact ⟨fun h => absurd h (Nat.not_le.mpr before), fun _ => line, by omega⟩
  · have line : lineOf t i = i / 64 * 65 + i % 64 + 1 := by
      simp only [lineOf, shifted_of_used used, after, decide_true, b2n_true]
    exact ⟨fun _ => line, fun h => absurd h (Nat.not_lt.mpr after), by omega⟩

/-! ### A directed check that is over (R55, R56, R65) -/

/-- A check that has run its 4,096 cycles ends: its quadrant is no longer suspect, or a spare is promised, or the core is
fenced. -/
theorem execDirectedCheckEnd_of_due {c : Fin 8} {q : Fin 4} {s : State} {x : Check} (check : (s.core c).arr.check = some x)
    (runs : s.coreRuns c = true) (quad : x.quad = q.val) (due : x.start + 4096 ≤ (s.core c).arr.now) (found : CheckResult) :
    execDirectedCheckEnd c q found s = .next (match found with
      | .pass => s.modArr c fun a => { a with check := none, suspect := a.suspect &&& ~~~(1#4 <<< q.val) }
      | .line col n =>
        if (s.core c).arr.canSpare col n then
          (s.modArr c fun a => { a with check := none, respare := a.respare ++ [(col, n, q.val)] }).modFlash fun f =>
            if col then { f with fieldCol := tabSet 0 f.fieldCol (c.val * 8 + n / 64) (fieldByte n) }
            else { f with fieldRow := tabSet 0 f.fieldRow (c.val * 8 + n / 64) (fieldByte n) }
        else (s.modArr c fun a => { a with check := none }).fenceCore c 0x0121 (BitVec.ofNat 32 n)
      | .notLocalised => (s.modArr c fun a => { a with check := none }).fenceCore c 0x0122 (BitVec.ofNat 32 q.val)) := by
  simp only [execDirectedCheckEnd, check, runs, quad, Nat.not_lt.mpr due, ne_eq, not_true_eq_false, decide_false, Bool.not_true,
    Bool.or_false, Bool.false_eq_true, if_false, State.modArr_modArr]
  cases found with
  | pass => rfl
  | notLocalised => rfl
  | line col n => exact (apply_ite Outcome.next _ _ _).symm

/-- Settles O4: the position clauses by the spares in use up to a line's group, the others by the branch each command takes. -/
theorem arrayRecovery : Obligations.ArrayRecovery := by
  unfold Obligations.ArrayRecovery
  refine ⟨?partitionFree, ?checkBegins, ?checkPasses, ?checkSpares, ?sparesExhausted, ?notLocalised, ?rewriteBegins,
    ?rewriteEnds, ?stallEnds, ?positions, ?replaced⟩
  case partitionFree =>
    intro c p s owed due
    simp [exec, execPartitionFree, owed, due]
  case checkBegins =>
    intro c q s runs suspect noCheck unspared free
    have noSpare : (s.core c).arr.respare.any (fun r => r.2.2 = q.val) = false := by simpa using unspared
    simp only [exec, execDirectedCheckBegin, runs, suspect, noCheck, noSpare, free]
    rfl
  case checkPasses =>
    intro c q s x check runs quad due
    exact execDirectedCheckEnd_of_due check runs quad due .pass
  case checkSpares =>
    intro c q col s x n check runs quad due spare
    exact (execDirectedCheckEnd_of_due check runs quad due (.line col n)).trans (by simp only [spare, if_true])
  case sparesExhausted =>
    intro c q col s x n check runs quad due spare
    exact (execDirectedCheckEnd_of_due check runs quad due (.line col n)).trans
      (by simp only [spare, Bool.false_eq_true, if_false])
  case notLocalised =>
    intro c q s x check runs quad due
    exact execDirectedCheckEnd_of_due check runs quad due .notLocalised
  case rewriteBegins =>
    intro c s runs promised noRewrite idle
    simp [exec, execSpokeMapRewrite, runs, promised, noRewrite, idle]
  case rewriteEnds =>
    intro c s n begun runs due
    simp only [exec, execSpokeMapRewriteEnd, begun, runs, Nat.not_lt.mpr due]
    rfl
  case stallEnds =>
    intro c s stalled cause
    simp [exec, execUniformStallEnd, stalled, cause]
  case positions =>
    intro t i j hij hj
    exact ⟨pos_lt_pos t hij, lineOf_lt_lineOf t hij, (pos_bounds t (by omega)).1, (pos_bounds t hj).2⟩
  case replaced =>
    intro t i _ used
    exact lineOf_of_spare t i used

end Sys2Proof.Machine

/-! Swaps of the active and shadow images (R360 to R366). -/

namespace Sys2Proof.Machine

open Host

/-- A swap not ready in time is aborted; the tasks that a FENCE swap ended restart on the active image. -/
theorem exec_swapReadyTimeout_of_due {s : State} (preparing : s.img.swap.phase = .preparing)
    (due : s.img.swap.tick + 20000 ≤ s.tick) :
    exec .swapReadyTimeout s = .next (
      if s.img.swap.mode ≠ 2 then s.abortSwap 0x0908
      else ((match s.img.active with
        | some a => (s.abortSwap 0x0908).restartAll a.2
        | none => s.abortSwap 0x0908).modGlb fun g => { g with fencePath := none }).nextFence) := by
  simp only [exec, execSwapReadyTimeout, preparing, Nat.not_lt.mpr due, apply_ite Outcome.next]
  cases s.img.active <;> rfl

/-- The switch to an image from the one active before: its switch effects, as far as family and LINK body differ, and the replay
when a fence path led to it. -/
def State.switchTo (s : State) (g : ImgCfg) (old : Option ImgCfg) (family link : Bool) (path : Option FencePath) : State :=
  let w := s.img.swap
  let s1 := forAllOf (allCores.filter fun c => !s.coreFenced c)
    (fun c s' => s'.switchCore c old g family (w.mode = 0 && s'.cas.markerSeen))
    (if w.mode = 0 then (s.switchCensus g).runDueLead else s.switchCensus g)
  let s2 := ((if link then s1 else (s1.switchRoles g).switchLinks).switchPorts old).switchLoans old g
  let s3 := if family then s2 else
    forAllOf allHalves (fun h s => s.modHalf h fun y => { y with retSets := Vector.replicate 2 [] }) (s2.modRed fun r => { r with
      finished := [], lateShares := [], senders := [], shifts := [], orders := [], notes := [], fallback := [], anchorReset := [] })
  let s4 := ((forAllOf allHalves (fun h s => s.modHalf h fun y => { y with morHigh := 0 }) s3).noteMorHigh).modImg fun i => { i with
    swap := {}, stopAdmit := false, moraineStop := false, variantMissing := false
    redirects := if family then i.redirects else []
    swapCount := satAdd 32 i.swapCount 1
    lastSwap := lastSwapWord w.mode false ((s.tick - w.tick) / 1000) ((path.map fun f => f.cause).getD 0) }
  let s5 := match path with
    | some f => s4.fenceSwapped f old g
    | none => s4
  let s6 := (if s5.omitsFenced g || s5.glb.fencePending ≠ [] then s5 else s5.missVariant).compareFamily g
  (s6.deliverHeld.msix 2).nextFence

/-- A swap that switches completes under the image that is now active. -/
theorem exec_swapComplete_of_switching {s : State} {p : Nat} {g : ImgCfg} (active : s.img.active = some (p, g))
    (switching : s.img.swap.phase = .switching) :
    exec .swapComplete s = .next (s.switchTo g (s.img.shadow.map (·.2))
      ((s.img.shadow.map (·.2)).any fun x => x.familyId = g.familyId)
      ((s.img.shadow.map (·.2)).any fun x => x.secCrcs[6]? = g.secCrcs[6]?)
      (if s.img.swap.mode = 2 then s.glb.fencePath else none)) := by
  cases shadow : s.img.shadow <;> cases path : s.glb.fencePath <;> by_cases fence : s.img.swap.mode = 2 <;>
    simp only [exec, execSwapComplete, active, switching, shadow, path, fence, Option.map, Option.any, if_true, if_false,
      ne_eq, not_true_eq_false, State.switchTo, Option.getD]

/-- Settles O32: each clause is the branch its command takes; the first swap to an image has no old one to differ from. -/
theorem imageSwap : Obligations.ImageSwap := by
  unfold Obligations.ImageSwap
  refine ⟨?armsStep, ?armsImmediate, ?armsNothing, ?cancels, ?cancelsNothing, ?starts, ?notQuiescent, ?drainLimit, ?commits,
    ?readyTimeout, ?fenceReadyTimeout, ?completesFirst, ?completes, ?completesNothing, ?staged⟩
  case armsStep =>
    intro s oz staged idle
    simp only [exec, execImgSwapArmStep, State.bar0Write_of_takesWrite oz, Option.isNone_eq_false_iff.mpr staged, idle]
    rfl
  case armsImmediate =>
    intro s oz staged idle
    simp only [exec, execImgSwapArmImmediate, State.bar0Write_of_takesWrite oz, Option.isNone_eq_false_iff.mpr staged, idle]
    rfl
  case armsNothing =>
    intro s oz refused
    have blocked : (s.img.shadow.isNone || decide (s.img.swap.phase ≠ .idle)) = true := by simpa using refused
    simp only [exec, execImgSwapArmStep, execImgSwapArmImmediate, State.bar0Write_of_takesWrite oz, blocked, if_true, and_self]
  case cancels =>
    intro s oz mode waits
    have waiting : (decide (s.img.swap.mode ≠ 2) && (s.img.swap.phase = .armed || s.img.swap.phase = .draining)) = true := by
      simpa [mode] using waits
    simp only [exec, execImgSwapCancel, State.bar0Write_of_takesWrite oz, waiting, if_true]
  case cancelsNothing =>
    intro s oz other
    have notWaiting :
        (decide (s.img.swap.mode ≠ 2) && (s.img.swap.phase = .armed || s.img.swap.phase = .draining)) = false := by
      rcases other with h | h | h | h <;> simp [h]
    simp only [exec, execImgSwapCancel, State.bar0Write_of_takesWrite oz, notWaiting, Bool.false_eq_true, if_false]
  case starts =>
    intro s p g shadow draining within quiet
    simp only [exec, execSwapStart, shadow, draining, within, quiet]
    rfl
  case notQuiescent =>
    intro s p g shadow busy
    simp only [exec, execSwapStart, shadow, busy, Bool.and_false, Bool.false_eq_true, if_false]
  case drainLimit =>
    intro s draining due
    simp only [exec, execSwapDrainLimit, draining, due]
    rfl
  case commits =>
    intro s p g shadow preparing within
    simp only [exec, execSwapCommit, shadow, preparing, Nat.not_lt.mpr within]
    cases s.img.active <;> rfl
  case readyTimeout =>
    intro s preparing due mode
    exact (exec_swapReadyTimeout_of_due preparing due).trans (by rw [if_pos mode])
  case fenceReadyTimeout =>
    intro s preparing due mode
    refine (exec_swapReadyTimeout_of_due preparing due).trans ?_
    exact congrArg Outcome.next ((if_neg (not_not_intro mode)).trans (by cases s.img.active <;> rfl))
  case completesFirst =>
    intro s p g active switching shadow noPath
    refine (exec_swapComplete_of_switching active switching).trans ?_
    simp only [shadow, noPath, ite_self, Option.map, Option.any, State.switchTo, Bool.false_eq_true, if_false, Option.getD]
  case completes =>
    intro s p g active switching
    exact exec_swapComplete_of_switching active switching
  case completesNothing =>
    intro s notSwitching
    cases active : s.img.active with
    | none => simp only [exec, execSwapComplete, active]
    | some a => simp only [exec, execSwapComplete, active, notSwitching, ne_eq, not_false_eq_true, if_true]
  case staged =>
    intro s p t g staging cfg noPath fit
    simp only [exec, execStagingComplete, staging, cfg, fit, noPath]

end Sys2Proof.Machine

/-! Scratchpad rows: reads, fix-ups, the scrubber and injections (R103 to R110, R130). -/

namespace Sys2Proof.Machine

open Host

/-- A read at a port that reads, whose bank and port are free and which no stall holds, answers what the row's read finds: the bytes
at the port, or 0x0201 when the row cannot be corrected (R103, R107). -/
theorem exec_scrReadReturn_of_free {c : Fin 8} {port : Fin 12} {row : Nat} {s : State} (runs : s.coreRuns c = true)
    (inPad : row < scrRows) (reader : port.val < 3 ∨ 6 < port.val) (free : s.rowsFree c row 1 port.val = true)
    (unheld : s.queuesHeld c = false ∨ 10 ≤ port.val) (key : Option Nat) (flips : List (Nat × BitVec 39)) :
    exec (.scrReadReturn c port row key flips) s = .next (
      let r := ((s.scrUpset c row flips).useBank c row port.val).scrReadRow c row
      if r.1 then
        r.2.modScr c fun x => { x with portData := tabSet [] x.portData port.val (r.2.scrBytes c (row * 512) 512) }
      else match key with
        | some k => r.2.softFault c k 0x0201 (BitVec.ofNat 32 row)
        | none => r.2.raise 0x0201 (unit := c.val) (detail := BitVec.ofNat 32 row)) := by
  have reads : ¬ (3 ≤ port.val ∧ port.val ≤ 6) := by omega
  have moves : (s.queuesHeld c && decide (port.val < 10)) = false := by
    rcases unheld with h | h <;> simp [h]
  simp only [exec, execScrReadReturn, runs, free, moves, Nat.not_le.mpr inPad, reads, decide_false, Bool.not_true, Bool.or_self,
    Bool.false_eq_true, if_false]
  rcases ((s.scrUpset c row flips).useBank c row port.val).scrReadRow c row with ⟨_ | _, s1⟩
  · cases key <;> rfl
  · rfl

/-- Settles O7: each clause is the branch its command takes. -/
theorem scratchpadRows : Obligations.ScratchpadRows := by
  unfold Obligations.ScratchpadRows
  refine ⟨?reads, ?uncorrectable, ?noRead, ?retires, ?heldRetires, ?heldEnters, ?scrubsClean, ?scrubsCorrectable,
    ?scrubsUncorrectable, ?intervalEnds, ?arms, ?armsNothing⟩
  case reads =>
    intro c port row key flips s runs inPad reader free unheld corrected
    exact (exec_scrReadReturn_of_free runs inPad reader free unheld key flips).trans (by rw [if_pos corrected])
  case uncorrectable =>
    intro c port row key flips s runs inPad reader free unheld lost
    exact (exec_scrReadReturn_of_free runs inPad reader free unheld (some key) flips).trans (by simp [lost])
  case noRead =>
    intro c port row key flips s outside
    rcases outside with outside | outside <;> simp [exec, execScrReadReturn, outside]
  case retires =>
    intro c row s runs may
    simp [exec, execFixupRetire, runs, may]
  case heldRetires =>
    intro c row s runs notQueued decoupled held unbegun
    simp only [exec, execFixupRetire, runs, notQueued, decoupled, held, unbegun]
    rfl
  case heldEnters =>
    intro c s x rest held runs room
    simp only [exec, execFixupHeldEnter, held, runs, room]
    rfl
  case scrubsClean =>
    intro c flips s runs idle clean
    simp only at clean
    simp [exec, execScrubRead, runs, idle, clean]
  case scrubsCorrectable =>
    intro c flips s s1 runs idle visited single noDouble room unqueued sound
    have notQueued : (((s1.core c).scr.fixups.any fun e => e.row = (s.core c).scr.scrubRow) ||
        (s1.core c).scr.held.any fun e => e.row = (s.core c).scr.scrubRow) = false := by
      rw [← List.any_append, List.any_eq_not_all_not]
      simpa using unqueued
    simp only [exec, execScrubRead, runs, idle, ← visited, single, noDouble, Nat.not_lt.mpr room, notQueued, sound]
    rfl
  case scrubsUncorrectable =>
    intro c flips s runs idle double ⟨noFixup, noHeld, sound⟩
    simp only at double noFixup noHeld sound
    simp [exec, execScrubRead, runs, idle, double, noFixup, noHeld, sound]
  case intervalEnds =>
    intro c s runs notLate due
    simp only [exec, execScrubIntervalEnd, runs, notLate, due]
    rfl
  case arms =>
    intro c v32 s takes opened go
    simp only [exec, execScrInject, State.bar0Write_of_takesWrite takes, opened, go]
    rfl
  case armsNothing =>
    intro c v32 s takes dropped
    simp only [exec, execScrInject, State.bar0Write_of_takesWrite takes, dropped, Bool.false_eq_true, if_false]

end Sys2Proof.Machine

/-! Tokens at a buffer slot whose owner has others waiting (R119, R410). -/

namespace Sys2Proof.Machine

open Host

/-- A fill token that the stewards hold joins the held ones, whatever its slot would have made of it. -/
theorem exec_fillToken_of_tokensWait {c : Fin 8} {slot : Nat} {s : State} (wait : s.tokensWait (s.slotOwner c slot).1 = true)
    (buf : Nat) (epoch : BitVec 16) (poster : Option (Fin 8 × Nat)) :
    exec (.fillToken c slot buf epoch poster) s = .next
      (s.wakeM1.modImg fun i => { i with held := i.held ++ [.token c slot buf true epoch poster] }) := by
  simp only [exec, execFillToken, State.takeToken, wait, if_true]

/-- Core 0 runs and no swap does; buffer 0 of its slot 0, of one fill and one drain, has its claim outstanding; and the stewards still
hold a token that came before, for another slot of the core. -/
def tokenHeld : State := { State.reset with
  cores := Vector.replicate 8 { up := true
                                scr := { slots := [(0, { bufs := #v[{ st := .filling, claims := 1 }, {}, {}, {}] })] } }
  img := { State.reset.img with
    active := some (0, { slots := [{ core := 0, slot := 0, entry := BitVec.ofNat 128 (2 ^ 4 + 2 ^ 8 + 2 ^ 16) }] })
    held := [.token 0 1 0 true 0 none] } }

/-- Refutes O8: its token clauses leave out a token that came before and is still held, behind which the stewards hold the next one
for the same core, though no swap runs and the core does (R378, R410). -/
theorem not_bufferSlots : ¬ Obligations.BufferSlots := by
  unfold Obligations.BufferSlots
  rintro ⟨-, -, -, -, fillApplied, -⟩
  have applied : exec (.fillToken 0 0 0 0 none) tokenHeld = .next (tokenHeld.putFill 0 0 0 0).2 :=
    fillApplied 0 0 0 0 none tokenHeld _ rfl rfl (by decide +kernel)
  have held := exec_fillToken_of_tokensWait (c := 0) (slot := 0) (s := tokenHeld) (by decide) 0 0 none
  have same := Outcome.next.inj (held.symm.trans applied)
  exact absurd (congrArg (fun s => s.img.held.length) same) (by decide +kernel)

end Sys2Proof.Machine

/-! Messages at the module they are for (R318, R319, R498). -/

namespace Sys2Proof.Machine

open Host

/-- The kinds of message that have a command of their own at the module they are for. -/
def actingKinds : List Nat := [0x01, 0x02, 0x03, 0x04, 0x05, 0x06, 0x07, 0x08, 0x09, 0x16]

/-- Each of them carries its effect, whatever its ARGS. -/
theorem carriesEffect_of_acting {k : Nat} (acting : k ∈ actingKinds) (args : BitVec 144) : carriesEffect k args = true := by
  simp only [actingKinds, List.mem_cons, List.not_mem_nil, or_false] at acting
  rcases acting with rfl | rfl | rfl | rfl | rfl | rfl | rfl | rfl | rfl | rfl <;> rfl

/-- Each of them keeps to the common path of its source, destination and channel. -/
theorem pathClass_of_acting {k : Nat} (acting : k ∈ actingKinds) : pathClass k = 0 := by
  revert k
  decide

/-! ### Delivery -/

section
variable {p : Fin 18} {m : Msg} {s s1 : State} {k : Nat}

/-- A message that is not for this module, or that no steward meets, changes nothing. -/
theorem State.deliverKind_of_unmet (unmet : m.dst ≠ s.selfId ∨ (s.stewardUp 0 || s.stewardUp 1) = false) :
    s.deliverKind p m k = s := by
  rcases unmet with h | h <;> simp [State.deliverKind, h]

variable (kind : m.kind = k) (acting : k ∈ actingKinds) (mine : m.dst = s.selfId)
  (met : (s.stewardUp 0 || s.stewardUp 1) = true) (channel : (kindVcs k).contains m.vc = true)
include kind acting mine met channel

/-- A message that is not newer than the last accepted is dropped and counted. -/
theorem State.deliverKind_of_old (old : s.acceptId p.val m.src m.id m.vc = (false, s1)) : s.deliverKind p m k = s1 := by
  subst kind
  simp only [State.deliverKind, State.deliver, mine, met, channel, carriesEffect_of_acting acting, pathClass_of_acting acting, old]
  rfl

/-- A newer one acts. -/
theorem State.deliverKind_of_newer {s2 : State} (newer : s.acceptId p.val m.src m.id m.vc = (true, s1))
    (effect : s1.takeEffect p m = (none, s2)) : s.deliverKind p m k = s2 := by
  subst kind
  simp only [State.deliverKind, State.deliver, mine, met, channel, carriesEffect_of_acting acting, pathClass_of_acting acting, newer,
    effect]
  rfl

end

/-! ### Effects -/

/-- WRITE_ACK to SPEC_TOKEN are the acting kinds of the control channel (R318). -/
theorem acting_of_control {k : Nat} (control : k ∈ [0x03, 0x04, 0x05, 0x06, 0x07, 0x08, 0x09]) :
    k ∈ actingKinds ∧ (kindVcs k).contains vcCtrl = true := by
  revert k
  decide

/-- A newer one of these kinds has its effect. -/
theorem State.deliverKind_of_control {p : Fin 18} {m : Msg} {s s1 s2 : State} {k : Nat} (kind : m.kind = k)
    (control : k ∈ [0x03, 0x04, 0x05, 0x06, 0x07, 0x08, 0x09]) (mine : m.dst = s.selfId)
    (met : (s.stewardUp 0 || s.stewardUp 1) = true) (channel : m.vc = vcCtrl)
    (newer : s.acceptId p.val m.src m.id m.vc = (true, s1)) (effect : s1.takeEffect p m = (none, s2)) :
    s.deliverKind p m k = s2 := by
  obtain ⟨acting, carried⟩ := acting_of_control control
  exact State.deliverKind_of_newer kind acting mine met (channel ▸ carried) newer effect

/-- WRITE, PANNIER and RING, of the bulk channel, write to stack memory. -/
theorem State.deliverKind_of_write {p : Fin 18} {m : Msg} {s s1 : State} {k : Nat} (kind : m.kind = k)
    (write : k = 0x01 ∨ k = 0x02 ∨ k = 0x16) (mine : m.dst = s.selfId) (met : (s.stewardUp 0 || s.stewardUp 1) = true)
    (channel : m.vc = vcBulk) (newer : s.acceptId p.val m.src m.id m.vc = (true, s1)) :
    s.deliverKind p m k = s1.remoteWrite p m := by
  obtain ⟨acting, carried⟩ : k ∈ actingKinds ∧ (kindVcs k).contains vcBulk = true := by
    rcases write with rfl | rfl | rfl <;> decide
  exact State.deliverKind_of_newer kind acting mine met (channel ▸ carried) newer
    (by simp only [State.takeEffect, kind, write, if_true])

/-- FILL and RELEASE act as tokens. -/
theorem State.takeEffect_of_token {m : Msg} (token : m.kind = 0x07 ∨ m.kind = 0x08) (s : State) (p : Fin 18) :
    s.takeEffect p m = (none, s.takeSlotToken m) := by
  rcases token with h | h <;> simp [State.takeEffect, h]

/-- A write of a discarded epoch changes nothing and is acknowledged (R199). -/
theorem State.remoteWrite_of_stale {s : State} {m : Msg} (stale : s.specStale (wSpec m.args) = true) (p : Fin 18) :
    s.remoteWrite p m = (s.dropStaleWrite (wAddr m.args)).ackTo m 0 := by
  simp only [State.remoteWrite, stale, if_true]

/-- A loan's token tells the moraine. -/
theorem State.takeSlotToken_of_loan {m : Msg} (loan : aLoan m.args = true) (s : State) :
    s.takeSlotToken m = s.loanRelease m.src (aBase m.args) (leNat m.data) := by
  simp only [State.takeSlotToken, loan, if_true]

/-- Any other goes to its slot's owner. -/
theorem State.takeSlotToken_of_slot {m : Msg} (slot : aLoan m.args = false) (s : State) :
    s.takeSlotToken m = s.takeToken (aSlotCore m.args) (aSlot m.args) (aBuf m.args) (m.kind = 0x07) (aSpec m.args) none := by
  simp only [State.takeSlotToken, slot, Bool.false_eq_true, if_false]

/-- Settles O25: a message that is newer acts as its kind has it, one that is not is dropped, and any other changes nothing. -/
theorem messagesForModule : Obligations.MessagesForModule := by
  unfold Obligations.MessagesForModule
  refine ⟨?writes, ?staleWrite, ?stalePannier, ?staleRing, ?pannierApplies, ?ringWrites, ?acks, ?claims, ?grants, ?refuses, ?fills,
    ?releases, ?loanEnds, ?loanFills, ?tokenSpreads, ?oldTerm, ?notNewer, ?unmet⟩
  case writes =>
    intro p m s s1 kind mine met bulk newer fresh
    refine congrArg Outcome.next ((State.deliverKind_of_write kind (.inl rfl) mine met bulk newer).trans ?_)
    simp only [State.remoteWrite, fresh, kind]
    rfl
  case staleWrite =>
    intro p m s s1 kind mine met bulk newer stale
    exact congrArg Outcome.next
      ((State.deliverKind_of_write kind (.inl rfl) mine met bulk newer).trans (State.remoteWrite_of_stale stale p))
  case stalePannier =>
    intro p m s s1 kind mine met bulk newer stale
    exact congrArg Outcome.next
      ((State.deliverKind_of_write kind (.inr (.inl rfl)) mine met bulk newer).trans (State.remoteWrite_of_stale stale p))
  case staleRing =>
    intro p m s s1 kind mine met bulk newer stale
    exact congrArg Outcome.next
      ((State.deliverKind_of_write kind (.inr (.inr rfl)) mine met bulk newer).trans (State.remoteWrite_of_stale stale p))
  case pannierApplies =>
    intro p m s s1 kind mine met bulk newer fresh
    refine congrArg Outcome.next ((State.deliverKind_of_write kind (.inr (.inl rfl)) mine met bulk newer).trans ?_)
    simp only [State.remoteWrite, fresh, kind]
    rfl
  case ringWrites =>
    intro p m s s1 kind mine met bulk newer fresh
    refine congrArg Outcome.next ((State.deliverKind_of_write kind (.inr (.inr rfl)) mine met bulk newer).trans ?_)
    simp only [State.remoteWrite, fresh, kind]
    rfl
  case acks =>
    intro p m s s1 kind mine met ctrl newer
    exact congrArg Outcome.next (State.deliverKind_of_control kind (by decide) mine met ctrl newer
      (by simp [State.takeEffect, kind]))
  case claims =>
    intro p m s s1 kind mine met ctrl newer
    exact congrArg Outcome.next (State.deliverKind_of_control kind (by decide) mine met ctrl newer
      (by simp [State.takeEffect, kind]))
  case grants =>
    intro p m s s1 kind mine met ctrl newer
    exact congrArg Outcome.next (State.deliverKind_of_control kind (by decide) mine met ctrl newer
      (by simp [State.takeEffect, kind]))
  case refuses =>
    intro p m s s1 kind mine met ctrl newer
    exact congrArg Outcome.next (State.deliverKind_of_control kind (by decide) mine met ctrl newer
      (by simp [State.takeEffect, kind]))
  case fills =>
    intro p m s s1 kind mine met ctrl newer slot
    exact congrArg Outcome.next (State.deliverKind_of_control kind (by decide) mine met ctrl newer
      (by rw [State.takeEffect_of_token (.inl kind), State.takeSlotToken_of_slot slot, kind]; rfl))
  case releases =>
    intro p m s s1 kind mine met ctrl newer slot
    exact congrArg Outcome.next (State.deliverKind_of_control kind (by decide) mine met ctrl newer
      (by rw [State.takeEffect_of_token (.inr kind), State.takeSlotToken_of_slot slot, kind]; rfl))
  case loanEnds =>
    intro p m s s1 kind mine met ctrl newer loan
    exact congrArg Outcome.next (State.deliverKind_of_control kind (by decide) mine met ctrl newer
      (by rw [State.takeEffect_of_token (.inr kind), State.takeSlotToken_of_loan loan]))
  case loanFills =>
    intro p m s s1 kind mine met ctrl newer loan
    exact congrArg Outcome.next (State.deliverKind_of_control kind (by decide) mine met ctrl newer
      (by rw [State.takeEffect_of_token (.inl kind), State.takeSlotToken_of_loan loan]))
  case tokenSpreads =>
    intro p m s s1 s2 kind mine met ctrl newer current
    exact congrArg Outcome.next (State.deliverKind_of_control kind (by decide) mine met ctrl newer
      (by simp [State.takeEffect, kind, current]))
  case oldTerm =>
    intro p m s s1 s2 kind mine met ctrl newer oldTerm
    exact congrArg Outcome.next (State.deliverKind_of_control kind (by decide) mine met ctrl newer
      (by simp [State.takeEffect, kind, oldTerm]))
  case notNewer =>
    intro p m s s1 mine met channel old
    have dropped {k : Nat} (kind : m.kind = k) (acting : k ∈ actingKinds) : s.deliverKind p m k = s1 :=
      State.deliverKind_of_old kind acting mine met (kind ▸ channel) old
    refine ⟨?_, ?_, ?_, ?_, ?_, ?_, ?_, ?_, ?_, ?_⟩ <;> exact fun kind => congrArg Outcome.next (dropped kind (by decide))
  case unmet =>
    intro p m s unmet
    refine ⟨?_, ?_, ?_, ?_, ?_, ?_, ?_, ?_, ?_, ?_⟩ <;> exact congrArg Outcome.next (State.deliverKind_of_unmet unmet)

end Sys2Proof.Machine

/-! What accesses to memory, faults and fences leave alone. Each operation keeps what the operations it is made of keep, up from the
updates of the state's units. -/

namespace Sys2Proof.Machine

open Host

-- The proofs of this text are elaborated in turn: each that waited for those before it on a thread of its own would take stack from the
-- memory the check allows.
set_option Elab.async false

/-- What no access to memory, no fault and no fence changes at once: the queue of commands, and each core's records of its transfer
groups (R144), which a fenced core loses only when its tasks end (R190). -/
structure Kept where
  /-- the queue of commands. -/
  pending : List Instr
  /-- R144 by core. -/
  groups : Fin 8 → List GroupRec

/-- They, as they stand in a state. -/
def State.kept (s : State) : Kept := ⟨s.pending, fun c => (s.core c).mov.groupDone⟩

/-- They stand in the queue and in the cores alone. -/
theorem State.kept_congr {s t : State} (queue : t.pending = s.pending) (cores : t.cores = s.cores) : t.kept = s.kept := by
  simp only [State.kept, State.core, queue, cores]

/-! ### The units of the state -/

/-- A core's update keeps them when it leaves the groups' records as they are. -/
@[simp] theorem State.modCore_kept {f : Core → Core} (h : ∀ k, (f k).mov.groupDone = k.mov.groupDone) (s : State) (c : Fin 8) :
    (s.modCore c f).kept = s.kept := by
  refine congrArg (Kept.mk s.pending) (funext fun d => ?_)
  by_cases same : d = c
  · subst same
    rw [s.modCore_core d f, h]
  · rw [s.modCore_core_ne c f d same]

/-- So does an update of its movement engine. -/
@[simp] theorem State.modMov_kept {f : Mov → Mov} (h : ∀ m, (f m).groupDone = m.groupDone) (s : State) (c : Fin 8) :
    (s.modMov c f).kept = s.kept := State.modCore_kept (fun k => h k.mov) s c

@[simp] theorem State.modArr_kept (s : State) (c : Fin 8) (f : Arr → Arr) : (s.modArr c f).kept = s.kept :=
  State.modCore_kept (f := fun k => { k with arr := f k.arr }) (fun _ => rfl) s c
@[simp] theorem State.modScr_kept (s : State) (c : Fin 8) (f : Scr → Scr) : (s.modScr c f).kept = s.kept :=
  State.modCore_kept (f := fun k => { k with scr := f k.scr }) (fun _ => rfl) s c
@[simp] theorem State.modSeq_kept (s : State) (c : Fin 8) (f : Seq → Seq) : (s.modSeq c f).kept = s.kept :=
  State.modCore_kept (f := fun k => { k with seq := f k.seq }) (fun _ => rfl) s c
@[simp] theorem State.modUpd_kept (s : State) (c : Fin 8) (f : Upd → Upd) : (s.modUpd c f).kept = s.kept :=
  State.modCore_kept (f := fun k => { k with upd := f k.upd }) (fun _ => rfl) s c
@[simp] theorem State.modPart_kept (s : State) (c : Fin 8) (p : Fin 4) (f : Part → Part) : (s.modPart c p f).kept = s.kept :=
  s.modArr_kept c _

@[simp] theorem State.modHalf_kept (s : State) (h : Fin 2) (f : Half → Half) : (s.modHalf h f).kept = s.kept :=
  State.kept_congr rfl rfl
@[simp] theorem State.modStack_kept (s : State) (k : Fin 32) (f : Stack → Stack) : (s.modStack k f).kept = s.kept :=
  State.kept_congr rfl rfl
@[simp] theorem State.modPort_kept (s : State) (p : Fin 18) (f : Port → Port) : (s.modPort p f).kept = s.kept :=
  State.kept_congr rfl rfl
@[simp] theorem State.modEth_kept (s : State) (e : Fin 2) (f : Eth → Eth) : (s.modEth e f).kept = s.kept :=
  State.kept_congr rfl rfl
@[simp] theorem State.modGlb_kept (s : State) (f : Glb → Glb) : (s.modGlb f).kept = s.kept := State.kept_congr rfl rfl
@[simp] theorem State.modHost_kept (s : State) (f : HostIf → HostIf) : (s.modHost f).kept = s.kept := State.kept_congr rfl rfl
@[simp] theorem State.modImg_kept (s : State) (f : Img → Img) : (s.modImg f).kept = s.kept := State.kept_congr rfl rfl
@[simp] theorem State.modRed_kept (s : State) (f : Red → Red) : (s.modRed f).kept = s.kept := State.kept_congr rfl rfl
@[simp] theorem State.modCas_kept (s : State) (f : Cas → Cas) : (s.modCas f).kept = s.kept := State.kept_congr rfl rfl
@[simp] theorem State.modPwr_kept (s : State) (f : Pwr → Pwr) : (s.modPwr f).kept = s.kept := State.kept_congr rfl rfl
@[simp] theorem State.modFlash_kept (s : State) (f : Flash → Flash) : (s.modFlash f).kept = s.kept := State.kept_congr rfl rfl
@[simp] theorem State.draw_kept (s : State) : s.draw.kept = s.kept := State.kept_congr rfl rfl
@[simp] theorem State.emit_kept (s : State) (o : Out) : (s.emit o).kept = s.kept := State.kept_congr rfl rfl
@[simp] theorem State.setErrors_kept (s : State) (sec : Nat) (e : Tab (BitVec 16)) : (s.setErrors sec e).kept = s.kept :=
  State.kept_congr rfl rfl
@[simp] theorem State.freshSector_kept (s : State) (sec : Nat) : (s.freshSector sec).kept = s.kept := State.kept_congr rfl rfl
@[simp] theorem State.setMemByte_kept (s : State) (a : Nat) (b : BitVec 8) : (s.setMemByte a b).kept = s.kept :=
  State.kept_congr rfl rfl

/-- The poison bits of stack memory are none of it. -/
@[simp] theorem State.mpoison_kept (s : State) (t : Tab Bool) : { s with mpoison := t }.kept = s.kept := State.kept_congr rfl rfl

@[simp] theorem State.setMemBytes_kept (s : State) (a : Nat) (bs : List (BitVec 8)) : (s.setMemBytes a bs).kept = s.kept := by
  induction bs generalizing s a with
  | nil => rfl
  | cons b bs ih => rw [State.setMemBytes, ih, s.setMemByte_kept]

/-- A conditional update keeps what both branches keep. -/
@[simp] theorem State.kept_ite (p : Prop) [Decidable p] (s t : State) :
    (if p then s else t).kept = if p then s.kept else t.kept := apply_ite State.kept p s t

/-- An answer's state keeps what the pair it comes from keeps. -/
theorem State.kept_of_snd {α : Type} {x : α × State} {a : α} {s t : State} (h : x.2.kept = s.kept) (answer : x = (a, t)) :
    t.kept = s.kept := by
  rw [← h, answer]

/-- A fold keeps what each of its steps keeps. -/
@[simp] theorem foldl_kept {ι : Type} {f : State → ι → State} (h : ∀ s i, (f s i).kept = s.kept) (l : List ι) (s : State) :
    (l.foldl f s).kept = s.kept :=
  List.foldlRecOn l f (motive := fun t => t.kept = s.kept) rfl fun t ht i _ => (h t i).trans ht

@[simp] theorem forAllOf_kept {ι : Type} {f : ι → State → State} (h : ∀ i s, (f i s).kept = s.kept) (l : List ι) (s : State) :
    (forAllOf l f s).kept = s.kept := foldl_kept (fun t i => h i t) l s

@[simp] theorem foldUpTo_kept {f : Nat → State → State} (h : ∀ i s, (f i s).kept = s.kept) (n : Nat) (s : State) :
    (foldUpTo n f s).kept = s.kept := foldl_kept (fun t i => h i t) (List.range n) s

/-! ### Codes, messages and events -/

@[simp] theorem State.msixSend_kept (s : State) (v : Nat) : (s.msixSend v).kept = s.kept := State.kept_congr rfl rfl

@[simp] theorem State.msix_kept (s : State) (v : Nat) : (s.msix v).kept = s.kept := by
  simp [State.msix]

@[simp] theorem State.setFlags_kept (s : State) (code : BitVec 16) (unit site : Nat) :
    (s.setFlags code unit site).kept = s.kept := by
  simp only [State.setFlags, State.kept_ite, State.modScr_kept, State.modMov_kept, State.modSeq_kept, State.modUpd_kept,
    State.modStack_kept, State.modHalf_kept, State.modRed_kept, State.modPort_kept, State.modCas_kept, State.modEth_kept,
    State.modImg_kept, State.modPwr_kept, State.modGlb_kept, ite_self, implies_true]

@[simp] theorem State.cxlEvent_kept (s : State) (code : BitVec 16) (r : BitVec 128) : (s.cxlEvent code r).kept = s.kept := by
  simp [State.cxlEvent]

@[simp] theorem State.raise_kept (s : State) (code : BitVec 16) (unit : Nat) (detail : BitVec 32) (site : Nat) (fenced : Bool) :
    (s.raise code unit detail site fenced).kept = s.kept := by
  have logged (t : State) (g : Glb) : { t with glb := g }.kept = t.kept := State.kept_congr rfl rfl
  simp only [State.raise, State.kept_ite, State.msix_kept, State.modFlash_kept, logged, State.cxlEvent_kept,
    State.setFlags_kept, ite_self]

@[simp] theorem State.newMsg_kept (s : State) (dst kind vc : Nat) (args : BitVec 144) (data : List (BitVec 8)) (term : Nat) :
    (s.newMsg dst kind vc args data term).2.kept = s.kept := by
  simp [State.newMsg]

@[simp] theorem State.passBytes_kept (s : State) (a b : Fin 2) (n : Nat) : (s.passBytes a b n).kept = s.kept := by
  simp [State.passBytes]

@[simp] theorem State.leaveBy_kept (s : State) (h : Option (Fin 2)) (p : Option (Fin 18)) (m : Msg) :
    (s.leaveBy h p m).kept = s.kept := by
  unfold State.leaveBy
  split <;> simp [State.passBridge]

@[simp] theorem State.routeMsg_kept (s : State) (m : Msg) (p : Option (Fin 18)) : (s.routeMsg m p).kept = s.kept := by
  unfold State.routeMsg
  split <;> simp [State.enqueue]

@[simp] theorem State.sendMsg_kept (s : State) (dst kind vc : Nat) (args : BitVec 144) (data : List (BitVec 8)) (term : Nat)
    (h : Option (Fin 2)) : (s.sendMsg dst kind vc args data term h).kept = s.kept := by
  simp [State.sendMsg]

@[simp] theorem State.report_kept (s : State) (r : Report) (data : List (BitVec 8)) : (s.report r data).kept = s.kept := by
  simp [State.report]

/-! ### Fences -/

@[simp] theorem State.recordFence_kept (s : State) (dom unit : Nat) : (s.recordFence dom unit).kept = s.kept := by
  simp [State.recordFence]

@[simp] theorem State.noteFence_kept (s : State) (dom unit : Nat) (cause : BitVec 16) :
    (s.noteFence dom unit cause).kept = s.kept := by
  simp [State.noteFence]

@[simp] theorem State.cancelForFence_kept (s : State) (cause : BitVec 16) : (s.cancelForFence cause).kept = s.kept := by
  simp [State.cancelForFence, State.abortSwap]

@[simp] theorem State.haltUnits_kept (s : State) : s.haltUnits.kept = s.kept := by
  simp [State.haltUnits]

@[simp] theorem State.fenceModule_kept (s : State) (cause : BitVec 16) (detail : BitVec 32) :
    (s.fenceModule cause detail).kept = s.kept := by
  simp [State.fenceModule, State.toManagement]

@[simp] theorem State.checkMinimum_kept (s : State) : s.checkMinimum.kept = s.kept := by
  simp [State.checkMinimum]

@[simp] theorem State.dropIngress_kept (s : State) (cls : Nat) : (s.dropIngress cls).kept = s.kept := by
  simp [State.dropIngress]

/-- What a core loses at a fence is none of it. -/
@[simp] theorem State.isolateCore_kept (s : State) (c : Fin 8) (cause : BitVec 16) : (s.isolateCore c cause).kept = s.kept := by
  simp [State.isolateCore, Core.lose]

@[simp] theorem State.missVariant_kept (s : State) : s.missVariant.kept = s.kept := by
  simp [State.missVariant]

@[simp] theorem State.dropShadow_kept (s : State) : s.dropShadow.kept = s.kept := by
  unfold State.dropShadow
  split <;> simp [State.modImgPlace]

@[simp] theorem State.beginFencePath_kept (s : State) (c : Fin 8) (cause : BitVec 16) :
    (s.beginFencePath c cause).kept = s.kept := by
  unfold State.beginFencePath
  simp only
  repeat' split
  all_goals simp

@[simp] theorem State.fenceCore_kept (s : State) (c : Fin 8) (cause : BitVec 16) (detail : BitVec 32) :
    (s.fenceCore c cause detail).kept = s.kept := by
  simp [State.fenceCore]

@[simp] theorem State.markStack_kept (s : State) (k : Fin 32) : (s.markStack k).kept = s.kept := by
  simp [State.markStack]

@[simp] theorem State.reportDegraded_kept (s : State) (k : Fin 32) : (s.reportDegraded k).kept = s.kept := by
  simp [State.reportDegraded]

@[simp] theorem State.fenceStack_kept (s : State) (k : Fin 32) (cause : BitVec 16) (detail : BitVec 32) :
    (s.fenceStack k cause detail).kept = s.kept := by
  simp [State.fenceStack]

/-! ### Sectors of stack memory -/

@[simp] theorem State.refused_kept (s : State) (a : Nat) (code : BitVec 16) : (s.refused a code).kept = s.kept := by
  simp [State.refused]

@[simp] theorem State.recordRemap_kept (s : State) (k : Fin 32) (key : Nat) : (s.recordRemap k key).kept = s.kept := by
  simp [State.recordRemap]

@[simp] theorem State.retirePage_kept (s : State) (k : Fin 32) (key : Nat) (cause : BitVec 3) :
    (s.retirePage k key cause).kept = s.kept := by
  simp [State.retirePage]

@[simp] theorem State.failRow_kept (s : State) (k : Fin 32) (key : Nat) : (s.failRow k key).kept = s.kept := by
  simp only [State.failRow]
  split <;> simp

@[simp] theorem State.trackRow_kept (s : State) (k : Fin 32) (key : Nat) : (s.trackRow k key).kept = s.kept := by
  simp only [State.trackRow, State.kept_ite, State.failRow_kept, State.modStack_kept, ite_self]

@[simp] theorem State.spoilSector_kept (s : State) (sec : Nat) (e : Tab (BitVec 16)) : (s.spoilSector sec e).kept = s.kept := by
  simp [State.spoilSector]

@[simp] theorem State.countCorrected_kept (s : State) (k : Fin 32) : (s.countCorrected k).kept = s.kept := by
  simp [State.countCorrected]

@[simp] theorem State.poisonSector_kept (s : State) (k : Fin 32) (sec : Nat) : (s.poisonSector k sec).kept = s.kept := by
  simp [State.poisonSector]

@[simp] theorem State.retryBank_kept (s : State) (k : Fin 32) (key tries : Nat) : (s.retryBank k key tries).kept = s.kept := by
  simp [State.retryBank]

@[simp] theorem State.decodeRead_kept (s : State) (k : Fin 32) (sec : Nat) (transit : List (List (Nat × BitVec 16))) :
    (s.decodeRead k sec transit).2.kept = s.kept := by
  simp only [State.decodeRead]
  repeat' split
  all_goals simp

@[simp] theorem State.checkSector_kept (s : State) (k : Fin 32) (sec : Nat) (transit : List (List (Nat × BitVec 16))) :
    (s.checkSector k sec transit).2.kept = s.kept := by
  rw [← s.decodeRead_kept k sec transit, State.checkSector]
  rcases s.decodeRead k sec transit with ⟨_ | _, s1⟩
  · simp
  · simp only
    split <;> simp

@[simp] theorem State.meetInjection_kept (s : State) (sec : Nat) : (s.meetInjection sec).kept = s.kept := by
  simp only [State.meetInjection]
  split <;> simp

@[simp] theorem State.passSlot_kept (s : State) (a : Nat) : (s.passSlot a).kept = s.kept := by
  simp only [State.passSlot, State.kept_ite, State.modStack_kept, ite_self]

@[simp] theorem State.passSlots_kept (s : State) (a n : Nat) : (s.passSlots a n).kept = s.kept := by
  simp [State.passSlots]

@[simp] theorem State.copySectors_kept (s : State) (k : Fin 32) (key : Nat) : (s.copySectors k key).kept = s.kept := by
  refine foldUpTo_kept (fun i t => ?_) 64 s
  simp only
  split
  · simp
  · simp
  · exact (State.mpoison_kept _ _).trans (by simp)

@[simp] theorem State.flipCopy_kept (s : State) (k : Fin 32) (key : Nat) : (s.flipCopy k key).kept = s.kept := by
  simp only [State.flipCopy]
  split <;> simp

@[simp] theorem State.awaitCopy_kept (s : State) (a : Nat) : (s.awaitCopy a).kept = s.kept := by
  simp only [State.awaitCopy]
  split <;> simp

@[simp] theorem State.carry_kept (s : State) (h : Fin 2) (a n : Nat) (read : Bool) : (s.carry h a n read).kept = s.kept := by
  unfold State.carry
  split <;> simp

/-! ### The tier cache -/

@[simp] theorem State.writeBack_kept (s : State) (sec : Nat) (e : Tab (BitVec 16)) : (s.writeBack sec e).kept = s.kept := by
  simp [State.writeBack]

@[simp] theorem State.tcEvict_kept (s : State) (h : Fin 2) (key : Nat) : (s.tcEvict h key).kept = s.kept := by
  simp [State.tcEvict]

@[simp] theorem State.tcLeave_kept (s : State) (a : Nat) : (s.tcLeave a).kept = s.kept := by
  simp [State.tcLeave]

@[simp] theorem State.tcMake_kept (s : State) (a : Nat) : (s.tcMake a).kept = s.kept := by
  simp only [State.tcMake]
  split <;> simp

@[simp] theorem State.tcCheck_kept (s : State) (a : Nat) : (s.tcCheck a).2.kept = s.kept := by
  simp only [State.tcCheck]
  split
  · rfl
  · simp
  · split <;> simp

@[simp] theorem State.tcRead_kept (s : State) (a : Nat) (noAlloc prefetched : Bool) :
    (s.tcRead a noAlloc prefetched).2.kept = s.kept := by
  simp only [State.tcRead]
  split
  · rw [← s.tcCheck_kept a]
    rcases s.tcCheck a with ⟨_ | _, s1⟩ <;> simp
  · simp

@[simp] theorem State.tcWrite_kept (s : State) (a : Nat) (whole clean : Bool) : (s.tcWrite a whole clean).kept = s.kept := by
  simp [State.tcWrite]

/-! ### Reads and writes -/

@[simp] theorem State.checkMirrored_kept (s : State) (k : Fin 32) (sec m : Nat) (transit : List (List (Nat × BitVec 16))) :
    (s.checkMirrored k sec m transit).2.kept = s.kept := by
  simp only [State.checkMirrored]
  repeat' split
  all_goals simp

@[simp] theorem State.readSector_kept (s : State) (a : Nat) (up : List (Nat × BitVec 16))
    (transit : List (List (Nat × BitVec 16))) (noAlloc prefetched : Bool) :
    (s.readSector a up transit noAlloc prefetched).2.kept = s.kept := by
  unfold State.readSector
  split
  · simp
  · extract_lets sec k cached t s2 s0 r
    have cache : t.2.kept = s.kept := by
      simp only [t]
      split <;> simp
    clear_value t
    split
    · exact cache
    · have checked : r.2.kept = s.kept := by
        simp only [r]
        repeat' split
        all_goals simp [s0, s2, cache]
      clear_value r
      rcases r with ⟨_ | _, s1⟩ <;> simpa using checked

@[simp] theorem State.mergeRead_kept (s : State) (a t : Nat) : (s.mergeRead a t).2.kept = s.kept := by
  simp only [State.mergeRead]
  repeat' split
  all_goals simp

@[simp] theorem State.mergeReads_kept (s : State) (a : Nat) (ts : List Nat) : (s.mergeReads a ts).2.kept = s.kept := by
  induction ts generalizing s with
  | nil => rfl
  | cons t ts ih =>
    rw [← s.mergeRead_kept a t, State.mergeReads]
    rcases s.mergeRead a t with ⟨_ | _, s1⟩
    · rfl
    · exact ih s1

/-- Nor do the reads that only a masked write makes. -/
theorem State.mergeReads_kept_unless (s : State) (whole : Bool) (a : Nat) (ts : List Nat) :
    (if whole then (true, s) else s.mergeReads a ts).2.kept = s.kept := by
  split <;> simp

@[simp] theorem State.storeAt_kept (s : State) (a t : Nat) (whole : Bool) (runs : List (Nat × List (BitVec 8))) :
    (s.storeAt a t whole runs).kept = s.kept := by
  simp [State.storeAt]

@[simp] theorem State.carryMirror_kept (s : State) (a n : Nat) (ts : List Nat) : (s.carryMirror a n ts).kept = s.kept := by
  simp [State.carryMirror]

@[simp] theorem State.writeRuns_kept (s : State) (a : Nat) (runs : List (Nat × List (BitVec 8))) :
    (s.writeRuns a runs).2.kept = s.kept := by
  unfold State.writeRuns
  split
  · simp
  next ts _ =>
    extract_lets whole
    rw [← s.mergeReads_kept_unless whole a ts]
    rcases (if whole = true then (true, s) else s.mergeReads a ts) with ⟨_ | _, s0⟩ <;> simp

@[simp] theorem State.writeCheck_kept (s : State) (l : List (Nat × Bool)) : (s.writeCheck l).2.kept = s.kept := by
  induction l generalizing s with
  | nil => rfl
  | cons w l ih =>
    obtain ⟨a, whole⟩ := w
    unfold State.writeCheck
    split
    · simp
    next ts _ =>
      rw [← s.mergeReads_kept_unless whole a ts]
      rcases (if whole = true then (true, s) else s.mergeReads a ts) with ⟨_ | _, s0⟩
      · rfl
      · exact ih s0

@[simp] theorem State.writeLoop_kept (s : State) (n a : Nat) (bs : List (BitVec 8)) : (s.writeLoop n a bs).2.kept = s.kept := by
  induction n generalizing s a bs with
  | zero => rfl
  | succ n ih =>
    simp only [State.writeLoop, State.writeSector]
    split
    · rfl
    · rw [← s.writeRuns_kept a [(a % 32, bs.take (min (32 - a % 32) bs.length))]]
      rcases s.writeRuns a [(a % 32, bs.take (min (32 - a % 32) bs.length))] with ⟨_ | _, s1⟩
      · exact ih s1 _ _
      · rfl

@[simp] theorem State.writeWhole_kept (s : State) (a : Nat) (bs : List (BitVec 8)) : (s.writeWhole a bs).2.kept = s.kept := by
  rw [← s.writeCheck_kept (sectorCover a bs.length), State.writeWhole]
  rcases s.writeCheck (sectorCover a bs.length) with ⟨_ | _, s1⟩ <;> simp

@[simp] theorem State.writeBlocks_kept (s : State) (n a : Nat) (bs : List (BitVec 8)) :
    (s.writeBlocks n a bs).2.kept = s.kept := by
  induction n generalizing s a bs with
  | zero => rfl
  | succ n ih =>
    simp only [State.writeBlocks]
    split
    · rfl
    · rw [← s.writeWhole_kept a (bs.take (512 - a % 512))]
      rcases s.writeWhole a (bs.take (512 - a % 512)) with ⟨_ | _, s1⟩
      · exact ih s1 _ _
      · rfl

@[simp] theorem State.writeDirect_kept (s : State) (a : Nat) (bs : List (BitVec 8)) : (s.writeDirect a bs).2.kept = s.kept := by
  simp only [State.writeDirect]
  repeat' split
  all_goals simp

@[simp] theorem State.readLoop_kept (s : State) (noAlloc : Bool) (n sec : Nat) (acc : List (BitVec 8)) :
    (s.readLoop noAlloc n sec acc).2.kept = s.kept := by
  induction n generalizing s sec acc with
  | zero => rfl
  | succ n ih =>
    rw [← s.readSector_kept (sec * 32) [] [] noAlloc false, State.readLoop]
    rcases s.readSector (sec * 32) [] [] noAlloc with ⟨_ | bs, s1⟩
    · rfl
    · exact ih s1 _ _

@[simp] theorem State.readDirect_kept (s : State) (a n : Nat) (noAlloc : Bool) : (s.readDirect a n noAlloc).2.kept = s.kept := by
  simp only [State.readDirect]
  split
  · rfl
  split
  · simp
  rw [← s.passSlots_kept a n, ← (s.passSlots a n).readLoop_kept noAlloc ((a + n - 1) / 32 + 1 - a / 32) (a / 32) []]
  rcases (s.passSlots a n).readLoop noAlloc ((a + n - 1) / 32 + 1 - a / 32) (a / 32) [] with ⟨_ | bs, s1⟩ <;> rfl

/-! ### The pannier adders -/

@[simp] theorem State.panRefuse_kept (s : State) (a : Nat) : (s.panRefuse a).kept = s.kept := by
  simp [State.panRefuse]

@[simp] theorem State.panApplied_kept (s : State) (a : Nat) : (s.panApplied a).kept = s.kept := by
  simp [State.panApplied]

@[simp] theorem State.panCheck_kept (s : State) (n sec : Nat) : (s.panCheck n sec).2.kept = s.kept := by
  induction n generalizing s sec with
  | zero => rfl
  | succ n ih =>
    unfold State.panCheck
    split
    · simp
    next ts _ =>
      extract_lets t k s1
      have left : s1.kept = s.kept := by simp [s1]
      rw [← left, ← s1.checkSector_kept k (sectorOf t) []]
      rcases s1.checkSector k (sectorOf t) [] with ⟨_ | _, s2⟩
      · rfl
      · exact ih s2 _

@[simp] theorem State.panStore_kept (s : State) (a : Nat) (bs : List (BitVec 8)) : (s.panStore a bs).kept = s.kept := by
  unfold State.panStore
  split <;> simp

@[simp] theorem State.panWrite_kept (s : State) (a : Nat) (bs : List (BitVec 8)) : (s.panWrite a bs).kept = s.kept := by
  induction bs generalizing s a with
  | nil => rfl
  | cons b bs ih => rw [State.panWrite, ih, s.panStore_kept]

@[simp] theorem State.panSettle_kept (s : State) (n sec : Nat) : (s.panSettle n sec).kept = s.kept := by
  induction n generalizing s sec with
  | zero => rfl
  | succ n ih =>
    rw [State.panSettle, ih]
    split <;> simp

@[simp] theorem State.panAct_kept (s : State) (op : Nat) (ovf : Bool) (a : Nat) (bs : List (BitVec 8)) (mask : List Bool) :
    (s.panAct op ovf a bs mask).2.kept = s.kept := by
  simp only [State.panAct]
  split
  · rfl
  split
  · simp
  split
  · simp
  rw [← s.panCheck_kept ((a + bs.length - 1) / 32 + 1 - a / 32) (a / 32)]
  rcases s.panCheck ((a + bs.length - 1) / 32 + 1 - a / 32) (a / 32) with ⟨_ | c, s1⟩ <;> simp

@[simp] theorem State.groupAct_kept (s : State) (conv : Bool) (fmt : Fmt) (g : Int) (a : Nat) (arriving : List Nat)
    (residue res : Nat) : (s.groupAct conv fmt g a arriving residue res).2.2.kept = s.kept := by
  simp only [State.groupAct]
  split
  · simp
  split
  · simp
  rw [← s.panCheck_kept 3 (a / 32)]
  rcases s.panCheck 3 (a / 32) with ⟨_ | c, s1⟩
  · dsimp only
    rw [← s1.panCheck_kept 1 (res / 32)]
    rcases s1.panCheck 1 (res / 32) with ⟨_ | c, s2⟩ <;> simp
  · simp

/-! ### Requests that wait, and the accesses that come after them -/

@[simp] theorem State.upsetSector_kept (s : State) (sec : Nat) (l : List (Nat × BitVec 16)) :
    (s.upsetSector sec l).kept = s.kept := by
  simp [State.upsetSector]

@[simp] theorem State.serveRead_kept (s : State) (r : StkReq) (transit : Nat → List (List (Nat × BitVec 16))) (n sec : Nat)
    (acc : List (BitVec 8)) : (s.serveRead r transit n sec acc).2.kept = s.kept := by
  induction n generalizing s sec acc with
  | zero => rfl
  | succ n ih =>
    rw [← s.readSector_kept (sec * 32) [] (transit sec) r.noAlloc r.prefetch, State.serveRead]
    rcases s.readSector (sec * 32) [] (transit sec) r.noAlloc r.prefetch with ⟨_ | bs, s1⟩
    · rfl
    · exact ih s1 _ _

@[simp] theorem State.serveWrites_kept (s : State) (ws : List (Nat × List (Nat × List (BitVec 8)))) :
    (s.serveWrites ws).2.kept = s.kept := by
  unfold State.serveWrites
  extract_lets l
  split
  · simp
  · split
    next c s1 refused => exact State.kept_of_snd (s.writeCheck_kept _) refused
    next s1 checked => simp [State.kept_of_snd (s.writeCheck_kept _) checked]

@[simp] theorem State.servePan_kept (s : State) (r : StkReq) : (s.servePan r).2.kept = s.kept := by
  simp only [State.servePan]
  split <;> simp

@[simp] theorem State.actRequest_kept (s : State) (r : StkReq) (upset : Option SectorUpset) :
    (s.actRequest r upset).2.kept = s.kept := by
  unfold State.actRequest
  extract_lets first n s0 transit
  have struck : s0.kept = s.kept := by
    simp only [s0]
    split <;> simp
  rw [← struck]
  clear_value s0 transit
  split
  · split
    · simp
    · split
      next bs s1 read => exact State.kept_of_snd (s0.serveRead_kept r transit n first []) read
      next c s1 refused => exact State.kept_of_snd (s0.serveRead_kept r transit n first []) refused
  · split
    next s1 written => exact State.kept_of_snd (s0.serveWrites_kept _) written
    next c s1 refused => exact State.kept_of_snd (s0.serveWrites_kept _) refused
  · split
    next s1 applied => exact State.kept_of_snd (s0.servePan_kept r) applied
    next c s1 refused => exact State.kept_of_snd (s0.servePan_kept r) refused

@[simp] theorem State.completeWith_kept {α : Type} {f : State → α × State} (h : ∀ t, (f t).2.kept = t.kept) (s : State)
    (k : Fin 32) : (s.completeWith k f).2.kept = s.kept := by
  simp [State.completeWith, h]

@[simp] theorem State.actWaiting_kept (s : State) (k : Fin 32) (r : StkReq) : (s.actWaiting k r).kept = s.kept := by
  simp only [State.actWaiting]
  split <;> simp

@[simp] theorem State.serveAhead_kept (s : State) (a n : Nat) : (s.serveAhead a n).kept = s.kept := by
  refine forAllOf_kept (fun k t => ?_) _ s
  split <;> simp

@[simp] theorem State.stackRead_kept (s : State) (a n : Nat) (noAlloc : Bool) : (s.stackRead a n noAlloc).2.kept = s.kept := by
  simp [State.stackRead]

@[simp] theorem State.stackWrite_kept (s : State) (a : Nat) (bs : List (BitVec 8)) : (s.stackWrite a bs).2.kept = s.kept := by
  simp [State.stackWrite]

@[simp] theorem State.panApply_kept (s : State) (op : Nat) (ovf : Bool) (a : Nat) (bs : List (BitVec 8)) (mask : List Bool) :
    (s.panApply op ovf a bs mask).2.kept = s.kept := by
  simp [State.panApply]

/-! ### Rows of a scratchpad -/

@[simp] theorem State.giveRows_kept (s : State) (c : Fin 8) (row n port task lag : Nat) :
    (s.giveRows c row n port task lag).kept = s.kept := by
  simp [State.giveRows]

@[simp] theorem State.scrFound_kept (s : State) (c : Fin 8) (row : Nat) : (s.scrFound c row).kept = s.kept := by
  simp [State.scrFound]

@[simp] theorem State.scrReadRow_kept (s : State) (c : Fin 8) (row : Nat) : (s.scrReadRow c row).2.kept = s.kept := by
  simp only [State.scrReadRow]
  repeat' split
  all_goals simp

@[simp] theorem State.scrWrite_kept (s : State) (c : Fin 8) (a : Nat) (bs : List (BitVec 8)) :
    (s.scrWrite c a bs).kept = s.kept := by
  simp [State.scrWrite]

/-! ### The end of a task (R187) -/

@[simp] theorem State.pushCompletion_kept (s : State) (c : Fin 8) (w : BitVec 128) : (s.pushCompletion c w).kept = s.kept := by
  simp [State.pushCompletion]

@[simp] theorem State.completeTask_kept (s : State) (c : Fin 8) (t : Task) (status : Nat) (code : BitVec 16) :
    (s.completeTask c t status code).kept = s.kept := by
  simp [State.completeTask]

@[simp] theorem State.gaugeFlush_kept (s : State) (c : Fin 8) (t : Nat) (g : GaugeAcc) (under : Nat) :
    (s.gaugeFlush c t g under).kept = s.kept := by
  simp only [State.gaugeFlush]
  split <;> simp

@[simp] theorem State.partitionFault_kept (s : State) (c : Fin 8) (p : Fin 4) (code : BitVec 16) :
    (s.partitionFault c p code).kept = s.kept := by
  simp [State.partitionFault, State.flushBanks]

@[simp] theorem State.endInPartition_kept (s : State) (c : Fin 8) (t : Task) (code : BitVec 16) :
    (s.endInPartition c t code).kept = s.kept := by
  unfold State.endInPartition
  split <;> simp [State.beginFreewheel]

/-- A task's commands leave the access queue, and its descriptors stay. -/
@[simp] theorem State.dropCommands_kept (s : State) (c : Fin 8) (t : Task) : (s.dropCommands c t).kept = s.kept := by
  simp [State.dropCommands]

@[simp] theorem State.endOnFault_kept (s : State) (c : Fin 8) (t : Task) (code : BitVec 16) :
    (s.endOnFault c t code).kept = s.kept := by
  simp [State.endOnFault]

@[simp] theorem State.softFault_kept (s : State) (c : Fin 8) (key : Nat) (code : BitVec 16) (detail : BitVec 32) :
    (s.softFault c key code detail).kept = s.kept := by
  simp only [State.softFault]
  split <;> simp

@[simp] theorem State.refuseTask_kept (s : State) (c : Fin 8) (key : Nat) (code : BitVec 16) :
    (s.refuseTask c key code).kept = s.kept := by
  unfold State.refuseTask
  split <;> simp

/-! ### What a descriptor writes -/

@[simp] theorem State.countWritten_kept (s : State) (c : Fin 8) (runs : List (Nat × Nat × Nat × Nat)) (bytes : List Nat) :
    (s.countWritten c runs bytes).kept = s.kept := by
  simp [State.countWritten]

@[simp] theorem State.putRow_kept (s : State) (c : Fin 8) (u : Nat) (l : List (BitVec 8 × BitVec 8)) :
    (s.putRow c u l).2.kept = s.kept := by
  simp only [State.putRow]
  repeat' split
  all_goals simp

@[simp] theorem State.putSector_kept (s : State) (u : Nat) (l : List (BitVec 8 × BitVec 8)) :
    (s.putSector u l).2.kept = s.kept := by
  have old (shared : Bool) :
      (if shared then s.stackRead (u * 32) 32 else (.ok (List.replicate 32 0), s)).2.kept = s.kept := by
    split <;> simp
  simp only [State.putSector]
  split
  next e s1 refused => exact State.kept_of_snd (old _) refused
  next bs s1 read => simp [State.kept_of_snd (old _) read]

@[simp] theorem State.putLanes_kept (s : State) (op : Nat) (ovf : Bool) (l : List (Nat × List (BitVec 8))) :
    (s.putLanes op ovf l).2.kept = s.kept := by
  induction l generalizing s with
  | nil => rfl
  | cons x l ih =>
    obtain ⟨a, bs⟩ := x
    unfold State.putLanes
    split
    next s1 applied => exact (ih s1).trans (State.kept_of_snd (s.panApply_kept op ovf a bs []) applied)
    · exact s.panApply_kept op ovf a bs []

@[simp] theorem State.putUnits_kept (s : State) (c : Fin 8) (d : BitVec 1024) (runs : List (Nat × Nat × Nat × Nat))
    (l : List (Nat × List (BitVec 8 × BitVec 8))) : (s.putUnits c d runs l).2.kept = s.kept := by
  induction l generalizing s with
  | nil => rfl
  | cons x l ih =>
    obtain ⟨u, bs⟩ := x
    unfold State.putUnits
    extract_lets n touched s0 r
    have put : r.2.kept = s.kept := by
      simp only [r, s0]
      repeat' split
      all_goals simp
    clear_value r
    split
    next s1 =>
      rw [ih, State.countWritten_kept]
      exact put
    · exact put

@[simp] theorem State.sendPatch_kept (s : State) (c : Fin 8) (f : Flying) (place : Nat) (t : Patch) :
    (s.sendPatch c f place t).2.kept = s.kept := by
  simp [State.sendPatch]

/-- What a descriptor writes, and what its writes raise, leaves the groups' records as they are. -/
@[simp] theorem State.putPatch_kept (s : State) (c : Fin 8) (f : Flying) (place : Nat) (t : Patch) :
    (s.putPatch c f place t).2.2.kept = s.kept := by
  unfold State.putPatch
  extract_lets d runs sent put
  split
  · simp [sent]
  · simp [put]

end Sys2Proof.Machine

/-! The movement engine (R134 to R158): admission, completion, transfer groups, prefetch and token queues. -/

namespace Sys2Proof.Machine

open Host

-- In turn, as above.
set_option Elab.async false

/-! ### A transfer group's pads (R144, R145) -/

/-- A record as the pads of its group see it: the descriptor, where it writes, its order and its group. -/
def GroupRec.bare (r : GroupRec) : GroupRec :=
  { fl := { desc := r.fl.desc, dstBase := r.fl.dstBase, order := r.fl.order, grp := r.fl.grp } }

/-- A core's records, bare. -/
def State.bareRecs (s : State) (c : Fin 8) : List GroupRec := (s.core c).mov.groupDone.map GroupRec.bare

/-- The records of a group in issue order, as TRANSFER_GROUP_COMPLETE takes them. -/
def State.groupRecs (s : State) (c : Fin 8) (g : Nat) : List GroupRec :=
  ((s.core c).mov.groupDone.filter fun r => r.fl.grp = g).mergeSort fun a b => decide (a.fl.order ≤ b.fl.order)

/-- What a group's data covers is told by its bare records. -/
theorem State.groupData_bare (s : State) (l : List GroupRec) : s.groupData (l.map GroupRec.bare) = s.groupData l := by
  rw [State.groupData, List.flatMap_map]
  rfl

/-- A group's bare records are those of its core that name it, in issue order. -/
theorem State.groupRecs_bare (s : State) (c : Fin 8) (g : Nat) :
    (s.groupRecs c g).map GroupRec.bare
      = ((s.bareRecs c).filter fun r => r.fl.grp = g).mergeSort fun a b => decide (a.fl.order ≤ b.fl.order) := by
  rw [State.groupRecs, State.bareRecs, List.filter_map]
  exact List.map_mergeSort fun _ _ _ _ => rfl

theorem State.bareRecs_of_kept {s t : State} (h : t.kept = s.kept) (c : Fin 8) : t.bareRecs c = s.bareRecs c :=
  congrArg (fun k => (k.groups c).map GroupRec.bare) h

/-- A change of a record that its group's pads do not see. -/
theorem State.modRec_bareRecs {h : GroupRec → GroupRec} (unseen : ∀ r, (h r).bare = r.bare) (s : State) (c : Fin 8) (f : Flying) :
    (s.modRec c f h).bareRecs c = s.bareRecs c := by
  simp only [State.bareRecs, State.modRec, State.modMov_core_mov, List.map_map]
  refine List.map_congr_left fun r _ => ?_
  rw [Function.comp_apply]
  split
  · exact unseen r
  · rfl

/-- The pads of one descriptor leave every descriptor, its order and its group as they are, whatever their writes come to. -/
theorem State.padOne_bareRecs (s : State) (c : Fin 8) (data : List (Nat × Nat)) (r : GroupRec) :
    (s.padOne c data r).bareRecs c = s.bareRecs c := by
  simp only [State.padOne]
  split
  · rfl
  split
  · exact State.modRec_bareRecs (by intro; rfl) s c r.fl
  split
  · rfl
  next p _ =>
    have kept := s.putPatch_kept c r.fl p (s.padPatch data r.fl)
    split
    next n s1 put =>
      rw [put] at kept
      exact (State.modRec_bareRecs (by intro; rfl) s1 c r.fl).trans (State.bareRecs_of_kept kept c)
    next code n s1 put =>
      rw [put] at kept
      rw [← State.bareRecs_of_kept kept c,
        ← s1.modRec_bareRecs (h := fun r => { r with padded := true, stopped := true }) (fun _ => rfl) c r.fl]
      refine State.bareRecs_of_kept ?_ c
      split <;> simp

/-- Two folds agree when their steps do wherever the fold can come to. -/
theorem foldl_eq_of_invariant {α ι : Type} {f h : α → ι → α} {p : α → Prop} (agree : ∀ a i, p a → f a i = h a i)
    (step : ∀ a i, p a → p (h a i)) (l : List ι) {a : α} (start : p a) : l.foldl f a = l.foldl h a := by
  induction l generalizing a with
  | nil => rfl
  | cons i l ih => rw [List.foldl_cons, List.foldl_cons, agree a i start, ih (step a i start)]

/-- So the data that the pads of a group yield to stays what it was when the first of them was written. -/
theorem State.groupData_of_bareRecs {s t : State} {c : Fin 8} (same : t.bareRecs c = s.bareRecs c) (g : Nat) :
    t.groupData (t.groupRecs c g) = t.groupData (s.groupRecs c g) := by
  have recs : (t.groupRecs c g).map GroupRec.bare = (s.groupRecs c g).map GroupRec.bare := by
    rw [s.groupRecs_bare, t.groupRecs_bare, same]
  rw [← t.groupData_bare, recs, t.groupData_bare]

/-- The pads of a group are those that the data of its records as they then stand lets through. -/
theorem State.padOnes_groupData (s : State) (c : Fin 8) (g : Nat) (l : List GroupRec) :
    l.foldl (fun t r => t.padOne c (t.groupData (s.groupRecs c g)) r) s
      = l.foldl (fun t r => t.padOne c (t.groupData (t.groupRecs c g)) r) s :=
  foldl_eq_of_invariant (p := fun t => t.bareRecs c = s.bareRecs c)
    (fun t r same => by rw [State.groupData_of_bareRecs same]) (fun t r same => (t.padOne_bareRecs c _ r).trans same) l rfl

/-! ### The obligation -/

/-- A core that runs, and whose tokens are not held, takes the next step of its movement engine. -/
theorem engineActs {s : State} {c : Fin 8} (runs : s.coreRuns c = true) (unheld : s.tokenHeld c 0 = false) :
    (!s.coreRuns c || s.tokenHeld c 0) = false := by
  rw [runs, unheld]
  rfl

/-- The oldest descriptor that is ready and that none must precede moves its data, or stops when its module is lost. -/
theorem exec_descriptorComplete_of_oldest {c : Fin 8} {s : State} {f : Flying} (runs : s.coreRuns c = true)
    (unheld : s.tokenHeld c 0 = false)
    (oldest : (let able := (s.core c).mov.flights.filter fun f => f.ready && !s.behind c f
      able.find? fun f => able.all fun g => decide (f.order ≤ g.order)) = some f) :
    exec (.descriptorComplete c) s = .next (if s.descRemote f.desc && s.moduleLost (dModule f.desc) then
      s.stopMoving c f.place 0x0305 else s.moveData c f) := by
  simp only at oldest
  simp only [exec, execDescriptorComplete, engineActs runs unheld, oldest]
  exact (apply_ite Outcome.next _ _ _).symm

/-- In prefetch mode and within the budget the next sector is fetched, or dropped when it lies outside stack memory or in the image
store, or when its read faults. -/
theorem exec_prefetchFetch_of_next {c : Fin 8} {s : State} {n : Nat} (runs : s.coreRuns c = true)
    (mode : (s.core c).mov.mode = false)
    (budget : (let held := (s.core c).mov.pfSectors.filter fun u => (s.half (addrHalf (u * 32))).tcHas (u * 32)
      (held.length + 1) * 32 ≤ (s.core c).mov.pfBudget.toNat * 2 ^ 18))
    (next : (s.prefetchQueue c).findSome? (s.nextPrefetch c) = some n) :
    exec (.prefetchFetch c) s = .next (
      let r := (if (s.half (addrHalf (n * 32))).tcHas (n * 32) then s else s.passSlot (n * 32)).readSector (n * 32) [] [] false true
      if (decide (2 ^ 41 ≤ n * 32) || inStore (n * 32)) || !r.1.isOk then s.modMov c fun m => { m with pfSkip := m.pfSkip ++ [n] }
      else (r.2.carry (coreHalf c) (n * 32) 32 true).modMov c fun m => { m with
        pfSectors := ((s.core c).mov.pfSectors.filter fun u => (s.half (addrHalf (u * 32))).tcHas (u * 32)) ++ [n] }) := by
  simp only at budget
  simp only [exec, execPrefetchFetch, runs, mode, Nat.not_lt.mpr budget, next]
  cases (decide (2 ^ 41 ≤ n * 32) || inStore (n * 32)) with
  | true => rfl
  | false =>
    rcases (if (s.half (addrHalf (n * 32))).tcHas (n * 32) = true then s else s.passSlot (n * 32)).readSector (n * 32) [] [] false true
      with ⟨_ | _, s1⟩ <;> rfl

/-- Settles O6: each clause is the branch its command takes; what a group's pads yield to does not change while they are written. -/
theorem movementEngine : Obligations.MovementEngine := by
  unfold Obligations.MovementEngine
  refine ⟨?moves, ?noTemplate, ?admits, ?refuses, ?completes, ?lost, ?group, ?prefetches, ?faults, ?outside, ?drains⟩
  case moves =>
    intro c task s t i w d ready room template
    simp only [exec, execMove, ready, Nat.not_le.mpr room, template]
    rfl
  case noTemplate =>
    intro c task s t i w ready room template
    simp only [exec, execMove, ready, Nat.not_le.mpr room, template]
    rfl
  case admits =>
    intro c s x rest n head place runs unheld passed
    simp only [exec, execDescriptorAdmit, head, place, engineActs runs unheld, passed]
    rfl
  case refuses =>
    intro c s x rest n code head place runs unheld failed
    simp only [exec, execDescriptorAdmit, head, place, engineActs runs unheld, failed, State.modMov_modMov]
    rfl
  case completes =>
    intro c s f runs unheld oldest reachable
    exact (exec_descriptorComplete_of_oldest runs unheld oldest).trans (by rw [reachable]; rfl)
  case lost =>
    intro c s f runs unheld oldest lost
    exact (exec_descriptorComplete_of_oldest runs unheld oldest).trans (by rw [if_pos lost])
  case group =>
    intro c s g ended runs unheld
    simp only [exec, execTransferGroupComplete, ended, engineActs runs unheld]
    have pads := s.padOnes_groupData c g (s.groupRecs c g)
    simp only [State.groupRecs] at pads
    rw [pads]
    exact (apply_ite Outcome.next _ _ _).symm
  case prefetches =>
    intro c s n runs mode budget next inside notStore read
    refine (exec_prefetchFetch_of_next runs mode budget next).trans ?_
    simp only [Nat.not_le.mpr inside, notStore, read]
    rfl
  case faults =>
    intro c s n e s1 runs mode budget next fault
    refine (exec_prefetchFetch_of_next runs mode budget next).trans ?_
    simp only [fault, Except.isOk, Except.toBool, Bool.not_false, Bool.or_true, if_true]
  case outside =>
    intro c s n runs mode budget next outside
    refine (exec_prefetchFetch_of_next runs mode budget next).trans ?_
    have dropped : (decide (2 ^ 41 ≤ n * 32) || inStore (n * 32)) = true := by simpa using outside
    simp only [dropped, Bool.true_or, if_true]
  case drains =>
    intro c s runs
    simp only [exec, execTokenQueueDrain, runs]
    rfl

end Sys2Proof.Machine

/-! The moraine manager (R262 to R266): placing a claim, lending, return, and loans for another module. -/

namespace Sys2Proof.Machine

open Host

/-- A borrower's claim that finds a free part of its range takes the lowest (R266). -/
theorem State.loanClaim_of_span {s : State} {borrower mib : Nat} {l : LoanCfg} {a : Nat} (core desc : Nat)
    (range : s.loanRange borrower = some l)
    (span : lowestSpan [(l.base, l.mib)]
      (((s.half (addrHalf l.base)).loans.filter fun x => x.borrower = borrower).map fun x => (x.base, x.mib)) mib = some a) :
    s.loanClaim borrower mib core desc
      = (s.modHalf (addrHalf l.base) fun y => { y with loans := y.loans ++ [{ borrower := borrower, base := a, mib := mib }] }).sendMsg
          borrower 0x05 vcCtrl (loanArgs core 0 a + BitVec.ofNat 144 (desc % 16 * 2 ^ 29)) [] := by
  simp only [State.loanClaim, range, span]

/-- With no range of its own, or no free part of it, a borrower is refused under a free CODE (R266). -/
theorem State.loanClaim_of_noSpan {s : State} {borrower mib : Nat} (core desc : Nat)
    (noSpan : ∀ l, s.loanRange borrower = some l → lowestSpan [(l.base, l.mib)]
      (((s.half (addrHalf l.base)).loans.filter fun x => x.borrower = borrower).map fun x => (x.base, x.mib)) mib = none) :
    s.loanClaim borrower mib core desc
      = s.draw.sendMsg borrower 0x06 vcCtrl
          (loanArgs core 0 (Config.freeBits 16 s.freeCtr).toNat + BitVec.ofNat 144 (desc % 16 * 2 ^ 29)) [] := by
  cases range : s.loanRange borrower with
  | none => simp only [State.loanClaim, range]
  | some l => simp only [State.loanClaim, range, noSpan l range]

/-- Settles O20: each clause is the branch its command takes. -/
theorem moraineManager : Obligations.MoraineManager := by
  unfold Obligations.MoraineManager
  refine ⟨?places, ?lent, ?turnedAway, ?returns, ?loans, ?noRange, ?noSpan⟩
  case places =>
    intro s x oldest placeable
    simp only [exec, execMorainePlace, oldest, placeable, if_true]
  case lent =>
    intro s x copied asked
    simp only [exec, execMoraineLendComplete, copied, Option.isNone_iff_eq_none, asked, if_false]
  case turnedAway =>
    intro s x copied unasked
    simp only [exec, execMoraineLendComplete, copied, unasked, Option.isNone_none, if_true]
  case returns =>
    intro s x a next span
    simp only [exec, execMoraineReturn, next, span]
  case loans =>
    intro n m b desc s l a range span
    exact congrArg Outcome.next (State.loanClaim_of_span b.val desc.val range span)
  case noRange =>
    intro n m b desc s noRange
    exact congrArg Outcome.next (State.loanClaim_of_noSpan b.val desc.val fun l range => by simp [noRange] at range)
  case noSpan =>
    intro n m b desc s l range noSpan
    refine congrArg Outcome.next (State.loanClaim_of_noSpan b.val desc.val fun l' range' => ?_)
    obtain rfl : l = l' := Option.some.inj (range.symm.trans range')
    exact noSpan

end Sys2Proof.Machine

/-! Residues: what a lane, a block and a residue word come to modulo 65,535 (R284). -/

namespace Sys2Proof.Machine

open Host

/-- A lane's residue as an integer: the remainder is never negative. -/
theorem rimeOfLane_cast (l : Int) : (rimeOfLane l : Int) = l % 65535 := by
  simp only [rimeOfLane]
  omega

/-- Adding up residues from any start gives the residue of the sum (R284). -/
theorem rimeOf_fold (l : List Int) (r : Nat) (small : r < 65535) :
    ((l.foldl (fun r x => (r + rimeOfLane x) % 65535) r : Nat) : Int) = (r + l.sum) % 65535 := by
  induction l generalizing r with
  | nil => simp only [List.foldl_nil, List.sum_nil]; omega
  | cons x xs ih =>
    rw [List.foldl_cons, ih _ (Nat.mod_lt _ (by decide)), List.sum_cons]
    have residue := rimeOfLane_cast x
    omega

/-- The rime of some lanes is their sum modulo 65,535 (R284). -/
theorem rimeOf_cast (l : List Int) : (rimeOf l : Int) = l.sum % 65535 := by
  simpa [rimeOf] using rimeOf_fold l 0 (by decide)

/-- A block has 33 groups of 16 lanes (R281). -/
@[simp] theorem State.lanesOf_length (s : State) (base blk : Nat) : (s.lanesOf base blk).length = 528 := by
  simp only [State.lanesOf, List.length_flatMap, List.length_map, List.length_range]
  rfl

/-- Since 2^16 is 1 modulo 65,535, a lane's residue adds its pattern's three 16-bit fields, and 65,534 for the 2^48 that a negative
lane takes off (R284). -/
theorem rimeOfLane_signed {u : Nat} (fits : u < 2 ^ 48) :
    rimeOfLane (signed 48 u)
      = (u % 2 ^ 16 + u / 2 ^ 16 % 2 ^ 16 + u / 2 ^ 32 + (if signed 48 u < 0 then 65534 else 0)) % 65535 := by
  have fields : u = u % 2 ^ 16 + 2 ^ 16 * (u / 2 ^ 16 % 2 ^ 16) + 2 ^ 32 * (u / 2 ^ 32) := by omega
  generalize u % 2 ^ 16 = low, u / 2 ^ 16 % 2 ^ 16 = mid, u / 2 ^ 32 = high at fields ⊢
  have residue := rimeOfLane_cast (signed 48 u)
  by_cases positive : u < 2 ^ 47
  · have value : signed 48 u = u := if_pos positive
    rw [value] at residue ⊢
    rw [if_neg (by omega)]
    omega
  · have value : signed 48 u = u - 2 ^ 48 := if_neg positive
    rw [value] at residue ⊢
    rw [if_pos (by omega)]
    omega

/-- Settles O59, by the fields of a lane's pattern and the sum of the lanes' residues. -/
theorem laneResidues : Obligations.LaneResidues := by
  unfold Obligations.LaneResidues
  refine ⟨?lane, ?block, ?add, ?word⟩
  case lane => exact fun u fits => rimeOfLane_signed fits
  case block =>
    intro s base blk
    have sum := rimeOf_cast (s.lanesOf base blk)
    exact ⟨s.lanesOf_length base blk, by omega, sum⟩
  case add =>
    intro a b ha hb
    have plain : a ≠ 0xFFFF := by omega
    refine ⟨by simp only [rimeAdd, plain, if_false], rfl, ?_⟩
    have below : rimeAdd a b < 65535 := Nat.mod_lt _ (by decide)
    omega
  case word =>
    intro s base blk
    simp only [State.residueOf]
    split
    next => exact ⟨by decide, fun _ => rfl⟩
    next kept => exact ⟨kept, fun unset => absurd unset kept⟩

end Sys2Proof.Machine

/-! Records at an owner, the finisher and fingerprint runs (R285, R290 to R295, R304). -/

namespace Sys2Proof.Machine

open Host

/-! ### Control messages -/

/-- A share owner's order with a fresh identifier acts, whatever its term (R318, R319). -/
theorem State.accepting_of_newer {s s1 : State} {m : MsgHead} (newer : s.acceptId m.port m.src m.id vcCtrl = (true, s1))
    (f : State → State) : s.accepting m false f = f s1 := by
  simp only [State.accepting, newer, Bool.false_eq_true, if_false]

/-! ### Records (R290, R292, R294, R298) -/

/-- A whole record is taken as its fields have it. -/
theorem execRecord_of_parsed {bs : List (BitVec 8)} {r : Rec} (parsed : parseRecord bs = some (r, [])) (pt : Fin 18)
    (src : BitVec 13) (s : State) : execRecord pt src bs s = .next (s.takeRecord pt src.toNat r).2 := by
  simp only [execRecord, parsed]

/-- A record that does not parse is invalid (R292). -/
theorem execRecord_of_malformed {bs : List (BitVec 8)} (malformed : parseRecord bs = none) (pt : Fin 18) (src : BitVec 13)
    (s : State) : execRecord pt src bs s = .next (s.badRecord pt.val (leAt bs 0 4) (leAt bs 8 3)) := by
  simp only [execRecord, malformed]

/-- A record that names no bucket is invalid (R290). -/
theorem State.takeRecord_of_noBucket {s : State} {r : Rec} (unknown : s.bucket r.bucket.toNat = none) (pt : Fin 18) (src : Nat) :
    (s.takeRecord pt src r).2 = s.badRecord pt.val r.bucket.toNat r.block := by
  simp only [State.takeRecord, unknown]

/-- The bridge adder of the record's port is full (R326). -/
def State.adderFull (s : State) (x : Bucket) (pt : Fin 18) : Bool :=
  s.viaTree x && s.combinePorts.contains pt && decide (256 ≤ (s.port pt).bridge.length)

/-- No finished bucket is the record's. -/
theorem not_any_finished {l : List (Nat × Bool)} {id : Nat} (unfinished : l.all fun f => f.1 ≠ id) :
    (l.any fun f => f.1 = id) = false := by
  simpa [List.all_eq_not_any_not] using unfinished

section
variable {s : State} {r : Rec} {x : Bucket} (known : s.bucket r.bucket.toNat = some x) (up : s.stewardUp x.half)
  (idle : s.swapRunning = false)
include known up idle

/-- A record of another step or of a finished bucket is invalid (R290). -/
theorem State.takeRecord_of_pastStep (past : r.step ≠ s.red.step ∨ s.red.finished.any fun f => f.1 = r.bucket.toNat)
    (pt : Fin 18) (src : Nat) : (s.takeRecord pt src r).2 = s.badRecord pt.val r.bucket.toNat r.block := by
  rcases past with past | past <;> simp [State.takeRecord, known, up, idle, past]

variable (current : r.step = s.red.step) (unfinished : s.red.finished.all fun f => f.1 ≠ r.bucket.toNat)
include current unfinished

/-- A record of the current step whose share has not begun opens it (R294). -/
theorem State.takeRecord_of_noShare (unopened : s.share r.bucket.toNat = none) (pt : Fin 18) (src : Nat) :
    (s.takeRecord pt src r).2 = s.startShare x := by
  simp [State.takeRecord, known, up, idle, current, not_any_finished unfinished, unopened]

/-- A record whose share has begun waits for it, is of an earlier round, finds its wait over, or is checked. -/
theorem State.takeRecord_of_share {y : Share} (begun : s.share r.bucket.toNat = some y) (pt : Fin 18) (src : Nat) :
    (s.takeRecord pt src r).2 =
      if y.st = .opening || y.round < r.round || s.adderFull x pt then s
      else if r.round < y.round then s
      else if s.waitExpired x y then s.failShare x 0x0706
      else s.checkRecord x y pt src r := by
  simp only [State.takeRecord, known, up, idle, current, not_any_finished unfinished, begun, State.adderFull, Bool.not_true,
    Bool.or_self, Bool.false_eq_true, ne_eq, not_true_eq_false, decide_false, if_false, apply_ite Prod.snd]
  rfl

/-- A record of the share's own round is checked, unless the share has waited too long for it (R290). -/
theorem State.takeRecord_of_sameRound {y : Share} {pt : Fin 18} (begun : s.share r.bucket.toNat = some y)
    (opened : y.st ≠ .opening) (sameRound : y.round = r.round) (roomy : s.adderFull x pt = false) (src : Nat) :
    (s.takeRecord pt src r).2 = if s.waitExpired x y then s.failShare x 0x0706 else s.checkRecord x y pt src r := by
  rw [State.takeRecord_of_share known up idle current unfinished begun]
  simp [opened, sameRound, roomy]

end

/-! ### The finisher (R285, R295) -/

/-- A finishing share whose gate words cannot be read fails. -/
theorem execShareFinish_of_unreadGates {n : BitVec 32} {s s1 : State} {x : Bucket} {y : Share} {e : BitVec 16}
    (known : s.bucket n.toNat = some x) (begun : s.share n.toNat = some y) (finishing : y.st = .finishing)
    (up : s.stewardUp x.half) (gates : s.checkGates x = (some e, s1)) :
    execShareFinish n s = .next (s1.dropShare x e) := by
  simp [execShareFinish, known, begun, finishing, up, gates]

/-- A finishing share whose blocks are all sound is finished once its result buffers are claimed: no block is bad, and none is empty. -/
theorem execShareFinish_of_sound {n : BitVec 32} {s s0 s1 s2 s3 : State} {x : Bucket} {y : Share} {l : List (Fin 8 × Nat × Nat)}
    (known : s.bucket n.toNat = some x) (begun : s.share n.toNat = some y) (finishing : y.st = .finishing)
    (up : s.stewardUp x.half) (gates : s.checkGates x = (none, s0))
    (locals : s0.unreadBlocks x.localBase (List.range x.blocks) = ([], s2))
    (trees : s2.unreadBlocks x.treeBase (List.range x.blocks) = ([], s3))
    (sound : ((List.range x.blocks).map (s3.blockSum x)).all fun z => z.ok && decide (0 < z.count))
    (inRange : s3.overBlocks x = []) (claimed : s3.claimResults x x.cores = (.ok l, s1)) :
    execShareFinish n s = .next (s1.finishShare x y ((List.range x.blocks).map (s3.blockSum x)) l) := by
  have whole : ∀ z ∈ (List.range x.blocks).map (s3.blockSum x), z.ok = true ∧ 0 < z.count := by
    simpa only [List.all_eq_true, Bool.and_eq_true, decide_eq_true_eq] using sound
  generalize sums : (List.range x.blocks).map (s3.blockSum x) = zs at whole ⊢
  have noneBad : (zs.zipIdx.filter fun z => !z.1.ok) = [] := by
    refine List.filter_eq_nil_iff.mpr fun z hz => ?_
    simp [(whole z.1 (List.fst_mem_of_mem_zipIdx hz)).1]
  have noneEmpty : (zs.zipIdx.find? fun z => decide (z.1.count ≤ 0)) = none := by
    refine List.find?_eq_none.mpr fun z hz => ?_
    have counted := (whole z.1 (List.fst_mem_of_mem_zipIdx hz)).2
    simpa using counted
  simp [execShareFinish, known, begun, finishing, up, gates, locals, trees, inRange, claimed, sums, noneBad, noneEmpty]

/-! ### Fingerprints (R304, R463) -/

/-- A GO that reaches its half starts a run of whole pages of the half, unless one is running. -/
theorem execFpStart_of_takesWrite {h : Fin 2} {s : State} (taken : s.takesWrite (.half h)) :
    execFpStart h s = .next (
      if (s.half h).fpBusy ∨ ¬((s.half h).fpSrc.toNat % 65536 = 0 ∧ (s.half h).fpLen.toNat % 65536 = 0
          ∧ addrHalf (s.half h).fpSrc.toNat = h
          ∧ ((s.half h).fpLen.toNat = 0 ∨ addrHalf ((s.half h).fpSrc.toNat + (s.half h).fpLen.toNat - 1) = h)) then s
      else s.modHalf h fun y => { y with fpBusy := true, fpRefused := false, fpPage := 0 }) := by
  simp only [execFpStart, State.bar0Write_of_takesWrite taken, Bool.or_eq_true, Bool.and_eq_true, Bool.not_eq_true',
    decide_eq_true_eq, ← Bool.not_eq_true, and_assoc]

/-- Settles O16: each clause is the branch its command takes. -/
theorem recordsAndResults : Obligations.RecordsAndResults := by
  unfold Obligations.RecordsAndResults
  refine ⟨?checked, ?expired, ?malformed, ?past, ?unknown, ?opens, ?earlier, ?waits, ?limit, ?finishes, ?unreadGates, ?final,
    ?failed, ?goes, ?busy, ?completes⟩
  case checked =>
    intro pt src bs s r x y parsed known up idle current unfinished begun opened sameRound roomy running
    refine (execRecord_of_parsed parsed pt src s).trans (congrArg Outcome.next ?_)
    rw [State.takeRecord_of_sameRound known up idle current unfinished begun opened sameRound roomy, running]
    rfl
  case expired =>
    intro pt src bs s r x y parsed known up idle current unfinished begun opened sameRound roomy lapsed
    refine (execRecord_of_parsed parsed pt src s).trans (congrArg Outcome.next ?_)
    rw [State.takeRecord_of_sameRound known up idle current unfinished begun opened sameRound roomy]
    exact if_pos lapsed
  case malformed => exact fun pt src bs s malformed => execRecord_of_malformed malformed pt src s
  case past =>
    intro pt src bs s r x parsed known up idle past
    exact (execRecord_of_parsed parsed pt src s).trans
      (congrArg Outcome.next (State.takeRecord_of_pastStep known up idle past pt src.toNat))
  case unknown =>
    intro pt src bs s r parsed unknown
    exact (execRecord_of_parsed parsed pt src s).trans (congrArg Outcome.next (State.takeRecord_of_noBucket unknown pt src.toNat))
  case opens =>
    intro pt src bs s r x parsed known up idle current unfinished unopened
    exact (execRecord_of_parsed parsed pt src s).trans
      (congrArg Outcome.next (State.takeRecord_of_noShare known up idle current unfinished unopened pt src.toNat))
  case earlier =>
    intro pt src bs s r x y parsed known up idle current unfinished begun opened earlier roomy
    refine (execRecord_of_parsed parsed pt src s).trans (congrArg Outcome.next ?_)
    rw [State.takeRecord_of_share known up idle current unfinished begun, if_pos earlier, ite_self]
  case waits =>
    intro pt src bs s r x y parsed known up idle current unfinished begun waits
    refine (execRecord_of_parsed parsed pt src s).trans (congrArg Outcome.next ?_)
    rw [State.takeRecord_of_share known up idle current unfinished begun]
    exact if_pos (by simpa only [State.adderFull, Bool.or_eq_true, decide_eq_true_eq, or_assoc] using waits)
  case limit =>
    intro n s x y known begun lapsed
    simp only [exec, execPartialLimitExpire, known, begun, lapsed, if_true]
  case finishes =>
    intro n s x y l s1 s0 s2 s3 known begun finishing up gates locals trees sound inRange claimed
    exact execShareFinish_of_sound known begun finishing up gates locals trees sound inRange claimed
  case unreadGates =>
    intro n s x y e s1 known begun finishing up gates
    exact execShareFinish_of_unreadGates known begun finishing up gates
  case final => exact fun m n share s s1 newer => congrArg Outcome.next (State.accepting_of_newer newer _)
  case failed => exact fun m n share s s1 newer => congrArg Outcome.next (State.accepting_of_newer newer _)
  case goes =>
    intro h s taken free src len own fits
    refine (execFpStart_of_takesWrite taken).trans (congrArg Outcome.next (if_neg ?_))
    simp [free, src, len, own, fits]
  case busy =>
    intro h s taken busy
    exact (execFpStart_of_takesWrite taken).trans (congrArg Outcome.next (if_pos (.inl busy)))
  case completes =>
    intro h s busy up
    simp [exec, execFpComplete, busy, up]

end Sys2Proof.Machine

/-! A unit that comes by the other half's port, and a rerun while a bridge adder holds a record. -/

namespace Sys2Proof.Machine

open Host

/-- Both halves are up, and the image has one bucket, alone in its cascade, with its regions in the west half and one share. -/
def soleBucket (entry : BitVec 512) (share : Share) : State := { State.reset with
  halves := Vector.replicate 2 { up := true }
  img := { State.reset.img with active := some (0, {
    buckets := [entry], topo := { stages := 1, channels := 1, members := 1 } }) }
  red := { State.reset.red with shares := [share] } }

/-- A bucket's entry for one FP32 block of one member (R274). -/
def oneBlockEntry : BitVec 512 := BitVec.ofNat 512 (512 * 2 ^ 32 + 2 ^ 64 + 2 ^ 80 + 12 * 2 ^ 96 + 12 * 2 ^ 100)

/-- The same for no block. -/
def noBlockEntry : BitVec 512 := BitVec.ofNat 512 (2 ^ 64 + 2 ^ 80 + 12 * 2 ^ 96 + 12 * 2 ^ 100)

/-- A share of the west half collects its one block. -/
def westCollects : State := soleBucket oneBlockEntry { st := .collecting }

/-- The header of a unit of round 1, which a share in round 0 only counts as stale. -/
def roundOneUnit : BitVec 128 := BitVec.ofNat 128 (2 ^ 88)

/-- Refutes O15: its clause of the gate leaves out the bridge. A unit that comes by a port of the other half passes it (R16), and its
16 bytes of header and 2,048 of data are given to the bridge (R21). -/
theorem not_sharesAndUnits : ¬ Obligations.SharesAndUnits := by
  unfold Obligations.SharesAndUnits
  rintro ⟨-, -, gated, -⟩
  have claimed := gated 9 roundOneUnit (List.replicate 2048 0) 0 westCollects (bucketOf oneBlockEntry) { st := .collecting }
    (by decide +kernel) (by decide +kernel) (by decide +kernel) (by decide +kernel) (by decide +kernel) (by decide +kernel)
    (by decide +kernel) (by decide +kernel) (by decide +kernel)
  have passed : exec (.unit 9 roundOneUnit (List.replicate 2048 0) 0) westCollects
      = .next (westCollects.takeUnit 9 roundOneUnit (List.replicate 2048 0) 0).2 := rfl
  have same := Outcome.next.inj (passed.symm.trans claimed)
  exact absurd (congrArg (fun s => (s.half 1).bridgeBytes) same) (by decide +kernel)

/-- A bucket with no block has no gate word to read. -/
theorem State.checkGates_of_noBlocks {s : State} {x : Bucket} (empty : x.blocks = 0) : s.checkGates x = (none, s) := by
  simp only [State.checkGates, empty, List.range_zero, List.map_nil, State.checkExtents]

/-- The first order of module 1 that comes by port 0. -/
def firstOrder : MsgHead := { port := 0, src := 1, id := 1, term := 0 }

/-- A share collects while port 0's bridge adder holds a record of its bucket. -/
def recordHeld : State :=
  (soleBucket noBlockEntry { st := .collecting }).modPort 0 fun x => { x with bridge := [{ chans := 1 }] }

/-- Refutes O17: its RERUN_ORDER clause leaves out that the bridge adders give up what they hold of the share, its sums being begun
again (R298, R326). -/
theorem not_reductionOrders : ¬ Obligations.ReductionOrders := by
  unfold Obligations.ReductionOrders
  rintro ⟨-, -, -, -, reruns, -⟩
  have claimed := reruns firstOrder 0 [] recordHeld _ _ _ (bucketOf noBlockEntry) { st := .collecting }
    (Prod.ext (by decide +kernel) rfl) (Prod.ext (by decide +kernel) rfl) (by decide +kernel) (by decide +kernel)
    (by decide) rfl (State.checkGates_of_noBlocks (by decide +kernel))
  have taken : exec (.rerunOrder firstOrder 0 []) recordHeld = .next _ := rfl
  have same := Outcome.next.inj (taken.symm.trans claimed)
  exact absurd (congrArg (fun s => (s.port 0).bridge.length) same) (by decide +kernel)

end Sys2Proof.Machine

/-! A port's link: training, retrains, and the flits that carry no data (R308, R309, R311, R315, R316, R327, R463). -/

namespace Sys2Proof.Machine

open Host

/-! ### Flits received (R308) -/

section
variable {p : Fin 18} {s : State} (up : (s.port p).st = .up)
include up

/-- At a port that is up a flit of its type acts, once its frame is counted and its header taken. -/
theorem State.receiving_of_met {a : FlitAt} {h : BitVec 64} {type : Nat} (met : a.lost = false) (typed : flType h = type)
    (n : BitVec 16) (act : State → State) :
    s.receiving p n a h type act = act ((s.takeFrame p n a).takeHeader p h) := by
  simp [State.receiving, up, met, typed]

/-- One in a codeword that was not corrected is asked for again, whatever its type. -/
theorem State.receiving_of_lost {a : FlitAt} (lost : a.lost = true) (n : BitVec 16) (h : BitVec 64) (type : Nat)
    (act : State → State) : s.receiving p n a h type act = (s.takeFrame p n a).lostFlit p := by
  simp [State.receiving, up, lost]

end

/-! ### Training (R311, R316) -/

/-- A retrain's 50 µs are over exactly when they have passed since it began (R9). -/
theorem State.retrainExpired_iff {s : State} {p : Fin 18} : s.retrainExpired p = true ↔
    (s.port p).retraining = true ∧ (s.port p).st = .training ∧ (s.port p).retrainTick + 50000 ≤ s.tick := by
  simp only [State.retrainExpired, Bool.and_eq_true, decide_eq_true_eq, and_assoc]

/-- What a training shows of the link's other end. -/
def State.seesPeer (s : State) (p : Fin 18) (peer : BitVec 13) (peerPort : BitVec 5) (lanes : BitVec 8) : State :=
  s.modPort p fun x => { x with peerModule := peer, peerPort := peerPort, lanes := lanes }

/-- A training that fails is raised and leaves the port without keys: down, or in its retrain. -/
def State.trainingFails (s : State) (p : Fin 18) (code : BitVec 16) : State :=
  (s.raise code (unit := p.val)).modPort p fun x => { x with
    st := if x.retraining then .training else .down, txKey := none, rxKey := none }

/-- A training under the cascade key: the module draws its nonce, and the sealed test group decides. -/
def State.trainsUnder (s : State) (p : Fin 18) (k nonce mine : BitVec 256) (peer : BitVec 13) (peerPort : BitVec 5)
    (testOk : Bool) : State :=
  let s1 := s.draw.modPort p fun x => { x with keyEpoch := satAdd 32 x.keyEpoch 1 }
  if testOk then
    s1.linkUp p (Config.linkKey k (s.selfId, p.val, peer.toNat, peerPort.toNat) true mine nonce)
      (Config.linkKey k (peer.toNat, peerPort.toNat, s.selfId, p.val) true nonce mine)
  else s1.trainingFails p 0x0803

section
variable {p : Fin 18} {s : State} {e : BitVec 128} (configured : s.portCfg p = some e)
  (waits : (s.port p).st ≠ .up ∧ (s.port p).st ≠ .fenced) (calibrated : (s.port p).calibrated = true) (role : prfRole e ≠ 0)
  (up : s.stewardUp (portHalf p) = true)
include configured waits calibrated role up

/-- A training that comes once the retrain's 50 µs are over fences the port. -/
theorem execLinkTrain_of_expired (expired : s.retrainExpired p = true) (peer : BitVec 13) (pp : BitVec 5) (nonce : BitVec 256)
    (lanes : BitVec 8) (ok : Bool) : execLinkTrain p peer pp nonce lanes ok s = .next (s.retrainFails p) := by
  simp [execLinkTrain, configured, waits, calibrated, role, up, expired]

variable (inTime : s.retrainExpired p = false)
include inTime

/-- One that ends with no lane fences a port that is not in a retrain (R477). -/
theorem execLinkTrain_of_noLane (first : (s.port p).retraining = false) (peer : BitVec 13) (pp : BitVec 5) (nonce : BitVec 256)
    (ok : Bool) : execLinkTrain p peer pp nonce 0 ok s = .next (s.retrainFails p) := by
  simp [execLinkTrain, configured, waits, calibrated, role, up, inTime, first]

variable {lanes : BitVec 8} (some_lane : lanes ≠ 0#8)
include some_lane

/-- One with a peer that the LINK entry does not name fails. -/
theorem execLinkTrain_of_otherPeer {peer : BitVec 13} {pp : BitVec 5}
    (other : prfPeer e ≠ peer.toNat ∨ prfPeerPort e ≠ pp.toNat) (nonce : BitVec 256) (ok : Bool) :
    execLinkTrain p peer pp nonce lanes ok s = .next ((s.seesPeer p peer pp lanes).trainingFails p 0x0805) := by
  rcases other with h | h <;>
    simp [execLinkTrain, configured, waits, calibrated, role, up, inTime, some_lane, h, State.seesPeer, State.trainingFails]

variable {peer : BitVec 13} {pp : BitVec 5} (named : prfPeer e = peer.toNat ∧ prfPeerPort e = pp.toNat)
include named

/-- One with the peer it names fails without a cascade key. -/
theorem execLinkTrain_of_noKey (noKey : s.flash.cascadeKey = none) (nonce : BitVec 256) (ok : Bool) :
    execLinkTrain p peer pp nonce lanes ok s = .next ((s.seesPeer p peer pp lanes).trainingFails p 0x0803) := by
  simp [execLinkTrain, configured, waits, calibrated, role, up, inTime, some_lane, named, noKey, State.seesPeer,
    State.trainingFails]

/-- With a cascade key the sealed test group decides. -/
theorem execLinkTrain_of_key {k : BitVec 256} (key : s.flash.cascadeKey = some k) (nonce : BitVec 256) (ok : Bool) :
    execLinkTrain p peer pp nonce lanes ok s = .next
      ((s.seesPeer p peer pp lanes).trainsUnder p k nonce (Config.freeBits 256 s.freeCtr) peer pp ok) := by
  cases ok <;>
    simp [execLinkTrain, configured, waits, calibrated, role, up, inTime, some_lane, named, key, State.seesPeer,
      State.trainingFails, State.trainsUnder, State.selfId]

end

/-! ### Retrains (R316, R346, R463) -/

/-- A host's order that reaches a port not fenced retrains it when it is up. -/
theorem execPrifaRetrain_of_host {p : Fin 18} {s : State} (taken : s.takesWrite (.half (portHalf p)))
    (unfenced : s.portFenced p = false) :
    execPrifaRetrain p true s = .next (if (s.port p).st = .up then s.startRetrain p else s) := by
  simp only [execPrifaRetrain, State.bar0Write_of_takesWrite taken, unfenced]
  rfl

/-- A lost lane lock is raised and retrains a port that is up. -/
theorem execPrifaRetrain_of_lock (p : Fin 18) (s : State) :
    execPrifaRetrain p false s
      = .next (if (s.port p).st = .up then (s.raise 0x0802 (unit := p.val)).startRetrain p else s) := rfl

/-- Settles O23: each clause is the branch its command takes. -/
theorem portLink : Obligations.PortLink := by
  unfold Obligations.PortLink
  refine ⟨?comesUp, ?otherPeer, ?testFails, ?noKey, ?noLane, ?trainsLate, ?lockLost, ?hostOrders, ?notUp, ?hostFenced, ?expires,
    ?inTime, ?reroutes, ?resends, ?idles, ?lost⟩
  case comesUp =>
    intro p peer pp nonce lanes s e k configured waits calibrated role up inTime named key lanes
    exact execLinkTrain_of_key configured waits calibrated role up inTime lanes named key nonce true
  case otherPeer =>
    intro p peer pp nonce lanes ok s e configured waits calibrated role up inTime other lanes
    exact execLinkTrain_of_otherPeer configured waits calibrated role up inTime lanes other nonce ok
  case testFails =>
    intro p peer pp nonce lanes s e k configured waits calibrated role up inTime lanes named key
    exact execLinkTrain_of_key configured waits calibrated role up inTime lanes named key nonce false
  case noKey =>
    intro p peer pp nonce lanes ok s e configured waits calibrated role up inTime lanes named noKey
    exact execLinkTrain_of_noKey configured waits calibrated role up inTime lanes named noKey nonce ok
  case noLane =>
    intro p peer pp nonce ok s e configured waits calibrated role up inTime first
    exact execLinkTrain_of_noLane configured waits calibrated role up inTime first peer pp nonce ok
  case trainsLate =>
    intro p peer pp nonce lanes ok s e configured calibrated role up expired
    have training := (State.retrainExpired_iff.mp expired).2.1
    exact execLinkTrain_of_expired configured (by simp [training]) calibrated role up expired peer pp nonce lanes ok
  case lockLost =>
    intro p s up
    exact (execPrifaRetrain_of_lock p s).trans (congrArg Outcome.next (if_pos up))
  case hostOrders =>
    intro p s taken up unfenced
    exact (execPrifaRetrain_of_host taken unfenced).trans (congrArg Outcome.next (if_pos up))
  case notUp =>
    intro p h s taken notUp unfenced
    cases h with
    | false => exact (execPrifaRetrain_of_lock p s).trans (congrArg Outcome.next (if_neg notUp))
    | true => exact (execPrifaRetrain_of_host taken (by simpa using unfenced)).trans (congrArg Outcome.next (if_neg notUp))
  case hostFenced =>
    intro p s taken fenced
    simp [exec, execPrifaRetrain, State.bar0Write_of_takesWrite taken, fenced]
  case expires =>
    intro p s retraining training late
    exact congrArg Outcome.next (if_pos (State.retrainExpired_iff.mpr ⟨retraining, training, late⟩))
  case inTime =>
    intro p s early
    refine congrArg Outcome.next (if_neg fun expired => ?_)
    obtain ⟨-, -, late⟩ := State.retrainExpired_iff.mp expired
    exact Nat.not_le.mpr early late
  case reroutes => exact fun p s lost => if_pos lost
  case resends =>
    intro p h n a s up met typed
    exact congrArg Outcome.next (State.receiving_of_met up met typed n _)
  case idles =>
    intro p h n a s up met typed
    exact congrArg Outcome.next (State.receiving_of_met up met typed n id)
  case lost =>
    intro p h n a s up lost
    exact ⟨congrArg Outcome.next (State.receiving_of_lost up lost n h 2 _),
      congrArg Outcome.next (State.receiving_of_lost up lost n h 3 id)⟩

end Sys2Proof.Machine

/-! DATA and SEAL flits: the sequence, the buffers and the open group (R308 to R315). -/

namespace Sys2Proof.Machine

open Host

/-- A flit is beyond the credit given exactly when those held and those freed but not yet reported fill the buffer (R313). -/
theorem Port.overCredit_iff {x : Port} {v : Fin 4} :
    x.overCredit v = true ↔ vcBuffer v.val ≤ x.rxUsed.get v + seqDist (x.toldFreed.get v) (x.freed.get v) :=
  decide_eq_true_iff

/-- The DATA flit expected joins the open group, unless it is beyond its credit. -/
theorem execDataFlit_of_take {p : Fin 18} {s s1 : State} {a : FlitAt} {h : BitVec 64} {n : BitVec 16}
    (up : (s.port p).st = .up) (met : a.lost = false) (typed : flType h = 0)
    (taken : (s.takeFrame p n a).takeHeader p h = s1) (expected : (s1.port p).seqAns h = .take) (bs : List (BitVec 8)) :
    execDataFlit p h bs n a s = .next (
      if (s1.port p).overCredit (flVc h) then s1.fencePort p 0x0804
      else s1.modPort p fun x => { x with
        waitRetry := false, rxSeq := (x.rxSeq + 1) % 4096, rxUsed := x.rxUsed.set (flVc h) (x.rxUsed.get (flVc h) + 1)
        rxGroup := x.rxGroup ++ [{ hdr := h, payload := bs.take 248 }] }) := by
  subst taken
  refine congrArg Outcome.next ((State.receiving_of_met up met typed n _).trans ?_)
  simp only [expected]

/-- Settles O24: each clause is the branch its flit takes. -/
theorem sealedFlits : Obligations.SealedFlits := by
  unfold Obligations.SealedFlits
  refine ⟨?dataLost, ?joins, ?pastBuffer, ?ahead, ?discarded, ?sealLost, ?sealed⟩
  case dataLost =>
    intro p h bs n a s up lost
    exact congrArg Outcome.next (State.receiving_of_lost up lost n h 0 _)
  case joins =>
    intro p h bs n a s up met typed expected room
    refine (execDataFlit_of_take up met typed rfl expected bs).trans (congrArg Outcome.next (if_neg fun beyond => ?_))
    exact Nat.not_le.mpr room (Port.overCredit_iff.mp beyond)
  case pastBuffer =>
    intro p h bs n a s up met typed expected full
    exact (execDataFlit_of_take up met typed rfl expected bs).trans
      (congrArg Outcome.next (if_pos (Port.overCredit_iff.mpr full)))
  case ahead =>
    intro p h bs n a s up met typed ahead
    refine congrArg Outcome.next ((State.receiving_of_met up met typed n _).trans ?_)
    simp only [ahead]
  case discarded =>
    intro p h bs n a s up met typed old
    refine congrArg Outcome.next ((State.receiving_of_met up met typed n _).trans ?_)
    simp only [old]
  case sealLost =>
    intro p h bs n a s up lost
    exact congrArg Outcome.next (State.receiving_of_lost up lost n h 1 _)
  case sealed =>
    intro p h bs n a s x key up met typed port expected keyed
    subst port
    refine congrArg Outcome.next ((State.receiving_of_met up met typed n _).trans ?_)
    simp only [expected, keyed]

end Sys2Proof.Machine

/-! Messages in passing, and the ring relay (R317, R318, R320, R325, R338). -/

namespace Sys2Proof.Machine

open Host

/-! ### Messages in passing (R318, R320, R325) -/

/-- A message leaves its port, and its channel's buffer there is free. -/
def State.leavesPort (s : State) (p : Fin 18) (vc : Fin 4) (m : Msg) : State :=
  (s.modPort p fun x => { x with inMsgs := removeFirst (fun y => y = m) x.inMsgs }).freeMsg p vc m

/-- It goes out by a port with one hop of TTL less. -/
def State.passesOn (s : State) (p q : Fin 18) (m : Msg) : State :=
  (s.passBridge (portHalf p) (portHalf q) m).enqueue q { m with ttl := m.ttl - 1, held := 0 } (some p)

/-- The oldest message of a channel, on a channel of its kind and for another module, goes on by its route while it has a hop left. -/
theorem execMessageForward_of_passing {p : Fin 18} {vc : Fin 4} {s : State} {m : Msg}
    (oldest : (s.port p).inMsgs.find? (fun m => m.vc = vc.val) = some m) (up : s.stewardUp (portHalf p))
    (passing : m.dst ≠ s.selfId) (channel : (kindVcs m.kind).contains m.vc) :
    execMessageForward p vc s = .next (
      if m.ttl ≤ 1 then ((s.leavesPort p vc m).raise 0x080C (detail := BitVec.ofNat 32 m.dst)).dropLost m
      else (s.outPort m).elim ((s.leavesPort p vc m).dropLost m) fun q => (s.leavesPort p vc m).passesOn p q m) := by
  simp only [execMessageForward, oldest, up, passing, channel]
  by_cases last : m.ttl ≤ 1
  · simp [last, State.leavesPort]
  · cases route : s.outPort m <;> simp [last, State.leavesPort, State.passesOn]

/-! ### The ring relay (R338) -/

/-- The size a claim for a slot's buffer states; 0 without an entry. -/
def State.claimSize (s : State) (o : Fin 8 × Nat) : Nat :=
  match s.slotEnt o.1 o.2 with
  | some e => e.size
  | none => 0

/-- The relay begins to pass a buffer on: it claims one of the successor. -/
def State.relayClaims (s : State) (r : RingCfg) (n b hop tag : Nat) (o : Fin 8 × Nat) : State :=
  (s.modCas fun c => { c with relays := c.relays ++ [{ ring := n, buf := b, hop := hop, tag := tag }] }).sendMsg r.successor 0x04
    vcCtrl (slotArgs r.slot r.core 0 tag (s.ringHalf r).val 1 0 0
      + BitVec.ofNat 144 (s.claimSize o % 2 ^ 34 * 2 ^ 41)) []

/-- A buffer the relay acquires goes on to the successor, or at the last hop is released at once. -/
theorem execRingRelay_of_granted {n : Nat} {s s0 : State} {r : RingCfg} {b tag : Nat} {o : Fin 8 × Nat}
    (ring : s.ringCfg n = some r) (free : s.cas.relayTag = some tag) (owner : s.slotOwner (fin8 r.core) r.slot = o)
    (runs : s.coreRuns o.1) (up : s.stewardUp (s.ringHalf r)) (idle : s.cas.relays.all fun x => x.ring ≠ n)
    (fresh : s.relayTaken o.1 o.2 = false)
    (granted : s.ask o.1 { acq := true, slot := o.2, rq := .relay n } = (.granted b, s0)) :
    execRingRelay n s = .next (
      if r.hops ≤ ((s.slotSt o.1 o.2).bufs.get (fin4 b)).hop then (s0.markRelayed o.1 o.2 b).relayRelease r b
      else (s0.markRelayed o.1 o.2 b).relayClaims r n b ((s.slotSt o.1 o.2).bufs.get (fin4 b)).hop tag o) := by
  subst owner
  have noRelay : s.cas.relays.any (fun x => x.ring = n) = false := by
    simpa [List.all_eq_not_any_not] using idle
  simp only [execRingRelay, ring, free, runs, up, noRelay, fresh, granted, apply_ite Outcome.next]
  rfl

/-- Settles O26: each clause is a branch of the message's way or of the relay's. -/
theorem forwardingAndRings : Obligations.ForwardingAndRings := by
  unfold Obligations.ForwardingAndRings
  refine ⟨?goesOn, ?noHop, ?acts, ?lastHop, ?claims⟩
  case goesOn =>
    intro p vc s m oldest up passing channel hops
    refine (execMessageForward_of_passing oldest up passing channel).trans (congrArg Outcome.next ?_)
    rw [if_neg (Nat.not_le.mpr hops)]
    cases route : s.outPort m <;> rfl
  case noHop =>
    intro p vc s m oldest up passing channel spent
    exact (execMessageForward_of_passing oldest up passing channel).trans (congrArg Outcome.next (if_pos spent))
  case acts =>
    intro p vc s m s1 oldest up mine acted
    simp [exec, execMessageForward, oldest, up, mine, acted]
  case lastHop =>
    intro n s r b tag s0 ring free runs up idle fresh granted last
    exact (execRingRelay_of_granted ring free rfl runs up idle fresh granted).trans (congrArg Outcome.next (if_pos last))
  case claims =>
    intro n s r b tag s0 ring free runs up idle fresh granted below
    exact (execRingRelay_of_granted ring free rfl runs up idle fresh granted).trans
      (congrArg Outcome.next (if_neg (Nat.not_le.mpr below)))

end Sys2Proof.Machine

/-! The cascade's timers: heartbeats, takeover, the timebase and PTP (R329 to R334). -/

namespace Sys2Proof.Machine

open Host

/-- A takeover is due at a deputy whose agent is up from the end of its window on (R9, R330). -/
theorem State.takeoverDue_iff {s : State} : s.takeoverDue = true ↔
    s.cas.role = .deputy ∧ s.ownerUp .cascade = true ∧ s.cas.lastHeartbeat + 100000 + 200000 * s.cas.deputyRank ≤ s.tick := by
  simp only [State.takeoverDue, State.agentUp, Bool.and_eq_true, decide_eq_true_eq, and_assoc]

/-- A holdover ends once its 10 ms are over (R9, R332). -/
theorem State.endHoldover_of_elapsed {s : State} (holds : s.cas.holdover = true) (elapsed : s.cas.holdTick + 10000000 ≤ s.tick) :
    s.endHoldover = ((s.modCas fun c => { c with holdover := false, locked := false }).raise 0x0807).report .timeUnlocked := by
  simp only [State.endHoldover, holds, Nat.not_lt.mpr elapsed, decide_false, Bool.not_true, Bool.or_false, Bool.false_eq_true,
    if_false]

/-- Until then nothing changes. -/
theorem State.endHoldover_of_within {s : State} (within : s.cas.holdover = false ∨ s.tick < s.cas.holdTick + 10000000) :
    s.endHoldover = s := by
  rcases within with h | h <;> simp [State.endHoldover, h]

/-- Settles O28: each clause is the branch its command takes. -/
theorem cascadeTimers : Obligations.CascadeTimers := by
  unfold Obligations.CascadeTimers
  refine ⟨?takesOver, ?hears, ?beats, ?checksDeputies, ?steps, ?slews, ?delay, ?interval, ?unlocks, ?holds, ?ptpSteps, ?ptpSlews,
    ?ptpLost⟩
  case takesOver =>
    intro s deputy up elapsed
    exact congrArg Outcome.next (if_pos (State.takeoverDue_iff.mpr ⟨deputy, up, elapsed⟩))
  case hears =>
    intro s within
    refine congrArg Outcome.next (if_neg fun due => ?_)
    obtain ⟨deputy, -, elapsed⟩ := State.takeoverDue_iff.mp due
    exact within.elim (· deputy) (Nat.not_lt.mpr elapsed)
  case beats =>
    intro s master up deputy
    simp [exec, execHeartbeatInterval, State.agentUp, master, up, deputy]
  case checksDeputies =>
    intro s master up noDeputy
    simp [exec, execHeartbeatInterval, State.agentUp, master, up, noDeputy]
  case steps =>
    intro p a b s s0 parent portUp up ended first
    simp only [exec, execTimeSync, State.agentUp, parent, portUp, up, ended, first]
    rfl
  case slews =>
    intro p a b s s0 parent portUp up ended later
    have joined : (!s0.cas.joined && !s0.cas.stepped) = false := by
      rcases later with h | h <;> simp [h]
    simp only [exec, execTimeSync, State.agentUp, parent, portUp, up, ended, joined]
    rfl
  case delay =>
    intro p a b d e s sent parent portUp up
    simp [exec, execTimeDelay, State.agentUp, State.takeDelay, portUp, up, parent, sent]
  case interval =>
    intro s up
    simp only [exec, execTimeSyncInterval, State.agentUp, up]
    rfl
  case unlocks => exact fun s holds elapsed => congrArg Outcome.next (State.endHoldover_of_elapsed holds elapsed)
  case holds => exact fun s within => congrArg Outcome.next (State.endHoldover_of_within within)
  case ptpSteps =>
    intro e d l2 t s master up taken before
    simp [exec, execPtpMessage, State.agentUp, master, up, taken, before]
  case ptpSlews =>
    intro e d l2 t s master up taken after
    simp [exec, execPtpMessage, State.agentUp, master, up, taken, after]
  case ptpLost =>
    intro s master heard enabled gone
    simp [exec, execPtpLoss, master, heard, enabled, gone]

end Sys2Proof.Machine

/-! Frames, address answers and the link of an Ethernet port (R339, R340, R343, R348). -/

namespace Sys2Proof.Machine

open Host

/-- The port counts a frame's bytes and the symbols its decoder corrected. -/
def State.countFrame (s : State) (e : Fin 2) (n sym : Nat) : State :=
  s.modEth e fun x => { x with rxBytes := satAdd 64 x.rxBytes n, fecErr := satAdd 32 x.fecErr sym }

/-- A frame the port takes: sound, of 64 to 9,216 bytes, with at most one tag, and of a kind it accepts (R340). -/
def takesFrame (k : FrameKind) (n t : Nat) (ok : Bool) : Prop := ok ∧ (64 ≤ n ∧ n ≤ 9216) ∧ t ≤ 1 ∧ k.accepted

section
variable {e : Fin 2} {s : State} {k : FrameKind} {n t : Nat} {ok : Bool} (up : s.ethUp e = true)
include up

/-- A flow-control frame that is taken pauses priorities, and the pairs of the others go on. -/
theorem execEthFrame_of_pfc {m : BitVec 8} {l : List (BitVec 16)} (taken : takesFrame (.pfc m l) n t ok) (sym : Nat) :
    execEthFrame e (.pfc m l) n t ok sym s
      = .next (((s.countFrame e n sym).modEth e fun x => x.takePause s.tick m l).resumeQps e) := by
  obtain ⟨sound, ⟨least, most⟩, tags, accepted⟩ := taken
  simp [execEthFrame, up, sound, Nat.not_lt.mpr least, Nat.not_lt.mpr most, Nat.not_lt.mpr tags, accepted, State.countFrame]

/-- Any other frame that is taken is counted, its content being a command of its own. -/
theorem execEthFrame_of_taken (taken : takesFrame k n t ok) (content : ∀ m l, k ≠ .pfc m l) (sym : Nat) :
    execEthFrame e k n t ok sym s = .next (s.countFrame e n sym) := by
  obtain ⟨sound, ⟨least, most⟩, tags, accepted⟩ := taken
  simp only [execEthFrame, up, sound, Nat.not_lt.mpr least, Nat.not_lt.mpr most, Nat.not_lt.mpr tags, accepted]
  cases k with
  | pfc m l => exact absurd rfl (content m l)
  | roce | ptp | arp | neighbour | other => rfl

/-- A frame that is not taken is counted as dropped. -/
theorem execEthFrame_of_refused (refused : ok = false ∨ n < 64 ∨ 9216 < n ∨ 1 < t ∨ k.accepted = false) (sym : Nat) :
    execEthFrame e k n t ok sym s
      = .next ((s.countFrame e n sym).modEth e fun x => { x with rxDropped := satAdd 32 x.rxDropped 1 }) := by
  have dropped : (!ok || decide (n < 64) || decide (9216 < n) || decide (1 < t) || !k.accepted) = true := by
    simpa [or_assoc] using refused
  simp only [execEthFrame, up, dropped]
  rfl

end

/-- Settles O29: each clause is the branch its command takes. -/
theorem ethernetFrames : Obligations.EthernetFrames := by
  unfold Obligations.EthernetFrames
  refine ⟨?taken, ?pauses, ?dropped, ?answers, ?otherAddress, ?linkDown, ?linkUp⟩
  case taken =>
    intro e k n t sym ok s up sound size tags accepted content
    exact execEthFrame_of_taken up ⟨sound, size, tags, accepted⟩ content sym
  case pauses =>
    intro e m l n t sym s up size tags
    exact execEthFrame_of_pfc up ⟨rfl, size, tags, rfl⟩ sym
  case dropped =>
    intro e k n t sym ok s up refused
    exact execEthFrame_of_refused up refused sym
  case answers =>
    intro e v6 a s up oztas own
    simp [exec, execArpRequest, up, oztas, own, frameArp]
  case otherAddress =>
    intro e v6 a s other
    simp [exec, execArpRequest, other]
  case linkDown =>
    intro e s link
    simp [exec, execEthLinkDown, link]
  case linkUp =>
    intro e p s down up unfenced awake
    simp [exec, execEthLinkUp, down, up, unfenced, awake]

end Sys2Proof.Machine

/-! Queue pairs: doorbells, MODIFY, packets and timers (R341, R342, R344, R434). -/

namespace Sys2Proof.Machine

open Host

/-! ### Doorbells (R344, R434) -/

section
variable {e : Fin 2} {s : State} (taken : s.takesDoorbell (.half e) = true)
include taken

/-- A posted send tail is taken, unless it is too far ahead. -/
theorem execSqTail_of_taken (q : Fin 4096) (v : BitVec 64) : execSqTail e q v s = .next (
    if 2 ^ (s.qp e q.val).sqLog2 < ((v.truncate 16 : BitVec 16) - (s.qp e q.val).sqHead).toNat then s.qpError e q.val
    else (s.modQp e q.val fun x => { x with sqTail := v.truncate 16 }).pumpQp e q.val) :=
  congrArg Outcome.next (State.bar4Write_of_takesDoorbell taken _ _)

/-- So is a posted receive tail. -/
theorem execRqTail_of_taken (q : Fin 4096) (v : BitVec 64) : execRqTail e q v s = .next (
    if 2 ^ (s.qp e q.val).rqLog2 < ((v.truncate 16 : BitVec 16) - (s.qp e q.val).rqHead).toNat then s.qpError e q.val
    else s.modQp e q.val fun x => { x with rqTail := v.truncate 16 }) :=
  congrArg Outcome.next (State.bar4Write_of_takesDoorbell taken _ _)

/-- A code that names no state, or one from a state it does not leave, is ignored (R463). -/
theorem execModify_of_ignored {q : Fin 4096} {v : BitVec 64} (notReset : fld v 2 0 ≠ 0) (notError : fld v 2 0 ≠ 4)
    (init : fld v 2 0 = 1 → (s.qp e q.val).st ≠ .reset) (rtr : fld v 2 0 = 2 → (s.qp e q.val).st ≠ .init)
    (rts : fld v 2 0 = 3 → (s.qp e q.val).st ≠ .rtr) : execModify e q v s = .next s := by
  refine congrArg Outcome.next ((State.bar4Write_of_takesDoorbell taken _ _).trans ?_)
  split
  next code => exact absurd code notReset
  next code st => exact absurd st (init code)
  next code st => exact absurd st (rtr code)
  next code st => exact absurd st (rts code)
  next code => exact absurd code notError
  next => rfl

end

/-! ### Packets (R341, R342) -/

section
variable {e : Fin 2} {q : Fin 4096} {p : RocePkt} {s : State} (up : s.ethUp e = true) (sound : p.icrcOk = true)
  (isOpen : (s.qp e q.val).st = .rtr ∨ (s.qp e q.val).st = .rts)
include up sound isOpen

/-- A notification packet slows the pair. -/
theorem execRocePacket_of_cnp (notification : p.op = 0x81) : execRocePacket e q p s = .next (s.recvCnp e q.val) := by
  rcases isOpen with h | h <;> simp [execRocePacket, up, sound, h, notification]

/-- A packet with options, of an opcode outside the subset or above the path MTU puts the pair in error (R7). -/
theorem execRocePacket_of_refused (other : p.op ≠ 0x81)
    (refused : p.options = true ∨ 0x11 < p.op.toNat ∨ (s.qp e q.val).pmtu < p.payload.length) :
    execRocePacket e q p s = .next ((if 0x0D ≤ p.op.toNat ∧ p.op.toNat ≤ 0x11 then s.noteCe e q.val p.ce
      else (s.noteCe e q.val p.ce).answer e q.val p.psn nakInvalid).qpError e q.val) := by
  have other : p.op.toNat ≠ 0x81 := fun h => other (BitVec.eq_of_toNat_eq h)
  have breaks : (p.options || !decide (p.op.toNat ≤ 0x11) || decide ((s.qp e q.val).pmtu < p.payload.length)) = true := by
    simpa [or_assoc] using refused
  simp only [execRocePacket, up, sound, other, breaks]
  rcases isOpen with h | h <;> simp [h]

variable (subset : p.op.toNat ≤ 0x11) (plain : p.options = false) (fits : p.payload.length ≤ (s.qp e q.val).pmtu)
  (room : (s.qp e q.val).cqFull = false) (unblocked : (s.qp e q.val).blocked = [])
include subset plain fits room unblocked

/-- Any other packet is a request that is served, or an answer that comes before or after the pair's timeout, when its completions have
room. -/
theorem execRocePacket_of_room : execRocePacket e q p s = .next (
    if p.op.toNat ≤ 0x0C then (s.noteCe e q.val p.ce).recvRequest e q.val p
    else if (((s.noteCe e q.val p.ce).expireAck e q.val).qp e q.val).st ≠ .rts then (s.noteCe e q.val p.ce).expireAck e q.val
    else if p.op.toNat = 0x11 then ((s.noteCe e q.val p.ce).expireAck e q.val).recvAck e q.val p
    else ((s.noteCe e q.val p.ce).expireAck e q.val).recvResponse e q.val p) := by
  have other : p.op.toNat ≠ 0x81 := by omega
  have passes : (p.options || !decide (p.op.toNat ≤ 0x11) || decide ((s.qp e q.val).pmtu < p.payload.length)) = false := by
    simp [plain, subset, fits]
  simp only [execRocePacket, up, sound, other, passes, room, unblocked, apply_ite Outcome.next]
  rcases isOpen with h | h <;> simp [h]

/-- An answer that finds the pair open after its timeout acts. -/
theorem execRocePacket_of_answer {s1 : State} (answer : 0x0D ≤ p.op.toNat)
    (expired : (s.noteCe e q.val p.ce).expireAck e q.val = s1) :
    execRocePacket e q p s = .next (if (s1.qp e q.val).st ≠ .rts then s1
      else if p.op.toNat = 0x11 then s1.recvAck e q.val p else s1.recvResponse e q.val p) := by
  subst expired
  exact (execRocePacket_of_room up sound isOpen subset plain fits room unblocked).trans
    (congrArg Outcome.next (if_neg (Nat.not_le.mpr answer)))

end

/-! ### Timers (R341, R344) -/

/-- The timeout of a pair that may send, with something on its way and room for completions, retries once it is over. -/
theorem State.expireAck_of_elapsed {s : State} {e : Fin 2} {q : Nat} (sends : (s.qp e q).st = .rts)
    (unanswered : (s.qp e q).unacked ≠ []) (elapsed : (s.qp e q).sentTick + (s.qp e q).timeoutNs ≤ s.tick)
    (room : (s.qp e q).cqFull = false) (unblocked : (s.qp e q).blocked = []) : s.expireAck e q = s.retryQp e q := by
  simp only [State.expireAck, sends, unanswered, Nat.not_lt.mpr elapsed, room, unblocked, ne_eq, not_true_eq_false, decide_false,
    Bool.or_false, Bool.false_eq_true, if_false]

/-- While completions wait for room, or before it is over, it ends nothing. -/
theorem State.expireAck_of_waiting {s : State} {e : Fin 2} {q : Nat} (waiting : (s.qp e q).cqFull = true ∨
    (s.qp e q).blocked ≠ [] ∨ s.tick < (s.qp e q).sentTick + (s.qp e q).timeoutNs) : s.expireAck e q = s := by
  rcases waiting with h | h | h <;> simp [State.expireAck, h]

/-- Settles O30: each clause is the branch its command takes. -/
theorem roceQueuePairs : Obligations.RoceQueuePairs := by
  unfold Obligations.RoceQueuePairs
  refine ⟨?sends, ?sendsTooFar, ?receives, ?receivesTooFar, ?consumes, ?modifies, ?slows, ?serves, ?acknowledges, ?reads, ?expires,
    ?breaks, ?wrongIcrc, ?retries, ?waits, ?speeds⟩
  case sends =>
    intro e q v s taken within
    exact (execSqTail_of_taken taken q v).trans (congrArg Outcome.next (if_neg (Nat.not_lt.mpr within)))
  case sendsTooFar =>
    intro e q v s taken ahead
    exact (execSqTail_of_taken taken q v).trans (congrArg Outcome.next (if_pos ahead))
  case receives =>
    intro e q v s taken within
    exact (execRqTail_of_taken taken q v).trans (congrArg Outcome.next (if_neg (Nat.not_lt.mpr within)))
  case receivesTooFar =>
    intro e q v s taken ahead
    exact (execRqTail_of_taken taken q v).trans (congrArg Outcome.next (if_pos ahead))
  case consumes =>
    intro e q v s taken
    exact congrArg Outcome.next (State.bar4Write_of_takesDoorbell taken _ _)
  case modifies =>
    intro e q v s n s1 taken read
    refine ⟨?reset, ?init, ?rtr, ?rts, ?notLeft, ?error, ?otherCode⟩
    case reset =>
      intro code
      simp only [exec, execModify, State.bar4Write_of_takesDoorbell taken, read, code]
    case init =>
      intro code st
      simp only [exec, execModify, State.bar4Write_of_takesDoorbell taken, read, code, st]
      rfl
    case rtr =>
      intro code st
      simp only [exec, execModify, State.bar4Write_of_takesDoorbell taken, read, code, st]
    case rts =>
      intro code st
      simp only [exec, execModify, State.bar4Write_of_takesDoorbell taken, read, code, st]
    case notLeft =>
      rintro (⟨code, other⟩ | ⟨code, other⟩ | ⟨code, other⟩) <;>
        exact execModify_of_ignored taken (by simp [code]) (by simp [code]) (by simp [code, other]) (by simp [code, other])
          (by simp [code, other])
    case error =>
      intro code
      simp only [exec, execModify, State.bar4Write_of_takesDoorbell taken, read, code]
    case otherCode =>
      intro code
      have not_le {k : Nat} (small : k ≤ 4) : fld v 2 0 ≠ k := fun h => Nat.not_le.mpr code (h ▸ small)
      exact execModify_of_ignored taken (not_le (by decide)) (not_le (by decide)) (absurd · (not_le (by decide)))
        (absurd · (not_le (by decide))) (absurd · (not_le (by decide)))
  case slows =>
    intro e q p s up sound isOpen notification
    exact execRocePacket_of_cnp up sound isOpen notification
  case serves =>
    intro e q p s up sound isOpen request plain fits room unblocked
    exact (execRocePacket_of_room up sound isOpen (Nat.le_trans request (by decide)) plain fits room unblocked).trans
      (congrArg Outcome.next (if_pos request))
  case acknowledges =>
    intro e q p s s1 up sound sends ack plain fits room unblocked expired stillSends
    have ack : p.op.toNat = 0x11 := congrArg BitVec.toNat ack
    refine (execRocePacket_of_answer up sound (.inr sends) (by omega) plain fits room unblocked (by omega) expired).trans ?_
    rw [if_neg (absurd stillSends), if_pos ack]
  case reads =>
    intro e q p s s1 up sound sends response plain fits room unblocked expired stillSends
    refine (execRocePacket_of_answer up sound (.inr sends) (by omega) plain fits room unblocked response.1 expired).trans ?_
    rw [if_neg (absurd stillSends), if_neg (by omega)]
  case expires =>
    intro e q p s s1 up sound sends answer plain fits room unblocked expired stopped
    exact (execRocePacket_of_answer up sound (.inr sends) answer.2 plain fits room unblocked answer.1 expired).trans
      (congrArg Outcome.next (if_pos stopped))
  case breaks =>
    intro e q p s up sound isOpen other refused
    exact execRocePacket_of_refused up sound isOpen other refused
  case wrongIcrc =>
    intro e q p s wrong
    simp [exec, execRocePacket, wrong]
  case retries =>
    intro e q s up sends unanswered elapsed room unblocked
    simp [exec, execRoceAckTimeout, up, State.expireAck_of_elapsed sends unanswered elapsed room unblocked]
  case waits =>
    intro e q s waiting
    simp [exec, execRoceAckTimeout, State.expireAck_of_waiting waiting]
  case speeds =>
    intro e q s t heard due up
    simp only [exec, execRoceRateIncrease, heard, Nat.not_lt.mpr due, up]
    rfl

end Sys2Proof.Machine

/-! The image store: loads, peers' requests, verification and staging (R353 to R359, R406). -/

namespace Sys2Proof.Machine

open Host

/-- Settles O31: each clause is the branch its command takes. A verification turns on whether the image can be read, then on the verdict
of its own checks, and last on the active image, when there is one, of whose family it may be (R355, R357). -/
theorem imageStore : Obligations.ImageStore := by
  unfold Obligations.ImageStore
  refine ⟨?copies, ?unread, ?closed, ?answered, ?peerRefuses, ?notVerified, ?sends, ?unreadable, ?verifies, ?stages, ?unfit,
    ?named, ?keepsName⟩
  case copies =>
    intro n s bs s1 oz opened read
    simp only [exec, execImgLoadLocal, State.bar0Write_of_takesWrite oz, opened, read]
    rfl
  case unread =>
    intro n s e s1 oz opened refused
    simp only [exec, execImgLoadLocal, State.bar0Write_of_takesWrite oz, opened, refused]
    rfl
  case closed =>
    intro n s oz closed
    simp only [exec, execImgLoadLocal, State.bar0Write_of_takesWrite oz, closed]
    rfl
  case answered =>
    intro n peer m bs s oz opened
    simp only [exec, execImgLoadPeer, State.bar0Write_of_takesWrite oz, opened]
    rfl
  case peerRefuses =>
    intro n peer m s oz opened
    simp only [exec, execImgLoadPeer, State.bar0Write_of_takesWrite oz, opened]
    rfl
  case notVerified =>
    intro src n s up other
    simp [exec, execPeerLoadRequest, up, other]
  case sends =>
    intro src n s s1 up verified check
    simp [exec, execPeerLoadRequest, up, verified, check]
  case unreadable =>
    intro src n s e s1 up verified check
    simp [exec, execPeerLoadRequest, up, verified, check]
  case verifies =>
    intro n s e s0 up verifying check
    simp only [exec, execImageVerify, up, verifying, check]
    cases e with
    | some c => rfl
    | none =>
      generalize verifyImage (s0.storeByte n.val) _ = verdict
      cases verdict with
      | error r => rfl
      | ok g =>
        cases s.img.active with
        | none => rfl
        | some a =>
          simp only [Option.bind_some]
          cases if a.2.familyId = g.familyId then familyDiffers a.2 g else none <;> rfl
  case stages =>
    intro n s oz still idle fit
    simp [exec, execImgStage, State.bar0Write_of_takesWrite oz, still, idle, fit]
  case unfit =>
    intro n s oz unfit
    simp [exec, execImgStage, State.bar0Write_of_takesWrite oz, unfit, State.refuseImage]
  case named =>
    intro v s oz empty
    simp only [exec, execImgModuleId, State.bar0Write_of_takesWrite oz, empty, if_true]
  case keepsName =>
    intro v n s oz used
    have notEmpty : ¬ ((List.range 16).all fun p => (s.imgPlace p).st = .empty) = true := fun empty =>
      used (of_decide_eq_true (List.all_eq_true.mp empty n.val (List.mem_range.mpr n.isLt)))
    exact congrArg Outcome.next ((State.bar0Write_of_takesWrite oz _ _ _).trans (if_neg notEmpty))

end Sys2Proof.Machine

/-! What the clock commands of a half leave as it is (R374, R375, R378 to R380, R390). -/

namespace Sys2Proof.Machine

open Host

-- In turn, so that none takes the stack of a thread of its own.
set_option Elab.async false

/-- What a half holds beside its clocks: its power, bridge, tier cache, loans, moraine records, array cycle, and the limits that its
register and the cap set. -/
def Half.besideClocks (y : Half) : Bool × Bool × Tab TcLine × List LoanSpan × List MorEntry × Nat × BitVec 3 × Nat :=
  (y.up, y.bridgeOpen, y.tc, y.loans, y.morEntries, y.arrCycle, y.opLimit, y.capLimit)

/-- An outcome changes the clocks of one half and nothing else. -/
def ChangesClocksOnly (h : Fin 2) (s : State) (o : Outcome State Fault Refusal) : Prop :=
  ∀ t, o = .next t → t = { s with halves := t.halves } ∧ (∀ k, k ≠ h → t.half k = s.half k) ∧
    (t.half h).besideClocks = (s.half h).besideClocks

/-- To change nothing is one such outcome. -/
theorem changesClocksOnly_same (h : Fin 2) (s : State) : ChangesClocksOnly h s (.next s) := by
  rintro _ ⟨⟩
  exact ⟨rfl, fun _ _ => rfl, rfl⟩

/-- An update of the half that leaves it as it is beside its clocks is another. -/
theorem changesClocksOnly_modHalf {h : Fin 2} {s : State} {f : Half → Half}
    (kept : (f (s.half h)).besideClocks = (s.half h).besideClocks) : ChangesClocksOnly h s (.next (s.modHalf h f)) := by
  rintro _ ⟨⟩
  exact ⟨rfl, fun k other => s.modHalf_half_ne h f k other, (congrArg Half.besideClocks (s.modHalf_half h f)).trans kept⟩

/-- A choice between two such outcomes is one. -/
theorem changesClocksOnly_ite {p : Prop} [Decidable p] {h : Fin 2} {s : State} {a b : Outcome State Fault Refusal}
    (ha : ChangesClocksOnly h s a) (hb : ChangesClocksOnly h s b) : ChangesClocksOnly h s (if p then a else b) := by
  split <;> assumption

/-- A new grant and the switch it starts are the half's clocks. -/
theorem changesClocksOnly_recompute (h : Fin 2) (s : State) : ChangesClocksOnly h s (.next (s.recompute h)) := by
  simp only [State.recompute]
  refine changesClocksOnly_modHalf ?_
  simp only [apply_ite Half.besideClocks]
  simp only [Half.besideClocks, ite_self]

/-- So is a detected droop, with the commit it undoes. -/
theorem changesClocksOnly_droopDetect (h : Fin 2) (s : State) : ChangesClocksOnly h s (execDroopDetect h s) := by
  refine changesClocksOnly_ite (changesClocksOnly_modHalf ?_) (changesClocksOnly_same h s)
  have undone (y : Half) : (if y.switch = .switching && y.switchTick = s.tick then y.undoCommit else y).besideClocks
      = y.besideClocks := by
    split <;> rfl
  exact undone (s.half h)

/-- Settles O56: each of these commands updates the clocks of its half, or changes nothing. -/
theorem frameOfClocks : Obligations.FrameOfClocks := by
  unfold Obligations.FrameOfClocks
  intro h c s t command ran
  have only : ChangesClocksOnly h s (exec c s) := by
    have same := changesClocksOnly_same h s
    simp only [List.mem_cons, List.not_mem_nil, or_false] at command
    rcases command with rfl | rfl | rfl | rfl | rfl | rfl | rfl | rfl
    · exact changesClocksOnly_ite (changesClocksOnly_recompute h s) same
    · exact changesClocksOnly_ite same (changesClocksOnly_ite (changesClocksOnly_modHalf rfl)
        (changesClocksOnly_ite same (changesClocksOnly_modHalf rfl)))
    · exact changesClocksOnly_ite same (changesClocksOnly_modHalf rfl)
    · exact changesClocksOnly_ite (changesClocksOnly_modHalf rfl) same
    · exact changesClocksOnly_ite (changesClocksOnly_modHalf rfl) same
    · exact changesClocksOnly_droopDetect h s
    · exact changesClocksOnly_ite (changesClocksOnly_modHalf rfl) same
    · exact changesClocksOnly_ite (changesClocksOnly_modHalf rfl) same
  obtain ⟨others, half, kept⟩ := only t ran
  simp only [Half.besideClocks, Prod.mk.injEq] at kept
  exact ⟨others, half, kept⟩

end Sys2Proof.Machine

/-! Operating points: grants, switches, a lost PLL and droop (R372 to R380, R391). -/

namespace Sys2Proof.Machine

open Host

-- In turn, so that none takes the stack of a thread of its own.
set_option Elab.async false

/-- Settles O34: each clause is the branch its command takes. -/
theorem operatingPoints : Obligations.OperatingPoints := by
  unfold Obligations.OperatingPoints
  refine ⟨?grants, ?keepsGrant, ?holds, ?commits, ?waits, ?completes, ?loses, ?relocks, ?fences, ?notDue, ?resumes, ?droops, ?ends,
    ?goesOn⟩
  case grants =>
    intro h s clocked m0 awake
    simp [exec, execGrantRecompute, clocked, m0, awake]
  case keepsGrant =>
    rintro h s (other | asleep | stopped)
    · simp [exec, execGrantRecompute, other]
    · simp [exec, execGrantRecompute, asleep]
    · simp [exec, execGrantRecompute, stopped]
  case holds =>
    rintro h s clocked ⟨started, uncommitted⟩ held
    simp [exec, execOpSwitchCommit, clocked, started, uncommitted, held]
  case commits =>
    rintro h s clocked ⟨started, uncommitted⟩ free paid
    have noWait : ¬ ((s.half h).swPhase && decide ((s.half h).fallLeft < (s.half h).fallTo (s.half h).target)) = true := by
      rcases paid with limit | budget
      · simp [limit]
      · simp [Nat.not_lt.mpr budget]
    simp only [exec, execOpSwitchCommit, clocked, started, uncommitted, free, noWait]
    rfl
  case waits =>
    intro h s clocked free phase short
    simp [exec, execOpSwitchCommit, free, phase, short]
  case completes =>
    intro h s clocked committed
    simp [exec, execOpSwitchComplete, clocked, committed]
  case loses =>
    intro h s clocked
    exact if_pos clocked
  case relocks =>
    intro h s up lost inTime
    simp only [exec, execPllRelock, up, lost, inTime]
    rfl
  case fences =>
    intro h s up oztas unfenced lost late
    simp only [exec, execPllRelockTimeout, up, oztas, unfenced, lost, late]
    rfl
  case notDue =>
    rintro h s (locked | early)
    · simp [exec, execPllRelockTimeout, locked]
    · simp [exec, execPllRelockTimeout, Nat.not_le.mpr early]
  case resumes =>
    intro h s forced passed
    simp [exec, execPllLockCheckPass, forced, passed]
  case droops =>
    intro h s clocked
    exact if_pos clocked
  case ends =>
    intro h s window elapsed
    simp [exec, execDroopWindowEnd, window, elapsed]
  case goesOn =>
    rintro h s (closed | running)
    · simp [exec, execDroopWindowEnd, closed]
    · simp [exec, execDroopWindowEnd, Nat.not_le.mpr running]

end Sys2Proof.Machine

/-! The power cap, its sensors, freewheel budgets and heat (R381 to R392). -/

namespace Sys2Proof.Machine

open Host

-- In turn, so that none takes the stack of a thread of its own.
set_option Elab.async false

/-! ### What a budget's passes over the densities leave alone (R387) -/

@[simp] theorem State.modPart_knownMarker (s : State) (c : Fin 8) (p : Fin 4) (f : Part → Part) :
    (s.modPart c p f).knownMarker = s.knownMarker := rfl

@[simp] theorem State.modHalf_knownMarker (s : State) (h : Fin 2) (f : Half → Half) :
    (s.modHalf h f).knownMarker = s.knownMarker := rfl

/-- A pass over the densities is about the partitions alone: the marker the module knows stays. -/
@[simp] theorem State.densityPass_knownMarker (s : State) (up : Bool) (full empty left : Nat) (l : List (Fin 8 × Fin 4)) :
    (s.densityPass up full empty l left).2.2.knownMarker = s.knownMarker := by
  induction l generalizing s left with
  | nil => rfl
  | cons x t ih =>
    simp only [State.densityPass]
    split
    · rfl
    · rw [ih, State.modPart_knownMarker]

/-- So are several. -/
@[simp] theorem State.densityPasses_knownMarker (s : State) (up : Bool) (full empty n left : Nat)
    (pick : State → List (Fin 8 × Fin 4)) : (s.densityPasses up full empty pick n left).2.knownMarker = s.knownMarker := by
  induction n generalizing s left with
  | zero => rfl
  | succ n ih =>
    simp only [State.densityPasses]
    have kept := s.densityPass_knownMarker up full empty left
    split
    · rfl
    · split
      next pass => rw [ih, ← kept, pass]
      next pass => rw [← kept, pass]

/-- With no known marker a budget pays for falling densities alone, and the rest is left to a switch (R376, R387). -/
theorem execFreewheelBudget_of_noMarker {h : Fin 2} {s : State} (clocked : s.clocked h) (m0 : s.pwr.state = 0)
    (unknown : s.knownMarker = none) (full empty : Nat) : execFreewheelBudget h full empty s = .next (
      let d := s.densityPasses false full empty
        (fun s => (halfParts h).filter fun x => 0 < (s.part x.1 x.2).density && !(s.part x.1 x.2).ramp) 64 (s.pwr.ramp.toNat * 500)
      d.2.modHalf h fun y => { y with fallLeft := d.1 }) := by
  simp [execFreewheelBudget, clocked, m0, unknown]

/-! ### Heat (R205, R390) -/

/-- Updates of stacks leave the halves as they are. -/
theorem State.half_of_forAllOf_modStack (s : State) (l : List (Fin 32)) (f : Fin 32 → Stack → Stack) (h : Fin 2) :
    (forAllOf l (fun k s => s.modStack k (f k)) s).half h = s.half h :=
  List.foldlRecOn l _ (motive := fun t : State => t.half h = s.half h) rfl fun _ kept _ _ => kept

/-- Settles O35: each clause is the branch its command takes. -/
theorem powerCapAndHeat : Obligations.PowerCapAndHeat := by
  unfold Obligations.PowerCapAndHeat
  refine ⟨?overCap, ?calm, ?between, ?distrusted, ?unmet, ?met, ?implausible, ?agrees, ?distrustedWindow, ?budget, ?tooHot, ?eases,
    ?asserts, ?ignored, ?releases, ?trips, ?tripsInM4⟩
  case overCap =>
    intro a e o r s awake oztas trusted plausible above
    simp only [exec, execCapStep, awake, oztas, trusted, plausible, Bool.not_true, Bool.or_self, Bool.false_and,
      Bool.false_eq_true, if_false]
    generalize max (α := Nat) _ _ = p at above ⊢
    simp only [above, decide_true, Bool.and_true, true_and, if_true]
    rfl
  case calm =>
    intro a e o r s awake oztas trusted plausible under
    simp only [exec, execCapStep, awake, oztas, trusted, plausible, Bool.not_true, Bool.or_self, Bool.false_and,
      Bool.false_eq_true, if_false]
    generalize max (α := Nat) _ _ = p at under ⊢
    have within : ¬ s.pwr.cap.toNat < p := by omega
    simp only [within, under, decide_false, Bool.and_false, false_and, if_false, if_true]
  case between =>
    intro a e o r s awake oztas trusted plausible within above
    simp only [exec, execCapStep, awake, oztas, trusted, plausible, Bool.not_true, Bool.or_self, Bool.false_and,
      Bool.false_eq_true, if_false]
    generalize max (α := Nat) _ _ = p at within above ⊢
    simp only [Nat.not_lt.mpr within, Nat.not_le.mpr above, decide_false, Bool.and_false, false_and, if_false]
    rfl
  case distrusted =>
    intro a e o r s s0 awake oztas marked distrusted
    subst marked
    simp only [exec, execCapStep, awake, oztas, distrusted, apply_ite Outcome.next]
    rfl
  case unmet =>
    intro s t since met passed awake
    simp [exec, execCapUnmet, since, met, passed, awake]
  case met =>
    rintro s (within | asleep)
    · simp [exec, execCapUnmet, within]
    · cases since : s.pwr.overSince <;> simp [exec, execCapUnmet, since, asleep]
  case implausible =>
    intro r s awake oztas implausible trusted
    simp [exec, execInputPowerWindow, awake, oztas, implausible, State.distrust, trusted]
  case agrees =>
    intro r s awake oztas plausible trusted near
    simp only [exec, execInputPowerWindow, awake, oztas, plausible, trusted, State.compareWindow, near]
    rfl
  case distrustedWindow =>
    intro r s awake oztas plausible distrusted
    simp only [exec, execInputPowerWindow, awake, oztas, plausible, distrusted]
    rfl
  case budget =>
    intro h f e s clocked m0 unknown
    exact execFreewheelBudget_of_noMarker clocked m0 unknown f e
  case tooHot =>
    intro h j l s awake calm hot
    simp [exec, execThermalRead, awake, State.half_of_forAllOf_modStack, calm, hot]
  case eases =>
    intro h s awake easing passed
    simp only [exec, execThermalEase, awake, easing, passed]
    rfl
  case asserts =>
    intro s released awake
    simp [exec, execAlertAssert, released, State.alert, awake]
  case ignored =>
    rintro s (held | asleep)
    · simp [exec, execAlertAssert, held]
    · simp [exec, execAlertAssert, State.alert, asleep]
  case releases =>
    intro s low released high fallen
    simp [exec, execAlertRelease, low, released, high, fallen]
  case trips =>
    intro n s untripped powered
    simp [exec, execThermalTrip, untripped, powered]
  case tripsInM4 =>
    intro n s untripped off
    simp [exec, execThermalTrip, untripped, off]

end Sys2Proof.Machine

/-! The five power states, by request and by wake (R393, R394, R396, R435). -/

namespace Sys2Proof.Machine

open Host

-- In turn, so that none takes the stack of a thread of its own.
set_option Elab.async false

/-- A node that takes writes is not of a module that offers management alone (R405). -/
theorem State.not_managed_of_takesWrite {s : State} {o : Owner} (taken : s.takesWrite o) : s.managed = false := by
  simp only [State.takesWrite, Bool.and_eq_true, Bool.not_eq_true'] at taken
  exact taken.2

/-- The request of a write of PWR_STATE that reaches Oztas is kept, then acted on (R394, R396). -/
theorem State.pwrRequest_of_takesWrite {s : State} (taken : s.takesWrite .oz) (n : BitVec 3) (act : State → State) :
    s.pwrRequest n act = act (s.modPwr fun p => { p with request := n }) :=
  State.bar0Write_of_takesWrite taken _ _ _

/-! The request that is kept has no part in what the rules ask of the rest of the module. -/

@[simp] theorem State.modPwr_managed (s : State) (f : Pwr → Pwr) : (s.modPwr f).managed = s.managed := rfl
@[simp] theorem State.modPwr_quiet (s : State) (f : Pwr → Pwr) : (s.modPwr f).quiet = s.quiet := rfl
@[simp] theorem State.modPwr_listed (s : State) (f : Pwr → Pwr) : (s.modPwr f).listed = s.listed := rfl
@[simp] theorem State.modPwr_portsUnused (s : State) (f : Pwr → Pwr) : (s.modPwr f).portsUnused = s.portsUnused := rfl

/-- With no wake pending and no known marker as near as 2 µs, the module stays as it is (R394). -/
theorem execM1Wake_of_waits {s : State} (waits : s.pwr.state ≠ 1 ∨ (s.pwr.m1Wake = none ∧
    (s.knownMarker.all fun t => decide (s.tick + 2000 < t)))) : execM1Wake s = .next s := by
  rcases waits with other | ⟨noWake, later⟩
  · simp [execM1Wake, other]
  · cases known : s.knownMarker with
    | none => simp [execM1Wake, noWake, known]
    | some t =>
      have later : s.tick + 2000 < t := by simpa [known] using later
      simp [execM1Wake, noWake, known, Nat.not_le.mpr later]

/-- Settles O36: each clause is the branch its command takes. The DETAIL of a refusal is the request: the model's choice, log
entry 26. -/
theorem powerStates : Obligations.PowerStates := by
  unfold Obligations.PowerStates
  refine ⟨?m1ToM0, ?m2ToM0, ?m3ToM0, ?refusesM0, ?toM1, ?refusesM1, ?refusesM1Below, ?toM2, ?refusesM2, ?toM3, ?toM4, ?wakes,
    ?staysAsleep⟩
  case m1ToM0 =>
    intro s taken service untripped unlatched m1
    simp [exec, execPwrStateM0, State.pwrRequest_of_takesWrite taken, State.managed, service, untripped, unlatched, m1,
      State.powerState]
  case m2ToM0 =>
    intro s taken untripped unlatched m2
    have offered := State.not_managed_of_takesWrite taken
    simp [exec, execPwrStateM0, State.pwrRequest_of_takesWrite taken, offered, untripped, unlatched, m2]
  case m3ToM0 =>
    intro s taken untripped unlatched m3
    have offered := State.not_managed_of_takesWrite taken
    simp [exec, execPwrStateM0, State.pwrRequest_of_takesWrite taken, offered, untripped, unlatched, m3]
  case refusesM0 =>
    rintro s taken (tripped | latched | ⟨m0, starting⟩)
    · simp [exec, execPwrStateM0, State.pwrRequest_of_takesWrite taken, tripped, State.refusePower]
    · simp [exec, execPwrStateM0, State.pwrRequest_of_takesWrite taken, latched, State.refusePower]
    · simp [exec, execPwrStateM0, State.pwrRequest_of_takesWrite taken, m0, starting, State.refusePower]
  case toM1 =>
    intro s taken service untripped unlatched m0 quiet
    simp [exec, execPwrStateM1, State.pwrRequest_of_takesWrite taken, service, untripped, unlatched, m0, quiet, State.powerState]
  case refusesM1 =>
    intro s taken service untripped unlatched m0 busy
    simp [exec, execPwrStateM1, State.pwrRequest_of_takesWrite taken, m0, busy, State.refusePower]
  case refusesM1Below =>
    intro s taken below
    have notM0 : s.pwr.state ≠ 0 := by omega
    have notM1 : s.pwr.state ≠ 1 := by omega
    simp [exec, execPwrStateM1, State.pwrRequest_of_takesWrite taken, notM0, notM1, State.refusePower]
  case toM2 =>
    intro s taken service untripped unlatched m1 unlisted unused
    simp [exec, execPwrStateM2, State.pwrRequest_of_takesWrite taken, service, untripped, unlatched, m1, unlisted, unused]
  case refusesM2 =>
    intro s taken elsewhere barred
    have notM2 := of_eq_false elsewhere
    have notReady := of_eq_false barred
    simp only [exec, execPwrStateM2, State.pwrRequest_of_takesWrite taken, Bool.and_eq_true, decide_eq_true_eq, Bool.not_eq_true',
      and_assoc]
    exact congrArg Outcome.next ((if_neg notM2).trans (if_neg notReady))
  case toM3 =>
    intro s taken other
    simp [exec, execPwrStateM3, State.pwrRequest_of_takesWrite taken, other]
  case toM4 =>
    intro s taken
    exact congrArg Outcome.next (State.pwrRequest_of_takesWrite taken _ _)
  case wakes =>
    rintro s t m1 (wake | ⟨known, near⟩)
    · simp [exec, execM1Wake, m1, wake, State.powerState]
    · simp [exec, execM1Wake, m1, known, near, State.powerState]
  case staysAsleep =>
    intro s waits
    exact execM1Wake_of_waits waits

end Sys2Proof.Machine

/-! The 48 V input, MOD_EN, PERST_N, resets and the start-up steps (R391 to R405, R480 to R484). -/

namespace Sys2Proof.Machine

open Host

-- In turn, so that none takes the stack of a thread of its own.
set_option Elab.async false

/-- Two updates of the power unit are one. -/
theorem State.modPwr_modPwr (s : State) (f g : Pwr → Pwr) : (s.modPwr f).modPwr g = s.modPwr fun p => g (f p) := rfl

/-- A step that misses its time fences what has not finished from the main rails on, and before them has an answer of its own
(R398). -/
theorem execStartupStepTimeout_of_late {s : State} (late : List Nat) (f : BootFound) (boots : s.booting)
    (due : s.glb.startTick + s.latestNs s.glb.step ≤ s.tick) (limited : s.glb.step ≠ 3 ∧ s.glb.step ≠ 10) :
    execStartupStepTimeout late f s = .next (
      if s.glb.step = 0 then s.modGlb fun g => { g with bootStop := 3 }
      else if s.glb.step = 1 then (s.raise 0x0C0C).modGlb fun g => { g with bootStop := 1 }
      else if s.glb.step = 2 then (s.stepEnded 2).bootRecovery
      else (s.stepEnded s.glb.step).bootStep s.glb.step late f) := by
  simp only [execStartupStepTimeout, boots, Nat.not_lt.mpr due, limited, apply_ite Outcome.next]
  rfl

/-- Settles O37: each clause is the branch its command takes. -/
theorem supplyAndStartUp : Obligations.SupplyAndStartUp := by
  unfold Obligations.SupplyAndStartUp
  refine ⟨?powersOn, ?staysOff, ?turnsOff, ?dips, ?recovers, ?overcurrent, ?overvoltage, ?modEnLow, ?modEnRise, ?perstFalls,
    ?perstLow, ?perstRises, ?hotReset, ?stepEnds, ?fencesLate, ?recovery, ?noRail, ?noRefclk, ?notLate, ?recoveryFenced, ?telemetry,
    ?address⟩
  case powersOn =>
    intro mv b x s off reached
    simp [exec, execPowerOn, off, Nat.not_lt.mpr reached]
  case staysOff =>
    rintro mv b x s (on | low)
    · simp [exec, execPowerOn, on]
    · simp [exec, execPowerOn, low]
  case turnsOff =>
    intro mv s on low
    simp [exec, execInputTurnOff, on, Nat.not_le.mpr low]
  case dips =>
    intro mv s on released low
    simp [exec, execInputDip, on, released, Nat.not_le.mpr low]
  case recovers =>
    intro mv s on held high
    simp [exec, execInputRecover, on, held, Nat.not_lt.mpr high]
  case overcurrent =>
    intro ma s on powered unlatched above
    have trips : execOvercurrentTrip ma s = .next (State.modPwr (s.latchRails 1) _) :=
      if_neg (by simp [on, powered, unlatched, above])
    exact trips.trans (congrArg Outcome.next (s.haltUnits.modPwr_modPwr _ _))
  case overvoltage =>
    intro mv s on powered unlatched above
    have trips : execOvervoltageTrip mv s = .next (State.modPwr (s.latchRails 2) _) :=
      if_neg (by simp [on, powered, unlatched, above])
    exact trips.trans (congrArg Outcome.next (s.haltUnits.modPwr_modPwr _ _))
  case modEnLow =>
    intro s on
    simp [exec, execModEnLow, on]
  case modEnRise =>
    intro x s on low
    simp [exec, execModEnRise, on, low]
  case perstFalls =>
    intro s high up
    simp [exec, execPerstFall, high, up]
  case perstLow =>
    intro s low
    simp [exec, execPerstFall, low]
  case perstRises =>
    intro l s low oztas reached
    simp only [exec, execPerstRise, low, State.modHost_oz, State.modHost_glb, oztas, reached]
    rfl
  case hotReset =>
    intro s link oztas service running untripped unlatched reached
    have starts : s.warmReset = s.warmStart :=
      if_neg (by simp [oztas, State.managed, service, running, untripped, unlatched, Nat.not_lt.mpr reached])
    exact (if_pos link).trans (congrArg Outcome.next starts)
  case stepEnds =>
    intro f s boots inTime
    simp [exec, execStartupStepEnd, boots, inTime, or_assoc]
  case fencesLate =>
    rintro late f s boots due ⟨rails, notLast⟩
    rw [exec, execStartupStepTimeout_of_late late f boots due ⟨by omega, by omega⟩, if_neg (by omega), if_neg (by omega),
      if_neg (by omega)]
  case recovery =>
    intro late f s boots due firmware unfenced
    have unfenced : (s.stepEnded 2).glb.moduleFenced = false := unfenced
    rw [exec, execStartupStepTimeout_of_late late f boots due ⟨by omega, by omega⟩, if_neg (by omega), if_neg (by omega),
      if_pos firmware, State.bootRecovery, if_neg (by simp [unfenced])]
  case noRail =>
    intro late f s boots due first
    rw [exec, execStartupStepTimeout_of_late late f boots due ⟨by omega, by omega⟩, if_pos first]
  case noRefclk =>
    intro late f s boots due second
    rw [exec, execStartupStepTimeout_of_late late f boots due ⟨by omega, by omega⟩, if_neg (by omega), if_pos second]
  case notLate =>
    rintro late f s (config | last | inTime)
    · simp [exec, execStartupStepTimeout, config]
    · simp [exec, execStartupStepTimeout, last]
    · simp [exec, execStartupStepTimeout, inTime]
  case recoveryFenced =>
    intro late f s boots due firmware fenced
    have fenced : (s.stepEnded 2).glb.moduleFenced = true := fenced
    rw [exec, execStartupStepTimeout_of_late late f boots due ⟨by omega, by omega⟩, if_neg (by omega), if_neg (by omega),
      if_pos firmware, State.bootRecovery, if_pos fenced]
  case telemetry =>
    intro a b c d e s oztas
    simp only [exec, execPmbusPoll, oztas]
    rfl
  case address =>
    intro a s heard
    simp [exec, execI3cDynamicAddress, heard]

end Sys2Proof.Machine
